-- ==== Sys2Proof/Word.lean ====
section
/-! DEFINITION. The word types of the block and the two shapes of sparse plain data every other file uses:
byte memories (`Mem`) and tables by number (`Tbl`). Multi-byte fields are little-endian (R73, R233, R281). -/
namespace Sys2Proof

/-- One byte. -/
abbrev Byte := BitVec 8
/-- A 32-bit register or lane word. -/
abbrev W32 := BitVec 32
/-- A 64-bit word: a general register, a message header, a counter of the block. -/
abbrev W64 := BitVec 64

/-- A sparse byte memory: (address, byte) pairs, addresses strictly rising, no listed byte equal to what an
unlisted address reads as (0, R383). -/
abbrev Mem := List (Nat × BitVec 8)

/-- A sparse table by number: (key, value) pairs, keys strictly rising. -/
abbrev Tbl (α : Type) := List (Nat × α)

end Sys2Proof
end

