-- ==== Sys2Proof/Syntax.lean ====
section
/-! DEFINITION. The commands the block takes: one constructor of `Instr` per row of spec/opcode_table.json, with the
operands the row needs. An ashlar instruction names the ashlar that executes it (its operands are the fields of the
instruction word at that ashlar's program counter, R36); an EQI command names the fetched command (`cid`); a mailbox
message names its mailbox (0 the manager's, b + 1 bay b's); an event names the unit it happens at and what the
surroundings supply with it. -/
namespace Sys2Proof

/-- The two units of an ashlar with an instruction queue (R34). -/
inductive VUnit | matrix | vector
  deriving DecidableEq, Repr, Inhabited

/-- What the surroundings answer during one step: host bytes by I/O virtual address (an address not listed is
answered with an error, R392), remote bytes by device virtual address (likewise, R403), HBM blocks whose MAC fails
(block number, whether the second read passes, R460), a check that detects an error (its cause, R455), and a control memory
class in which a word was corrected (R469). -/
structure Env where
  host : Mem := []
  remote : Mem := []
  bad : List (Nat × Bool) := []
  det : Option Nat := none
  ce : Option Nat := none
  deriving DecidableEq, Repr, Inhabited

/-- A mortar message as its receiver sees it: the 64-bit header of R48 and the payload. -/
structure Rx where
  hdr : BitVec 64
  payload : List Byte := []
  deriving DecidableEq, Repr, Inhabited

/-- The firmware image the host holds (R299): its I/O virtual address, whether the host answers there, the image's size, version,
svn and digest, and whether its signature verifies. -/
structure FwImage where
  iova : Nat := 0
  readable : Bool := true
  bytes : Nat := 0
  version : Nat := 0
  svn : Nat := 0
  digest : BitVec 384 := 0
  sigOk : Bool := true
  deriving DecidableEq, Repr, Inhabited

/-- A configuration-space write of the host, as far as the block's behaviour depends on it. -/
inductive CfgWrite
  | vfEnable
  | msixEnable (on : Bool)
  | functionMask (on : Bool)
  | vectorMask (vec : Nat)
  | memorySpace (on : Bool)
  | bar (value : Nat)
  | bar2 (value : Nat)
  | priEnable (on : Bool)
  | priClearFailure
  | dState (d3 : Bool)
  | atsEnable (on : Bool)
  deriving DecidableEq, Repr, Inhabited

/-- The rings with a cons register (R333, R478, R514, R515, R588). -/
inductive RingName | mgrEvents | ras | plumb | reset | bayEvents (b : Nat) (t : Option Nat := none)
  deriving DecidableEq, Repr, Inhabited

/-- The responses of a Page Request Group Response (R394). -/
inductive PrgResp | success | invalidRequest | responseFailure
  deriving DecidableEq, Repr, Inhabited

/-- A Kewick frame as a port receives it (R413, R414): whether the FEC corrected it and its tag verified, the header
fields, and the data bytes in the clear. `full` is the full sequence number TRAIN and CREDIT carry (R415, R417). -/
structure Frame where
  fecOk : Bool := true
  tagOk : Bool := true
  vc : Nat := 0
  kind : Nat := 0
  dst : Nat := 0
  src : Nat := 0
  tag : Nat := 0
  mark : Nat := 0
  seq : Nat := 0
  addr : Nat := 0
  full : Nat := 0
  data : List Byte := []
  /-- The counter it was encrypted under, and what followed its header over the link (R359, R413). -/
  ctr : Nat := 0
  wire : List Byte := []
  deriving DecidableEq, Repr, Inhabited

/-- The engines that are reset on their own (R494). -/
inductive Engine | panel (cid : Nat) | front | walker | arch | quoin (p : Nat)
  deriving DecidableEq, Repr, Inhabited

/-- What raises an emergency throttle (R567). -/
inductive ThrottleCause | thermal | electrical
  deriving DecidableEq, Repr, Inhabited

/-- The register windows (R580, R582). A request to a bay's window comes with the T bit on IDE stream `t`, or without it (R356). -/
inductive WinId | manager | bay (b : Nat) (t : Option Nat := none)
  deriving DecidableEq, Repr, Inhabited

/-- What a requester offers in NEGOTIATE_ALGORITHMS (R342): the masks of its signature, hash, key-exchange and AEAD algorithms, in the
bit positions of SPDM (log entry 17). -/
structure AlgOffer where
  asym : Nat := 0
  hash : Nat := 0
  dhe : Nat := 0
  aead : Nat := 0
  deriving DecidableEq, Repr, Inhabited

/-- The commands: one constructor per row of the table, in its order. An operand with a default takes it where nothing out of the
ordinary happens: no check fires, the host refuses nothing, a request has no T bit. -/
inductive Instr
  /-- ADD (R41). -/
  | add (a : Nat)
  /-- SUB (R41). -/
  | sub (a : Nat)
  /-- AND (R41). -/
  | and (a : Nat)
  /-- OR (R41). -/
  | or (a : Nat)
  /-- XOR (R41). -/
  | xor (a : Nat)
  /-- SHL (R41). -/
  | shl (a : Nat)
  /-- SHR (R41). -/
  | shr (a : Nat)
  /-- SRA (R41). -/
  | sra (a : Nat)
  /-- MUL (R41). -/
  | mul (a : Nat)
  /-- SLT (R41). -/
  | slt (a : Nat)
  /-- SLTU (R41). -/
  | sltu (a : Nat)
  /-- GETS (R33). -/
  | gets (a : Nat)
  /-- BEQ (R41). -/
  | beq (a : Nat)
  /-- BNE (R41). -/
  | bne (a : Nat)
  /-- BLT (R41). -/
  | blt (a : Nat)
  /-- BGE (R41). -/
  | bge (a : Nat)
  /-- BLTU (R41). -/
  | bltu (a : Nat)
  /-- JAL (R41). -/
  | jal (a : Nat)
  /-- JR (R41). -/
  | jr (a : Nat)
  /-- LD8 (R41). -/
  | ld8 (a : Nat) (det : Bool := false)
  /-- LD16 (R41). -/
  | ld16 (a : Nat) (det : Bool := false)
  /-- LD32 (R41). -/
  | ld32 (a : Nat) (det : Bool := false)
  /-- LD64 (R41). -/
  | ld64 (a : Nat) (det : Bool := false)
  /-- ST8 (R98). -/
  | st8 (a : Nat)
  /-- ST16 (R98). -/
  | st16 (a : Nat)
  /-- ST32 (R98). -/
  | st32 (a : Nat)
  /-- ST64 (R98). -/
  | st64 (a : Nat)
  /-- MLDW (R40). -/
  | mldw (a : Nat)
  /-- MMA (R40). -/
  | mma (a : Nat)
  /-- MZERO (R40). -/
  | mzero (a : Nat)
  /-- VLD (R88). -/
  | vld (a : Nat)
  /-- VST (R88). -/
  | vst (a : Nat)
  /-- VLDA (R81). -/
  | vlda (a : Nat)
  /-- VSTA (R81). -/
  | vsta (a : Nat)
  /-- VBCAST (R89). -/
  | vbcast (a : Nat)
  /-- VADD (R90). -/
  | vadd (a : Nat)
  /-- VSUB (R90). -/
  | vsub (a : Nat)
  /-- VMUL (R90). -/
  | vmul (a : Nat)
  /-- VFMA (R90). -/
  | vfma (a : Nat)
  /-- VMAX (R90). -/
  | vmax (a : Nat)
  /-- VMIN (R90). -/
  | vmin (a : Nat)
  /-- VEXP2 (R91). -/
  | vexp2 (a : Nat)
  /-- VRCP (R91). -/
  | vrcp (a : Nat)
  /-- VRSQ (R91). -/
  | vrsq (a : Nat)
  /-- VCVT (R89). -/
  | vcvt (a : Nat)
  /-- VREDSUM (R92). -/
  | vredsum (a : Nat)
  /-- VREDMAX (R92). -/
  | vredmax (a : Nat)
  /-- DMA (R43). -/
  | dma (a : Nat) (det : Bool := false)
  /-- DWAIT (R41). -/
  | dwait (a : Nat)
  /-- DPOLL (R41). -/
  | dpoll (a : Nat)
  /-- JCFG (R53). -/
  | jcfg (a : Nat)
  /-- GRANT (R54). -/
  | grant (a : Nat)
  /-- SEND (R56). -/
  | send (a : Nat) (det : Bool := false)
  /-- TSEND (R56). -/
  | tsend (a : Nat) (det : Bool := false)
  /-- WAITJ (R57). -/
  | waitj (a : Nat)
  /-- POP (R57). -/
  | pop (a : Nat)
  /-- JPOLL (R57). -/
  | jpoll (a : Nat)
  /-- FENCE (R41). -/
  | fence (a : Nat)
  /-- SIGNAL (R41). -/
  | signal (a : Nat)
  /-- ENQ (R255). -/
  | enq (a : Nat) (det : Bool := false)
  /-- HALT (R65). -/
  | halt (a : Nat)
  /-- TRAP (R41). -/
  | trap (a : Nat)
  /-- NOP (R41). -/
  | nop (a : Nat)
  /-- UNIT_OP_COMPLETE (R34). -/
  | unitOpComplete (a : Nat) (u : VUnit) (det : Option Nat)
  /-- DMA_READ_COMPLETE (R44). -/
  | dmaReadComplete (a : Nat) (tag : Nat) (env : Env)
  /-- DMA_WRITE_COMPLETE (R44). -/
  | dmaWriteComplete (a : Nat) (tag : Nat) (env : Env)
  /-- MSG (R57). -/
  | msg (i : Nat) (rx : Option Rx)
  /-- CREDIT (R55). -/
  | credit (i : Nat) (rx : Option Rx)
  /-- DMA_CPL (R45). -/
  | dmaCpl (i : Nat) (rx : Option Rx)
  /-- ARCH_DATA (R49). -/
  | archData (cid : Nat) (a : Nat) (toPanel : Bool) (rx : Option Rx) (err : Bool := false)
  /-- ARCH_CTL (R49). -/
  | archCtl (a : Nat) (cid : Nat) (rx : Option Rx)
  /-- START (R32). -/
  | start (i : Nat)
  /-- KILL (R65). -/
  | kill (i : Nat)
  /-- OUTBOX (R120). -/
  | outbox (i : Nat)
  /-- HALTED (R65). -/
  | halted (i : Nat)
  /-- CTL_ACK (R50). -/
  | ctlAck (i : Nat)
  /-- CTL_RESEND_TIMEOUT (R50). -/
  | ctlResendTimeout (i : Nat)
  /-- PANEL_DRAINED (R65). -/
  | panelDrained (cid : Nat)
  /-- IMAGE_LOAD_COMPLETE (R31). -/
  | imageLoadComplete (cid : Nat) (env : Env)
  /-- LIFT_BOUNDARY (R106). -/
  | liftBoundary
  /-- OPENING_WINDOW_END (R103). -/
  | openingWindowEnd
  /-- CLOSING_WINDOW_OPEN (R130). -/
  | closingWindowOpen
  /-- PLAN_SEAL (R105). -/
  | planSeal
  /-- PLAN_SEAL_DEADLINE (R105). -/
  | planSealDeadline
  /-- COMMAND_START (R118). -/
  | commandStart (cid : Nat)
  /-- COMMIT_POINT (R123). -/
  | commitPoint (cid : Nat) (env : Env)
  /-- POST_COMMIT_COPY_DONE (R120). -/
  | postCommitCopyDone (cid : Nat)
  /-- JOURNAL_REPLAY_DONE (R140). -/
  | journalReplayDone (b : Nat) (ctx : Nat) (env : Env := {})
  /-- CONTEXT_SWITCH_DONE (R141). -/
  | contextSwitchDone (b : Nat) (ctx : Nat) (env : Env := {})
  /-- QUOIN_STOP_TIMEOUT (R119). -/
  | quoinStopTimeout (p : Nat)
  /-- APPEND_COPY_DONE (R178). -/
  | appendCopyDone (b : Nat) (strm : Nat) (bad : List Nat)
  /-- WALK_PIECE_DELIVER (R184). -/
  | walkPieceDeliver (cid : Nat) (q : Nat) (cause : Option Nat)
  /-- SLAB_MOVE_DONE (R172). -/
  | slabMoveDone (b : Nat) (slab : Nat) (intact : Bool)
  /-- STREAM_LOST (R190). -/
  | streamLost (b : Nat) (strm : Nat)
  /-- EPOCH_BOUNDARY (R201). -/
  | epochBoundary
  /-- MOVE_COPY_DONE (R202). -/
  | moveCopyDone (b : Nat) (ext : Nat) (dirty : List Nat) (err : Bool)
  /-- MOVE_SWITCH (R203). -/
  | moveSwitch (b : Nat) (ext : Nat)
  /-- SQ_WP_WRITE (R228). -/
  | sqWpWrite (b : Nat) (q : Nat) (off : Nat) (size : Nat) (v : Nat) (t : Option Nat := none)
  /-- CQ_HEAD_WRITE (R230). -/
  | cqHeadWrite (b : Nat) (q : Nat) (off : Nat) (size : Nat) (v : Nat) (t : Option Nat := none)
  /-- FRONT_BIND (R231). -/
  | frontBind (b : Nat)
  /-- FRONT_FETCH (R236). -/
  | frontFetch (f : Nat) (env : Env)
  /-- LAUNCH (R240). -/
  | launch (cid : Nat)
  /-- QUOIN_LAUNCH (R242). -/
  | quoinLaunch (cid : Nat)
  /-- COLLECTIVE (R243). -/
  | collective (cid : Nat)
  /-- GRAPH_LAUNCH (R259). -/
  | graphLaunch (cid : Nat) (env : Env)
  /-- STREAM_STEP (R173). -/
  | streamStep (cid : Nat)
  /-- STREAM_FILL (R180). -/
  | streamFill (cid : Nat)
  /-- GRAPH_CREATE (R258). -/
  | graphCreate (cid : Nat)
  /-- GRAPH_DESTROY (R262). -/
  | graphDestroy (cid : Nat)
  /-- PATCH (R261). -/
  | patch (cid : Nat)
  /-- CONTEXT_CREATE (R248). -/
  | contextCreate (cid : Nat)
  /-- CONTEXT_DESTROY (R248). -/
  | contextDestroy (cid : Nat)
  /-- ABORT (R136). -/
  | abort (cid : Nat)
  /-- EVENT (R251). -/
  | event (cid : Nat)
  /-- EVENT_READ (R251). -/
  | eventRead (cid : Nat) (hostErr : Option Nat)
  /-- MAP (R387). -/
  | map (cid : Nat)
  /-- UNMAP (R388). -/
  | unmap (cid : Nat)
  /-- INVALIDATE (R396). -/
  | invalidate (cid : Nat)
  /-- SET_PRIORITY (R247). -/
  | setPriority (cid : Nat)
  /-- STREAM_ADMIN_OPEN (R159). -/
  | streamAdminOpen (cid : Nat)
  /-- STREAM_ADMIN_CLOSE (R160). -/
  | streamAdminClose (cid : Nat)
  /-- STREAM_ADMIN_HOLD (R159). -/
  | streamAdminHold (cid : Nat)
  /-- STREAM_ADMIN_RELEASE (R159). -/
  | streamAdminRelease (cid : Nat)
  /-- STREAM_ADMIN_SET_DEADLINE (R159). -/
  | streamAdminSetDeadline (cid : Nat)
  /-- STREAM_ADMIN_SET_QUOTA (R159). -/
  | streamAdminSetQuota (cid : Nat)
  /-- STREAM_ADMIN_SET_BUTTRESS (R191). -/
  | streamAdminSetButtress (cid : Nat)
  /-- STREAM_ADMIN_READ (R159). -/
  | streamAdminRead (cid : Nat)
  /-- STREAM_ADMIN_POOL (R170). -/
  | streamAdminPool (cid : Nat)
  /-- STREAM_ADMIN_SPILL_ADD (R170). -/
  | streamAdminSpillAdd (cid : Nat)
  /-- STREAM_ADMIN_SPILL_REMOVE (R170). -/
  | streamAdminSpillRemove (cid : Nat)
  /-- MODEL_LOAD_SEALED_LOAD (R298). -/
  | modelLoad (cid : Nat) (env : Env)
  /-- MODEL_LOAD_SEALED_UNLOAD (R249). -/
  | modelUnload (cid : Nat)
  /-- QUEUE_CREATE (R247). -/
  | queueCreate (cid : Nat) (denied : List Nat := [])
  /-- QUEUE_DESTROY (R247). -/
  | queueDestroy (cid : Nat)
  /-- EQI_NEG_WRITE (R273). -/
  | eqiNegWrite (b : Nat) (v : BitVec 32) (t : Option Nat := none)
  /-- ABI_QUERY (R292). -/
  | abiQuery (box : Nat)
  /-- ATTACH (R293). -/
  | attach (box : Nat) (denied : List Nat := [])
  /-- ERROR_RING_SET (R266). -/
  | errorRingSet (box : Nat)
  /-- KEY_IMPORT (R348). -/
  | keyImport (box : Nat) (env : Env)
  /-- KEY_DISCARD (R349). -/
  | keyDiscard (box : Nat)
  /-- BOND_PIN (R210). -/
  | bondPin (box : Nat)
  /-- BOND_UNPIN (R209). -/
  | bondUnpin (box : Nat)
  /-- BOND_PANEL_SET (R211). -/
  | bondPanelSet (box : Nat)
  /-- BOND_PANEL_CLEAR (R209). -/
  | bondPanelClear (box : Nat)
  /-- BOND_HINT (R209). -/
  | bondHint (box : Nat)
  /-- BOND_QUERY (R209). -/
  | bondQuery (box : Nat)
  /-- BOND_WINDOW_ADD (R212). -/
  | bondWindowAdd (box : Nat)
  /-- BOND_WINDOW_REMOVE (R212). -/
  | bondWindowRemove (box : Nat)
  /-- BAY_CREATE (R320). -/
  | bayCreate (box : Nat)
  /-- BAY_QUIESCE (R321). -/
  | bayQuiesce (box : Nat)
  /-- BAY_QUIESCED (R321). -/
  | bayQuiesced (b : Nat)
  /-- BAY_RESET (R324). -/
  | bayReset (box : Nat)
  /-- BAY_REMOVE (R324). -/
  | bayRemove (box : Nat)
  /-- BAY_RELEASE (R482). -/
  | bayRelease (box : Nat)
  /-- BAY_RESET_WORK_DONE (R323). -/
  | bayResetWorkDone (b : Nat)
  /-- LIFT_PERIOD_SET (R102). -/
  | liftPeriodSet (box : Nat)
  /-- CLOCK_FLOOR_SET (R568). -/
  | clockFloorSet (box : Nat)
  /-- POWER_CAP_SET (R568). -/
  | powerCapSet (box : Nat)
  /-- SCRUB_RANGE (R471). -/
  | scrubRange (box : Nat)
  /-- SCRUB_RATE_SET (R472). -/
  | scrubRateSet (box : Nat)
  /-- RESET_COMPUTE (R499). -/
  | resetCompute (box : Nat)
  /-- RESET_FULL (R501). -/
  | resetFull (box : Nat)
  /-- REPOINT (R365). -/
  | repoint (box : Nat)
  /-- RETURN_TO_SERVICE (R507). -/
  | returnToService (box : Nat)
  /-- DUMP_INFO (R513). -/
  | dumpInfo (box : Nat)
  /-- DUMP_READ (R513). -/
  | dumpRead (box : Nat)
  /-- DUMP_CLEAR (R513). -/
  | dumpClear (box : Nat)
  /-- FW_STAGE (R301). -/
  | fwStage (box : Nat) (img : FwImage)
  /-- FW_ACTIVATE (R301). -/
  | fwActivate (box : Nat)
  /-- CFG_READ (R292). -/
  | cfgRead (box : Nat)
  /-- CFG_WRITE (R304). -/
  | cfgWrite (box : Nat)
  /-- CFG_DISCARD (R304). -/
  | cfgDiscard (box : Nat)
  /-- STORE (R305). -/
  | store (box : Nat)
  /-- OPERATION_SLOT_END (R286). -/
  | operationSlotEnd (box : Nat) (slot : Nat) (bad : Option Nat := none)
  /-- OP_DONE_CLEAR (R286). -/
  | opDoneClear (box : Nat) (mask : BitVec 4)
  /-- NUMVFS_WRITE (R311). -/
  | numvfsWrite (v : Nat)
  /-- VF_ENABLE_CLEAR (R311). -/
  | vfEnableClear
  /-- FLR (R326). -/
  | flr (b : Nat)
  /-- HOST_CONFIG_WRITE (R355). -/
  | hostConfigWrite (fn : Nat) (w : CfgWrite)
  /-- RING_CONS_WRITE (R333). -/
  | ringConsWrite (r : RingName) (v : BitVec 32)
  /-- GENERATE (R339). -/
  | generate
  /-- READ_PUBLIC (R339). -/
  | readPublic
  /-- WRITE_CHAIN (R339). -/
  | writeChain (d : List Byte)
  /-- LOCK (R339). -/
  | lock
  /-- KP_STATUS (R339). -/
  | kpStatus
  /-- GET_DIGESTS (R341). -/
  | getDigests (sess : Option Nat)
  /-- GET_MEASUREMENTS (R344). -/
  | getMeasurements (sess : Option Nat) (idx : Nat) (signed : Bool) (nonce : List Byte)
  /-- KEY_EXCHANGE (R342). -/
  | keyExchange (req : List Byte)
  /-- FINISH (R342). -/
  | finish (sess : Nat) (ok : Bool)
  /-- RESPOND_IF_READY (R357). -/
  | respondIfReady (b : Nat)
  /-- UNSUPPORTED_SPDM_REQUEST (R342). -/
  | unsupportedSpdmRequest (code : Nat)
  /-- SPDM_SESSION_TIMEOUT (R342). -/
  | spdmSessionTimeout (sess : Nat)
  /-- QUERY (R352). -/
  | query (sess : Nat)
  /-- KEY_PROG (R352). -/
  | keyProg (sess : Nat) (strm : Nat) (id : Nat) (keySet : Nat) (key : Nat) (sub : Nat := 0) (tx : Bool := false) (pcrc : Bool := false)
  /-- K_SET_GO (R352). -/
  | kSetGo (sess : Nat) (strm : Nat) (keySet : Nat) (sub : Nat := 0) (tx : Bool := false)
  /-- K_SET_STOP (R352). -/
  | kSetStop (sess : Nat) (strm : Nat)
  /-- IDE_INTEGRITY_FAIL (R352). -/
  | ideIntegrityFail (strm : Nat)
  /-- GET_TDISP_VERSION (R353). -/
  | getTdispVersion (sess : Nat) (b : Nat)
  /-- GET_TDISP_CAPABILITIES (R353). -/
  | getTdispCapabilities (sess : Nat) (b : Nat)
  /-- LOCK_INTERFACE_REQUEST (R353). -/
  | lockInterfaceRequest (sess : Nat) (b : Nat) (strm : Nat)
  /-- GET_DEVICE_INTERFACE_REPORT (R353). -/
  | getDeviceInterfaceReport (sess : Nat) (b : Nat)
  /-- GET_DEVICE_INTERFACE_STATE (R353). -/
  | getDeviceInterfaceState (sess : Nat) (b : Nat)
  /-- START_INTERFACE_REQUEST (R354). -/
  | startInterfaceRequest (sess : Nat) (b : Nat)
  /-- STOP_INTERFACE_REQUEST (R357). -/
  | stopInterfaceRequest (sess : Nat) (b : Nat)
  /-- LINK_REKEY_TRIGGER (R361). -/
  | linkRekeyTrigger (p : Nat)
  /-- LINK_COUNTER_LIMIT (R361). -/
  | linkCounterLimit (p : Nat)
  /-- KEYX_RETRY_TIMEOUT (R360). -/
  | keyxRetryTimeout (p : Nat)
  /-- REPOINT_OVERWRITE (R365). -/
  | repointOverwrite
  /-- REPOINT_VERIFY (R365). -/
  | repointVerify (bad : List (Nat × Bool))
  /-- REPOINT_ATTEST (R365). -/
  | repointAttest
  /-- REPOINT_HOLD (R365). -/
  | repointHold (late : Bool)
  /-- REPOINT_COMPLETE (R365). -/
  | repointComplete
  /-- QUOIN_SCRUB_TIMEOUT (R366). -/
  | quoinScrubTimeout (p : Nat)
  /-- ATS_TRANSLATION_COMPLETION (R394). -/
  | atsTranslationCompletion (b : Nat) (page : Nat) (perm : Nat) (xl : Option Nat := none)
  /-- PAGE_REQUEST_GROUP_RESPONSE (R394). -/
  | pageRequestGroupResponse (b : Nat) (idx : Nat) (r : PrgResp) (perm : Nat) (xl : Option Nat := none)
  /-- ATS_INVALIDATE_REQUEST (R395). -/
  | atsInvalidateRequest (b : Nat) (page : Nat) (pages : Nat)
  /-- HOST_REQUEST_ERROR (R392). -/
  | hostRequestError (cid : Nat) (iova : Nat)
  /-- XLT_FLT_CTL_REFUSE (R401). -/
  | xltFltCtlRefuse (b : Nat) (v : BitVec 32) (t : Option Nat := none)
  /-- BAR2_READ (R391). -/
  | bar2Read (fn : Nat) (off : Nat) (len : Nat) (env : Env) (t : Option Nat := none)
  /-- BAR2_WRITE (R391). -/
  | bar2Write (fn : Nat) (off : Nat) (d : List Byte) (env : Env) (t : Option Nat := none)
  /-- XLT_WIN_READ (R408). -/
  | xltWinRead (v : BitVec 32)
  /-- XLT_WIN_ENABLE (R408). -/
  | xltWinEnable (v : BitVec 32)
  /-- XLT_WIN_DISABLE (R407). -/
  | xltWinDisable (v : BitVec 32)
  /-- WIN_ENABLE_MOVES_DONE (R405). -/
  | winEnableMovesDone
  /-- WIN_DISABLE_DRAINED (R407). -/
  | winDisableDrained
  /-- IDLE (R415). -/
  | idle (p : Nat) (fr : Frame)
  /-- KW_CREDIT (R416). -/
  | kwCredit (p : Nat) (fr : Frame)
  /-- NAK (R416). -/
  | nak (p : Nat) (fr : Frame)
  /-- TRAIN (R417). -/
  | train (p : Nat) (fr : Frame)
  /-- KEYX (R360). -/
  | keyx (p : Nat) (fr : Frame) (ok : Bool)
  /-- READ (R426). -/
  | read (p : Nat) (fr : Frame) (env : Env)
  /-- WRITE (R426). -/
  | write (p : Nat) (fr : Frame) (env : Env)
  /-- ATOMIC (R425). -/
  | atomic (p : Nat) (fr : Frame) (env : Env)
  /-- REDUCE (R425). -/
  | reduce (p : Nat) (fr : Frame) (env : Env)
  /-- READ_DATA (R427). -/
  | readData (p : Nat) (fr : Frame)
  /-- STATUS (R124). -/
  | status (p : Nat) (fr : Frame)
  /-- COL_HS (R436). -/
  | colHs (p : Nat) (fr : Frame)
  /-- COL_DATA (R441). -/
  | colData (p : Nat) (fr : Frame) (err : Bool)
  /-- COL_ACK (R443). -/
  | colAck (p : Nat) (fr : Frame)
  /-- COL_NAK (R443). -/
  | colNak (p : Nat) (fr : Frame)
  /-- COL_ABANDON (R445). -/
  | colAbandon (p : Nat) (fr : Frame)
  /-- COL_PROBE (R444). -/
  | colProbe (p : Nat) (fr : Frame)
  /-- COL_ISR (R441). -/
  | colIsr (p : Nat) (fr : Frame)
  /-- REQUEST_TIMEOUT (R427). -/
  | requestTimeout (tag : Nat)
  /-- CHUNK_RESEND_TIMEOUT (R443). -/
  | chunkResendTimeout (cid : Nat) (dst : Nat) (chunk : Nat)
  /-- COL_PROBE_TIMER (R444). -/
  | colProbeTimer (cid : Nat) (peer : Nat) (unavailable : Bool)
  /-- LINK_TRAINED (R412). -/
  | linkTrained (p : Nat) (ep : Nat) (dom : Nat) (peerRev : Nat) (ok : Bool)
  /-- LANE_LOCK_LOSS (R412). -/
  | laneLockLoss (p : Nat) (lane : Nat)
  /-- TRAINING_RETRY_TIMER (R412). -/
  | trainingRetryTimer (p : Nat)
  /-- REPLAY_BUFFER_DISCARD (R417). -/
  | replayBufferDiscard (p : Nat)
  /-- ARCH_GRP_READ (R451). -/
  | archGrpRead (v : BitVec 32)
  /-- ARCH_GRP_CREATE (R451). -/
  | archGrpCreate (v : BitVec 32)
  /-- ARCH_GRP_DESTROY (R451). -/
  | archGrpDestroy (v : BitVec 32)
  /-- ARCH_MBR_WRITE (R451). -/
  | archMbrWrite (v : BitVec 32)
  /-- WEIGHT_REFETCH_DONE (R463). -/
  | weightRefetchDone (b : Nat) (model : Nat) (seg : Nat) (env : Env)
  /-- BUCKET_LEAK_TICK (R469). -/
  | bucketLeakTick (k : Nat)
  /-- UNCORRECTABLE_ERROR (R470). -/
  | uncorrectableError (k : Nat) (fullDomain : Bool) (word : Nat) (hit : Option (Nat × Nat))
  /-- SCRUB_PASS_END (R474). -/
  | scrubPassEnd (bad : List (Nat × Bool)) (us : Nat)
  /-- LAP_OVERDUE (R475). -/
  | lapOverdue (k : Nat)
  /-- ENGINE_RESET (R494). -/
  | engineReset (e : Engine)
  /-- ENGINE_RESET_BOUND_MISS (R495). -/
  | engineResetBoundMiss (e : Engine)
  /-- COMPUTE_RESET_BEGIN (R496). -/
  | computeResetBegin (unreadable : List Nat)
  /-- SHORING_LIFT (R496). -/
  | shoringLift (failed : List Nat)
  /-- FULL_RESET_BEGIN (R501). -/
  | fullResetBegin
  /-- FULL_RESET_SERVING (R501). -/
  | fullResetServing (digestOk : Bool := true)
  /-- WATCHDOG_EXPIRE (R502). -/
  | watchdogExpire
  /-- RESET_COMPUTE_BOUND_MISS (R495). -/
  | resetComputeBoundMiss
  /-- RST_CTL_FULL (R515). -/
  | rstCtlFull (v : BitVec 32)
  /-- RST_CTL_COMPUTE (R515). -/
  | rstCtlCompute (v : BitVec 32)
  /-- INTERRUPT_TAKE (R522). -/
  | interruptTake (core : Nat)
  /-- HANDLER_END (R522). -/
  | handlerEnd (core : Nat)
  /-- RELAY_DELIVER (R526). -/
  | relayDeliver
  /-- HOLDOFF_EXPIRE (R527). -/
  | holdoffExpire (g : Nat)
  /-- MSIX_UNMASK (R526). -/
  | msixUnmask (fn : Nat) (vec : Nat)
  /-- EXT_LINE_CHANGE (R530). -/
  | extLineChange (k : Nat) (raw : Bool)
  /-- IRQ_PEND_CLEAR (R536). -/
  | irqPendClear (n : Nat) (v : BitVec 32)
  /-- IRQ_SET (R531). -/
  | irqSet (n : Nat) (v : BitVec 32)
  /-- IRQ_LOCK (R532). -/
  | irqLock
  /-- SYNC_VIEW_WRITE (R587). -/
  | syncViewWrite (off : Nat) (size : Nat) (v : Nat)
  /-- LATCHING_LO_READ (R149). -/
  | latchingLoRead (win : WinId) (off : Nat)
  /-- RC_READ (R17). -/
  | rcRead (win : WinId) (off : Nat) (size : Nat)
  /-- REGISTER_WRITE (R581). -/
  | registerWrite (win : WinId) (off : Nat) (size : Nat) (v : Nat)
  /-- PERST_ASSERT (R553). -/
  | perstAssert
  /-- PERST_DEASSERT (R553). -/
  | perstDeassert
  /-- CLK_ASH_ACK (R563). -/
  | clkAshAck
  /-- AVS_VOLTAGE_IN_RANGE (R565). -/
  | avsVoltageInRange
  /-- PMBUS_POLL (R566). -/
  | pmbusPoll (r : Option (Nat × Nat))
  /-- PM_ALERT (R566). -/
  | pmAlert (status : Nat) (pinMax : Nat) (vinMin : Nat)
  /-- STACK_TEMP_READ (R555). -/
  | stackTempRead (temps : List Nat)
  /-- EMERGENCY_THROTTLE (R567). -/
  | emergencyThrottle (c : ThrottleCause)
  /-- THROTTLE_RELEASE (R567). -/
  | throttleRelease
  /-- THERMAL_TRIP (R567). -/
  | thermalTrip (sensor : Nat) (degC : Nat)
  /-- QUOIN_READY (R558). -/
  | quoinReady (p : Nat) (rise : Bool)
  /-- QUOIN_REG_WORD (R558). -/
  | quoinRegWord (p : Nat) (w : BitVec 64)
  /-- QUOIN_DONE (R559). -/
  | quoinDone (p : Nat) (w : BitVec 64)
  /-- QUOIN_STOPPED (R559). -/
  | quoinStopped (p : Nat) (stat : List W64)
  /-- QUOIN_REQ (R561). -/
  | quoinReq (p : Nat) (r : BitVec 128) (env : Env)
  /-- QUOIN_WDATA (R561). -/
  | quoinWdata (p : Nat) (d : List Byte)
  /-- QUOIN_OBX (R561). -/
  | quoinObx (p : Nat) (d : List Byte)
  /-- QUOIN_SCRUB_ACK (R366). -/
  | quoinScrubAck (p : Nat)
  /-- POWER_ON_RESET_RELEASE (R571). -/
  | powerOnResetRelease
  /-- WARM_RESET (R571). -/
  | warmReset
  /-- HBM_TRAINING_DONE (R555). -/
  | hbmTrainingDone (ok : List Bool) (health : Bool)
  /-- MEMORY_FILL_DONE (R383). -/
  | memoryFillDone (ms : Nat) (romOk : Bool)
  /-- FIRMWARE_INIT_DONE (R573). -/
  | firmwareInitDone (pinMax : Nat) (vinMin : Nat) (rails : Bool)
  /-- EQI_READY (R573). -/
  | eqiReady
  /-- GET_CERTIFICATE (R341). -/
  | getCertificate (slot : Nat) (off : Nat) (len : Nat)
  /-- CHALLENGE (R342). -/
  | challenge (slot : Nat) (nonce : List Byte)
  /-- HEARTBEAT (R342). -/
  | heartbeat (sess : Nat)
  /-- KEY_UPDATE (R342). -/
  | keyUpdate (sess : Nat)
  /-- END_SESSION (R342). -/
  | endSession (sess : Nat)
  /-- GET_VERSION (R343). -/
  | getVersion
  /-- GET_CAPABILITIES (R342). -/
  | getCapabilities
  /-- NEGOTIATE_ALGORITHMS (R342). -/
  | negotiateAlgorithms (offer : AlgOffer)
  /-- ENGINE_RESET_END (R516). -/
  | engineResetEnd (e : Engine)
  /-- HBM_PHY_UPDATE_REQUEST (R554). -/
  | hbmPhyUpdateRequest (p : Nat)
  /-- POWER_ON_RESET_ASSERT (R571). -/
  | powerOnResetAssert
  /-- SCRUB_LAP_END (R475). -/
  | scrubLapEnd (k : Nat) (ms : Nat) (bad : List (Nat × Bool) := [])
  deriving DecidableEq, Repr, Inhabited

end Sys2Proof
end

