-- ==== Sys2Proof/Config.lean ====
section
/-! DEFINITION. What the spec leaves free and what it takes from standards outside it: constants with no body,
applied to a counter of the state or to the operands they depend on. No proof can see a value of theirs. -/
namespace Sys2Proof.Config

/-- The n-th free value: anything the spec leaves open at the point where it is drawn (log entry 2). -/
opaque free : Nat → BitVec 64

/-- The n-th value drawn from the block's random source (R337), 256 bits of it. -/
opaque random : Nat → BitVec 256

/-- SHA-384 of a byte string, 48 bytes as a number (used by R296, R341, R344, R346, R435; log entry 3). -/
opaque sha384 : List Byte → BitVec 384

/-- The plaintext of an AES-256-GCM ciphertext under (key, iv, aad), or none when the tag fails (R296, R348). -/
opaque gcmOpen : BitVec 256 → BitVec 96 → List Byte → List Byte → BitVec 128 → Option (List Byte)

/-- What follows a header of additional authenticated data: the AES-256-GCM ciphertext and tag under (key, iv, aad) (R359, R413). -/
opaque gcmSeal : BitVec 256 → BitVec 96 → List Byte → List Byte → List Byte

/-- AES-XTS-256 of one data unit under a key pair and a tweak (R362). -/
opaque aesXts : BitVec 512 → Nat → List Byte → List Byte

/-- The AES-256-GMAC of R362 over an address and a key generation as its IV. -/
opaque gmac : BitVec 256 → Nat → Nat → List Byte → BitVec 128

/-- The P-384 private key FIPS 186-5 generates from a 48-byte seed (R340). -/
opaque p384Private : List Byte → BitVec 384

/-- The uncompressed public key, 97 bytes, of a P-384 private key (R339). -/
opaque p384Public : BitVec 384 → Vector Byte 97

/-- The P-384 ECDH secret of a private key and a peer's public key (R342, R360). -/
opaque p384Ecdh : BitVec 384 → List Byte → List Byte

/-- The ECDSA signature of a private key over a message (R340). -/
opaque ecdsaSign : BitVec 384 → List Byte → List Byte

/-- The X.509 v3 certificate a private key issues for a public key, with an extension (R340). -/
opaque x509 : BitVec 384 → List Byte → List Byte → List Byte

/-- The export_master_secret of an SPDM session with this ECDH secret and transcript (R347). -/
opaque spdmExport : List Byte → List Byte → BitVec 384

/-- Whether a byte string parses as a sequence of X.509 v3 certificates, and the subject public key of the last
one (R339). -/
opaque chainLastKey : List Byte → Option (List Byte)

/-- The digest of the boot ROM (R344, index 1). -/
opaque bootRomDigest : BitVec 384

/-- The hash of R422 that chooses the port of an outbound request; the spec names it and does not define it. -/
opaque portHash : Nat → Nat → Nat

/-- The power estimate of a DVFS step from one clock to the next point (R568), in W. -/
opaque powerEstimate : Nat → Nat → Nat

/-- The rate the power cap allows a scrub pass (R472), in units of 1,024 lines per second, by clock and cap. -/
opaque scrubAllowance : Nat → Nat → Nat

/-- The candidate results of VEXP2, VRCP and VRSQ (operation 0, 1, 2), used only within the accuracy of R91. -/
opaque funcOffset : Nat → BitVec 32 → Nat → Int

end Sys2Proof.Config
end

