-- ==== Sys2Proof/Machine/State.lean ====
section
/-! DEFINITION. The state of the block as plain data: everything the spec's chapters name, grouped by the part of the
block that holds it. Each group is one field of `State`; a step says which groups it may change (`Ops.run`). -/
namespace Sys2Proof.Machine

/-- Why a step stops. -/
inductive Fault
  /-- The command names a unit the hardened configuration does not have (an ashlar, bay, port, core, line or group
  number beyond the figures of R8). Raised by `Ops.onUnit` only. Safe: no such unit exists to act. -/
  | absentUnit (what : String)
  deriving DecidableEq, Repr, Inhabited

/-- Why a step has no meaning. -/
inductive Refusal
  /-- The command has no meaning in this model yet. Raised by the dispatch table only. Safe. -/
  | notModelled (mnemonic : String)
  deriving DecidableEq, Repr, Inhabited

/-- The two configurations (R7, R8). -/
inductive HwConfig | F | H
  deriving DecidableEq, Repr, Inhabited

/-- What is fixed at hardening or by the package (R7, R378, R550). -/
structure Hw where
  config : HwConfig := .F
  /-- Capacity in GiB of the stack on each memory port; 0 for a port with no stack. -/
  stackGib : List Nat := [64, 64, 64, 64, 64, 64, 64, 64]
  /-- HBM pin rate in 0.1 Gb/s. -/
  pinRate : Nat := 80
  pmbusAddr : Nat := 0
  /-- The level of the pin kp_en (R572). -/
  kpEn : Bool := true
  deriving DecidableEq, Repr, Inhabited

/-! ## The grid -/

/-- What an ashlar's sequencer does. `idle` also covers an ashlar a kill has stopped. -/
inductive Run | idle | running | halted | frozen
  deriving DecidableEq, Repr, Inhabited

/-- What a sequencer that did not complete its instruction waits for (R34, R56, R57, R41). -/
inductive Stall | none | queue | credit | joint | tag | fence | halt
  deriving DecidableEq, Repr, Inhabited

/-- An instruction in the matrix queue; `h0` is the length of the scratchpad history when it was issued (R60). -/
structure MatOp where
  word : W64
  h0 : Nat := 0
  deriving DecidableEq, Repr, Inhabited

/-- An instruction in the vector queue, with g[base] as read at issue. -/
structure VecOp where
  word : W64
  base : W64 := 0
  h0 : Nat := 0
  deriving DecidableEq, Repr, Inhabited

/-- A weight tile in the array (R40). -/
structure Tile where
  bfmt : Nat := 0
  elems : List Byte := []
  scales : List Byte := []
  deriving DecidableEq, Repr, Inhabited

/-- A DMA descriptor (R42). -/
structure DmaDesc where
  vaddr : Nat := 0
  rows : Nat := 1
  rowBytes : Nat := 64
  memStride : Nat := 0
  spadAddr : Nat := 0
  spadStride : Nat := 0
  toMem : Bool := false
  notifyEn : Bool := false
  dx : Nat := 0
  dy : Nat := 0
  joint : Nat := 0
  deriving DecidableEq, Repr, Inhabited

/-- A transfer on a tag: its descriptor, the history mark of its issue, and the remote bytes answered so far. -/
structure DmaXfer where
  d : DmaDesc := {}
  h0 : Nat := 0
  got : Mem := []
  /-- Remote pieces not asked for yet, as (device address, bytes), and those asked for and not answered. -/
  todo : List (Nat × Nat) := []
  asked : Nat := 0
  /-- The 64-byte lines other writes have landed on since a write was issued (R63). -/
  clash : List Nat := []
  /-- What lines held before writes landed on them since a read was issued: line and bytes (R63). -/
  olds : List (Nat × List Byte) := []
  deriving DecidableEq, Repr, Inhabited

/-- A message waiting in a joint. -/
structure JMsg where
  slot : Nat := 0
  len : Nat := 0
  dx : Nat := 0
  dy : Nat := 0
  deriving DecidableEq, Repr, Inhabited

/-- A configured joint (R53). -/
structure Joint where
  base : Nat := 0
  size : Nat := 0
  slotLines : Nat := 1
  slots : Nat := 1
  head : Nat := 0
  msgs : List JMsg := []
  deriving DecidableEq, Repr, Inhabited

/-- A grant record (R54). -/
structure Grant where
  joint : Nat
  dx : Nat
  dy : Nat
  count : Nat
  deriving DecidableEq, Repr, Inhabited

/-- An entry of the credit table (R55). -/
structure Credit where
  dx : Nat
  dy : Nat
  joint : Nat
  count : Nat
  limit : Nat
  seq : Nat := 0
  deriving DecidableEq, Repr, Inhabited

/-- One record of a context journal: an old scratchpad line or an old accumulator row (R139). -/
inductive JItem
  | line (addr : Nat) (old : List Byte)
  | row (r : Nat) (old : List W32)
  deriving DecidableEq, Repr, Inhabited

/-- An overwritten scratchpad byte or accumulator entry (R60): when, where, the value before, and the writer: 0 the
sequencer, 1 the matrix unit, 2 the vector unit, 3 the mover or the mortar port. Operations issued from serial `sure` on must see
it, where something orders them. -/
structure Overwrite (α : Type) where
  at_ : Nat
  addr : Nat
  old : α
  writer : Nat
  sure : Option Nat := none
  deriving DecidableEq, Repr, Inhabited

/-- One ashlar (R29 to R35, R53 to R57, R86). -/
structure Ashlar where
  run : Run := .idle
  stall : Stall := .none
  cid : Nat := 0
  px : Nat := 0
  py : Nat := 0
  pw : Nat := 1
  ph : Nat := 1
  g : Tbl W64 := []
  /-- Lane l of v register r at 64 r + l. -/
  v : Tbl W32 := []
  spad : Mem := []
  /-- Entry c of accumulator row r at 32 r + c. -/
  acc : Tbl W32 := []
  imem : Tbl W64 := []
  imgLen : Nat := 0
  img : Option (BitVec 384) := none
  pc : Nat := 0
  cycle : Nat := 0
  bound : Nat := 0
  rerun : Nat := 0
  seedLo : W64 := 0
  grefused : Nat := 0
  rng : W64 := 0
  mq : List MatOp := []
  vq : List VecOp := []
  shadow : Option Tile := none
  active : Option Tile := none
  tags : Tbl DmaXfer := []
  joints : Tbl Joint := []
  grants : List Grant := []
  credits : List Credit := []
  /-- Next expected seq by (source × 16 + joint). -/
  seqIn : Tbl Nat := []
  /-- Bytes and entries overwritten with no FENCE since, newest first, and the next serial (R60). -/
  hist : List (Overwrite Byte) := []
  ahist : List (Overwrite W32) := []
  serial : Nat := 0
  /-- Whether the command names a context, so that first writes are journalled (R139). -/
  ctx : Bool := false
  journal : List JItem := []
  /-- The device pages whose translations the DMA mover caches (R389). -/
  tlb : List Nat := []
  deriving DecidableEq, Repr, Inhabited

/-- A mortar message in flight (R48, R49): src and dst as the 11-bit codes of R48. -/
structure MMsg where
  kind : Nat
  src : Nat
  dst : Nat
  joint : Nat := 0
  seq : Nat := 0
  payload : List Byte := []
  cid : Nat := 0
  deriving DecidableEq, Repr, Inhabited

/-- A side effect waiting in a commit outbox (R120, R122, R178, R561). -/
inductive OutRec
  | signal (obj : Nat) (v : Nat)
  | enq (queue : Nat) (entry : List Byte)
  /-- A run of writes: its target is host memory (none), or a window of an endpoint. -/
  | range (va len : Nat) (tgt : Option (Nat × Nat))
  | atomic (op ty va operand compare : Nat)
  | reduce (op ty va src len : Nat)
  | batch (id : Nat)
  deriving DecidableEq, Repr, Inhabited

/-- The control messages a sender repeats until acknowledged (R50). -/
inductive CtlKind | start | kill | outbox (r : OutRec) | halted
  deriving DecidableEq, Repr, Inhabited

/-- A control message: its kind, the ashlar it goes to or comes from, its command, whether it has arrived, and how
often it has been sent again. -/
structure Ctl where
  kind : CtlKind
  a : Nat
  cid : Nat
  /-- The header it is sent with (R48). -/
  hdr : W64 := 0
  arrived : Bool := false
  resent : Nat := 0
  deriving DecidableEq, Repr, Inhabited

/-- The grid and its registers (R26 to R28). -/
structure Grid where
  ashlars : Tbl Ashlar := []
  /-- GRID_LOST_n. -/
  lost : Tbl Nat := []
  seqErr : Nat := 0
  crcErr : Nat := 0
  net : List MMsg := []
  ctl : Tbl Ctl := []
  nextCtl : Nat := 0
  /-- Hard-fault resets that named an ashlar since the last full block reset (R467). -/
  named : Tbl Nat := []
  deriving DecidableEq, Repr, Inhabited

/-! ## Lifts -/

/-- The window of the current lift (R103). -/
inductive Window | opening | run | closing
  deriving DecidableEq, Repr, Inhabited

/-- One planned command: its panel origin, its offset in charge, the producers it is chained on (R114, R117). -/
structure PlanItem where
  cid : Nat
  x0 : Nat := 0
  y0 : Nat := 0
  offset : Nat := 0
  charge : Nat := 0
  after : List Nat := []
  deriving DecidableEq, Repr, Inhabited

/-- The lift sequencer (R102 to R106, R148 to R151). -/
structure Lift where
  serving : Bool := false
  period : Nat := 100
  next : Nat := 100
  pending : Bool := false
  num : Nat := 0
  latch : Nat := 0
  window : Window := .opening
  clk : Nat := 0
  budget : Nat := 0
  throttled : Bool := false
  /-- The clock fixed for the current lift at its boundary (R151). -/
  clkFixed : Nat := 0
  plan : List PlanItem := []
  sealed : Option (List PlanItem) := none
  /-- Clock fixed for the next lift when its plan was sealed (R104). -/
  nextClk : Nat := 0
  /-- Queue served first in the previous lift, by 8 × bay + priority (R115). -/
  rr : Tbl Nat := []
  deriving DecidableEq, Repr, Inhabited

/-- The lift counters (R152 to R154). -/
structure Stat where
  latePlan : Nat := 0
  throttleKill : Nat := 0
  overrun : Nat := 0
  forcedEvict : Nat := 0
  swaps : Nat := 0
  buttress : Nat := 0
  deriving DecidableEq, Repr, Inhabited

/-! ## Commands -/

/-- The states of R113. -/
inductive CmdState
  | fetched | waiting | ready | planned | running | anchored | faulted | committing | frozen
  deriving DecidableEq, Repr, Inhabited

/-- A declared range (R241). -/
structure Range where
  va : Nat
  len : Nat
  deriving DecidableEq, Repr, Inhabited

/-- A launch descriptor (R241). -/
structure Desc where
  args : List Byte := []
  argLen : Nat := 0
  ins : List Range := []
  outs : List Range := []
  imageInstr : Nat := 0
  deriving DecidableEq, Repr, Inhabited

/-- One piece of delivery: batch entry, slab number, head, part, and its slab-map entry (R183). -/
structure Piece where
  entry : Nat
  s : Nat
  head : Nat
  part : Nat
  slab : Nat
  deriving DecidableEq, Repr, Inhabited

/-- A walk of one chunk (R181 to R184): the walk descriptor's fields and, by ashlar, the pieces delivered. -/
structure Walk where
  batch : Nat := 0
  chunk : Nat := 0
  chunks : Nat := 1
  ring : Nat := 0
  slots : Nat := 1
  slotLines : Nat := 1
  layer : Nat := 0
  hpa : Nat := 1
  ways : Nat := 1
  chunkSlabs : Nat := 1
  bound : Nat := 0
  outStride : Nat := 0
  parts : Nat := 1
  prod : Tbl Nat := []
  /-- The pieces of this chunk for each ashlar that has received one (R184). -/
  pieces : Tbl (List Piece) := []
  /-- By ashlar, the pieces in flight in the prefetch buffer: read, and not delivered yet (R185). -/
  ahead : Tbl Nat := []
  deriving DecidableEq, Repr, Inhabited

/-- The verdict of an agreement (R436). -/
inductive Verdict | none | inSwitch | endpoint | mismatch
  deriving DecidableEq, Repr, Inhabited

/-- A child's COL_HS (R436). -/
structure ChildHs where
  rank : Nat
  hash : W64
  cap : Bool
  data : List Byte := []
  deriving DecidableEq, Repr, Inhabited

/-- A chunk sent and not yet acknowledged (R443). -/
structure Sent where
  dst : Nat
  xfer : Nat
  kind : Nat
  data : List Byte := []
  tries : Nat := 1
  /-- Its number among the chunks the member has sent (R441). -/
  num : Nat := 0
  deriving DecidableEq, Repr, Inhabited

/-- A collective in progress (R430 to R446). -/
structure Col where
  grp : Nat := 0
  seq : Nat := 0
  hash : W64 := 0
  children : List ChildHs := []
  sentUp : Bool := false
  verdict : Verdict := .none
  /-- Input gathered from the panel, by byte of the member's input buffer, and the panel indices gathered. -/
  inp : Mem := []
  gathered : List Nat := []
  /-- Working sums, by element of the reduced buffer: FP32, or INT32. -/
  part : Tbl W32 := []
  /-- Finished bytes of the output buffer, and the panel indices they have been written to. -/
  out : Mem := []
  scattered : List Nat := []
  /-- The receives of the plan that are complete, and the frames arrived of those that are not. -/
  got : List Nat := []
  slots : Tbl (List Byte) := []
  /-- The chunks sent and not acknowledged, and the next send of the plan. -/
  sent : List Sent := []
  next : Nat := 0
  /-- Chunks complete before the input was gathered: the port and the last frame of each. -/
  held : List (Nat × Frame) := []
  probes : Tbl Nat := []
  overBound : Bool := false
  deriving DecidableEq, Repr, Inhabited

/-- Who issued an outbound request (R423). -/
inductive Owner
  | dma (cid a tag : Nat)
  | effect (cid idx : Nat)
  /-- A read or write of the block's own, to an extent or a slab another endpoint stores (R423). -/
  | own
  deriving DecidableEq, Repr, Inhabited

/-- An outbound request without its answer (R422, R427). -/
structure Txn where
  kind : Nat
  dst : Nat
  addr : Nat
  len : Nat := 0
  data : List Byte := []
  mark : Nat := 0
  tries : Nat := 1
  bay : Nat := 0
  va : Nat := 0
  owner : Owner
  deriving DecidableEq, Repr, Inhabited

/-- Why a command is FROZEN: the kind of master that violated (R480) and where. -/
structure Viol where
  master : Nat
  reason : Nat
  ashlar : Option Nat := none
  unit : Nat := 0
  detail : Nat := 0
  address : Nat := 0
  deriving DecidableEq, Repr, Inhabited

/-- Where a command was when it faulted (R267): its panel's origin, the ashlar, and the byte named under R390. -/
structure Flt where
  origin : Option (Nat × Nat) := none
  ashlar : Option Nat := none
  va : Nat := 0
  deriving DecidableEq, Repr, Inhabited

/-- A fetched command that is not DONE, or a command past its commit point whose completion entry is owed (R113,
R124). A body command of a graph names its GRAPH_LAUNCH in `parent` (R259). -/
structure Cmd where
  cid : Nat
  bay : Nat
  queue : Nat
  pos : Nat := 0
  parent : Option Nat := none
  bodyIdx : Nat := 0
  entry : List Byte := []
  desc : Desc := {}
  st : CmdState := .fetched
  abort : Bool := false
  seedLo : W64 := 0
  seedHi : W64 := 0
  seeded : Bool := false
  placed : Bool := false
  x0 : Nat := 0
  y0 : Nat := 0
  words : List W64 := []
  loading : Bool := false
  halted : List Nat := []
  overruns : Nat := 0
  reruns : Nat := 0
  dets : List Nat := []
  /-- The ashlars its detections named (R467). -/
  detAt : List Nat := []
  /-- Whether its last kill was for a detection (R115, R464). -/
  redet : Bool := false
  passed : Nat := 0
  clockWait : Nat := 0
  solo : Bool := false
  held : Bool := false
  outbox : List OutRec := []
  outCount : Nat := 0
  stage : Mem := []
  /-- The frames of its staging extent, of the bay's staging pool (R128, R129). -/
  stageAt : List Nat := []
  /-- Where the staging extent lies for a quoin engine (R559, a free value), and the bytes the engine addressed there itself. -/
  stageVa : Nat := 0
  direct : Mem := []
  hostPages : List (Nat × Nat) := []
  transPages : List Nat := []
  /-- Steps 1 and 2 of R123 are done: the staged outputs are copied, the journal is discarded. -/
  copied : Bool := false
  committed : Bool := false
  copyOwed : Bool := false
  remoteLeft : Nat := 0
  remoteFailed : Nat := 0
  /-- Fabric effects after the commit point: by record, the requests not yet answered and whether one failed; and the
  requests not yet issued, in outbox order (R124, R423). -/
  effs : Tbl (Nat × Bool) := []
  effq : List Txn := []
  /-- The outbox records of the chunks that have committed (R182): the effects of the next one are numbered after them. -/
  effBase : Nat := 0
  code : Nat := 0
  result : Nat := 0
  enqDropped : Bool := false
  abortLate : Bool := false
  buttress : Nat := 0
  gen : Nat := 0
  /-- Codes of the body commands that are DONE, by body index. -/
  bodyCodes : Tbl Nat := []
  allCommitted : Bool := true
  /-- Body entries fetched so far, and whether an error record was written for one of them (R232, R238). -/
  bodyNext : Nat := 0
  bodyErr : Bool := false
  flt : Option Flt := none
  batch : Option Nat := none
  walk : Option Walk := none
  col : Option Col := none
  viol : Option Viol := none
  deriving DecidableEq, Repr, Inhabited

/-- The commands in flight; cid numbers run in fetch order. -/
structure Cmds where
  all : Tbl Cmd := []
  next : Nat := 0
  deriving DecidableEq, Repr, Inhabited

/-! ## Bays -/

/-- The bay states of R319. -/
inductive BayState | absent | created | attached | quiescing | quiesced | resetting
  deriving DecidableEq, Repr, Inhabited

/-- A ring of records with prod, cons and lost (R333). -/
structure Ring where
  recs : Tbl (List Byte) := []
  prod : Nat := 0
  cons : Nat := 0
  lost : Nat := 0
  seq : Nat := 0
  deriving DecidableEq, Repr, Inhabited

/-- A queue (R222 to R231, R247). Positions are free-running. -/
structure Queue where
  user : Bool := false
  prio : Nat := 0
  log2Ring : Nat := 6
  log2Cq : Nat := 6
  qflags : Nat := 0
  vector : Nat := 0
  ringAddr : Nat := 0
  cqAddr : Nat := 0
  wp : Nat := 0
  fetch : Nat := 0
  cqHead : Nat := 0
  cqNext : Nat := 0
  cqReserved : Nat := 0
  idle : Bool := true
  frozen : Bool := false
  ringFailed : Bool := false
  /-- What froze it (R480): reason, slot, opcode. -/
  viol : Nat × Nat × Nat := (0, 0, 0)
  unbound : Nat := 0
  /-- A doorbell has asked for a front and none has been bound since (R229). -/
  asked : Bool := false
  owed : List (List Byte) := []
  aborts : List Nat := []
  destroyer : Option Nat := none
  /-- The write position when its QUEUE_DESTROY came: entries up to there are fetched and aborted (R247). -/
  destroyWp : Nat := 0
  deriving DecidableEq, Repr, Inhabited

/-- The EQI side of a bay (R220 to R273). -/
structure BayEqi where
  negDone : Bool := false
  negRefused : Bool := false
  major : Nat := 0
  minor : Nat := 0
  queues : Tbl Queue := []
  sync : Tbl Nat := []
  syncLatch : Tbl Nat := []
  errVa : Nat := 0
  errRecs : Nat := 0
  errSeq : Nat := 0
  /-- Records written into the ring since it was placed. -/
  errPos : Nat := 0
  deriving DecidableEq, Repr, Inhabited

/-- Where a placed extent lives (R196): a 2 MiB frame of the bay's HBM share, or a frame of a backing window. -/
inductive Home | hbm (frame : Nat) | win (w frame : Nat)
  deriving DecidableEq, Repr, Inhabited

/-- A move in progress (R202). -/
structure Move where
  dst : Home
  round : Nat := 0
  recorded : List Nat := []
  /-- The pages written since the last round ended. -/
  written : List Nat := []
  deriving DecidableEq, Repr, Inhabited

/-- A placed extent (R196 to R206). -/
structure Extent where
  home : Home
  perm : Nat := 3
  rd : Nat := 0
  wr : Nat := 0
  heat : Nat := 0
  /-- What a declared range adds to the heat for this epoch only (R201). -/
  boost : Nat := 0
  lastMove : Option Nat := none
  noMoveUntil : Nat := 0
  move : Option Move := none
  weights : Bool := false
  deriving DecidableEq, Repr, Inhabited

/-- What a 4 KiB page maps to besides placed memory (R386). -/
inductive Target | host (iova : Nat) | remote (ep win off : Nat)
  deriving DecidableEq, Repr, Inhabited

/-- A run of pages mapped to host memory or to a remote window: page i maps the i-th page of the target. -/
structure MapRange where
  page : Nat
  pages : Nat
  perm : Nat
  tgt : Target
  deriving DecidableEq, Repr, Inhabited

/-- Pages awaiting invalidation (R388), with the frame a placed extent still holds. -/
structure Awaiting where
  page : Nat
  pages : Nat
  home : Option Home := none
  tgt : Option Target := none
  perm : Nat := 0
  deriving DecidableEq, Repr, Inhabited

/-- A backing window of a bay (R198, R212). -/
structure BackWin where
  ep : Nat
  win : Nat
  off : Nat
  len : Nat
  /-- Its place in the order the bay's windows were added in (R199). -/
  added : Nat := 0
  removing : Option (Nat × Nat) := none
  deriving DecidableEq, Repr, Inhabited

/-- A pin (R209, R210). `byMgr` tells the party that set it; `home` none is HBM. -/
structure Pin where
  handle : Nat
  byMgr : Bool
  ext0 : Nat
  exts : Nat
  home : Option Nat := none
  settled : Bool := false
  conflict : Bool := false
  /-- Extents moved out of the window it names, which is being withdrawn (R212). -/
  movedOut : Nat := 0
  deriving DecidableEq, Repr, Inhabited

/-- A panel constraint on a queue (R211): mode 0 WITHIN, 1 EXACT, 2 AVOID. -/
structure PanelCon where
  handle : Nat
  byMgr : Bool
  queue : Nat
  mode : Nat
  x : Nat
  y : Nat
  w : Nat
  h : Nat
  deriving DecidableEq, Repr, Inhabited

/-- A fault record (R399): `state` 1 open, 2 Page Request outstanding, 3 to be refused at once (R394); `need` is the
permission the access needed, bit 0 read, bit 1 write. -/
structure FaultRec where
  page : Nat
  firstByte : Nat := 0
  state : Nat := 1
  cause : Nat := 1
  need : Nat := 0
  waiters : List Nat := []
  queue : Nat := 0
  slot : Nat := 0
  engine : Nat := 0
  lift : Nat := 0
  deriving DecidableEq, Repr, Inhabited

/-- The memory side of a bay. -/
structure BayMem where
  extents : Tbl Extent := []
  maps : List MapRange := []
  awaiting : List Awaiting := []
  withheld : List Nat := []
  windows : Tbl BackWin := []
  /-- Extents moved from a backing window, and to one, in this epoch (R205). -/
  usedIn : Nat := 0
  usedOut : Nat := 0
  pins : List Pin := []
  cons : List PanelCon := []
  /-- Hints on extents, newest first: first extent, count, value, and whether the manager set it (R209). -/
  hints : List (Nat × Nat × Nat × Bool) := []
  /-- Preferred origins by queue, and whether the manager set them (R209). -/
  origins : Tbl (Nat × Nat × Bool) := []
  faults : Tbl FaultRec := []
  faultWait : List (Nat × Nat × Nat × Nat) := []
  /-- The host address translation cache: permission and translated page by host page (R393). -/
  atc : Tbl (Nat × Nat) := []
  /-- Accesses that wait for a Translation Completion: host page, command, permission, device page, engine (R393). -/
  atsWait : List (Nat × Nat × Nat × Nat × Nat) := []
  /-- ATS invalidations not yet answered: host page, pages (R395). -/
  inval : List (Nat × Nat) := []
  atsEnable : Bool := false
  priEnable : Bool := false
  priFailed : Bool := false
  nextHandle : Nat := 1
  /-- The device pages whose translations the bay's partitions of the shared caches hold (R389): 0 the grid edge, 1 the slab walker, 2 the
  command front, 3 + p quoin port p. -/
  tlbs : Tbl (List Nat) := []
  deriving DecidableEq, Repr, Inhabited

/-- A switch of a context in progress (R141). -/
inductive Switch | none | out | into (x0 y0 : Nat)
  deriving DecidableEq, Repr, Inhabited

/-- The on-chip state of one ashlar of a context. -/
structure CtxImage where
  spad : Mem := []
  acc : Tbl W32 := []
  journal : List JItem := []
  deriving DecidableEq, Repr, Inhabited

/-- A context (R139 to R143). `images` is the save image by panel index. -/
structure Ctx where
  handle : Nat
  w : Nat
  h : Nat
  damaged : Bool := false
  resident : Option (Nat × Nat) := none
  /-- The frames of its home region (R139). -/
  home : List Nat := []
  images : Tbl CtxImage := []
  pending : Bool := false
  switch : Switch := .none
  /-- Whether its switch goes through the reserved swap slot (R143). -/
  slot : Bool := false
  blockedSince : Option Nat := none
  deriving DecidableEq, Repr, Inhabited

/-- A stored graph (R258 to R262). -/
structure Graph where
  handle : Nat
  owner : Option Nat := none
  user : Bool := false
  body : List (List Byte) := []
  paramBytes : Nat := 64
  r0 : Mem := []
  r1 : Mem := []
  gen : Nat := 0
  pins : List (Nat × Nat) := []
  deriving DecidableEq, Repr, Inhabited

/-- A loaded model (R163, R249, R297). Geometry is 0 for a format-1 model (R295). -/
structure Model where
  id : Nat
  fmt : Nat := 2
  layers : Nat := 0
  hkv : Nat := 0
  kvFmt : Nat := 0
  d : Nat := 0
  maxBatch : Nat := 0
  key : Nat := 0
  images : List (List W64) := []
  weights : List (Nat × Nat × Nat) := []
  stepG : Nat := 0
  fillG : Nat := 0
  imageVa : Nat := 0
  imageBytes : Nat := 0
  digest : BitVec 384 := 0
  failedSegs : List Nat := []
  loading : Bool := false
  deriving DecidableEq, Repr, Inhabited

/-- The stream states of R158. -/
inductive StreamState | free | idle | ready | stepping | filling | regen | lost
  deriving DecidableEq, Repr, Inhabited

/-- A stream descriptor (R157), with the internal CLOSING mark and the evaluation history of R146. A FREE one is zeros (R160). -/
structure Stream where
  modelId : Nat := 0
  buttressId : Nat := 0
  state : StreamState := .free
  buttressActive : Bool := false
  hold : Bool := false
  regen : Bool := false
  spilled : Bool := false
  deadline : Nat := 0
  position : Nat := 0
  limit : Nat := 0
  mLen : Nat := 0
  bLen : Nat := 0
  root : Nat := 0
  tail : Nat := 0
  bRoot : Nat := 0
  bTail : Nat := 0
  quota : Nat := 0
  hbmSlabs : Nat := 0
  poisoned : Nat := 0
  logVa : Nat := 0
  lastCommit : Nat := 0
  misses : Nat := 0
  pending : Nat := 0
  closing : Option Nat := none
  missPosted : Option Nat := none
  /-- Whether the last evaluation projected a miss (R144, R175). -/
  missNow : Bool := false
  good : Nat := 0
  lastStep : Nat := 0
  regenSince : Nat := 0
  deriving DecidableEq, Repr, Inhabited

/-- The locations of a slab-map entry (R166). -/
inductive SlabLoc | free | valid | poisoned
  deriving DecidableEq, Repr, Inhabited

/-- A slab-map entry (R166). -/
structure Slab where
  loc : SlabLoc := .free
  spill : Bool := false
  buttress : Bool := false
  last : Bool := false
  fill : Nat := 0
  cause : Nat := 0
  stream : Nat := 0
  nextRow : Nat := 0
  spillNo : Nat := 0
  vaPage : Nat := 0
  moving : Option Nat := none
  deriving DecidableEq, Repr, Inhabited

/-- A spill range (R169, R170). -/
structure Spill where
  va : Nat
  size : Nat
  removing : Option Nat := none
  deriving DecidableEq, Repr, Inhabited

/-- A member of a batch table (R176). -/
structure Member where
  strm : Nat
  pos : Nat
  step : Option Nat := none
  masked : Bool := false
  appended : Bool := false
  deriving DecidableEq, Repr, Inhabited

/-- What a batch does (R176, R180, R188, R191). -/
inductive BatchKind | step | fill | regen | catchup
  deriving DecidableEq, Repr, Inhabited

/-- A sealed batch step, fill, regeneration or catch-up (R176, R178, R188). -/
structure Batch where
  id : Nat
  model : Nat
  kind : BatchKind := .step
  buttress : Bool := false
  members : List Member := []
  maxSlabs : Nat := 0
  layerLimit : Nat := 0
  tableVa : Nat := 0
  appendVa : Nat := 0
  firstPos : Nat := 0
  count : Nat := 0
  inputVa : Nat := 0
  rebuild : List Nat := []
  /-- The body index of the final command of its graph (R178). -/
  last : Nat := 0
  /-- The entries of its graph fetched so far (R232), and the queue and position its commands take (R176). -/
  fetched : Nat := 0
  queue : Nat := 0
  pos : Nat := 0
  committed : Bool := false
  /-- Gathered commands not yet DONE, and the first code of theirs that is not OK. -/
  left : Nat := 0
  code : Nat := 0
  /-- Whether an error record was written for one of them (R238). -/
  err : Bool := false
  deriving DecidableEq, Repr, Inhabited

/-- The stream side of a bay (R155 to R191). -/
structure BayStream where
  streams : Tbl Stream := []
  slabs : Tbl Slab := []
  /-- Cached descriptors, most recently used first, with their modified mark (R156). -/
  cache : List (Nat × Bool) := []
  /-- Cached slab-map entries, most recently used first (R165). -/
  mapCache : List Nat := []
  /-- An allocation waits for firmware to compact the partition between lifts (R168). -/
  wantRun : Bool := false
  /-- The frames of the share the KV pool and the batch area take, extent by extent (R170). -/
  pool : List Nat := []
  area : List Nat := []
  spills : Tbl Spill := []
  models : List Model := []
  batches : List Batch := []
  nextBatch : Nat := 1
  ctxs : List Ctx := []
  nextCtx : Nat := 1
  graphs : List Graph := []
  nextGraph : Nat := 1
  /-- Bytes of the frames in spill ranges, by device address. -/
  blk : Mem := []
  keys : List (Nat × BitVec 128 × BitVec 256) := []
  nextKey : Nat := 1
  deriving DecidableEq, Repr, Inhabited

/-- A bay (R310 to R334, R486 to R490, R514). -/
structure Bay where
  st : BayState := .absent
  forced : Bool := false
  toAbsent : Bool := false
  removeBox : Bool := false
  quiesceOps : List Nat := []
  resetOp : Option Nat := none
  eqi : BayEqi := {}
  mem : BayMem := {}
  strm : BayStream := {}
  ev : Ring := {}
  throttleKill : Nat := 0
  overrun : Nat := 0
  forcedEvict : Nat := 0
  swaps : Nat := 0
  buttress : Nat := 0
  liftLatch : Nat := 0
  progress : Nat := 0
  lastProgress : Nat := 0
  quiet : Nat := 0
  blocked : Bool := false
  hangs : Nat := 0
  declared : Bool := false
  memSpace : Bool := false
  d3 : Bool := false
  bar : Nat := 0
  bar2 : Nat := 0
  deriving DecidableEq, Repr, Inhabited

/-- The bays and SR-IOV (R310, R311, R334). -/
structure Bays where
  count : Nat := 1
  vfEnable : Bool := false
  numVfs : Nat := 0
  all : Tbl Bay := []
  deriving DecidableEq, Repr, Inhabited

/-- A front's binding (R274). -/
structure Front where
  bay : Nat
  queue : Nat
  fetched : Nat := 0
  /-- It has set its queue's idle flag and is yet to read the write position again (R229). -/
  reread : Bool := false
  deriving DecidableEq, Repr, Inhabited

/-- The front registers (R274 to R276). -/
structure Dev where
  fronts : Tbl Front := []
  ignoredDb : Nat := 0
  wastedFetch : Nat := 0
  errDiscarded : Nat := 0
  /-- The manager event area (R588). -/
  mgrEv : Ring := {}
  frontRr : Tbl Nat := []
  deriving DecidableEq, Repr, Inhabited

/-! ## Mailboxes and firmware -/

/-- The long operations (R286). -/
inductive OpKind
  | quiesce (b : Nat) | bayReset (b : Nat) | scrub | resetCompute | resetFull | repoint
  | store | fwActivate | windowRemove (b w : Nat)
  deriving DecidableEq, Repr, Inhabited

/-- An operation slot (R286, R291). -/
structure OpSlot where
  running : Bool := true
  opId : Nat := 1
  code : Nat := 0
  kind : OpKind := .store
  deriving DecidableEq, Repr, Inhabited

/-- A mailbox (R279 to R291). `area` is its 4 KiB message area. -/
structure Mbx where
  ready : Bool := false
  boot : Bool := false
  busy : Bool := false
  done : Bool := false
  opDone : Nat := 0
  ignored : Nat := 0
  ops : Tbl OpSlot := []
  nextOp : Nat := 1
  area : Mem := []
  deriving DecidableEq, Repr, Inhabited

/-- The mailboxes: 0 the manager's, b + 1 bay b's; `order` lists the boxes whose go was accepted, oldest first. -/
structure Boxes where
  all : Tbl Mbx := []
  order : List Nat := []
  deriving DecidableEq, Repr, Inhabited

/-- Firmware SRAM and the control processor (R278, R299 to R301). -/
structure Fw where
  active : Option FwImage := none
  staged : Option FwImage := none
  running : Bool := false
  deriving DecidableEq, Repr, Inhabited

/-- The footing store and its staged record (R302 to R309). Records are 256 bytes. -/
structure Foot where
  record : Mem := []
  journal : Mem := []
  marker : Option Nat := none
  staged : Mem := []
  inForce : Mem := []
  rolled : Bool := false
  defaults : Bool := false
  /-- Times, in µs of RST_TIME, of the STOREs that count under R307. -/
  stores : List Nat := []
  deriving DecidableEq, Repr, Inhabited

/-! ## Security -/

/-- The one-time-programmable identity store (R338, R339). -/
structure Ident where
  uds : Option (BitVec 256) := none
  chain : List Byte := []
  locked : Bool := false
  deriving DecidableEq, Repr, Inhabited

/-- An SPDM session (R342, R347, R348). -/
structure Session where
  finished : Bool := false
  /-- The export_master_secret (R347). -/
  secret : BitVec 384 := 0
  keyGen : Nat := 0
  measured : Bool := false
  deriving DecidableEq, Repr, Inhabited

/-- A measurement log (R345, R346). -/
structure MLog where
  chain : BitVec 384 := 0
  count : Nat := 0
  entries : List (List Byte) := []
  /-- Images already logged in this tenancy, by bay and digest (R346). -/
  seen : List (Nat × BitVec 384) := []
  deriving DecidableEq, Repr, Inhabited

/-- An IDE stream (R352, R376). -/
structure Ide where
  secure : Bool := false
  streamId : Nat := 0
  fail : Nat := 0
  /-- The keys programmed, by key set, sub-stream and direction (`ideSlot`), and the set in force for each. -/
  keys : Tbl Nat := []
  active : Tbl Nat := []
  /-- Whether its keys were programmed with PCRC. -/
  pcrc : Bool := false
  deriving DecidableEq, Repr, Inhabited

/-- The TDI states (R354). -/
inductive TdiState | unlocked | locked | run | error
  deriving DecidableEq, Repr, Inhabited

/-- A TDISP interface (R354, R357, R375). -/
structure Tdi where
  st : TdiState := .unlocked
  stream : Nat := 7
  stopping : Bool := false
  deriving DecidableEq, Repr, Inhabited

/-- The security unit (R335 to R377). -/
structure Sec where
  epoch : Nat := 0
  epochLatch : Nat := 0
  sessions : Tbl Session := []
  version : Bool := false
  algs : Bool := false
  progLog : MLog := {}
  wtLog : MLog := {}
  ide : Tbl Ide := []
  tdi : Tbl Tdi := []
  repointing : Bool := false
  phase : Nat := 0
  linksPending : Nat := 0
  /-- Draws of HBM keys since power-on (R364). -/
  keyGeneration : Nat := 1
  /-- The XTS key pair and K_mac (R362), and whether this power-on's draw has been made (R336, R364). -/
  xtsKey : BitVec 512 := 0
  kMac : BitVec 256 := 0
  drawn : Bool := false
  /-- The alias key firmware holds, and the certificate the boot ROM issued for it (R340). -/
  aliasKey : Option (BitVec 384) := none
  aliasCert : List Byte := []
  deriving DecidableEq, Repr, Inhabited

/-! ## Memory -/

/-- An entry of the window table (R404). -/
structure WinEnt where
  bay : Nat := 0
  base : Nat := 0
  len : Nat := 0
  perm : Nat := 0
  reqId : Nat := 0
  reqMask : Nat := 0
  enabled : Bool := false
  frozen : Bool := false
  /-- What froze it (R480): offset in the window, source endpoint. -/
  viol : Nat × Nat := (0, 0)
  /-- Being enabled: its extents are moving into HBM (R405). -/
  opening : Bool := false
  deriving DecidableEq, Repr, Inhabited

/-- The memory system (R362 to R364, R378 to R408). -/
structure MemSys where
  /-- Plaintext bytes by physical address. -/
  hbm : Mem := []
  /-- Bytes of window-homed extents at ((16 bay + window) × 2^44 + offset). -/
  win : Mem := []
  /-- Poisoned 512-byte blocks with their class (R460, R462). -/
  poison : Tbl Nat := []
  /-- Pages of the shares that hold a valid bit, in valid-bit mode (R384). -/
  valid : List Nat := []
  withheld : List Nat := []
  fillDone : Bool := false
  bitmap : Bool := false
  fillMs : Nat := 0
  apBase : Nat := 0
  faults : Nat := 0
  denied : Nat := 0
  wins : Tbl WinEnt := []
  winAttr : Nat := 0
  winBase : Nat := 0
  winLen : Nat := 0
  winIndex : Nat := 0
  winBusy : Bool := false
  winStatus : Nat := 0
  /-- Inbound requests accepted through an entry being disabled and not yet answered. -/
  winDrain : Option Nat := none
  moved : Nat := 0
  abandoned : Nat := 0
  /-- The lift whose epoch boundary was served last (R201), so that one boundary is served once. -/
  epochAt : Option Nat := none
  conflRaised : Nat := 0
  slabRebuilt : Nat := 0
  streamsLost : Nat := 0
  cacheMiss : Nat := 0
  cacheWb : Nat := 0
  deriving DecidableEq, Repr, Inhabited

/-! ## Kewick and the arch unit -/

/-- The port states of R449. -/
inductive PortState | disabled | training | keying | up | retrying | mismatch
  deriving DecidableEq, Repr, Inhabited

/-- The link key states of R374. -/
inductive KeyState | none | keyed | rekeying | failed
  deriving DecidableEq, Repr, Inhabited

/-- A frame staged at a port: whose traffic it is (16: no bay's) and its flow, with the flow's weight (R419, R420). -/
structure Staged where
  frame : Frame
  bay : Nat := 16
  flow : Nat := 0
  weight : Nat := 1
  /-- The buffers it takes (R419): the bay whose quota they come from, or 16 for its port's reserved ones, and how many. -/
  bufs : List (Nat × Nat) := []
  deriving DecidableEq, Repr, Inhabited

/-- A Kewick port and its link (R409 to R418, R359 to R361, R374, R449). -/
structure Port where
  st : PortState := .disabled
  rev : Nat := 0
  retrains : Nat := 0
  naks : Nat := 0
  key : KeyState := .none
  rekeys : Nat := 0
  tagFail : Nat := 0
  peer : BitVec 384 := 0
  sTx : Nat := 0
  sRx : Nat := 0
  sK : Nat := 0
  sKRx : Nat := 0
  /-- The keys in force, to the peer and from it (R359). -/
  txKey : BitVec 256 := 0
  rxKey : BitVec 256 := 0
  /-- The exchange under way (R360): the own ephemeral key, the own and the peer's first message, the boundary this end proposed. -/
  eph : BitVec 384 := 0
  hello : List Byte := []
  peerHello : List Byte := []
  cut : Nat := 0
  /-- New keys that take effect at a link sequence number (R361). -/
  nextTx : Option (Nat × BitVec 256) := none
  nextRx : Option (Nat × BitVec 256) := none
  replay : List (Nat × Frame) := []
  resends : Nat := 0
  credReq : Nat := 0
  credRsp : Nat := 0
  credSpr : Nat := 0
  outq : List Staged := []
  /-- By channel, the bay served last; by channel and bay, the flow in turn and the frames it may still send (R420). -/
  turns : Tbl Nat := []
  flows : Tbl (Nat × Nat) := []
  /-- By channel, the frame slots it has waited (R418). -/
  waits : Tbl Nat := []
  deriving DecidableEq, Repr, Inhabited

/-- What is left of a read or a write of the block's own at the fabric (R423): the place it goes on at, and for a write its bytes, or where
they are copied from: a backing window's (true) or HBM. -/
structure OwnJob where
  bay : Nat
  wr : Bool
  dst : Nat
  addr : Nat
  left : Nat
  data : List Byte := []
  src : Option (Bool × Nat) := none
  deriving DecidableEq, Repr, Inhabited

/-- The Kewick side of the block (R409 to R428, R448 to R450). -/
structure Kw where
  epValid : Bool := false
  ep : Nat := 0
  dom : Nat := 0
  ports : Tbl Port := []
  stale : Nat := 0
  timeout : Nat := 0
  mark : Nat := 0
  /-- RST_TIME at the last change of the mark (R428); none since power-on. -/
  markAt : Option Nat := none
  txns : Tbl Txn := []
  /-- Tags freed by timeout and the RST_TIME at which each was (R427). -/
  cooling : Tbl Nat := []
  /-- The block's own reads and writes that wait for tags (R422, R423), oldest first. -/
  own : List OwnJob := []
  /-- READ requests to be issued again that wait for a tag (R427), oldest first. -/
  again : List Txn := []
  /-- Frames that wait for packet buffers, by port, oldest first (R419). -/
  waiting : List (Nat × Staged) := []
  deriving DecidableEq, Repr, Inhabited

/-- An entry of the group table (R429, R430). -/
structure Group where
  gid : Nat
  bay : Nat
  members : Nat
  rank : Nat
  eps : List Nat := []
  weight : Nat := 1
  treeValid : Bool := false
  tree : Nat := 0
  nextSeq : Nat := 1
  early : List (Nat × ChildHs) := []
  abandoned : List (Nat × Nat) := []
  owedHs : List Nat := []
  /-- Sequence numbers, modulo 16, whose verdict MISMATCH came before this member's own COL_HS (R438, R439). -/
  verdicts : List Nat := []
  deriving DecidableEq, Repr, Inhabited

/-- The arch unit (R429 to R447, R451, R452). -/
structure Arch where
  groups : Tbl Group := []
  index : Nat := 0
  status : Nat := 0
  gid : Nat := 0
  attr : Nat := 0
  tree : Nat := 0
  mbrIdx : Nat := 0
  staging : Tbl Nat := []
  mismatch : Nat := 0
  lost : Nat := 0
  exhausted : Nat := 0
  overBound : Nat := 0
  retries : Nat := 0
  /-- Abandons owed when shoring lifts (R445): group index, sequence number. -/
  owed : List (Nat × Nat) := []
  deriving DecidableEq, Repr, Inhabited

/-! ## Errors, hangs, resets -/

/-- A SCRUB_RANGE pass (R471 to R474). -/
structure Scrub where
  start : Nat
  len : Nat
  summaryVa : Nat
  spad : Bool := false
  slot : Nat := 0
  deriving DecidableEq, Repr, Inhabited

/-- Detection, correction and scrubbing (R453 to R479). -/
structure Ras where
  log : Ring := {}
  det : Tbl Nat := []
  ceTotal : Tbl Nat := []
  ceLevel : Tbl Nat := []
  transient : Nat := 0
  recovered : Nat := 0
  failed : Nat := 0
  pass : Option Scrub := none
  required : Option Nat := none
  reqHandle : Nat := 0
  conflict : Bool := false
  rate : Nat := 0
  lapMs : Tbl Nat := []
  laps : Tbl Nat := []
  overdue : List Nat := []
  deriving DecidableEq, Repr, Inhabited

/-- The plumb detector (R484 to R490, R514). -/
structure Plumb where
  quietLifts : Nat := 64
  declared : Nat := 0
  device : Nat := 0
  log : Ring := {}
  deriving DecidableEq, Repr, Inhabited

/-- A reset (R493, R496, R501): its trigger, RST_TIME and the lift at the trigger, and what came of its dump. -/
structure ResetNow where
  full : Bool
  trigger : Nat
  time : Nat := 0
  lift : Nat := 0
  counted : Bool := false
  dumpWritten : Bool := false
  dumpSkipped : Bool := false
  dumpFailed : Bool := false
  deriving DecidableEq, Repr, Inhabited

/-- An engine reset in progress (R494): RST_TIME and the lift at its trigger. -/
structure EngReset where
  engine : Engine
  time : Nat := 0
  lift : Nat := 0
  deriving DecidableEq, Repr, Inhabited

/-- Resets and escalation (R492 to R507, R515 to R517). -/
structure Rst where
  now : Option ResetNow := none
  /-- A reset whose trigger has come and which has not begun. -/
  want : Option ResetNow := none
  /-- A compute-part trigger that waits for the end of repointing (R500). -/
  after : Option Nat := none
  /-- Ashlars a hard fault named, to be tested in the reset that follows (R467). -/
  named : List Nat := []
  shored : Bool := false
  engines : List EngReset := []
  ctlFull : Bool := false
  ctlCompute : Bool := false
  oos : Bool := false
  time : Nat := 0
  timeLatch : Nat := 0
  log : Ring := {}
  histC : List Nat := []
  histF : List Nat := []
  deriving DecidableEq, Repr, Inhabited

/-- A unit record of the dump (R511): the unit's number, its status, and its data as a length and the bytes that are not 0. -/
structure DumpUnit where
  unit : Nat
  status : Nat := 0
  len : Nat := 0
  data : Mem := []
  deriving DecidableEq, Repr, Inhabited

/-- A section of the dump (R511, R512). -/
structure DumpSec where
  type : Nat
  units : List DumpUnit := []
  deriving DecidableEq, Repr, Inhabited

/-- The header fields of a dump (R511) that its sections do not give. -/
structure DumpHead where
  format : Nat := 0
  domain : Nat := 0
  trigger : Nat := 0
  collector : Nat := 0
  lift : Nat := 0
  time : Nat := 0
  mark : Nat := 0
  fwVersion : Nat := 0
  resetSeq : Nat := 0
  deriving DecidableEq, Repr, Inhabited

/-- The rubble dump (R508 to R513, R518). -/
structure Dump where
  present : Bool := false
  writing : Bool := false
  failed : Bool := false
  skipped : Nat := 0
  poisoned : Nat := 0
  head : DumpHead := {}
  secs : List DumpSec := []
  deriving DecidableEq, Repr, Inhabited

/-! ## Interrupts -/

/-- An external line (R529, R538). -/
structure Ext where
  raw : Bool := false
  filtered : Bool := false
  polarity : Bool := false
  level : Bool := false
  filter : Nat := 4
  deriving DecidableEq, Repr, Inhabited

/-- A function's MSI-X state (R525, R526, R585): enable, Function Mask, the vectors whose Mask bit is 0 (every Mask bit is 1 at
reset, as the PCIe specification has it, log entry 18), the Pending Bit Array, and the bytes of the table besides the Mask bits. -/
structure Msix where
  enable : Bool := false
  fmask : Bool := false
  unmasked : List Nat := []
  pba : List Nat := []
  table : Mem := []
  deriving DecidableEq, Repr, Inhabited

/-- The interrupt controller (R519 to R538). Priorities and targets list only what differs from reset. -/
structure Irq where
  lock : Bool := false
  bpoint : Nat := 3
  prio : Tbl Nat := []
  dest : Tbl Nat := []
  vec : Tbl Nat := []
  en : List Nat := []
  pend : List Nat := []
  act : List Nat := []
  /-- Handlers running on a core, innermost first. -/
  cores : Tbl (List Nat) := []
  /-- Owed-vector map by bay, as the list of its set bits (R524). -/
  owed : Tbl (List Nat) := []
  hold : Tbl Nat := []
  timer : Tbl Nat := []
  ext : Tbl Ext := []
  msix : Tbl Msix := []
  deriving DecidableEq, Repr, Inhabited

/-! ## Power, quoin ports, start-up -/

/-- The power manager and the clock request (R563 to R568, R577 to R579). -/
structure Pwr where
  pmbFail : Bool := false
  fails : Nat := 0
  oks : Nat := 0
  pin : Nat := 0
  vin : Nat := 0
  pinMax : Nat := 0
  vinMin : Nat := 0
  /-- READ_PIN of the last ten polls (10 ms), newest first. -/
  window : List Nat := []
  cap : Nat := 0
  capHandle : Nat := 0
  floor : Nat := 0
  floorHandle : Nat := 0
  /-- The manager's next handle, for every kind of constraint (R293). -/
  nextHandle : Nat := 1
  capConflict : Bool := false
  floorConflict : Bool := false
  dieC : Nat := 0
  sensor : Nat := 0
  stackC : Nat := 0
  throttle : Option ThrottleCause := none
  trip : Bool := false
  limit : Nat := 0
  allow : Nat := 0
  req : Nat := 0
  ack : Bool := false
  /-- vdd_ash in 10 mV and the higher clock waiting for it (R565). -/
  volt : Nat := 0
  wantClk : Option Nat := none
  /-- The clock the READY commands ask for, 0 where none does (R112). -/
  ask : Nat := 0
  deriving DecidableEq, Repr, Inhabited

/-- A write request of an engine whose data is still arriving (R557). -/
structure QWrite where
  va : Nat
  left : Nat
  deriving DecidableEq, Repr, Inhabited

/-- A quoin port (R557 to R561). -/
structure QPort where
  ready : Bool := false
  words : List W64 := []
  registered : Bool := false
  identity : List Byte := []
  mhz : Nat := 0
  heldReset : Bool := false
  cid : Option Nat := none
  killed : Option Nat := none
  /-- The command whose done word came last. -/
  doneOf : Option Nat := none
  scrub : Bool := false
  /-- Write requests whose data has not all come, oldest first. -/
  writes : List QWrite := []
  stat : List W64 := []
  frozenBays : List Nat := []
  frozenStreams : List (Nat × Nat) := []
  deriving DecidableEq, Repr, Inhabited

/-- Start-up (R571 to R574, R578) and the host link (R553). -/
structure Startup where
  powered : Bool := true
  phase : Nat := 1
  fail : Nat := 0
  ready : Bool := false
  perst : Bool := false
  /-- The physical function is in D3hot (R551). -/
  d3 : Bool := false
  deriving DecidableEq, Repr, Inhabited

/-! ## What the block drives at its ports -/

/-- One thing the block did at a port. -/
inductive Out
  | msix (fn vec : Nat) (t : Option Nat := none)
  /-- A write to host memory: the function, the I/O virtual address, the T bit's stream, and the translated address where the request carries
  the translated address type (R392, R393). -/
  | hostWrite (fn iova : Nat) (data : List Byte) (t : Option Nat := none) (xl : Option Nat := none)
  /-- A read of host memory, with the same. -/
  | hostRead (fn iova len : Nat) (t : Option Nat := none) (xl : Option Nat := none)
  | frame (p : Nat) (f : Frame)
  | reply (data : List Byte) (poisoned : Bool)
  | unsupportedRequest
  | spdm (code : Nat) (data : List Byte)
  | spdmError (code : Nat)
  | spdmNotReady (rdtExponent rdtm : Nat)
  | tdisp (code : Nat) (data : List Byte)
  | kp (status : Nat) (data : List Byte)
  | pageRequest (fn page idx perm : Nat) (t : Option Nat := none)
  | atsInvalidated (fn page : Nat) (t : Option Nat := none)
  | translationRequest (fn page : Nat) (t : Option Nat := none)
  | quoinCmd (p : Nat) (beats : List (List Byte))
  | quoinKill (p : Nat)
  | quoinReset (p : Nat) (assert : Bool)
  | quoinScrub (p : Nat)
  | quoinRdata (p stream status : Nat) (data : List Byte)
  | clkReq (mhz : Nat)
  | clkSwitch
  | avsWrite (mv : Nat)
  | thermtrip (on : Bool)
  | phyAck (p : Nat)
  | serdesReset (p : Nat) (on : Bool)
  | handler (core src : Nat)
  deriving DecidableEq, Repr, Inhabited

/-- What the block has driven, newest first, and the counters the free values and random draws are taken from (the
model's own fields, log entries 2 and 4). -/
structure Outs where
  log : List Out := []
  free : Nat := 0
  random : Nat := 0
  deriving DecidableEq, Repr, Inhabited

/-- The state: the groups, and the queue of the commands that wait, first in first out. -/
structure State where
  hw : Hw := {}
  ident : Ident := {}
  foot : Foot := {}
  fw : Fw := {}
  boxes : Boxes := {}
  lift : Lift := {}
  stat : Stat := {}
  grid : Grid := {}
  cmds : Cmds := {}
  bays : Bays := {}
  dev : Dev := {}
  mem : MemSys := {}
  sec : Sec := {}
  kw : Kw := {}
  arch : Arch := {}
  ras : Ras := {}
  plumb : Plumb := {}
  rst : Rst := {}
  dump : Dump := {}
  irq : Irq := {}
  pwr : Pwr := {}
  quoin : Tbl QPort := []
  start : Startup := {}
  out : Outs := {}
  pending : List Instr := []
  deriving DecidableEq, Repr, Inhabited

/-- The factory record of the footing store (R303), the entries of the ports of configuration F included; listed as
(offset, byte), zero bytes unlisted, its CRC-32 last. -/
def factoryRecord : Mem :=
  [(0x00, 0x46), (0x01, 0x54), (0x02, 0x47), (0x03, 0x31), (0x04, 1), (0x10, 100), (0x12, 1), (0x18, 2),
   (0x28, 4), (0x29, 3), (0x2A, 24), (0x2C, 30),
   (0x38, 16), (0x3A, 0x10), (0x3B, 0x0E), (0x3C, 16), (0x3E, 0x10), (0x3F, 0x0E),
   (0x40, 16), (0x42, 0x10), (0x43, 0x0E), (0x44, 16), (0x46, 0x10), (0x47, 0x0E)] ++
  [(0x48, 16), (0x4A, 0x10), (0x4B, 0x0E), (0x4C, 16), (0x4E, 0x10), (0x4F, 0x0E),
   (0x50, 16), (0x52, 0x10), (0x53, 0x0E)] ++
  [(0x78, 1), (0x79, 3), (0x7A, 5), (0x7C, 1), (0x7D, 3), (0x7E, 5), (0x80, 1), (0x81, 3), (0x82, 5),
   (0x84, 1), (0x85, 3), (0x86, 5), (0x88, 1), (0x89, 3), (0x8A, 5), (0x8C, 1), (0x8D, 3), (0x8E, 5)] ++
  [(0x90, 1), (0x91, 3), (0x92, 5), (0x94, 1), (0x95, 3), (0x96, 5), (0x98, 1), (0x99, 3), (0x9A, 5),
   (0x9C, 1), (0x9D, 3), (0x9E, 5), (0xA0, 1), (0xA1, 3), (0xA2, 5), (0xA4, 1), (0xA5, 3), (0xA6, 5)] ++
  [(0xA8, 1), (0xA9, 3), (0xAA, 5), (0xAC, 1), (0xAD, 3), (0xAE, 5), (0xB0, 1), (0xB1, 3), (0xB2, 5),
   (0xB4, 1), (0xB5, 3), (0xB6, 5)] ++
  [(0xFC, 0xCE), (0xFD, 0xA0), (0xFE, 0xE7), (0xFF, 0xCA)]

/-- The machine right after reset release (R571), before the first step of start-up ends: every register at the value
its field map gives, memory with nothing listed, no command in flight. The footing store holds the factory record. -/
def State.reset : State :=
  { foot := { record := factoryRecord, staged := factoryRecord, inForce := factoryRecord }
    boxes := { all := [(0, { boot := true })] } }

end Sys2Proof.Machine
end

