-- ==== Sys2Proof/Machine/Ops.lean ====
section
/-! DEFINITION. The named operations every meaning is written with: sparse tables and byte memories, the frame of a
step (`keep`, `run`), outputs, free values, the accessors of the groups, and the figures of the configuration (R8). -/
namespace Sys2Proof.Machine

/-! ## Tables by number and byte memories -/

/-- The value listed under `k`. -/
def tget {α : Type} (k : Nat) : Tbl α → Option α
  | [] => none
  | (j, v) :: t => if j = k then some v else tget k t

/-- The value listed under `k`, or `d`. -/
def tgetD {α : Type} (k : Nat) (t : Tbl α) (d : α) : α := (tget k t).getD d

/-- The table with `v` under `k`, keys kept rising. -/
def tput {α : Type} (k : Nat) (v : α) : Tbl α → Tbl α
  | [] => [(k, v)]
  | (j, w) :: t =>
    if j < k then (j, w) :: tput k v t
    else if j = k then (k, v) :: t
    else (k, v) :: (j, w) :: t

/-- The table without an entry under `k`. -/
def tdrop {α : Type} (k : Nat) : Tbl α → Tbl α
  | [] => []
  | (j, w) :: t => if j = k then tdrop k t else (j, w) :: tdrop k t

/-- The table with the entry under `k` (or `d` where there is none) changed by `f`. -/
def tmod {α : Type} (k : Nat) (d : α) (f : α → α) (t : Tbl α) : Tbl α := tput k (f (tgetD k t d)) t

/-- The keys of a table. -/
def tkeys {α : Type} (t : Tbl α) : List Nat := t.map Prod.fst

/-- Every value of a table changed by `f`. -/
def tmap {α β : Type} (f : Nat → α → β) (t : Tbl α) : Tbl β := t.map fun p => (p.1, f p.1 p.2)

/-- The first entry whose key and value satisfy `p`. -/
def tfind {α : Type} (p : Nat → α → Bool) (t : Tbl α) : Option (Nat × α) := t.find? fun e => p e.1 e.2

/-- The byte at `a` of a memory: an unlisted address reads 0. -/
def mget (m : Mem) (a : Nat) : Byte := tgetD a m 0

/-- The memory with byte `b` at `a`; a zero byte is not listed. -/
def mput (a : Nat) (b : Byte) (m : Mem) : Mem := if b = 0 then tdrop a m else tput a b m

/-- The memory with a run of bytes from `a`. -/
def mputs (a : Nat) : List Byte → Mem → Mem
  | [], m => m
  | b :: bs, m => mputs (a + 1) bs (mput a b m)

/-- The `n` bytes from `a`. -/
def mread (m : Mem) (a : Nat) : Nat → List Byte
  | 0 => []
  | n + 1 => mget m a :: mread m (a + 1) n

/-- The memory with every byte of `[a, a + n)` zero. -/
def mzero (a n : Nat) (m : Mem) : Mem := m.filter fun e => !(a ≤ e.1 && e.1 < a + n)

/-- The cells of `[a, a + n)`, moved to start at `b`. -/
def mslice (m : Mem) (a n b : Nat) : Mem :=
  (m.filter fun e => a ≤ e.1 && e.1 < a + n).map fun e => (e.1 - a + b, e.2)

/-- The memory with the run `[a, a + n)` replaced by the cells `src` (already at their addresses). -/
def mpaste (a n : Nat) (src : Mem) (m : Mem) : Mem :=
  (src.filter fun e => a ≤ e.1 && e.1 < a + n).foldl (fun m e => mput e.1 e.2 m) (mzero a n m)

/-- The canonical form of a byte memory: addresses strictly rising and no listed byte zero. -/
def Memory.wf : Mem → Bool
  | [] => true
  | [(_, b)] => b != 0
  | (a, b) :: (c, d) :: t => b != 0 && decide (a < c) && Memory.wf ((c, d) :: t)

/-- The little-endian number of a byte string (R73, R233, R281). -/
def leNat : List Byte → Nat
  | [] => 0
  | b :: bs => b.toNat + 256 * leNat bs

/-- The `n` little-endian bytes of a number. -/
def natLe : Nat → Nat → List Byte
  | 0, _ => []
  | n + 1, x => BitVec.ofNat 8 x :: natLe n (x / 256)

/-- The field of `n` bytes at offset `o` of a byte string. -/
def fld (bs : List Byte) (o n : Nat) : Nat := leNat ((bs.drop o).take n)

/-- The first `n` bytes of a string, zero filled. -/
def padTo (n : Nat) (bs : List Byte) : List Byte := (bs ++ List.replicate (n - bs.length) 0).take n

/-- Whether every byte is zero. -/
def allZero (bs : List Byte) : Bool := bs.all (· == 0)

/-- Bits `[hi:lo]` of a number. -/
def bits (x hi lo : Nat) : Nat := x / 2 ^ lo % 2 ^ (hi + 1 - lo)

/-- Bit `i` of a number. -/
def bit (x i : Nat) : Bool := x / 2 ^ i % 2 == 1

/-- A flag as a number. -/
def b2n (b : Bool) : Nat := if b then 1 else 0

/-- A sum that stops at a maximum. -/
def satAdd (max x n : Nat) : Nat := min max (x + n)

/-- `x` divided by `y`, rounded up. -/
def ceilDiv (x y : Nat) : Nat := (x + y - 1) / y

/-- The pieces of `[va, va + n)` within pages of 4 KiB, at most `k` of them. -/
def pieces : Nat → Nat → Nat → List (Nat × Nat)
  | 0, _, _ => []
  | k + 1, va, n =>
    if n = 0 then []
    else
      let m := min n (4096 - va % 4096)
      (va, m) :: pieces k (va + m) (n - m)

/-- The page pieces of a byte range, in ascending order. -/
def pagesOf (va n : Nat) : List (Nat × Nat) := pieces (n / 4096 + 2) va n

/-- Whether two byte ranges meet. -/
def overlaps (a n b m : Nat) : Bool := decide (0 < n) && decide (0 < m) && decide (a < b + m) && decide (b < a + n)

/-- Whether `[b, b + m)` lies within `[a, a + n)`. -/
def within (a n b m : Nat) : Bool := decide (a ≤ b) && decide (b + m ≤ a + n)

/-- The list without repeats, first occurrences kept. -/
def dedup : List Nat → List Nat
  | [] => []
  | x :: xs => x :: (dedup xs).filter (· != x)

/-- The first element, and the rest changed no further, of a list searched by `p`. -/
def modFirst {α : Type} (p : α → Bool) (f : α → α) : List α → List α
  | [] => []
  | x :: xs => if p x then f x :: xs else x :: modFirst p f xs

/-- The list without its first element that satisfies `p`. -/
def dropFirst {α : Type} (p : α → Bool) : List α → List α
  | [] => []
  | x :: xs => if p x then xs else x :: dropFirst p xs

/-! ## The frame of a step -/

/-- The groups of the state a command may change. The hardened figures and the queue belong to none. -/
inductive Grp
  | ident | foot | fw | boxes | lift | stat | grid | cmds | bays | dev | mem | sec | kw | arch | ras | plumb | rst
  | dump | irq | pwr | quoin | start | out
  deriving DecidableEq, Repr, Inhabited

/-- The state `t`, every group outside the footprint as in `s`; the hardened figures and the queue always as in `s`. -/
def keep (fp : List Grp) (s t : State) : State :=
  { hw := s.hw
    ident := if .ident ∈ fp then t.ident else s.ident
    foot := if .foot ∈ fp then t.foot else s.foot
    fw := if .fw ∈ fp then t.fw else s.fw
    boxes := if .boxes ∈ fp then t.boxes else s.boxes
    lift := if .lift ∈ fp then t.lift else s.lift
    stat := if .stat ∈ fp then t.stat else s.stat
    grid := if .grid ∈ fp then t.grid else s.grid
    cmds := if .cmds ∈ fp then t.cmds else s.cmds
    bays := if .bays ∈ fp then t.bays else s.bays
    dev := if .dev ∈ fp then t.dev else s.dev
    mem := if .mem ∈ fp then t.mem else s.mem
    sec := if .sec ∈ fp then t.sec else s.sec
    kw := if .kw ∈ fp then t.kw else s.kw
    arch := if .arch ∈ fp then t.arch else s.arch
    ras := if .ras ∈ fp then t.ras else s.ras
    plumb := if .plumb ∈ fp then t.plumb else s.plumb
    rst := if .rst ∈ fp then t.rst else s.rst
    dump := if .dump ∈ fp then t.dump else s.dump
    irq := if .irq ∈ fp then t.irq else s.irq
    pwr := if .pwr ∈ fp then t.pwr else s.pwr
    quoin := if .quoin ∈ fp then t.quoin else s.quoin
    start := if .start ∈ fp then t.start else s.start
    out := if .out ∈ fp then t.out else s.out
    pending := s.pending }

/-- Every group but the identity store, which only key provisioning writes (R339). -/
def fpAll : List Grp :=
  [.foot, .fw, .boxes, .lift, .stat, .grid, .cmds, .bays, .dev, .mem, .sec, .kw, .arch, .ras, .plumb, .rst, .dump,
   .irq, .pwr, .quoin, .start, .out]

/-- What a command in flight can reach when it runs, is killed, violates, completes or commits. -/
def fpWork : List Grp :=
  [.lift, .stat, .grid, .cmds, .bays, .dev, .mem, .sec, .kw, .arch, .ras, .plumb, .rst, .irq, .quoin, .out]

/-- The outcome of an effect limited to the footprint `fp`: while the block has no power or is held in power-on reset, nothing acts
on it (R569, R571). -/
def run (fp : List Grp) (f : State → State) (s : State) : Host.Outcome State Fault Refusal :=
  .next (if s.start.powered then keep fp s (f s) else s)

/-- A unit beyond the configuration does not exist (R8): the command names no part of this block. -/
def onUnit (ok : Bool) (what : String) (o : Host.Outcome State Fault Refusal) : Host.Outcome State Fault Refusal :=
  if ok then o else .fault (.absentUnit what)

/-! ## The figures of the configuration (R8, R20, R378) -/

/-- Whether the block is hardened as configuration F. -/
def isF (s : State) : Bool := s.hw.config == .F

/-- The number of courses. -/
def courses (s : State) : Nat := if isF s then 32 else 16
/-- The number of ashlars. -/
def ashlars (s : State) : Nat := 32 * courses s
/-- The most bays (R8). -/
def maxBays (s : State) : Nat := if isF s then 16 else 8
/-- The Kewick ports. -/
def kwPorts (s : State) : Nat := if isF s then 16 else 8
/-- The memory ports. -/
def hbmPorts (s : State) : Nat := if isF s then 8 else 4
/-- The quoin ports. -/
def quoinPorts (s : State) : Nat := if isF s then 4 else 2
/-- The hardware fronts. -/
def fronts (s : State) : Nat := if isF s then 64 else 32
/-- The queues of the block. -/
def deviceQueues (s : State) : Nat := if isF s then 1024 else 512
/-- The entries of the stream table. -/
def streamEntries (s : State) : Nat := if isF s then 1048576 else 524288
/-- The entries of the slab map. -/
def slabEntries (s : State) : Nat := if isF s then 4194304 else 2097152

/-! ## Outputs and free values -/

/-- The state with an output logged at a port. -/
def emit (o : Out) (s : State) : State := { s with out := { s.out with log := o :: s.out.log } }

/-- The next free value (log entry 2). -/
def freeVal (s : State) : BitVec 64 := Config.free s.out.free

/-- The state with one free value drawn. -/
def drewFree (s : State) : State := { s with out := { s.out with free := s.out.free + 1 } }

/-- The next draw of the random source (R337). -/
def randVal (s : State) : BitVec 256 := Config.random s.out.random

/-- The state with one random draw taken. -/
def drewRandom (s : State) : State := { s with out := { s.out with random := s.out.random + 1 } }

/-! ## Group accessors -/

/-- Ashlar `a`. -/
def ash (s : State) (a : Nat) : Ashlar := tgetD a s.grid.ashlars {}
/-- Ashlar `a` changed by `f`. -/
def modAsh (a : Nat) (f : Ashlar → Ashlar) (s : State) : State :=
  { s with grid := { s.grid with ashlars := tmod a {} f s.grid.ashlars } }

/-- Command `c`, if it is in flight. -/
def cmd? (s : State) (c : Nat) : Option Cmd := tget c s.cmds.all
/-- Command `c`. -/
def cmdD (s : State) (c : Nat) : Cmd := (cmd? s c).getD { cid := c, bay := 0, queue := 0 }
/-- Command `c` changed by `f`; a number no command carries changes nothing. -/
def modCmd (c : Nat) (f : Cmd → Cmd) (s : State) : State :=
  match cmd? s c with
  | none => s
  | some x => { s with cmds := { s.cmds with all := tput c (f x) s.cmds.all } }
/-- Command `c` removed. -/
def dropCmd (c : Nat) (s : State) : State := { s with cmds := { s.cmds with all := tdrop c s.cmds.all } }

/-- Bay `b`. -/
def bay (s : State) (b : Nat) : Bay := tgetD b s.bays.all {}
/-- Bay `b` changed by `f`. -/
def modBay (b : Nat) (f : Bay → Bay) (s : State) : State :=
  { s with bays := { s.bays with all := tmod b {} f s.bays.all } }
/-- The EQI side of bay `b` changed by `f`. -/
def modEqi (b : Nat) (f : BayEqi → BayEqi) : State → State := modBay b fun y => { y with eqi := f y.eqi }
/-- The memory side of bay `b` changed by `f`. -/
def modBm (b : Nat) (f : BayMem → BayMem) : State → State := modBay b fun y => { y with mem := f y.mem }
/-- The stream side of bay `b` changed by `f`. -/
def modSt (b : Nat) (f : BayStream → BayStream) : State → State := modBay b fun y => { y with strm := f y.strm }
/-- Queue `q` of bay `b`, if it exists. -/
def queue? (s : State) (b q : Nat) : Option Queue := tget q (bay s b).eqi.queues
/-- Queue `q` of bay `b` changed by `f`; a queue that does not exist stays absent. -/
def modQueue (b q : Nat) (f : Queue → Queue) (s : State) : State :=
  match queue? s b q with
  | none => s
  | some x => modEqi b (fun e => { e with queues := tput q (f x) e.queues }) s
/-- Stream `k` of bay `b`. -/
def stream (s : State) (b k : Nat) : Stream := tgetD k (bay s b).strm.streams {}
/-- The code of a stream state (R158). -/
def stateCode : StreamState → Nat
  | .free => 0 | .idle => 1 | .ready => 2 | .stepping => 3 | .filling => 4 | .regen => 5 | .lost => 8
/-- The 64 bytes of a descriptor (R157). -/
def streamBytes (k : Stream) : List Byte :=
  natLe 2 k.modelId ++ natLe 2 k.buttressId ++ natLe 1 (stateCode k.state) ++
    natLe 1 (b2n k.buttressActive + 2 * b2n k.hold + 4 * b2n k.regen + 8 * b2n k.spilled) ++ natLe 2 k.deadline ++
    natLe 4 k.position ++ natLe 4 k.limit ++ natLe 4 k.mLen ++ natLe 4 k.bLen ++ natLe 4 k.root ++ natLe 4 k.tail ++
    natLe 4 k.bRoot ++ natLe 4 k.bTail ++ natLe 3 k.quota ++ natLe 3 k.hbmSlabs ++ natLe 2 (min 0xFFFF k.poisoned) ++
    natLe 8 k.logVa ++ natLe 4 k.lastCommit ++ natLe 2 k.misses ++ natLe 2 k.pending
/-- Stream `k` of bay `b` changed by `f`; a cached descriptor whose bytes change is marked modified (R156). -/
def modStream (b k : Nat) (f : Stream → Stream) : State → State :=
  modSt b fun y => { y with
    streams := tmod k {} f y.streams
    cache := y.cache.map fun e =>
      (e.1, e.2 || (e.1 == k && streamBytes (f (tgetD k y.streams {})) != streamBytes (tgetD k y.streams {}))) }
/-- Slab-map entry `k` of bay `b`. -/
def slab (s : State) (b k : Nat) : Slab := tgetD k (bay s b).strm.slabs {}
/-- Slab-map entry `k` of bay `b` changed by `f`. -/
def modSlab (b k : Nat) (f : Slab → Slab) : State → State :=
  modSt b fun y => { y with slabs := tmod k {} f y.slabs }
/-- The 16 bytes of a slab-map entry (R166). -/
def slabBytesOf (e : Slab) : List Byte :=
  let loc : Nat := match e.loc with
    | .free => 0 | .valid => 1 | .poisoned => 2
  natLe 16 (e.vaPage * 2 ^ 12 + (if e.spill then e.spillNo else 0) * 2 ^ 56 + (if e.last then 0 else e.nextRow) * 2 ^ 70 +
    e.stream * 2 ^ 92 + e.cause * 2 ^ 112 + e.fill * 2 ^ 114 + b2n e.last * 2 ^ 123 + b2n e.buttress * 2 ^ 124 +
    b2n e.spill * 2 ^ 125 + loc * 2 ^ 126)
/-- Extent `e` of bay `b`, if it is placed. -/
def extent? (s : State) (b e : Nat) : Option Extent := tget e (bay s b).mem.extents
/-- Extent `e` of bay `b` changed by `f`; an extent that is not placed stays so. -/
def modExtent (b e : Nat) (f : Extent → Extent) (s : State) : State :=
  match extent? s b e with
  | none => s
  | some x => modBm b (fun m => { m with extents := tput e (f x) m.extents }) s

/-- Port `p` of the Kewick ports. -/
def kport (s : State) (p : Nat) : Port := tgetD p s.kw.ports {}
/-- Kewick port `p` changed by `f`. -/
def modKw (p : Nat) (f : Port → Port) (s : State) : State :=
  { s with kw := { s.kw with ports := tmod p {} f s.kw.ports } }
/-- Quoin port `p`. -/
def qport (s : State) (p : Nat) : QPort := tgetD p s.quoin {}
/-- Quoin port `p` changed by `f`. -/
def modQp (p : Nat) (f : QPort → QPort) (s : State) : State := { s with quoin := tmod p {} f s.quoin }
/-- Mailbox `x`: 0 the manager's, b + 1 bay b's. -/
def mbx (s : State) (x : Nat) : Mbx := tgetD x s.boxes.all {}
/-- Mailbox `x` changed by `f`. -/
def modMbx (x : Nat) (f : Mbx → Mbx) (s : State) : State :=
  { s with boxes := { s.boxes with all := tmod x {} f s.boxes.all } }
/-- Interface `b` of TDISP (R354). -/
def tdi (s : State) (b : Nat) : Tdi := tgetD b s.sec.tdi {}
/-- Interface `b` changed by `f`. -/
def modTdi (b : Nat) (f : Tdi → Tdi) (s : State) : State :=
  { s with sec := { s.sec with tdi := tmod b {} f s.sec.tdi } }
/-- IDE stream `k`. -/
def ide (s : State) (k : Nat) : Ide := tgetD k s.sec.ide {}
/-- IDE stream `k` changed by `f`. -/
def modIde (k : Nat) (f : Ide → Ide) (s : State) : State :=
  { s with sec := { s.sec with ide := tmod k {} f s.sec.ide } }

/-- The commands of bay `b`. -/
def bayCmds (s : State) (b : Nat) : List Cmd := (s.cmds.all.map Prod.snd).filter (·.bay == b)

/-- An effect for each element of a list, in order. -/
def each {α : Type} (xs : List α) (f : α → State → State) (s : State) : State := xs.foldl (fun t x => f x t) s

/-- The effect where the condition holds of the state, and none where it does not. -/
def onlyIf (p : State → Bool) (f : State → State) (s : State) : State := if p s then f s else s

end Sys2Proof.Machine
end

