-- ==== Sys2Proof/Machine/LogOps.lean ====
section
/-! DEFINITION. What many commands report through: interrupt sources (R519, R523), the rings of records (R333, R476,
R484, R516, R588), the lift number and time in them, and the withholding of addresses for locked interfaces. -/
namespace Sys2Proof.Machine

/-- A set of numbers as a rising list, with `n` added. -/
def sput (n : Nat) : List Nat → List Nat
  | [] => [n]
  | m :: t => if m < n then m :: sput n t else if m = n then m :: t else n :: m :: t

/-- A set without `n`. -/
def sdrop (n : Nat) (l : List Nat) : List Nat := l.filter (· != n)

/-! ## Interrupt sources -/

/-- The sources that are reserved (R519). -/
def srcReserved (s : State) (n : Nat) : Bool :=
  let g := n / 32
  let k := n % 32
  if 512 ≤ n then true
  else if k < 5 then decide (s.bays.count ≤ g)
  else if k < 8 then true
  else if g = 0 then decide (13 ≤ k) && decide (k ≤ 15)
  else if g = 1 || g = 2 || g = 5 then false
  else if g = 3 then decide (kwPorts s ≤ k - 8) && decide (k < 24)
  else if g = 4 then (if k < 16 then decide (hbmPorts s ≤ k - 8) else decide (quoinPorts s ≤ (k - 16) / 4))
  else if g = 6 then decide (s.bays.count < k - 8) && decide (k < 25)
  else true

/-- A source fires: it is pending once (R519, R523). -/
def raise (n : Nat) (s : State) : State :=
  if srcReserved s n then s else { s with irq := { s.irq with pend := sput n s.irq.pend } }

/-- The sources by what fires them. Inside a range the spec gives no slot numbers to, the order is the model's (log
entry 8). -/
def srcCompletion (b : Nat) : Nat := 32 * b
def srcMailbox (x : Nat) : Nat := if x = 0 then 8 else 32 * (x - 1) + 1
def srcBayEvent (b : Nat) : Nat := 32 * b + 2
def srcFault (b : Nat) : Nat := 32 * b + 3
def srcErrRec (b : Nat) : Nat := 32 * b + 4
def srcLiftBoundary : Nat := 16
def srcSealPoint : Nat := 17
def srcThrottle : Nat := 18
def srcDoorbell : Nat := 19
def srcFetchLimit : Nat := 20
def srcExt (k : Nat) : Nat := if k < 24 then 32 + 8 + k else 64 + 8 + (k - 24)
def srcPmbus : Nat := 64 + 16
def srcAvs : Nat := 64 + 17
def srcThermal : Nat := 64 + 18
def srcElectrical : Nat := 64 + 19
def srcKw (p : Nat) : Nat := 96 + 8 + p
def srcSec (k : Nat) : Nat := 96 + 24 + k
def srcHbm (p : Nat) : Nat := 128 + 8 + p
def srcQuoin (p k : Nat) : Nat := 128 + 16 + 4 * p + k
def srcBucket (k : Nat) : Nat := 160 + 8 + k
def srcUe : Nat := 160 + 15
def srcPoison : Nat := 160 + 16
def srcScrubEnd : Nat := 160 + 17
def srcLap : Nat := 160 + 18
def srcGo (x : Nat) : Nat := 192 + 8 + x
def srcPlumb : Nat := 192 + 25
def srcEngReset : Nat := 192 + 26
def srcShoring : Nat := 192 + 27
def srcDump : Nat := 192 + 28

/-- A queue vector becomes owed and its bay's completion source fires (R524). -/
def oweVector (b v : Nat) (s : State) : State :=
  raise (srcCompletion b)
    { s with irq := { s.irq with owed := tmod b [] (sput v) s.irq.owed } }

/-- Whether a request to the BARs of bay `b` is accepted, by the T bit and stream it came with: not in ERROR (R355), in RUN only with the
T bit on the bay's stream (R356), not in D3hot (R551). -/
def barOpen (s : State) (b : Nat) (t : Option Nat) : Bool :=
  (tdi s b).st != .error && ((tdi s b).st != .run || t == some (tdi s b).stream) && !(bay s b).d3

/-- A request to the BARs of a bay's function: one that is not accepted is answered with Unsupported Request. -/
def onBar (b : Nat) (t : Option Nat) (f : State → State) (s : State) : State :=
  if barOpen s b t then f s else emit .unsupportedRequest s

/-- The T bit and stream of a request that function `fn` issues (R356). -/
def reqT (s : State) (fn : Nat) : Option Nat :=
  if fn != 0 && (tdi s (fn - 1)).st == .run then some (tdi s (fn - 1)).stream else none

/-- A request to the BARs of the physical function. -/
def onPf (f : State → State) (s : State) : State := if s.start.d3 then emit .unsupportedRequest s else f s

/-! ## Rings of records -/

/-- A record into a ring of `n` records: an overwrite of an unread record counts as lost (R333). -/
def ringPut (n : Nat) (r : List Byte) (g : Ring) : Ring :=
  { recs := tput (g.prod % n) r g.recs
    prod := (g.prod + 1) % 2 ^ 32
    cons := g.cons
    lost := if n ≤ (g.prod + 2 ^ 32 - g.cons) % 2 ^ 32 then satAdd 0xFFFF g.lost 1 else g.lost
    seq := g.seq + 1 }

/-- A write of cons: ignored above prod (R333, R478, R514, R515, R592). -/
def ringCons (v : Nat) (g : Ring) : Ring := if v ≤ g.prod then { g with cons := v } else g

/-- Whether an interface hides its bay's addresses: CONFIG_LOCKED, RUN or ERROR (R358). -/
def tdiHides (s : State) (b : Nat) : Bool := (tdi s b).st != .unlocked

/-- Whether the requests a bay makes at the host link are not issued: its interface is CONFIG_LOCKED or in ERROR (R355, R356). -/
def hostShut (s : State) (b : Nat) : Bool := (tdi s b).st == .locked || (tdi s b).st == .error

/-- Bits [31:0] of the lift number. -/
def lift32 (s : State) : Nat := s.lift.num % 2 ^ 32

/-- A record of the bay event area (R333, R215): code, bytes 2 to 3, 4 to 7, 12 to 15. -/
def bayEvent (b code h w x : Nat) (s : State) : State :=
  let r := natLe 2 code ++ natLe 2 h ++ natLe 4 w ++ natLe 4 (lift32 s) ++ natLe 4 x
  raise (srcBayEvent b) (modBay b (fun y => { y with ev := ringPut 256 r y.ev }) s)

/-- A record of the manager event area (R588). -/
def mgrEvent (code h w x : Nat) (s : State) : State :=
  let r := natLe 2 code ++ natLe 2 h ++ natLe 4 w ++ natLe 4 (lift32 s) ++ natLe 4 x
  raise 12 { s with dev := { s.dev with mgrEv := ringPut 256 r s.dev.mgrEv } }

/-- A record of the RAS log (R476, R477): the place as its space and address; addresses within a locked bay read 0. -/
def rasRec (kind cause bay cls space addr detail : Nat) (s : State) : State :=
  let a := if bay != 0xFF && tdiHides s bay then 0 else addr % 2 ^ 56
  let r := natLe 4 (s.ras.log.seq + 1) ++ natLe 1 kind ++ natLe 1 cause ++ natLe 1 bay ++ natLe 1 cls ++
    natLe 8 (space * 2 ^ 56 + a) ++ natLe 8 s.lift.num ++ natLe 4 detail ++ natLe 4 0
  raise 9 { s with ras := { s.ras with log := ringPut 256 r s.ras.log } }

/-- A word of control-memory class `k` was corrected (R469): its total and bucket rise, and a full bucket reports and empties. The
word the record names is a free value. -/
def ceCorrect (k : Nat) (s : State) : State :=
  let total := satAdd 0xFFFF (tgetD k s.ras.ceTotal 0) 1
  let level := tgetD k s.ras.ceLevel 0 + 1
  let full := decide (max (leNat (mread s.foot.inForce (0x38 + 4 * k) 2)) 1 ≤ level)
  let t := { s with ras := { s.ras with
    ceTotal := tput k total s.ras.ceTotal, ceLevel := tput k (if full then 0 else level) s.ras.ceLevel } }
  if full then raise (srcBucket k) (rasRec 7 0 0xFF k 3 (freeVal t).toNat total (drewFree t)) else t

/-- What a plumb record says (R484). -/
structure PlumbRec where
  kind : Nat
  master : Nat := 0
  bay : Nat := 0xFF
  reason : Nat := 0
  queue : Nat := 0xFFFF
  slot : Nat := 0xFFFF
  ashlar : Nat := 0xFFFF
  unit : Nat := 0
  address : Nat := 0
  detail : Nat := 0
  deriving DecidableEq, Repr, Inhabited

/-- A record of the plumb log (R484). -/
def plumbRec (p : PlumbRec) (s : State) : State :=
  let a := if p.bay != 0xFF && tdiHides s p.bay then 0 else p.address
  let r := natLe 4 (s.plumb.log.seq + 1) ++ natLe 1 p.kind ++ natLe 1 p.master ++ natLe 1 p.bay ++ natLe 1 p.reason ++
    natLe 2 p.queue ++ natLe 2 p.slot ++ natLe 2 p.ashlar ++ natLe 2 p.unit ++ natLe 8 a ++ natLe 4 (lift32 s) ++
    natLe 4 p.detail
  raise 10 { s with plumb := { s.plumb with log := ringPut 256 r s.plumb.log } }

/-- The entries of an escalation history within a window of `us` microseconds before now (R506, R507). -/
def withinWindow (now us : Nat) (h : List Nat) : Nat := (h.filter fun t => decide (now ≤ t + us)).length

/-- The field of `n` bytes at offset `o` of the record in force of the footing store (R303). -/
def footFld (s : State) (o n : Nat) : Nat := leNat (mread s.foot.inForce o n)

/-- RST_ESC.compute (R515). -/
def escCompute (s : State) : Nat := withinWindow s.rst.time (footFld s 0x2A 2 * 3600000000) s.rst.histC
/-- RST_ESC.full (R515). -/
def escFull (s : State) : Nat := withinWindow s.rst.time (footFld s 0x2C 2 * 86400000000) s.rst.histF

/-- A record of the reset log (R516, R517). -/
def resetRec (domain trigger flags engine time lift duration : Nat) (s : State) : State :=
  let r := natLe 4 (s.rst.log.seq + 1) ++ natLe 1 domain ++ natLe 1 trigger ++ natLe 1 flags ++ natLe 1 engine ++
    natLe 8 time ++ natLe 8 lift ++ natLe 4 (min duration 0xFFFFFFFF) ++ natLe 2 (escCompute s) ++ natLe 2 (escFull s)
  raise 11 { s with rst := { s.rst with log := ringPut 64 r s.rst.log } }

/-- The bay's progress counter advances (R486). -/
def progress (b : Nat) (s : State) : State := modBay b (fun y => { y with progress := (y.progress + 1) % 2 ^ 32 }) s

end Sys2Proof.Machine
end

