-- ==== Sys2Proof/Machine/Crypto.lean ====
section
/-! DEFINITION. Keys and what is made with them: HMAC and HKDF over SHA-384, the device identity and alias keys (R340), the encryption and
the MAC of HBM (R362, R364, R379), and the protection of Kewick frames (R359, R361, R413, R416). -/
namespace Sys2Proof.Machine

/-! ## HMAC and HKDF over SHA-384 -/

/-- A digest as bytes. -/
def digestBytes (d : BitVec 384) : List Byte := natLe 48 d.toNat

/-- HMAC-SHA-384, whose block is 128 bytes. -/
def hmac384 (key msg : List Byte) : List Byte :=
  let k := padTo 128 (if 128 < key.length then digestBytes (Config.sha384 key) else key)
  digestBytes (Config.sha384 (k.map (· ^^^ 0x5C) ++ digestBytes (Config.sha384 (k.map (· ^^^ 0x36) ++ msg))))

/-- The blocks T(i) to T(n) of HKDF-Expand, joined; `last` is T(i - 1). -/
def hkdfBlocks (prk info last : List Byte) (i : Nat) : Nat → List Byte
  | 0 => []
  | n + 1 =>
    let t := hmac384 prk (last ++ info ++ [BitVec.ofNat 8 i])
    t ++ hkdfBlocks prk info t (i + 1) n

/-- HKDF-Expand-SHA-384 to `n` bytes. -/
def hkdfExpand (prk info : List Byte) (n : Nat) : List Byte := (hkdfBlocks prk info [] 1 (ceilDiv n 48)).take n

/-- HKDF-SHA-384 to `n` bytes, with the salt of 48 zero bytes that HKDF takes where none is given. -/
def hkdf (ikm info : List Byte) (n : Nat) : List Byte := hkdfExpand (hmac384 (List.replicate 48 0) ikm) info n

/-- An ASCII label. -/
def ascii (l : String) : List Byte := l.toList.map fun c => BitVec.ofNat 8 c.toNat

/-! ## Device identity (R340) -/

/-- The firmware that runs. -/
def fwNow (s : State) : FwImage := if s.fw.running then s.fw.active.getD {} else {}

/-- The seed of the device identity key. -/
def dikSeed (uds : BitVec 256) : List Byte := hkdf (natLe 32 uds.toNat) (ascii "FX2 DIK" ++ digestBytes Config.bootRomDigest) 48
/-- The seed of the alias key of a firmware image. -/
def aliasSeed (uds : BitVec 256) (img : FwImage) : List Byte :=
  hkdf (dikSeed uds) (ascii "FX2 ALIAS" ++ digestBytes img.digest ++ natLe 4 img.svn) 48
/-- The device identity key. -/
def dik (uds : BitVec 256) : BitVec 384 := Config.p384Private (dikSeed uds)
/-- The alias key. -/
def aliasKeyOf (uds : BitVec 256) (img : FwImage) : BitVec 384 := Config.p384Private (aliasSeed uds img)
/-- A public key, 97 bytes, uncompressed. -/
def publicKey (k : BitVec 384) : List Byte := (Config.p384Public k).toList
/-- The Drallaxa extension of an alias certificate. -/
def aliasExt (img : FwImage) : List Byte :=
  digestBytes Config.bootRomDigest ++ digestBytes img.digest ++ natLe 4 img.version ++ natLe 4 img.svn
/-- The certificate the boot ROM issues for the alias key, signed by the device identity key. -/
def aliasCertOf (uds : BitVec 256) (img : FwImage) : List Byte :=
  Config.x509 (dik uds) (publicKey (aliasKeyOf uds img)) (aliasExt img)

/-- The boot ROM derives the alias key and issues its certificate, where a UDS was provisioned. -/
def deriveAlias (s : State) : State :=
  match s.ident.uds with
  | none => s
  | some u => { s with sec := { s.sec with aliasKey := some (aliasKeyOf u (fwNow s)), aliasCert := aliasCertOf u (fwNow s) } }

/-- A signature with the alias key; none while the identity store is not locked (R341). -/
def sign (s : State) (m : List Byte) : Option (List Byte) :=
  if s.ident.locked then s.sec.aliasKey.map fun k => Config.ecdsaSign k m else none

/-- Certificate slot 0: the licensee's chain, then the alias certificate (R341). -/
def slot0 (s : State) : List Byte := s.ident.chain ++ s.sec.aliasCert

/-- Two draws of the random source as one number, and the state after. -/
def drawWide (s : State) : BitVec 512 × State := (randVal s ++ randVal (drewRandom s), drewRandom (drewRandom s))

/-- An ephemeral P-384 key, generated from a drawn seed, and the state after (R337). -/
def drawP384 (s : State) : BitVec 384 × State :=
  let r := drawWide s
  (Config.p384Private (natLe 48 (r.1.toNat % 2 ^ 384)), r.2)

/-! ## HBM at rest -/

/-- New HBM keys (R364): the XTS key pair and K_mac are drawn and the draw counts. -/
def drawKeys (s : State) : State :=
  let r := drawWide s
  drewRandom { r.2 with sec := { r.2.sec with
    xtsKey := r.1, kMac := randVal r.2, keyGeneration := if s.sec.drawn then s.sec.keyGeneration + 1 else 1, drawn := true } }

/-- The 512 bytes of block `blk` of HBM in the clear. -/
def clearBlock (s : State) (blk : Nat) : List Byte := mread s.mem.hbm (blk * 512) 512
/-- What the HBM holds of block `blk` (R362): the data unit is the block, the tweak its physical address [51:9]. -/
def cipherBlock (s : State) (blk : Nat) : List Byte := Config.aesXts s.sec.xtsKey (blk % 2 ^ 43) (clearBlock s blk)
/-- The MAC of block `blk`: the first 64 bits of its GMAC (R362). -/
def goodMac (s : State) (blk : Nat) : BitVec 64 :=
  (Config.gmac s.sec.kMac (blk % 2 ^ 43) s.sec.keyGeneration (cipherBlock s blk)).extractLsb' 64 64
/-- The poison MAC of block `blk` (R460). -/
def poisonMac (s : State) (blk : Nat) : BitVec 64 :=
  (Config.gmac s.sec.kMac (blk % 2 ^ 43) (Nat.xor s.sec.keyGeneration 0xFFFF) (cipherBlock s blk)).extractLsb' 64 64
/-- The MAC the tag region holds for block `blk`. -/
def blockMac (s : State) (blk : Nat) : BitVec 64 := if (tget blk s.mem.poison).isSome then poisonMac s blk else goodMac s blk

/-! ## Kewick frames -/

/-- The header of a frame, whose bit 127 is sent first (R414). -/
def frameHeader (f : Frame) : List Byte :=
  let fs := [(126, f.vc), (121, f.kind), (109, f.dst), (97, f.src), (85, f.data.length), (72, f.tag), (68, f.mark), (52, f.seq), (0, f.addr)]
  (natLe 16 (fs.foldl (fun n e => n + e.2 * 2 ^ e.1) 0)).reverse

/-- The counter of the frame with link sequence number `n` under the key whose first is `k` (R416). -/
def frameCtr (k n : Nat) : Nat := n - k + 1

/-- A frame encrypted under the key to the peer (R359, R413): its counter, and the ciphertext and tag that follow its header. -/
def sealFrame (x : Port) (n : Nat) (f : Frame) : Frame :=
  let c := frameCtr x.sK n
  { f with ctr := c, wire := Config.gcmSeal x.txKey (BitVec.ofNat 96 c) (frameHeader f) f.data }

/-- Whether a port must not send on: the boundary it proposed is reached and the exchange has not ended (R361). -/
def heldAtCut (x : Port) : Bool := x.key == .rekeying && !x.peerHello.isEmpty && x.nextTx.isNone && decide (x.cut ≤ x.sTx)

/-- Where the new keys of a re-key take effect: at the link sequence number both ends agreed (R361). The re-key is over when both
directions have changed. -/
def turnKeys (x : Port) : Port :=
  let y := match x.nextTx with
    | some (n, k) => if n ≤ x.sTx then { x with nextTx := none, txKey := k, sK := n } else x
    | none => x
  let z := match y.nextRx with
    | some (n, k) => if n ≤ y.sRx then { y with nextRx := none, rxKey := k, sKRx := n } else y
    | none => y
  if x.nextTx.isSome || x.nextRx.isSome then
    if z.nextTx.isNone && z.nextRx.isNone then { z with key := .keyed, rekeys := satAdd 255 z.rekeys 1 } else z
  else x

end Sys2Proof.Machine
end

