-- ==== Sys2Proof/Machine/KwOps.lean ====
section
/-! DEFINITION. Sending on the Kewick ports: link sequence numbers, the replay buffer and credits (R416, R418), the choice
of a port and a transaction tag for an outbound request (R422), and the mason's mark on it (R428). -/
namespace Sys2Proof.Machine

/-- Frame kinds (R415). -/
def fkIdle : Nat := 0x00
def fkCredit : Nat := 0x01
def fkNak : Nat := 0x02
def fkTrain : Nat := 0x03
def fkKeyx : Nat := 0x04
def fkRead : Nat := 0x08
def fkWrite : Nat := 0x09
def fkAtomic : Nat := 0x0A
def fkReduce : Nat := 0x0B
def fkReadData : Nat := 0x0C
def fkStatus : Nat := 0x0D
def fkColHs : Nat := 0x10
def fkColData : Nat := 0x11
def fkColAck : Nat := 0x12
def fkColNak : Nat := 0x13
def fkColAbandon : Nat := 0x14
def fkColProbe : Nat := 0x15
def fkColIsr : Nat := 0x16

/-- The channel a kind uses on a link of revision `rev` (R415, R411), none for a reserved kind. -/
def vcOfFrame (rev kind : Nat) : Option Nat :=
  if kind ≤ 4 then some 3
  else if 8 ≤ kind ∧ kind ≤ 0x0B then some 0
  else if kind = 0x0C ∨ kind = 0x0D then some 1
  else if kind = 0x10 ∨ kind = 0x14 then some (if rev = 3 then 2 else 0)
  else if kind = 0x11 ∨ kind = 0x15 ∨ kind = 0x16 then some 0
  else if kind = 0x12 ∨ kind = 0x13 then some 1
  else none

/-- Whether a port carries frames other than TRAIN and KEYX (R412). -/
def linkUp (x : Port) : Bool := x.st == .up && (x.key == .keyed || x.key == .rekeying)

/-- Whether a channel has a credit (R418). -/
def hasCredit (x : Port) (vc : Nat) : Bool :=
  match vc with
  | 0 => decide (0 < x.credReq)
  | 1 => decide (0 < x.credRsp)
  | 2 => decide (0 < x.credSpr)
  | _ => true

/-- A credit of a channel taken. -/
def takeCredit (vc : Nat) (x : Port) : Port :=
  match vc with
  | 0 => { x with credReq := x.credReq - 1 }
  | 1 => { x with credRsp := x.credRsp - 1 }
  | 2 => { x with credSpr := x.credSpr - 1 }
  | _ => x

/-- The bytes of the frames a replay buffer holds (R416). -/
def replayBytes (x : Port) : Nat := (x.replay.map fun e => e.2.data.length + 32).foldl (· + ·) 0

/-- The next number of a rotation after `last`. -/
def nextAfter (last : Nat) (l : List Nat) : Option Nat := ((l.filter fun n => decide (last < n)).min?).orElse fun _ => l.min?

/-- The flow whose turn it is among the frames of a bay: the one in turn while it may send on, else the next (R420). -/
def flowTurn (x : Port) (vc b : Nat) (l : List Staged) : Option Nat :=
  let k := tgetD (vc * 32 + b) x.flows (0, 0)
  if decide (0 < k.2) && l.any (·.flow == k.1) then some k.1 else nextAfter k.1 (l.map (·.flow))

/-- The frame of a channel whose turn it is (R420): REQ and RSP go round robin over the bays, and over the flows of a bay by weight. -/
def pickStaged (x : Port) (vc : Nat) : Option Staged :=
  let l := x.outq.filter (·.frame.vc == vc)
  if 2 ≤ vc then l.head?
  else (nextAfter (tgetD vc x.turns 16) (l.map (·.bay))).bind fun b =>
    let lb := l.filter (·.bay == b)
    (flowTurn x vc b lb).bind fun f => lb.find? (·.flow == f)

/-- The next frame of a port that may be sent: LINK, then SPR, RSP and REQ, each against its credit; a channel that has waited 64
frame slots goes before them (R418). -/
def nextFrame (x : Port) : Option Staged :=
  let can (vc : Nat) := if hasCredit x vc then pickStaged x vc else none
  (([3, 2, 1, 0].filter fun vc => decide (64 ≤ tgetD vc x.waits 0)).findSome? can).orElse fun _ => [3, 2, 1, 0].findSome? can

/-- A frame leaves the staging: the turn passes on, and the other channels that have a frame have waited one more slot. -/
def afterSend (e : Staged) (x : Port) : Port :=
  let vc := e.frame.vc
  let k := tgetD (vc * 32 + e.bay) x.flows (0, 0)
  let left := if 0 < k.2 ∧ k.1 = e.flow then k.2 else e.weight
  let q := dropFirst (fun h => h == e) x.outq
  { x with
    outq := q
    turns := if vc < 2 then tput vc e.bay x.turns else x.turns
    flows := if vc < 2 then tput (vc * 32 + e.bay) (e.flow, left - 1) x.flows else x.flows
    waits := [0, 1, 2, 3].filterMap fun w =>
      if w != vc && q.any (·.frame.vc == w) then some (w, tgetD w x.waits 0 + 1) else none }

/-- New keys of port `p` take effect where their boundary is reached, and the port reports the change (R361). -/
def turn (p : Nat) (s : State) : State :=
  let t := modKw p turnKeys s
  if (kport t p).key == (kport s p).key then t else raise (srcKw p) t

/-- Sends one frame that may be sent: it takes the next link sequence number, is encrypted, and stays in the replay buffer (R413,
R416). -/
def sendOne (p : Nat) (s0 : State) : State :=
  let s := turn p s0
  let x := kport s p
  if !linkUp x || heldAtCut x then s
  else match nextFrame x with
    | none => s
    | some e =>
      if 262144 < replayBytes x + e.frame.data.length + 32 then s
      else
        let g := sealFrame x x.sTx { e.frame with seq := x.sTx % 65536 }
        emit (.frame p g)
          (modKw p (fun y => takeCredit g.vc (afterSend e { y with
            sTx := y.sTx + 1, replay := y.replay ++ [(y.sTx, g)] })) s)

/-! ## Packet buffers (R329, R419) -/

/-- The buffers of 512 bytes a frame takes: at least one; a LINK frame is consumed at once and takes none. -/
def frameBufs (f : Frame) : Nat := if f.vc = 3 then 0 else max 1 (ceilDiv f.data.length 512)
/-- The buffers a staged frame takes from one source. -/
def bufsFrom (q : Nat) (e : Staged) : Nat := ((e.bufs.filter fun x => x.1 == q).map Prod.snd).foldl (· + ·) 0
/-- The quota of a bay in the shared buffers (R419). -/
def bufQuota (s : State) : Nat := (if isF s then 4096 else 2048) / s.bays.count
/-- The buffers of bay `q`'s quota that are idle. -/
def quotaFree (s : State) (q : Nat) : Nat :=
  bufQuota s - ((s.kw.ports.flatMap fun e => e.2.outq.map (bufsFrom q)).foldl (· + ·) 0)
/-- The reserved buffers of a port's channel that are free (R419). -/
def reservedFree (s : State) (p vc : Nat) : Nat :=
  256 - (((kport s p).outq.filter (·.frame.vc == vc)).map (bufsFrom 16)).foldl (· + ·) 0
/-- The buffers a frame would take at a port, in the order of R419: its bay's quota, idle quota of the other bays, its port's reserved
buffers; none where they do not suffice. -/
def bufsFor (s : State) (p : Nat) (e : Staged) : Option (List (Nat × Nat)) :=
  let order := if e.bay < s.bays.count then e.bay :: (List.range s.bays.count).filter (· != e.bay) else []
  let src := order.map (fun q => (q, quotaFree s q)) ++ [(16, reservedFree s p e.frame.vc)]
  let r : Nat × List (Nat × Nat) := src.foldl (fun a x =>
    let k := min a.1 x.2
    (a.1 - k, if k = 0 then a.2 else a.2 ++ [(x.1, k)])) (frameBufs e.frame, [])
  if r.1 = 0 then some r.2 else none

/-- The first frame waiting for buffers that fits now, its place among them and the buffers it takes; frames of one port, channel, bay
and flow keep their order. -/
def nextWaiting (s : State) : Option (Nat × Nat × Staged) :=
  let l := s.kw.waiting
  (List.range l.length).findSome? fun i => match l[i]? with
    | none => none
    | some x =>
      if (l.take i).any fun y => y.1 == x.1 && y.2.frame.vc == x.2.frame.vc && y.2.bay == x.2.bay && y.2.flow == x.2.flow then none
      else (bufsFor s x.1 x.2).map fun b => (i, x.1, { x.2 with bufs := b })

/-- A frame that waited for buffers takes them, and its port sends what it may. -/
def admitOne (s : State) : State :=
  match nextWaiting s with
  | none => s
  | some x => sendOne x.2.1 (modKw x.2.1 (fun y => { y with outq := y.outq ++ [x.2.2] })
      { s with kw := { s.kw with waiting := s.kw.waiting.eraseIdx x.1 } })

/-- Sends what a port may send, and stages what waited for the buffers this frees. -/
def flushPort (p : Nat) (s : State) : State :=
  let t := (List.range (kport s p).outq.length).foldl (fun t _ => sendOne p t) s
  (List.range t.kw.waiting.length).foldl (fun t _ => admitOne t) t

/-- A frame is staged at a port as soon as it has its buffers, and sent as soon as it may be. -/
def portSend (p : Nat) (e : Staged) (s : State) : State :=
  flushPort p { s with kw := { s.kw with waiting := s.kw.waiting ++ [(p, e)] } }

/-- The trained ports in ascending number (R422). -/
def trainedPorts (s : State) : List Nat := (List.range (kwPorts s)).filter fun p => linkUp (kport s p)

/-- The port a request to an address leaves through (R422). -/
def portFor (s : State) (dst addr : Nat) : Option Nat :=
  let ps := trainedPorts s
  if ps.isEmpty then none else ps[Config.portHash dst (addr / 4096) % ps.length]?

/-- A frame of bay `b`'s flow 0 to another endpoint, through the port its destination and address choose; with no trained port it is not
sent. -/
def kwSend (b : Nat) (f : Frame) (s : State) : State :=
  match portFor s f.dst f.addr with
  | some p => portSend p { frame := { f with vc := (vcOfFrame (kport s p).rev f.kind).getD 0, src := s.kw.ep }, bay := b } s
  | none => s

/-- The tags of a bay, divided equally (R422). -/
def tagRange (s : State) (b : Nat) : List Nat := (List.range (8192 / s.bays.count)).map (· + b * (8192 / s.bays.count))

/-- The lowest free tag of a bay: not in use, and not freed by a timeout within the last 2 ms (R422, R427). -/
def freeTag (s : State) (b : Nat) : Option Nat :=
  (tagRange s b).find? fun t => (tget t s.kw.txns).isNone &&
    match tget t s.kw.cooling with
    | some at_ => decide (at_ + 2000 ≤ s.rst.time)
    | none => true

/-- The global address of an offset in a window (R421). -/
def globalAddr (win off : Nat) : Nat := win * 2 ^ 40 + off

/-- An outbound request takes a free tag of its bay and carries the mark (R422, R428). -/
def sendReq (t : Txn) (s : State) : State :=
  match freeTag s t.bay with
  | none => s
  | some tag =>
    let x := { t with mark := s.kw.mark }
    let s' := { s with kw := { s.kw with txns := tput tag x s.kw.txns, cooling := tdrop tag s.kw.cooling } }
    kwSend x.bay { kind := x.kind, dst := x.dst, tag := tag, mark := x.mark, addr := x.addr,
                   data := if x.kind = fkRead then natLe 2 x.len else x.data } s'

/-! ## The block's own reads and writes (R423) -/

/-- Whether a WRITE of the block's own to a range is not answered yet. -/
def ownWriting (s : State) (dst addr n : Nat) : Bool :=
  s.kw.txns.any fun e => e.2.owner == .own && e.2.kind == fkWrite && e.2.dst == dst && overlaps e.2.addr (max 1 e.2.data.length) addr n

/-- The first of the block's own accesses that may issue a request now: a tag is free, and no read goes before the writes to its range. -/
def ownNext (s : State) : Option Nat :=
  let l := s.kw.own
  (List.range l.length).find? fun i => match l[i]? with
    | none => false
    | some j => (freeTag s j.bay).isSome && (j.wr || !(ownWriting s j.dst j.addr j.left ||
        (l.take i).any fun k => k.wr && k.dst == j.dst && overlaps k.addr k.left j.addr j.left))

/-- The bytes of the next request of a write. -/
def ownData (s : State) (j : OwnJob) (n : Nat) : List Byte := match j.src with
  | some (true, k) => mread s.mem.win k n
  | some (false, pa) => mread s.mem.hbm pa n
  | none => j.data.take n

/-- An access goes on by one request: at most 2,048 bytes within a page (R422). -/
def ownStep (i : Nat) (j : OwnJob) (s : State) : State :=
  let n := min j.left (min 2048 (4096 - j.addr % 4096))
  let k := { j with addr := j.addr + n, left := j.left - n, data := j.data.drop n, src := j.src.map fun p => (p.1, p.2 + n) }
  sendReq { kind := if j.wr then fkWrite else fkRead, dst := j.dst, addr := j.addr, len := n
            data := if j.wr then ownData s j n else [], bay := j.bay, owner := .own }
    { s with kw := { s.kw with own := if k.left = 0 then s.kw.own.eraseIdx i else s.kw.own.set i k } }

/-- The block's own accesses issue what tags allow, while a port is trained and the compute part not shored (R496). -/
def pumpOwn : Nat → State → State
  | 0, s => s
  | n + 1, s =>
    if s.rst.shored || (trainedPorts s).isEmpty then s
    else match ownNext s with
      | none => s
      | some i => match s.kw.own[i]? with
        | none => s
        | some j => pumpOwn n (ownStep i j s)

/-- An access of the block's own starts. -/
def ownJob (j : OwnJob) (s : State) : State :=
  if j.left = 0 then s else pumpOwn 8192 { s with kw := { s.kw with own := s.kw.own ++ [j] } }

/-- A transfer's pieces: split at 4 KiB pages and at 2,048 bytes (R422). -/
def reqPieces (va n : Nat) : List (Nat × Nat) :=
  (pagesOf va n).flatMap fun p => if p.2 ≤ 2048 then [p] else [(p.1, 2048), (p.1 + 2048, p.2 - 2048)]

/-- The outstanding requests of an owner. -/
def txnsOf (s : State) (o : Owner) : List (Nat × Txn) := s.kw.txns.filter fun e => e.2.owner == o

end Sys2Proof.Machine
end

