-- ==== Sys2Proof/Machine/MemOps.lean ====
section
/-! DEFINITION. Memory as the commands reach it: the physical space (R378 to R382), a bay's translations (R386), bytes
of placed memory with poison and valid bits (R384, R460, R461), and reads that host memory or a peer answers. -/
namespace Sys2Proof.Machine

/-! ## The physical space -/

/-- Installed capacity in GiB (R378). -/
def installedGib (s : State) : Nat := (s.hw.stackGib.take (hbmPorts s)).foldl (· + ·) 0
/-- D: the bytes of the physical address space (R379). -/
def physTop (s : State) : Nat := installedGib s * 2 ^ 30 / 64 * 63
/-- The bytes of the reserved regions (R381). -/
def reservedBytes (s : State) : Nat := (if isF s then 5776 else 2888) * 2 ^ 20
/-- The extents of a bay's HBM share (R314). -/
def shareExtents (s : State) : Nat := (physTop s - reservedBytes s) / s.bays.count / 2 ^ 21
/-- The bytes of a bay's HBM share. -/
def shareBytes (s : State) : Nat := shareExtents s * 2 ^ 21
/-- The physical address of byte `off` of frame `f` of bay `b`'s share (R382). -/
def physOf (s : State) (b f off : Nat) : Nat := b * shareBytes s + f * 2 ^ 21 + off
/-- The bay whose share holds a physical address. -/
def bayOfPhys (s : State) (pa : Nat) : Option Nat :=
  if shareBytes s = 0 then none
  else if pa / shareBytes s < s.bays.count then some (pa / shareBytes s) else none
/-- Whether a physical address lies in a reserved region or beyond D. -/
def physReserved (s : State) (pa : Nat) : Bool := decide (physTop s - reservedBytes s ≤ pa)

/-- The memory port of a physical address (R380). -/
def portOf (s : State) (pa : Nat) : Nat :=
  if isF s then Nat.xor (Nat.xor (bits pa 14 12) (bits pa 17 15)) (bits pa 20 18)
  else Nat.xor (Nat.xor (bits pa 13 12) (bits pa 15 14)) (bits pa 17 16)

/-- The local address of a physical address within its port (R380). -/
def localOf (s : State) (pa : Nat) : Nat :=
  if isF s then pa / 2 ^ 15 * 4096 + pa % 4096 else pa / 2 ^ 14 * 4096 + pa % 4096

/-- Where the MAC of the block at physical address `pa` lies: its port, and the offset in that port's stack, beyond 63/64 of it (R379). -/
def macPlace (s : State) (pa : Nat) : Nat × Nat :=
  (portOf s pa, s.hw.stackGib.headD 0 * 2 ^ 30 / 64 * 63 + 8 * (localOf s pa / 512))

/-! ## Translation -/

/-- Where a byte of a bay's address space lives. -/
inductive Place | hbm (pa : Nat) | win (key : Nat) | host (iova : Nat) | remote (ep win off : Nat)
  deriving DecidableEq, Repr, Inhabited

/-- A translation, or the cause of the fault (R399): 1 unmapped, 2 no read, 3 no write permission, with 8 times the
permission needed. -/
inductive Xl | ok (p : Place) | fault (cause : Nat)
  deriving DecidableEq, Repr, Inhabited

/-- The place of byte `off` of an extent's home. -/
def homePlace (s : State) (b off : Nat) : Home → Place
  | .hbm f => .hbm (physOf s b f off)
  | .win w f => .win ((16 * b + w) * 2 ^ 44 + f * 2 ^ 21 + off)

/-- Byte `off` of the `i`-th page of a mapped target. -/
def targetPlace (i off : Nat) : Target → Place
  | .host iova => .host (iova + i * 4096 + off)
  | .remote ep w o => .remote ep w (o + i * 4096 + off)

/-- The permission check: bit 0 read, bit 1 write. -/
def permit (perm need : Nat) (p : Place) : Xl :=
  if bit need 0 && !bit perm 0 then .fault (2 + 8 * need)
  else if bit need 1 && !bit perm 1 then .fault (3 + 8 * need)
  else .ok p

/-- Whether a page of bay `b` holds sealed weights (R351). -/
def holdsWeights (s : State) (b va : Nat) : Bool :=
  (bay s b).strm.models.any fun m => !m.loading && m.weights.any fun w =>
    overlaps (va / 4096 * 4096) 4096 w.1 w.2.1

/-- Where a bay's block region holds its KV pool and its batch area (R386, log entry 16). -/
def kvBase : Nat := 2 ^ 48
def batchBase : Nat := 2 ^ 48 + 2 ^ 44
/-- The physical address of byte `off` of a run of extents of bay `b`'s share, `none` beyond it (R170, R382). -/
def runPa (s : State) (b off : Nat) (frames : List Nat) : Option Nat :=
  (frames[off / 2 ^ 21]?).map fun f => physOf s b f (off % 2 ^ 21)
/-- The physical address of a byte of a bay's KV pool. -/
def poolPa (s : State) (b a : Nat) : Option Nat := if kvBase ≤ a then runPa s b (a - kvBase) (bay s b).strm.pool else none
/-- The physical address of a byte of a bay's batch area. -/
def areaPa (s : State) (b a : Nat) : Option Nat := if batchBase ≤ a then runPa s b (a - batchBase) (bay s b).strm.area else none

/-- The translation of a byte of bay `b` for the permission `need` (R386). `stale` uses a copy cached before an UNMAP
that no INVALIDATE has covered (R388). Pages of sealed weights are not writable (R298). Of the block region, the batch
area alone translates, for the commands of a batch (R176, R177); `firstFault` keeps every other command out of it. -/
def xlate (s : State) (b va need : Nat) (stale : Bool) : Xl :=
  if 2 ^ 48 ≤ va then
    match areaPa s b va with
    | some pa => .ok (.hbm pa)
    | none => .fault (1 + 8 * need)
  else
    let m := (bay s b).mem
    match tget (va / 2 ^ 21) m.extents with
    | some e => permit (if holdsWeights s b va then e.perm % 2 else e.perm) need (homePlace s b (va % 2 ^ 21) e.home)
    | none =>
      let pg := va / 4096
      match m.maps.find? fun r => decide (r.page ≤ pg) && decide (pg < r.page + r.pages) with
      | some r => permit r.perm need (targetPlace (pg - r.page) (va % 4096) r.tgt)
      | none =>
        if !stale then .fault (1 + 8 * need)
        else match m.awaiting.find? fun r => decide (r.page ≤ pg) && decide (pg < r.page + r.pages) with
          | none => .fault (1 + 8 * need)
          | some r =>
            match r.home, r.tgt with
            | some h, _ => permit r.perm need (homePlace s b (va % 2 ^ 21) h)
            | none, some t => permit r.perm need (targetPlace (pg - r.page) (va % 4096) t)
            | none, none => .fault (1 + 8 * need)

/-- The first byte of a range that lies in a failing page, with the fault's cause (R390). Pages from 2^48 fail, but for the
batch area when `batch` lets a gathered command reach it. `stale` tells of which pages a cached copy is used. -/
def firstFaultIn (batch : Bool) (s : State) (b va n need : Nat) (stale : Nat → Bool) : Option (Nat × Nat) :=
  (pagesOf va n).findSome? fun p =>
    if 2 ^ 48 ≤ p.1 ∧ batch = false then some (p.1, 1 + 8 * need)
    else match xlate s b p.1 need (stale (p.1 / 4096)) with
      | .ok _ => none
      | .fault c => some (p.1, c)

/-- The first byte of a range that lies in a failing page, the block region unmapped (R386, R390). -/
def firstFault (s : State) (b va n need : Nat) (stale : Bool) : Option (Nat × Nat) := firstFaultIn false s b va n need fun _ => stale

/-! ## Translation caches (R389) -/

/-- The entries of a bay's partition of a shared translation cache (R389): 0 the grid edge, 1 the slab walker, 2 the command front, from 3
the quoin ports. -/
def tlbShare (s : State) (k : Nat) : Nat := (if k = 0 then 65536 else if k = 1 then 4096 else 1024) / s.bays.count

/-- Whether the bay's partition of cache `k` holds the translation of a page. -/
def tlbHit (s : State) (b k page : Nat) : Bool := (tgetD k (bay s b).mem.tlbs []).contains page

/-- A page enters a cache of `cap` entries; a full one loses the entry that `v` picks. -/
def tlbPut (v cap page : Nat) (l : List Nat) : List Nat :=
  if l.contains page then l else page :: if l.length < cap then l else l.eraseIdx (v % l.length)

/-- Which entry a full cache replaces the spec leaves open: a free value picks it (log entry 32). -/
def tlbDraw (cap page : Nat) (l : List Nat) (s : State) : State := if !l.contains page && decide (cap ≤ l.length) then drewFree s else s

/-- The pages of an access that translate enter the bay's partition of cache `k`, as a miss fills it (R389). -/
def tlbFill (b k : Nat) (pages : List Nat) (s : State) : State :=
  pages.foldl (fun t p =>
    let l := tgetD k (bay t b).mem.tlbs []
    modBm b (fun m => { m with tlbs := tput k (tlbPut (freeVal t).toNat (tlbShare t k) p l) m.tlbs }) (tlbDraw (tlbShare t k) p l t)) s

/-- The same of the mover of an ashlar, which holds 32. -/
def moverFill (a : Nat) (pages : List Nat) (s : State) : State :=
  pages.foldl (fun t p =>
    let l := (ash t a).tlb
    modAsh a (fun x => { x with tlb := tlbPut (freeVal t).toNat 32 p l }) (tlbDraw 32 p l t)) s

/-- The pages of some ranges whose translation is found, cached copies counted. -/
def foundPages (s : State) (b : Nat) (rows : List (Nat × Nat)) (need : Nat) (stale : Nat → Bool) : List Nat :=
  dedup ((rows.flatMap fun r => pagesOf r.1 r.2).filterMap fun p => match xlate s b p.1 need (stale (p.1 / 4096)) with
    | .ok _ => some (p.1 / 4096)
    | .fault _ => none)

/-- The bay's shared cache `k` without its entries, as a reset of its unit leaves it. -/
def tlbClear (k : Nat) (s : State) : State :=
  { s with bays := { s.bays with all := tmap (fun _ y => { y with mem := { y.mem with tlbs := tdrop k y.mem.tlbs } }) s.bays.all } }

/-! ## Bytes of placed memory -/

/-- Whether the block runs in valid-bit mode (R384). -/
def validMode (s : State) : Bool := bit (footFld s 0x13 1) 0

/-- The poisoned 512-byte blocks a physical range touches, with their classes (R460). -/
def poisonIn (s : State) (pa n : Nat) : List (Nat × Nat) :=
  s.mem.poison.filter fun e => overlaps pa n (e.1 * 512) 512

/-- The page of an extent on the move that byte `off` of a home lies in, noted as written (R202). -/
def noteMove (b : Nat) (h : Home) (off n : Nat) (s : State) : State :=
  if (bay s b).mem.extents.any fun e => e.2.home == h && e.2.move.isSome then
    modBm b (fun m => { m with extents := tmap (fun _ e =>
      if e.home = h then { e with move := e.move.map fun v => { v with
        written := (pagesOf off n).foldl (fun l p => sput (p.1 / 4096) l) v.written } } else e) m.extents }) s
  else s
/-- The bay, frame and offset of a physical address of a share. -/
def frameOf (s : State) (pa : Nat) : Option (Nat × Nat × Nat) :=
  (bayOfPhys s pa).map fun b => (b, pa % shareBytes s / 2 ^ 21, pa % shareBytes s % 2 ^ 21)

/-- Whether the page of a physical address is one whose contents a read delivers and checks: in valid-bit mode one that was written, or
that no bay's share holds (R384). -/
def pageValid (s : State) (pa : Nat) : Bool := !(validMode s && (bayOfPhys s pa).isSome) || s.mem.valid.contains (pa / 4096)

/-- A write of placed memory: a whole 512-byte block clears its poison, a partial one keeps it (R461), and in valid-bit
mode the page becomes valid (R384); an extent on the move takes note (R202). -/
def writePa (pa : Nat) (bs : List Byte) (s : State) : State :=
  let s := match frameOf s pa with
    | some (b, f, off) => noteMove b (.hbm f) off bs.length s
    | none => s
  { s with mem := { s.mem with
      hbm := mputs pa bs s.mem.hbm
      poison := s.mem.poison.filter fun e => !within pa bs.length (e.1 * 512) 512
      valid := if validMode s && (bayOfPhys s pa).isSome then sput (pa / 4096) s.mem.valid else s.mem.valid } }

/-- Where the fabric serves a byte of a bay's backing windows: endpoint and global address (R198, R421). -/
def winFabric (s : State) (k : Nat) : Option (Nat × Nat) :=
  (tget (k / 2 ^ 44 % 16) (bay s (k / 2 ^ 48)).mem.windows).map fun v => (v.ep, globalAddr v.win (v.off + k % 2 ^ 44))

/-- A read of `n` bytes of a backing window goes out (R423). -/
def askWin (k n : Nat) (s : State) : State :=
  match winFabric s k with
  | some p => ownJob { bay := k / 2 ^ 48, wr := false, dst := p.1, addr := p.2, left := n } s
  | none => s

/-- A write of an extent homed in a backing window: its endpoint stores the bytes for the bay (log entry 5), and the WRITEs go out. -/
def writeWin (k : Nat) (bs : List Byte) (s : State) : State :=
  let s := match winFabric s k with
    | some p => ownJob { bay := k / 2 ^ 48, wr := true, dst := p.1, addr := p.2, left := bs.length, data := bs } s
    | none => s
  let s := noteMove (k / 2 ^ 48) (.win (k / 2 ^ 44 % 16) (k % 2 ^ 44 / 2 ^ 21)) (k % 2 ^ 21) bs.length s
  { s with mem := { s.mem with win := mputs k bs s.mem.win } }

/-- The byte a place holds; host and remote bytes are what the surroundings answer (log entry 5). -/
def placeByte (s : State) (env : Env) (va : Nat) : Place → Option Byte
  | .hbm pa => some (mget s.mem.hbm pa)
  | .win k => some (mget s.mem.win k)
  | .host iova => tget iova env.host
  | .remote _ _ _ => tget va env.remote

/-- One byte of bay `b`, or none when the page faults or the read is answered with an error. -/
def byteVa (s : State) (b : Nat) (env : Env) (stale : Bool) (va : Nat) : Option Byte :=
  match xlate s b va 1 stale with
  | .ok p => placeByte s env va p
  | .fault _ => none

/-- The `n` bytes from `va`, none when one of them cannot be read. -/
def readVa (s : State) (b : Nat) (env : Env) (stale : Bool) (va : Nat) : Nat → Option (List Byte)
  | 0 => some []
  | n + 1 =>
    match byteVa s b env stale va, readVa s b env stale (va + 1) n with
    | some x, some xs => some (x :: xs)
    | _, _ => none

/-- The `n` bytes the host answers from an I/O virtual address (R392). -/
def readHost (env : Env) (iova : Nat) : Nat → Option (List Byte)
  | 0 => some []
  | n + 1 =>
    match tget iova env.host, readHost env (iova + 1) n with
    | some x, some xs => some (x :: xs)
    | _, _ => none

/-! ## Host translations (R393) -/

/-- The host pages of a list of ranges, with the device page of each. -/
def hostPagesOf (s : State) (b : Nat) (rows : List (Nat × Nat)) (need : Nat) (stale : Nat → Bool) : List (Nat × Nat) :=
  rows.flatMap fun r => (pagesOf r.1 r.2).filterMap fun p => match xlate s b p.1 need (stale (p.1 / 4096)) with
    | .ok (.host iova) => some (iova / 4096, p.1)
    | _ => none

/-- The translated address a request to host memory carries (R392, R393): none in H, and in F while ATS is off; else that of the cached
translation. -/
def hostXl (s : State) (b iova : Nat) : Option Nat :=
  if isF s && (bay s b).mem.atsEnable then (tget (iova / 4096) (bay s b).mem.atc).map fun e => e.2 * 4096 + iova % 4096 else none

/-- A write of bay `b` to host memory leaves by its function (R392, R393). -/
def hostPut (b iova : Nat) (bs : List Byte) (s : State) : State := emit (.hostWrite (b + 1) iova bs (reqT s (b + 1)) (hostXl s b iova)) s

/-- A read of bay `b` of host memory leaves by its function; the bytes come with the row (log entry 5). -/
def hostAsk (b iova n : Nat) (s : State) : State := emit (.hostRead (b + 1) iova n (reqT s (b + 1)) (hostXl s b iova)) s

/-- The reads that a range of bay `b` takes of the host and of other endpoints go out (R392, R423): the bytes come with the row (log entry
5). -/
def askVa (b va n : Nat) (s : State) : State :=
  (pagesOf va n).foldl (fun t p => match xlate t b p.1 1 true with
    | .ok (.win k) => askWin k p.2 t
    | .ok (.host iova) => hostAsk b iova p.2 t
    | .ok (.remote ep w off) => ownJob { bay := b, wr := false, dst := ep, addr := globalAddr w off, left := p.2 } t
    | _ => t) s

/-- Whether an access of a command reaches host memory while the bay's interface issues nothing (R355, R356): the command waits. -/
def hostWaits (s : State) (b va n need : Nat) : Bool := hostShut s b && !(hostPagesOf s b [(va, n)] need fun _ => false).isEmpty

/-- In configuration F, a host page needs a cached translation with the permission (R393): the first page of a list that
has none is asked for, and the access waits for its completion. -/
def atsMiss (s : State) (b : Nat) (pages : List (Nat × Nat)) : Option (Nat × Nat) :=
  if isF s && (bay s b).mem.atsEnable then pages.find? fun p => (tget p.1 (bay s b).mem.atc).isNone else none

/-- The first host page of a list whose cached translation lacks the permission `need` (R394). -/
def atsDenied (s : State) (b need : Nat) (pages : List (Nat × Nat)) : Option (Nat × Nat) :=
  if isF s && (bay s b).mem.atsEnable then pages.find? fun p => match tget p.1 (bay s b).mem.atc with
    | some e => e.1 / need % 2 == 0
    | none => false
  else none

/-- A Translation Request for a host page, and the access that waits for it (R393): `c` is its command, or for the engines 7
and 8, the reads and the writes of rings, its queue. -/
def atsAsk (b page dev c need engine : Nat) (s : State) : State :=
  let w := (page, c, need, dev, engine)
  if (bay s b).mem.atsWait.contains w then s
  else emit (.translationRequest (b + 1) page (reqT s (b + 1))) (modBm b (fun m => { m with atsWait := m.atsWait ++ [w] }) s)

/-- The first address of a range whose byte cannot be read: the device address, or the I/O address where the host refuses (R267). -/
def badByte (s : State) (b : Nat) (env : Env) (stale : Bool) (va n : Nat) : Nat :=
  ((List.range n).findSome? fun i => match xlate s b (va + i) 1 stale with
    | .ok (.host a) => if (tget a env.host).isNone then some a else none
    | .ok p => if (placeByte s env (va + i) p).isNone then some (va + i) else none
    | .fault _ => some (va + i)).getD va

/-- Writes to device memory of bay `b`, page piece by page piece; a piece that maps host memory is driven at the host
link, a piece that maps no placed memory is dropped. -/
def writeVa (b va : Nat) (bs : List Byte) (s : State) : State :=
  (pagesOf va bs.length).foldl (fun t p =>
    let part := (bs.drop (p.1 - va)).take p.2
    match xlate t b p.1 2 false with
    | .ok (.hbm pa) => writePa pa part t
    | .ok (.win k) => writeWin k part t
    | .ok (.host iova) => hostPut b iova part t
    | _ => t) s

/-- The poisoned blocks a range of bay `b` touches, lowest address first: device address and class. -/
def poisonVa (s : State) (b va n : Nat) : Option (Nat × Nat) :=
  (pagesOf va n).findSome? fun p => match xlate s b p.1 1 false with
    | .ok (.hbm pa) => (poisonIn s pa p.2).head?.map fun e => (p.1 + (e.1 * 512 - pa), e.2)
    | _ => none

end Sys2Proof.Machine
end

