-- ==== Sys2Proof/Machine/Num.lean ====
section
/-! DEFINITION. Number formats and arithmetic (R67 to R92): values as exact dyadic numbers, their encodings, the one
rounding (R82, R84), matrix groups (R75 to R79) and the generator (R86). -/
namespace Sys2Proof.Machine

/-- A value: NaN, an infinity, or (-1)^neg × m × 2^e, with a signed zero where `m` is 0. -/
inductive Val
  | nan
  | inf (neg : Bool)
  | fin (neg : Bool) (m : Nat) (e : Int)
  deriving DecidableEq, Repr, Inhabited

/-- A floating-point format (R67, R68): widths, bias, whether it has infinities, whether its subnormals count, whether
a finite overflow saturates, its largest finite value as `maxM` × 2^`maxE`, and its NaN (R84). -/
structure Fmt where
  eb : Nat
  mb : Nat
  bias : Int
  hasInf : Bool
  sub : Bool
  sat : Bool
  maxM : Nat
  maxE : Int
  nanCode : Nat
  deriving DecidableEq, Repr, Inhabited

def fp32 : Fmt := ⟨8, 23, 127, true, false, false, 0xFFFFFF, 104, 0x7FC00000⟩
def bf16 : Fmt := ⟨8, 7, 127, true, false, false, 0xFF, 120, 0x7FC0⟩
def fp16 : Fmt := ⟨5, 10, 15, true, true, false, 0x7FF, 5, 0x7E00⟩
def e4m3 : Fmt := ⟨4, 3, 7, false, true, true, 14, 5, 0x7F⟩
def e5m2 : Fmt := ⟨5, 2, 15, true, true, true, 7, 13, 0x7E⟩

/-- The format of a type code of the V format (R37). -/
def fmtOfType : Nat → Option Fmt
  | 0 => some fp32
  | 1 => some bf16
  | 2 => some fp16
  | 4 => some e4m3
  | 5 => some e5m2
  | _ => none

/-- The value of `sign`, exponent field `x` and mantissa field `m` with `mb` mantissa bits, all patterns finite (R67). -/
def finiteOf (neg : Bool) (x m mb : Nat) (bias : Int) (sub : Bool) : Val :=
  if x = 0 then (if sub then .fin neg m (1 - bias - mb) else .fin neg 0 0)
  else .fin neg (2 ^ mb + m) (Int.ofNat x - bias - mb)

/-- The value a code of format `f` stands for (R67 to R69). -/
def decodeF (f : Fmt) (c : Nat) : Val :=
  let neg := bit c (f.eb + f.mb)
  let x := bits c (f.eb + f.mb - 1) f.mb
  let m := bits c (f.mb - 1) 0
  if f.hasInf && x == 2 ^ f.eb - 1 then (if m = 0 then .inf neg else .nan)
  else if !f.hasInf && x == 2 ^ f.eb - 1 && m == 2 ^ f.mb - 1 then .nan
  else finiteOf neg x m f.mb f.bias f.sub

/-- The lane value of FP32 bits (R69, R88). -/
def lane (w : W32) : Val := decodeF fp32 w.toNat

/-- `m` × 2^`e` counted in units of 2^`q`, rounded: to nearest even for `none`, stochastically with `some r` (R82). -/
def roundUnits (m : Nat) (e q : Int) (r : Option Nat) : Nat :=
  if q ≤ e then m * 2 ^ (e - q).toNat
  else
    let sh := (q - e).toNat
    let n := m / 2 ^ sh
    let rem := m % 2 ^ sh
    let up := match r with
      | none => decide (2 ^ sh < 2 * rem) || (decide (2 * rem = 2 ^ sh) && n % 2 == 1)
      | some r => decide (65536 ≤ rem * 65536 / 2 ^ sh + r)
    if up then n + 1 else n

/-- The place of the last mantissa bit of format `f` for a number whose leading bit is at 2^`lead` (R82, R84). -/
def lastPlace (f : Fmt) (lead : Int) : Int := max lead (1 - f.bias) - f.mb

/-- Whether `m` × 2^`e` exceeds `k` × 2^`l`. -/
def exceeds (m : Nat) (e : Int) (k : Nat) (l : Int) : Bool :=
  if l ≤ e then decide (k < m * 2 ^ (e - l).toNat) else decide (k * 2 ^ (l - e).toNat < m)

/-- The value rounded to format `f` (R82, R84). -/
def roundTo (f : Fmt) (r : Option Nat) : Val → Val
  | .nan => .nan
  | .inf neg => if f.hasInf then .inf neg else .fin neg f.maxM f.maxE
  | .fin neg m e =>
    if m = 0 then .fin neg 0 0
    else
      let q := lastPlace f (e + Int.ofNat (Nat.log2 m))
      let n := roundUnits m e q r
      if exceeds n q f.maxM f.maxE then (if f.sat then .fin neg f.maxM f.maxE else .inf neg)
      else if n = 0 then .fin neg 0 0
      else if !f.sub && decide (n < 2 ^ f.mb) then .fin neg 0 0
      else .fin neg n q

/-- The code of a value that format `f` represents exactly. -/
def encodeF (f : Fmt) : Val → Nat
  | .nan => f.nanCode
  | .inf neg => b2n neg * 2 ^ (f.eb + f.mb) + (2 ^ f.eb - 1) * 2 ^ f.mb
  | .fin neg m e =>
    let s := b2n neg * 2 ^ (f.eb + f.mb)
    if m = 0 then s
    else
      let lead := e + Int.ofNat (Nat.log2 m)
      let q := lastPlace f lead
      let n := roundUnits m e q none
      if n < 2 ^ f.mb then s + n
      else s + (lead + f.bias).toNat * 2 ^ f.mb + (n - 2 ^ f.mb)

/-- The lane bits of a value FP32 represents exactly. -/
def laneOf (v : Val) : W32 := BitVec.ofNat 32 (encodeF fp32 v)

/-- The lane of a result rounded to type `f` (R88). -/
def laneRound (f : Fmt) (r : Option Nat) (v : Val) : W32 := laneOf (roundTo f r v)

/-! ## Exact operations -/

def negV : Val → Val
  | .nan => .nan
  | .inf s => .inf (!s)
  | .fin s m e => .fin (!s) m e

/-- A finite value as a signed number of units of 2^`l`, for `l` no higher than its exponent. -/
def unitsAt (s : Bool) (m : Nat) (e l : Int) : Int :=
  let k := Int.ofNat (m * 2 ^ (e - l).toNat)
  if s then -k else k

/-- The exact sum; a sum of zero is +0 unless both terms are −0 (R90). -/
def addV : Val → Val → Val
  | .nan, _ => .nan
  | _, .nan => .nan
  | .inf a, .inf b => if a = b then .inf a else .nan
  | .inf a, _ => .inf a
  | _, .inf b => .inf b
  | .fin a m e, .fin b n f =>
    if m = 0 ∧ n = 0 then .fin (a && b) 0 0
    else
      let l := min e f
      let t := unitsAt a m e l + unitsAt b n f l
      if t = 0 then .fin false 0 0 else .fin (decide (t < 0)) t.natAbs l

/-- The exact product. -/
def mulV : Val → Val → Val
  | .nan, _ => .nan
  | _, .nan => .nan
  | .inf a, .inf b => .inf (a != b)
  | .inf a, .fin b n _ => if n = 0 then .nan else .inf (a != b)
  | .fin a m _, .inf b => if m = 0 then .nan else .inf (a != b)
  | .fin a m e, .fin b n f => .fin (a != b) (m * n) (e + f)

/-- Whether `a` is below `b`, with −0 below +0 (R90); neither is NaN. -/
def ltV : Val → Val → Bool
  | .inf a, .inf b => a && !b
  | .inf a, _ => a
  | _, .inf b => !b
  | .fin a m e, .fin b n f =>
    if m = 0 ∧ n = 0 then a && !b
    else
      let l := min e f
      decide (unitsAt a m e l < unitsAt b n f l)
  | _, _ => false

/-- The larger operand, NaN where either is (R90). -/
def maxV (a b : Val) : Val := if a = .nan ∨ b = .nan then .nan else if ltV a b then b else a
/-- The smaller operand, NaN where either is (R90). -/
def minV (a b : Val) : Val := if a = .nan ∨ b = .nan then .nan else if ltV b a then b else a

/-- A signed integer as a value. -/
def ofInt (i : Int) : Val := .fin (decide (i < 0)) i.natAbs 0

/-- The lane value as INT32 (R81, R84). -/
def toInt32 (r : Option Nat) : Val → W32
  | .nan => 0
  | .inf s => if s then 0x80000000 else 0x7FFFFFFF
  | .fin s m e =>
    let n := roundUnits m e 0 r
    if s then (if 2 ^ 31 ≤ n then 0x80000000 else BitVec.ofInt 32 (-(Int.ofNat n)))
    else if 2 ^ 31 ≤ n then 0x7FFFFFFF else BitVec.ofNat 32 n

/-! ## The stochastic generator (R86) -/

/-- One step of the generator. -/
def rngStep (x : W64) : W64 :=
  let x := x ^^^ (x <<< 13)
  let x := x ^^^ (x >>> 7)
  x ^^^ (x <<< 17)

/-- `n` steps: the final state and the r of each step in order. -/
def rngSteps : Nat → W64 → W64 × List Nat
  | 0, x => (x, [])
  | n + 1, x =>
    let y := rngStep x
    let p := rngSteps n y
    (p.1, (y >>> 48).toNat :: p.2)

/-- The state of the generator at START (R86). -/
def rngSeed (lo hi : W64) (q : Nat) : W64 :=
  let x := lo ^^^ hi.rotateLeft (q % 64) ^^^ BitVec.ofNat 64 q
  if x = 0 then 1 else x

/-! ## Special functions (R91) -/

/-- The product of the roots of 2 picked by `k` binary digits of a fraction `f`, highest first: `root` is the root before the one of
the next digit, in units of 2^-160. -/
def expFrac : Nat → Nat → Nat → Nat → Nat
  | 0, _, _, acc => acc
  | k + 1, f, root, acc =>
    let r := Nat.sqrt (root * 2 ^ 160)
    expFrac k f r (if bit f k then acc * r / 2 ^ 160 else acc)

/-- A function result far closer than any type can tell: mantissa and exponent from below, and whether it is exact. -/
structure Approx where
  m : Nat
  e : Int
  exact : Bool
  deriving DecidableEq, Repr, Inhabited

/-- 2^x for a finite x = ±m × 2^e; digits of the fraction below 2^-120 only make it inexact. -/
def approxExp2 (s : Bool) (m : Nat) (e : Int) : Approx :=
  let t : Int := if 0 ≤ e + 120 then Int.ofNat (m * 2 ^ (e + 120).toNat) else Int.ofNat (m / 2 ^ (-(e + 120)).toNat)
  let rest : Bool := if 0 ≤ e + 120 then false else m % 2 ^ (-(e + 120)).toNat != 0
  let t : Int := if s then (if rest then -t - 1 else -t) else t
  let k := t / 2 ^ 120
  let f := (t % 2 ^ 120).toNat
  ⟨expFrac 120 f (2 * 2 ^ 160) (2 ^ 160), k - 160, f == 0 && !rest⟩

/-- 1 / (m × 2^e) for m ≠ 0. -/
def approxRcp (m : Nat) (e : Int) : Approx :=
  let b := Nat.log2 m + 160
  ⟨2 ^ b / m, -e - b, 2 ^ b % m == 0⟩

/-- 1 / √(m × 2^e) for m ≠ 0. -/
def approxRsq (m : Nat) (e : Int) : Approx :=
  let m' := if e % 2 = 0 then m else 2 * m
  let e' := if e % 2 = 0 then e else e - 1
  let b := Nat.log2 m' + 160
  let q := 2 ^ (2 * b) / m'
  let n := Nat.sqrt q
  ⟨n, -(e' / 2) - b, decide (n * n * m' = 2 ^ (2 * b))⟩

/-- A free result within the accuracy of R91 around an approximation. For FP32 a value at most `ulps` units from the exact one is
rounded under R82, so the results lie between the roundings of the two outermost values; for BF16 and FP16 the result lies within
one unit of the type. -/
def nearby (f : Fmt) (ulps : Nat) (choice : Int) (r : Option Nat) (a : Approx) : Val :=
  if a.m = 0 then .fin false 0 0
  else
    let q := lastPlace f (a.e + Int.ofNat (Nat.log2 a.m))
    let m := 2 * a.m + b2n (!a.exact)
    let e := a.e - 1
    let unit := 2 ^ (q - e).toNat
    let n := roundUnits m e q (some 0)
    let lo := if f = fp32 then roundUnits (m - ulps * unit) e q r else if n * unit = m then n - 1 else n
    let hi := if f = fp32 then roundUnits (m + ulps * unit) e q r else n + 1
    roundTo f none (.fin false (lo + (choice % Int.ofNat (hi - lo + 1)).toNat) q)

/-- VEXP2, VRCP and VRSQ (operations 0, 1, 2) on one lane, the result left free within R91. -/
def funcOp (op : Nat) (f : Fmt) (choice : Int) (r : Option Nat) : Val → Val
  | .nan => .nan
  | .inf s =>
    if op = 0 then (if s then .fin false 0 0 else .inf false)
    else if op = 1 then .fin s 0 0
    else if s then .nan else .fin false 0 0
  | .fin s m e =>
    if op = 0 then
      if !s && !exceeds 128 0 m e then .inf false
      else if s && exceeds m e 126 0 then .fin false 0 0
      else nearby f 2 choice r (approxExp2 s m e)
    else if op = 1 then
      if m = 0 then .inf s
      else if exceeds m e 1 126 then .fin s 0 0
      else match nearby f 1 choice r (approxRcp m e) with
        | .fin _ n k => .fin s n k
        | .inf _ => .inf s
        | .nan => .nan
    else if m = 0 then .inf s
    else if s then .nan
    else nearby f 1 choice r (approxRsq m e)

/-! ## The matrix unit -/

/-- A matrix format (R38): bits of an element, whether it carries block scales, whether it is an integer format,
clocks per row. -/
structure MFmt where
  width : Nat
  mx : Bool
  int : Bool
  wide : Bool
  deriving DecidableEq, Repr, Inhabited

/-- The formats by code; codes from 9 are reserved. -/
def mfmt : Nat → Option MFmt
  | 0 => some ⟨8, false, false, false⟩
  | 1 => some ⟨8, false, false, false⟩
  | 2 => some ⟨4, true, false, false⟩
  | 3 => some ⟨6, true, false, false⟩
  | 4 => some ⟨6, true, false, false⟩
  | 5 => some ⟨8, true, true, false⟩
  | 6 => some ⟨16, false, false, true⟩
  | 7 => some ⟨16, false, false, true⟩
  | 8 => some ⟨8, false, true, false⟩
  | _ => none

/-- K of a bfmt (R38). -/
def depthK (b : Nat) : Nat := if b = 2 then 128 else 64

/-- The permitted pairings (R39). -/
def pairing (a b : Nat) : Bool :=
  if a = 5 || a = 8 then b = 5 || b = 8
  else if a = 6 || a = 7 then b = 6 || b = 7
  else if b = 2 then a = 2 || a = 0 || a = 1
  else (a = 0 || a = 1 || a = 3 || a = 4) && (b = 0 || b = 1 || b = 3 || b = 4)

/-- The value of an element code of a floating-point matrix format (R67 to R69). -/
def elemVal (fmt c : Nat) : Val :=
  match fmt with
  | 0 => decodeF e4m3 c
  | 1 => decodeF e5m2 c
  | 2 => finiteOf (bit c 3) (bits c 2 1) (bits c 0 0) 1 1 true
  | 3 => finiteOf (bit c 5) (bits c 4 3) (bits c 2 0) 3 1 true
  | 4 => finiteOf (bit c 5) (bits c 4 2) (bits c 1 0) 2 3 true
  | 6 => decodeF bf16 c
  | _ => decodeF fp16 c

/-- The integer encoding of an 8-bit element. -/
def elemInt (c : Nat) : Int := if c < 128 then Int.ofNat c else Int.ofNat c - 256

/-- The `n` element codes of width `w` packed in a byte string (R73, R74). -/
def unpack (w n : Nat) (bs : List Byte) : List Nat :=
  let x := leNat bs
  (List.range n).map fun i => x / 2 ^ (w * i) % 2 ^ w

/-- A block scale: the power of two it stands for, none for NaN (R70); a format without scales has factor 1. -/
def scaleExp (c : Byte) : Option Int := if c = 0xFF then none else some (Int.ofNat c.toNat - 127)

/-- The magnitude of a product cut at the place 2^`cut` (R75). -/
def truncAt (cut : Int) (m : Nat) (e : Int) : Nat × Int :=
  if cut ≤ e then (m, e) else (m / 2 ^ (cut - e).toNat, cut)

/-- The result of a floating-point group (R75, R77, R78): `scale` none where a scale is NaN. -/
def groupFp (bfPair : Bool) (scale : Option Int) (as bs : List Val) : Val :=
  match scale with
  | none => .nan
  | some k =>
    let ps := List.zipWith mulV as bs
    if ps.any (· == .nan) then .nan
    else
      let pinf := ps.any (· == .inf false)
      let ninf := ps.any (· == .inf true)
      if pinf && ninf then .nan
      else if pinf then .inf false
      else if ninf then .inf true
      else
        let top : Option Int := ps.foldl (fun t p => match p with
          | .fin _ m e =>
            if m = 0 then t
            else
              let l := e + Int.ofNat (Nat.log2 m)
              match t with
              | none => some l
              | some x => some (max x l)
          | _ => t) none
        let sum := ps.foldl (fun (t : Val) p => match p with
          | .fin s m e =>
            match bfPair, top with
            | true, some l =>
              let c := truncAt (l - 50) m e
              addV t (.fin s c.1 c.2)
            | _, _ => addV t p
          | _ => t) (.fin true 0 0)
        match sum with
        | .fin s m e => roundTo fp32 none (.fin s m (e + k))
        | v => v

/-- The shifted result of an integer group (R79), none where a scale is NaN. -/
def groupInt (scale : Option Int) (as bs : List Int) : Int :=
  match scale with
  | none => 0
  | some d =>
    let p := (List.zipWith (· * ·) as bs).foldl (· + ·) 0
    if 0 ≤ d then p * 2 ^ d.toNat else p / 2 ^ (-d).toNat

/-- A list in the order a number picks. -/
def permute {α : Type} : Nat → Nat → List α → List α
  | 0, _, _ => []
  | n + 1, k, xs =>
    match xs.drop (k % xs.length) with
    | [] => xs
    | x :: ys => x :: permute n (k / xs.length) (xs.take (k % xs.length) ++ ys)

/-- An FP32 addition of the accumulator (R76, R77). -/
def accAdd (a b : Val) : Val := roundTo fp32 none (addV a b)

/-- The entry after the group results are added, in the order `k` picks (R76). A sum with a negative value below 2^-126 is -0 by R77 even
with zero = 1, where R76 says that the entry never holds -0: the model follows R77 there (log entry 67). -/
def accSum (k : Nat) (old : Option W32) (gs : List Val) : W32 :=
  match old with
  | none => laneOf ((permute gs.length k gs).foldl accAdd (.fin false 0 0))
  | some w =>
    match permute (gs.length + 1) k (lane w :: gs) with
    | [] => w
    | g :: t => laneOf (t.foldl accAdd g)

end Sys2Proof.Machine
end

