-- ==== Sys2Proof/Machine/Operands.lean ====
section
/-! DEFINITION. Operand forms: the fields of an ashlar instruction word (R36), which words are legal (R37, R41, R66), the
DMA descriptor (R42, R43), the mortar header and its CRC (R48, R50), and packed coordinates (R54). -/
namespace Sys2Proof.Machine

/-- Bits `[hi:lo]` of an instruction word. -/
def wf (w : W64) (hi lo : Nat) : Nat := bits w.toNat hi lo

/-- Class and operation, as class × 256 + operation (R36). -/
def codeOf (w : W64) : Nat := wf w 63 60 * 256 + wf w 59 52

/-- A field of `n` bits read as two's complement. -/
def sext (n x : Nat) : Int := if x < 2 ^ (n - 1) then Int.ofNat x else Int.ofNat x - 2 ^ n

/-! ### Format S -/
def sRd (w : W64) : Nat := wf w 51 47
def sRs1 (w : W64) : Nat := wf w 46 42
def sRs2 (w : W64) : Nat := wf w 41 37
def sI (w : W64) : Bool := bit w.toNat 36
def sImm (w : W64) : W64 := BitVec.ofInt 64 (sext 36 (wf w 35 0))

/-! ### Format B -/
def bRs1 (w : W64) : Nat := wf w 51 47
def bRs2 (w : W64) : Nat := wf w 46 42
def bRd (w : W64) : Nat := wf w 41 37
def bTarget (w : W64) : Nat := wf w 36 24

/-! ### Format L -/
def lRt (w : W64) : Nat := wf w 51 47
def lBase (w : W64) : Nat := wf w 46 42
def lOff (w : W64) : W64 := BitVec.ofInt 64 (sext 20 (wf w 41 22))

/-! ### Formats MW and MA -/
def mwFmt (w : W64) : Nat := wf w 51 48
def mwLine (w : W64) : Nat := wf w 47 35
def mwScale (w : W64) : Nat := wf w 34 22
def maFmt (w : W64) : Nat := wf w 51 48
def maAcc (w : W64) : Nat := wf w 47 39
def maRows (w : W64) : Nat := wf w 38 29
def maLine (w : W64) : Nat := wf w 28 16
def maZero (w : W64) : Bool := bit w.toNat 15
def maSwap (w : W64) : Bool := bit w.toNat 14
def maScale (w : W64) : Nat := wf w 13 1

/-! ### Format V -/
def vVd (w : W64) : Nat := wf w 51 48
def vVa (w : W64) : Nat := wf w 47 44
def vVb (w : W64) : Nat := wf w 43 40
def vVc (w : W64) : Nat := wf w 39 36
def vType (w : W64) : Nat := wf w 35 33
def vRnd (w : W64) : Nat := wf w 32 31
def vBase (w : W64) : Nat := wf w 30 26
def vOff (w : W64) : W64 := BitVec.ofInt 64 (sext 20 (wf w 25 6))

/-! ### Format X -/
def xRa (w : W64) : Nat := wf w 51 47
def xRb (w : W64) : Nat := wf w 46 42
def xRd (w : W64) : Nat := wf w 41 37
def xSel (w : W64) : Nat := wf w 36 33
def xN (w : W64) : Nat := wf w 32 17

/-! ### Legal words -/

/-- The word of an S instruction: class 0, operation, fields (R36). -/
def encS (op rd rs1 rs2 : Nat) (i : Bool) (imm : Nat) : W64 :=
  BitVec.ofNat 64 (op * 2 ^ 52 + rd * 2 ^ 47 + rs1 * 2 ^ 42 + rs2 * 2 ^ 37 + b2n i * 2 ^ 36 + imm)
/-- The word of a B instruction. -/
def encB (op rs1 rs2 rd target : Nat) : W64 :=
  BitVec.ofNat 64 (1 * 2 ^ 60 + op * 2 ^ 52 + rs1 * 2 ^ 47 + rs2 * 2 ^ 42 + rd * 2 ^ 37 + target * 2 ^ 24)
/-- The word of an L instruction. -/
def encL (op rt base off : Nat) : W64 :=
  BitVec.ofNat 64 (2 * 2 ^ 60 + op * 2 ^ 52 + rt * 2 ^ 47 + base * 2 ^ 42 + off * 2 ^ 22)
/-- The word of an MLDW. -/
def encMW (bfmt wLine sLine : Nat) : W64 :=
  BitVec.ofNat 64 (3 * 2 ^ 60 + bfmt * 2 ^ 48 + wLine * 2 ^ 35 + sLine * 2 ^ 22)
/-- The word of an MMA (operation 1) or MZERO (operation 2). -/
def encMA (op afmt accRow rows aLine : Nat) (zero swap : Bool) (asLine : Nat) : W64 :=
  BitVec.ofNat 64 (3 * 2 ^ 60 + op * 2 ^ 52 + afmt * 2 ^ 48 + accRow * 2 ^ 39 + rows * 2 ^ 29 + aLine * 2 ^ 16 +
    b2n zero * 2 ^ 15 + b2n swap * 2 ^ 14 + asLine * 2)
/-- The word of a V instruction. -/
def encV (op vd va vb vc type rnd base off : Nat) : W64 :=
  BitVec.ofNat 64 (4 * 2 ^ 60 + op * 2 ^ 52 + vd * 2 ^ 48 + va * 2 ^ 44 + vb * 2 ^ 40 + vc * 2 ^ 36 + type * 2 ^ 33 +
    rnd * 2 ^ 31 + base * 2 ^ 26 + off * 2 ^ 6)
/-- The word of an X instruction of class 5, 6 or 7. -/
def encX (cls op ra rb rd sel n : Nat) : W64 :=
  BitVec.ofNat 64 (cls * 2 ^ 60 + op * 2 ^ 52 + ra * 2 ^ 47 + rb * 2 ^ 42 + rd * 2 ^ 37 + sel * 2 ^ 33 + n * 2 ^ 17)

/-- Whether a type code may stand in a V operation (R37, R81, R89). -/
def typeOk (op t : Nat) : Bool :=
  if op = 0x02 || op = 0x03 then decide (t ≤ 3)
  else if op = 0x00 || op = 0x01 || op = 0x20 then (fmtOfType t).isSome
  else decide (t ≤ 2)

/-- Whether an instruction word is legal as far as the word alone tells (R36, R37, R41, R66). -/
def legal (w : W64) : Bool :=
  let op := wf w 59 52
  match wf w 63 60 with
  | 0 => decide (op ≤ 0x0A) || op == 0x10
  | 1 => decide (op ≤ 6) && wf w 23 0 == 0
  | 2 => decide (op ≤ 7) && wf w 21 0 == 0
  | 3 =>
    if op = 0 then (mfmt (mwFmt w)).isSome && wf w 21 0 == 0
    else if op = 1 then (mfmt (maFmt w)).isSome && wf w 0 0 == 0
    else op == 2 && maFmt w == 0 && wf w 28 0 == 0
  | 4 =>
    (decide (op ≤ 4) || (decide (0x10 ≤ op) && decide (op ≤ 0x18)) || (decide (0x20 ≤ op) && decide (op ≤ 0x22))) &&
      wf w 5 0 == 0 && decide (vRnd w ≤ 1) && typeOk op (vType w) && (op != 0x20 || (fmtOfType (vVc w)).isSome)
  | 5 => decide (op ≤ 2) && wf w 16 0 == 0
  | 6 => decide (op ≤ 6) && wf w 16 0 == 0
  | 7 => decide (op ≤ 5) && wf w 16 0 == 0
  | _ => false

/-! ## The DMA descriptor -/

/-- The fields of a descriptor (R42). -/
def descOf (bs : List Byte) : DmaDesc :=
  let fl := fld bs 0x20 4
  let nt := fld bs 0x24 4
  { vaddr := fld bs 0 8, rows := fld bs 8 4, rowBytes := fld bs 0x0C 4, memStride := fld bs 0x10 8,
    spadAddr := fld bs 0x18 4, spadStride := fld bs 0x1C 4, toMem := bit fl 0, notifyEn := bit fl 1,
    dx := bits nt 4 0, dy := bits nt 12 8, joint := bits nt 19 16 }

/-- Whether the reserved bits of a descriptor are 0 (R43). -/
def descReserved (bs : List Byte) : Bool :=
  let nt := fld bs 0x24 4
  decide (fld bs 0x20 4 < 4) && bits nt 7 5 == 0 && bits nt 15 13 == 0 && bits nt 31 20 == 0 &&
    allZero ((bs.drop 0x28).take 0x18)

/-- The sizes, strides and alignments of R42, and the scratchpad's end (R43). -/
def descShape (d : DmaDesc) : Bool :=
  decide (1 ≤ d.rows) && decide (d.rows ≤ 4096) && d.rowBytes % 64 == 0 && decide (64 ≤ d.rowBytes) &&
    decide (d.rowBytes ≤ 65536) && d.memStride % 64 == 0 && d.spadStride % 64 == 0 && d.spadAddr % 64 == 0 &&
    (d.rows == 1 || (decide (d.rowBytes ≤ d.memStride) && decide (d.rowBytes ≤ d.spadStride))) &&
    decide (d.spadAddr + (d.rows - 1) * d.spadStride + d.rowBytes ≤ 0x80000)

/-- The scratchpad rows of a descriptor as (address, bytes). -/
def spadRows (d : DmaDesc) : List (Nat × Nat) :=
  (List.range d.rows).map fun r => (d.spadAddr + r * d.spadStride, d.rowBytes)
/-- The memory rows of a descriptor. -/
def memRows (d : DmaDesc) : List (Nat × Nat) :=
  (List.range d.rows).map fun r => (d.vaddr + r * d.memStride, d.rowBytes)

/-! ## Mortar messages -/

/-- One bit into a CRC of `w` bits with polynomial `poly`, most significant bit first. -/
def crcBit (w poly crc : Nat) (b : Bool) : Nat :=
  let top := bit crc (w - 1) != b
  let s := crc * 2 % 2 ^ w
  if top then Nat.xor s poly else s

/-- The bits of a number from bit `n` − 1 down. -/
def bitsDown : Nat → Nat → List Bool
  | 0, _ => []
  | n + 1, x => bit x n :: bitsDown n x

/-- The CRC over a bit string. -/
def crcBits (w poly init : Nat) (bs : List Bool) : Nat := bs.foldl (crcBit w poly) init

/-- The bits of a byte string, each byte from bit 7 down. R454 and R303 say so of their codes; of the payload bytes under the code of
R50 the spec gives only the order of the bytes, so bit 7 first is the model's choice there (log entry 11). -/
def byteBits (bs : List Byte) : List Bool := bs.flatMap fun b => bitsDown 8 b.toNat

/-- The crc field of a message (R50): over header bits [63:16], then the payload. -/
def mortarCrc (hdr : Nat) (payload : List Byte) : Nat :=
  crcBits 16 0x1021 0xFFFF (bitsDown 48 (hdr / 65536) ++ byteBits payload)

/-- The code of a scratchpad line (R454). -/
def lineCode (bs : List Byte) : Nat := crcBits 16 0x1021 0 (byteBits bs)

/-- A number's `n` low bits in reverse order. -/
def reflect : Nat → Nat → Nat
  | 0, _ => 0
  | n + 1, x => b2n (bit x 0) * 2 ^ n + reflect n (x / 2)

/-- CRC-32 with the IEEE polynomial (R303, R511). -/
def crc32 (bs : List Byte) : Nat :=
  Nat.xor (reflect 32 (crcBits 32 0x04C11DB7 0xFFFFFFFF (bs.flatMap fun b => bitsDown 8 (reflect 8 b.toNat)))) 0xFFFFFFFF

/-- The virtual channel each kind must use (R49), none for a reserved kind. -/
def vcOf : Nat → Option Nat
  | 0 => some 0
  | 1 => some 1
  | 2 => some 1
  | 3 => some 2
  | 4 => some 2
  | 5 => some 3
  | 6 => some 3
  | 7 => some 3
  | 8 => some 3
  | 9 => some 3
  | _ => none

/-- The header of a message (R48), its crc included. -/
def mortarHdr (kind dst src joint seq : Nat) (payload : List Byte) : W64 :=
  let h := (vcOf kind).getD 0 * 2 ^ 62 + dst * 2 ^ 51 + src * 2 ^ 40 + joint * 2 ^ 36 + kind * 2 ^ 32 +
    payload.length * 2 ^ 19 + seq * 2 ^ 16
  BitVec.ofNat 64 (h + mortarCrc h payload)

/-- The code of the west stop of course 0, where the control corner sends and receives (R22, R48). -/
def stopWest0 : Nat := 1024

/-- The header of a control message (R48, R49): kinds 0x5 and 0x6 go from the control corner to an ashlar, the others back. Its
payload is none of the spec's, so its length field is 0 (log entry 11). -/
def ctlHdr (kind a : Nat) : W64 :=
  if kind ≤ 6 then mortarHdr kind a stopWest0 0 0 [] else mortarHdr kind stopWest0 a 0 0 []

/-- Panel-relative coordinates packed as R54 packs them. -/
def unpackXy (g : W64) : Nat × Nat := (bits g.toNat 4 0, bits g.toNat 12 8)

end Sys2Proof.Machine
end

