-- ==== Sys2Proof/Machine/Races.lean ====
section
/-! DEFINITION. Accesses that race (R60, R61, R63): what a unit operation sees of scratchpad bytes and accumulator entries others
overwrite, and what transfers that are outstanding together see of each other's 64-byte lines of memory. -/
namespace Sys2Proof.Machine

/-- More free values drawn. -/
def drewN (n : Nat) (s : State) : State := { s with out := { s.out with free := s.out.free + n } }

/-! ## Inside an ashlar -/

/-- Whether an operation that may race is under way. -/
def unitsBusy (x : Ashlar) : Bool := !x.mq.isEmpty || !x.vq.isEmpty || !x.tags.isEmpty

/-- Whether a byte lies where a DMA read that is not done may write (R61). -/
def inBusyRead (x : Ashlar) (a : Nat) : Bool :=
  x.tags.any fun t => !t.2.d.toMem && (spadRows t.2.d).any fun r => decide (r.1 ≤ a) && decide (a < r.1 + r.2)

/-- Whether an operation of `unit` issued at `h0` must see an overwrite: its own unit made it, or something orders them. -/
def mustSee {α : Type} (unit h0 : Nat) (p : Overwrite α) : Bool :=
  p.writer == unit || (match p.sure with
    | some n => decide (n ≤ h0)
    | none => false)

/-- The values of one byte or entry that an operation may still see beside the present one (R60): those before overwrites that
it need not see, no later overwrite of the same place being one that it must. -/
def oldOnes {α : Type} (unit h0 : Nat) (os : List (Overwrite α)) : List α :=
  (os.filter fun o => !os.any fun p => mustSee unit h0 p && decide (o.at_ ≤ p.at_)).map (·.old)

/-- One of the current and the visible old values, as free values choose. -/
def pick {α : Type} (k : Nat) (cur : α) : List α → α
  | [] => cur
  | o :: os => if (Config.free k).toNat % 2 = 1 then o else pick (k + 1) cur os

/-- The byte an operation reads (R60): an old one or the present one, or, under a read that is not done, the one `inc` brings. -/
def seenByte (x : Ashlar) (inc : Nat → Byte) (unit h0 k a : Nat) : Byte :=
  pick (k + 64 * a) (mget x.spad a)
    ((if inBusyRead x a then [inc a] else []) ++ oldOnes unit h0 (x.hist.filter fun o => o.addr == a))

/-- The bytes an operation reads. The units are 1 and 2; the mover, 4, is no writer of its own. -/
def seenBytes (x : Ashlar) (inc : Nat → Byte) (unit h0 k a n : Nat) : List Byte :=
  if x.hist.isEmpty && x.tags.isEmpty then mread x.spad a n
  else (List.range n).map fun i => seenByte x inc unit h0 k (a + i)

/-- The entry of an accumulator row. -/
def accE (x : Ashlar) (r c : Nat) : W32 := tgetD (32 * r + c) x.acc 0
/-- The parity bit that is written with an accumulator entry (R97): even parity (log entry 66). It is a function of the entry, so State
holds it in the entry; that a read finds it wrong is an operand of the rows that read accumulators. -/
def entryParity (w : W32) : Bool := ((List.range 32).filter fun i => w.getLsbD i).length % 2 == 1

/-- The accumulator entry a unit operation reads (R60). -/
def seenAcc (x : Ashlar) (unit h0 k r c : Nat) : W32 :=
  pick (k + 64 * (32 * r + c)) (accE x r c) (oldOnes unit h0 (x.ahist.filter fun o => o.addr == 32 * r + c))

/-- The overwrites that can still matter: while nothing is under way, those that nothing orders. -/
def prune {α : Type} (busy : Bool) (os : List (Overwrite α)) : List (Overwrite α) :=
  if busy then os
  else os.filter fun o => !os.any fun p => p.addr == o.addr && p.sure.isSome && decide (o.at_ ≤ p.at_)

/-! ## Lines of memory -/

/-- A run cut at the 64-byte lines of memory, at most `k` pieces. -/
def cutFrom : Nat → Nat → Nat → List (Nat × Nat)
  | 0, _, _ => []
  | k + 1, va, n =>
    if n = 0 then []
    else
      let m := min n (64 - va % 64)
      (va, m) :: cutFrom k (va + m) (n - m)

/-- A run cut at the 64-byte lines of memory: address and bytes of each piece. -/
def cutLines (va n : Nat) : List (Nat × Nat) := cutFrom (n / 64 + 2) va n

/-- The pieces of a transfer, rows ascending: device address, scratchpad address, bytes (R42, R63). -/
def xferPieces (d : DmaDesc) : List (Nat × Nat × Nat) :=
  (List.zip (memRows d) (spadRows d)).flatMap fun r => (cutLines r.1.1 r.1.2).map fun p => (p.1, r.2.1 + (p.1 - r.1.1), p.2)

/-- A line of placed memory of bay `b`. -/
def lineOf (s : State) (b l : Nat) : Option (List Byte) :=
  match xlate s b (64 * l) 0 true with
  | .ok (.hbm pa) => some (mread s.mem.hbm pa 64)
  | .ok (.win k) => some (mread s.mem.win k 64)
  | _ => none

/-- What a read that is not done brings to scratchpad byte `a`: the byte of placed memory, the answer it has, or a free one. -/
def incoming (s : State) (b : Nat) (x : Ashlar) (k a : Nat) : Byte :=
  let va := x.tags.findSome? fun t =>
    if t.2.d.toMem then none
    else (List.zip (memRows t.2.d) (spadRows t.2.d)).findSome? fun r =>
      if r.2.1 ≤ a ∧ a < r.2.1 + r.2.2 then some (r.1.1 + (a - r.2.1), t.2.got) else none
  match va with
  | none => mget x.spad a
  | some (v, got) =>
    match xlate s b v 0 true, tget v got with
    | .ok (.hbm pa), _ => mget s.mem.hbm pa
    | .ok (.win w), _ => mget s.mem.win w
    | _, some y => y
    | _, none => (Config.free (k + 2 ^ 26 + a)).truncate 8

/-- The source bytes of a piece of a DMA write: what they were at some moment since its issue (R60, R61). -/
def sourceBytes (s : State) (b : Nat) (x : Ashlar) (h0 a n : Nat) : List Byte :=
  seenBytes x (incoming s b x s.out.free) 4 h0 s.out.free a n

/-- Whether a transfer touches a line of memory. -/
def touchesLine (d : DmaDesc) (l : Nat) : Bool := (memRows d).any fun r => overlaps r.1 r.2 (64 * l) 64

/-- What a transfer in flight notes of a line that another write is about to land on. -/
def noteLine (s : State) (b l : Nat) (x : DmaXfer) : DmaXfer :=
  if !touchesLine x.d l then x
  else if x.d.toMem then { x with clash := sput l x.clash }
  else match lineOf s b l with
    | some bs => { x with olds := (l, bs) :: x.olds }
    | none => x

/-- Every transfer in flight of bay `b` notes a line about to be written (R63): in place, or in the staging extent of command
`only`. -/
def noteLanded (b : Nat) (only : Option Nat) (l : Nat) (s : State) : State :=
  let mine (x : Ashlar) : Bool := !x.tags.isEmpty && (cmdD s x.cid).bay == b && (match only with
    | some c => x.cid == c
    | none => true)
  let note (x : DmaXfer) : DmaXfer := if only.isSome && !x.d.toMem then x else noteLine s b l x
  let go (e : Nat × Ashlar) : Nat × Ashlar := if mine e.2 then (e.1, { e.2 with tags := tmap (fun _ x => note x) e.2.tags }) else e
  { s with grid := { s.grid with ashlars := s.grid.ashlars.map go } }

/-- A line with the bytes of a run laid over it. -/
def overlay (l va : Nat) (bs line : List Byte) : List Byte :=
  mread (mputs va bs (mputs (64 * l) line [])) (64 * l) 64

/-- The new lines that the writes in flight of bay `b` may already have put in place (R63). -/
def newLines (s : State) (b l : Nat) (line : List Byte) : List (List Byte) :=
  s.grid.ashlars.flatMap fun e =>
    if (cmdD s e.2.cid).bay != b || bit (fld (cmdD s e.2.cid).entry 1 1) 1 then []
    else e.2.tags.flatMap fun t =>
      if !t.2.d.toMem || !touchesLine t.2.d l then []
      else (xferPieces t.2.d).filterMap fun p =>
        if p.1 / 64 = l then some (overlay l p.1 (sourceBytes s b e.2 t.2.h0 p.2.1 p.2.2) line) else none

/-- The bytes of a piece of a read: the line as it is, or, where writes run concurrently, wholly old or wholly new (R63). -/
def readLine (s : State) (b : Nat) (x : DmaXfer) (k va : Nat) (bs : List Byte) : List Byte :=
  let l := va / 64
  match lineOf s b l with
  | none => bs
  | some line =>
    match (x.olds.filter fun o => o.1 == l).map Prod.snd ++ newLines s b l line with
    | [] => bs
    | c :: cs => ((pick (k + 2 ^ 27 + l) line (c :: cs)).drop (va % 64)).take bs.length

/-- The bytes of a row of a read, line by line. -/
def readRow (s : State) (b : Nat) (x : DmaXfer) (va : Nat) (bs : List Byte) : List Byte :=
  (cutLines va bs.length).flatMap fun p => readLine s b x s.out.free p.1 ((bs.drop (p.1 - va)).take p.2)

end Sys2Proof.Machine
end

