-- ==== Sys2Proof/Machine/CmdOps.lean ====
section
/-! DEFINITION. What happens to a command in flight, said once: its fields, signals (R252), completion (R238), error
records (R267), how it is stopped (R65, R130), how it violates (R66, R480), faults (R397) and is detected (R455). -/
namespace Sys2Proof.Machine

/-! ## Fields of a command -/

/-- The field of `n` bytes at offset `o` of the command's entry (R233). -/
def cf (c : Cmd) (o n : Nat) : Nat := fld c.entry o n
/-- The opcode (R239). -/
def opc (c : Cmd) : Nat := cf c 0 1
/-- Flag bit `i` (R234). -/
def flag (c : Cmd) (i : Nat) : Bool := bit (cf c 1 1) i

def opLaunch : Nat := 0x01
def opQuoin : Nat := 0x02
def opCollective : Nat := 0x03
def opGraphLaunch : Nat := 0x04
def opStreamStep : Nat := 0x05
def opStreamFill : Nat := 0x06

/-- Whether the command runs on a panel (R107). -/
def onPanel (c : Cmd) : Bool := opc c == opLaunch || opc c == opCollective
/-- Whether the command runs on ashlars as a program. -/
def isLaunch (c : Cmd) : Bool := opc c == opLaunch
/-- Whether the command is a panel or shared-engine command (R107). -/
def isEngineCmd (c : Cmd) : Bool := opc c == opLaunch || opc c == opQuoin || opc c == opCollective
/-- Whether the command is STAGED (R128). -/
def staged (c : Cmd) : Bool := flag c 1
/-- Bytes written into a command's staging extent (R120, R128): the byte, and at 2^60 above it the mark that it was written. -/
def stagePut (va : Nat) (bs : List Byte) (c : Cmd) : Cmd :=
  { c with stage := mputs (2 ^ 60 + va) (List.replicate bs.length 1) (mputs va bs c.stage) }
/-- The runs of bytes a staging extent holds: address and length. -/
def stageRuns (c : Cmd) : List (Nat × Nat) :=
  ((c.stage.filter fun e => decide (2 ^ 60 ≤ e.1)).foldl (fun (l : List (Nat × Nat)) e => match l with
    | [] => [(e.1 - 2 ^ 60, 1)]
    | (a, n) :: t => if a + n = e.1 - 2 ^ 60 then (a, n + 1) :: t else (e.1 - 2 ^ 60, 1) :: (a, n) :: t) []).reverse
/-- The context a panel command names, 0 for none (R240, R243). -/
def ctxOf (c : Cmd) : Nat := if onPanel c then cf c 0x2C 4 else 0
/-- The cycle bound (R108). -/
def boundOf (c : Cmd) : Nat := cf c 0x28 4
/-- The panel's width and height. -/
def wOf (c : Cmd) : Nat := cf c 6 1
def hOf (c : Cmd) : Nat := cf c 7 1

/-- The ashlar IDs of a panel, course by course (R20, R23). -/
def rectIds (x0 y0 w h : Nat) : List Nat :=
  (List.range h).flatMap fun j => (List.range w).map fun i => (y0 + j) * 32 + x0 + i
/-- The ashlars of a placed panel command. -/
def panelIds (c : Cmd) : List Nat := if c.placed && onPanel c then rectIds c.x0 c.y0 (wOf c) (hOf c) else []

/-- The courses of one bay's share (R312). -/
def shareCourses (s : State) : Nat := courses s / s.bays.count
/-- The first course of bay `b` (R313). -/
def courseBase (s : State) (b : Nat) : Nat := b * shareCourses s
/-- The bay that holds an ashlar. -/
def bayOfAsh (s : State) (a : Nat) : Nat := a / 32 / shareCourses s
/-- The ashlars of bay `b`'s share. -/
def shareIds (s : State) (b : Nat) : List Nat := rectIds 0 (courseBase s b) 32 (shareCourses s)
/-- Whether an ashlar is marked lost (R27). -/
def isLost (s : State) (a : Nat) : Bool := bit (tgetD (a / 32) s.grid.lost 0) (a % 32)

/-- The sync objects of one bay (R220). -/
def syncPerBay (s : State) : Nat := 65536 / s.bays.count
/-- The queues of one bay. -/
def queuesPerBay (s : State) : Nat := deviceQueues s / s.bays.count
/-- The fronts of one bay. -/
def frontsPerBay (s : State) : Nat := fronts s / s.bays.count

/-- The value of a sync object. -/
def syncVal (s : State) (b o : Nat) : Nat := tgetD o (bay s b).eqi.sync 0

/-- A signal: the object takes the greater of its value and `v`; a rise is progress (R252, R486). -/
def signal (b o v : Nat) (s : State) : State :=
  if syncVal s b o < v then
    progress b (modEqi b (fun e => { e with sync := tput o v e.sync }) s)
  else s

/-- Whether the header wait of a command is satisfied (R233, R252). -/
def waitMet (s : State) (c : Cmd) : Bool := !flag c 4 || decide (cf c 8 8 ≤ syncVal s c.bay (cf c 2 2))

/-- The ring slot of a command. -/
def slotOf (s : State) (c : Cmd) : Nat :=
  match queue? s c.bay c.queue with
  | some q => c.pos % 2 ^ q.log2Ring
  | none => 0

/-- Whether the bay negotiated revision `major`.`minor` or later (R270). -/
def revAtLeast (s : State) (b minor : Nat) : Bool :=
  let e := (bay s b).eqi
  e.major == 3 && decide (minor ≤ e.minor)
/-- Whether the bay runs in 2.2 compatibility mode (R271). -/
def compat22 (s : State) (b : Nat) : Bool := (bay s b).eqi.major == 2

/-! ## Error records -/

/-- An error record (R266, R267): written into the bay's error ring, or discarded and counted where none is placed. -/
def errRecord (b kind code q slot detail address : Nat) (entry : List Byte) (origin shape ashlar engines reruns : Nat)
    (est : List Byte) (s : State) : State :=
  let e := (bay s b).eqi
  let qu := queue? s b q
  let frz := match qu with
    | some x => b2n x.frozen
    | none => 0
  let ea := match qu with
    | some x => if slot = 0xFFFF then 0 else x.ringAddr + 64 * slot
    | none => 0
  let r := natLe 8 (e.errSeq + 1) ++ natLe 2 code ++ natLe 1 kind ++ natLe 1 frz ++ natLe 2 q ++ natLe 2 slot ++
    natLe 8 ea ++ natLe 8 s.lift.num ++ padTo 64 entry ++ natLe 2 origin ++ natLe 2 shape ++ natLe 2 ashlar ++
    natLe 1 engines ++ natLe 1 reruns ++ natLe 8 address ++ natLe 8 detail ++ padTo 8 est
  if e.errRecs = 0 then
    let t := modEqi b (fun e => { e with errSeq := e.errSeq + 1 }) s
    { t with dev := { t.dev with errDiscarded := satAdd 0xFFFF t.dev.errDiscarded 1 } }
  else
    raise (srcErrRec b)
      (modEqi b (fun e => { e with errSeq := e.errSeq + 1, errPos := e.errPos + 1 })
        (writeVa b (e.errVa + 128 * (e.errPos % e.errRecs)) r s))

/-- The engine bits a command touches (R267). -/
def enginesOf (c : Cmd) : Nat :=
  if opc c = opQuoin then 2 ^ (3 + wOf c)
  else if opc c = opCollective then 3
  else if !isLaunch c then 0
  else if c.walk.isSome then 5
  else 1

/-- The state byte of each engine of the record: 0 for the engines the command does not touch (R267). -/
def engineStates (c : Cmd) (st : Nat) : List Byte :=
  (List.range 8).map fun i => if bit (enginesOf c) i then BitVec.ofNat 8 st else 0

/-- The re-runs after detection of a command, 0 to 2. -/
def rerunsOf (c : Cmd) : Nat := min 2 c.reruns

/-- The error record of a command (R267, R268); `ashlar` absolute, none where no ashlar faulted. -/
def cmdError (c : Cmd) (kind code detail address : Nat) (a : Option Nat) (st : Nat) (s : State) : State :=
  let cb := courseBase s c.bay
  let origin := if c.placed then c.x0 + (c.y0 - cb) * 256 else 0xFFFF
  let ap := match a with
    | some a => (a % 32 - c.x0) + (a / 32 - c.y0) * 256
    | none => 0xFFFF
  errRecord c.bay kind code c.queue (slotOf s c) detail address c.entry origin
    (if onPanel c then wOf c + hOf c * 256 else 0) ap (enginesOf c) (rerunsOf c) (engineStates c st) s

/-! ## Completion -/

/-- A queue's binding ends (R232). -/
def unbind (b q : Nat) (s : State) : State :=
  { s with dev := { s.dev with fronts := s.dev.fronts.filter fun e => !(e.2.bay == b && e.2.queue == q) } }

/-- Freezes a queue (R264, R402): no front serves it any more. -/
def freezeQueue (b q : Nat) (s : State) : State := unbind b q (modQueue b q (fun x => { x with frozen := true }) s)

/-- The violation record of a frozen queue (R264, R480, R485). -/
def queueViolation (b q slot reason opcode : Nat) (s : State) : State :=
  plumbRec { kind := 1, master := 1, bay := b, reason := reason, queue := q, slot := slot, detail := opcode }
    (modQueue b q (fun x => { x with viol := (reason, slot, opcode) }) s)

/-- Whether the next slot of the completion ring is free (R230). -/
def cqFree (q : Queue) : Bool := decide (q.cqNext < q.cqHead + 2 ^ q.log2Cq)

/-- A completion ring that cannot be written freezes its queue (R402). -/
def cqFail (b q address : Nat) (s : State) : State :=
  queueViolation b q 0xFFFF 0x02 0
    (errRecord b 0x04 0x33 q 0xFFFF 0 address [] 0xFFFF 0xFFFF 0xFFFF 0 0 []
      (freezeQueue b q (modQueue b q (fun x => { x with ringFailed := true }) s)))

/-- Writes the oldest owed completion entry of a queue (R238, R402), if its slot is free and its ring can be written;
byte 16 of an owed entry tells whether its vector is owed, byte 17 whether its command committed. -/
def cqWrite (b q : Nat) (s : State) : State :=
  match queue? s b q with
  | none => s
  | some x =>
    match x.owed with
    | [] => s
    | e :: rest =>
      if !cqFree x || x.ringFailed || (bit x.qflags 1 && hostShut s b) then s
      else
        let size := 2 ^ x.log2Cq
        let phase : Nat := if x.cqNext / size % 2 = 0 then 1 else 0
        let fl := BitVec.ofNat 8 (phase + ((e.drop 4).headD 0).toNat)
        let bs := e.take 4 ++ [fl] ++ (e.drop 5).take 11
        let at_ := x.cqAddr + 16 * (x.cqNext % size)
        let irq := decide ((e.drop 16).headD 0 = 1)
        let hp := if bit x.qflags 1 then [(at_ / 4096, at_)] else []
        if (atsMiss s b hp).isSome then atsAsk b (at_ / 4096) at_ q 2 8 s
        else if (atsDenied s b 2 hp).isSome || (!bit x.qflags 1 && (firstFault s b at_ 16 2 false).isSome) then cqFail b q at_ s
        else
          let t := modQueue b q (fun x => { x with owed := rest, cqNext := x.cqNext + 1 }) s
          let t := if bit x.qflags 1 then hostPut b at_ bs t else writeVa b at_ bs t
          if irq then oweVector b x.vector t else t

/-- Writes every owed entry that can be written, in order. -/
def cqFlush : Nat → Nat → Nat → State → State
  | 0, _, _, s => s
  | n + 1, b, q, s => cqFlush n b q (cqWrite b q s)

/-- Writes what a queue owes. -/
def cqPost (b q : Nat) (s : State) : State :=
  match queue? s b q with
  | none => s
  | some x => cqFlush x.owed.length b q s

/-- The completion entry of a command (R237), phase not yet set, with the marks of the vector and of the commit last. -/
def cqEntry (s : State) (c : Cmd) (code result : Nat) (er : Bool) : List Byte :=
  let old := compat22 s c.bay
  let fl := (if c.abortLate && c.committed && !old then 2 else 0) + (if er then 4 else 0) + (if c.enqDropped then 8 else 0)
  natLe 2 (slotOf s c) ++ natLe 2 code ++ natLe 1 fl ++
    natLe 1 (if revAtLeast s c.bay 3 then c.buttress else 0) ++
    natLe 2 (if old then 0 else min 0xFFFF c.remoteFailed) ++ natLe 4 result ++
    natLe 4 (if old then 0 else lift32 s) ++ natLe 1 (b2n (flag c 3)) ++ natLe 1 (b2n c.committed)

/-- A command that ends has nothing waiting for it any more: an aborted QUEUE_DESTROY leaves its queue (R247), an aborted CLOSE leaves its stream open, an aborted SPILL_REMOVE its
range in use (R136, R160, R170). -/
def releaseAdmin (c : Cmd) (s : State) : State :=
  if opc c = 0x27 then modEqi c.bay (fun e => { e with queues := tmap (fun _ x =>
    { x with destroyer := if x.destroyer = some c.cid then none else x.destroyer }) e.queues }) s
  else if opc c != 0x24 then s
  else modSt c.bay (fun y => { y with
    streams := tmap (fun _ k => { k with closing := if k.closing = some c.cid then none else k.closing }) y.streams
    spills := tmap (fun _ r => { r with removing := if r.removing = some c.cid then none else r.removing }) y.spills }) s

/-- A command of a ring reaches DONE: its entry is owed and written as soon as it can be, and it leaves the table. -/
def finishTop (c : Cmd) (code result : Nat) (er : Bool) (s : State) : State :=
  let t := modQueue c.bay c.queue (fun q => { q with
    owed := q.owed ++ [cqEntry s c code result er]
    cqReserved := if c.committed then q.cqReserved - 1 else q.cqReserved }) (releaseAdmin c s)
  cqPost c.bay c.queue (progress c.bay (dropCmd c.cid t))

/-- The code of a GRAPH_LAUNCH whose body commands are all DONE (R260). -/
def graphCode (p : Cmd) (codes : Tbl Nat) : Nat :=
  if p.abort then (if p.allCommitted then 0 else 0x10)
  else ((codes.map Prod.snd).find? (· != 0)).getD 0

/-- The pins of a graph without those of command `c` (R259). -/
def unpinGraph (b c : Nat) : State → State :=
  modSt b fun y => { y with graphs := y.graphs.map fun g => { g with pins := g.pins.filter fun p => p.1 != c } }

/-- The number of body entries a GRAPH_LAUNCH runs. -/
def bodyCount (s : State) (p : Cmd) : Nat :=
  match (bay s p.bay).strm.graphs.find? fun g => g.handle == cf p 0x18 4 with
  | some g => g.body.length
  | none => 0

/-- A body command is DONE: its GRAPH_LAUNCH completes with the last of them (R260), with OK releasing its header signal. A record written for it has the queue and slot of its GRAPH_LAUNCH, whose entry tells so (R238). -/
def finishBody (pc : Nat) (c : Cmd) (code : Nat) (er : Bool) (s : State) : State :=
  let t := progress c.bay (dropCmd c.cid s)
  let t := modCmd pc (fun p => { p with
    bodyCodes := tput c.bodyIdx code p.bodyCodes
    bodyErr := p.bodyErr || er
    allCommitted := p.allCommitted && c.committed }) t
  match cmd? t pc with
  | none => t
  | some p =>
    if p.bodyCodes.length < bodyCount t p then t
    else
      let p := { p with abortLate := p.abort && p.allCommitted }
      let code := graphCode p p.bodyCodes
      let t := if code = 0 ∧ flag p 5 then signal p.bay (cf p 4 2) (cf p 0x10 8) t else t
      finishTop p code p.gen p.bodyErr (unpinGraph p.bay pc t)

/-! ## The batch a gathered command belongs to -/

/-- The batch numbered `n` of bay `b`. -/
def batch? (s : State) (b n : Nat) : Option Batch := (bay s b).strm.batches.find? fun x => x.id == n
/-- Batch `n` of bay `b` changed by `f`. -/
def modBatch (b n : Nat) (f : Batch → Batch) : State → State :=
  modSt b fun y => { y with batches := modFirst (fun x => x.id == n) f y.batches }

/-- A stream command is DONE: its stream has one pending command less, and is IDLE again when none is left (R157, R158). -/
def streamLess (x : Cmd) (s : State) : State :=
  if opc x = opStreamStep ∨ opc x = opStreamFill then
    modStream x.bay (cf x 0x18 4) (fun k => { k with
      pending := k.pending - 1
      state := if k.pending ≤ 1 ∧ k.state = .ready then .idle else k.state }) s
  else s

/-- A COLLECTIVE that ends before its first COL_HS still owes one (R438). -/
def owesHs (x : Cmd) (s : State) : State :=
  match x.col with
  | some k =>
    if k.sentUp then s
    else { s with arch := { s.arch with groups := s.arch.groups.map fun e =>
      (e.1, if e.1 = k.grp then { e.2 with owedHs := e.2.owedHs ++ [k.seq] } else e.2) } }
  | none => s

/-- A command reaches DONE with `code`; a COLLECTIVE has its sequence number as its result whatever ends it (R239, R430). A gathered command has no ring entry of its own (R176), and its batch notes the
first code that is not OK. -/
def finish (c : Nat) (code result : Nat) (er : Bool) (s : State) : State :=
  match cmd? s c with
  | none => s
  | some x =>
    match x.batch, x.parent with
    | some n, _ =>
      modBatch x.bay n (fun y => { y with
        left := y.left - 1
        code := if y.code = 0 then code else y.code
        err := y.err || er }) (progress x.bay (dropCmd c (owesHs x s)))
    | none, some p => finishBody p x code er (owesHs x s)
    | none, none => finishTop x code (if opc x = opCollective then x.result else result) er (streamLess x (owesHs x s))

/-! ## Stopping -/

/-- A piece of a write in place lands; the transfers in flight take note (R63). -/
def landPiece (b a h0 : Nat) (p : Nat × Nat × Nat) (s : State) : State :=
  drewN (2 ^ 28) (writeVa b p.1 (sourceBytes s b (ash s a) h0 p.2.1 p.2.2) (noteLanded b none (p.1 / 64) s))

/-- A write cut short lands in part: each line of memory is old or wholly new (R63, R65), as free values choose. -/
def landSome (b a : Nat) : List (Nat × Nat × Nat × Nat) → State → State
  | [], s => s
  | l :: ls, s =>
    let go := (freeVal s).toNat % 2 == 1
    let t := drewFree s
    landSome b a ls (if go then landPiece b a l.1 l.2 t else t)

/-- The pieces of the writes in place that ashlar `a` still has outstanding, each behind its transfer's history mark. -/
def outLines (s : State) (c : Cmd) (a : Nat) : List (Nat × Nat × Nat × Nat) :=
  if staged c then []
  else ((ash s a).tags.map Prod.snd).flatMap fun x =>
    if x.d.toMem then ((xferPieces x.d).filter fun l => match xlate s c.bay l.1 2 false with
      | .ok (.hbm _) => true
      | .ok (.win _) => true
      | _ => false).map fun l => (x.h0, l)
    else []

/-- An ashlar stops: queues, tags, joints, grants and credits are gone (R65). -/
def stopAsh (x : Ashlar) : Ashlar :=
  { x with run := .idle, stall := .none, mq := [], vq := [], shadow := none, active := none, tags := [], joints := [],
           grants := [], credits := [], seqIn := [], hist := [], ahist := [] }

/-- Messages of a command leave the network (R65). -/
def dropTraffic (c : Nat) (s : State) : State :=
  { s with grid := { s.grid with
      net := s.grid.net.filter fun m => m.cid != c
      ctl := s.grid.ctl.filter fun e => e.2.cid != c } }

/-- The kind code of a control message (R49). -/
def ctlCode : CtlKind → Nat
  | .start => 5
  | .kill => 6
  | .outbox _ => 7
  | .halted => 8

/-- A control message is sent and repeated until it is acknowledged (R50). -/
def sendCtl (k : CtlKind) (a c : Nat) (s : State) : State :=
  { s with grid := { s.grid with
      ctl := tput s.grid.nextCtl { kind := k, a := a, cid := c, hdr := ctlHdr (ctlCode k) a } s.grid.ctl
      nextCtl := s.grid.nextCtl + 1 } }

/-- The context of a command whose run ended without its commit keeps its journal pending (R140). -/
def journalPending (b h : Nat) (s : State) : State :=
  if h = 0 then s
  else modSt b (fun y => { y with ctxs := modFirst (fun x => x.handle == h) (fun x => { x with pending := true }) y.ctxs }) s

/-- What a kill does to the parts (R65, R130): every ashlar of the panel stops but `keepAsh`, writes in place land in
part, reads cut short leave none of their bytes (log entry 30), traffic is dropped, KILL is sent, outbox and staging extent are freed, a
quoin engine is told to stop. -/
def halt (c : Nat) (keepAsh : Option Nat) (s : State) : State :=
  match cmd? s c with
  | none => s
  | some x =>
    let ids := panelIds x
    let t := each ids (fun a t => landSome x.bay a (outLines t x a) t) s
    let t := each ids (fun a t => if (ash t a).cid = c && (ash t a).run != .idle then
      modAsh a (fun y => if keepAsh = some a then { y with run := .frozen } else stopAsh y) t else t) t
    let t := dropTraffic c t
    let t := each ids (fun a t => sendCtl .kill a c t) t
    let t := journalPending x.bay (ctxOf x) t
    let t := if opc x = opQuoin && (qport t (wOf x)).cid = some c then
      emit (.quoinKill (wOf x)) (modQp (wOf x) (fun q => { q with killed := some c, cid := none, writes := [], stat := [] }) t)
      else t
    let t := modCmd c (fun x => { x with
      outbox := [], outCount := 0, copied := false, stage := [], stageAt := [], direct := [], halted := [], hostPages := [], transPages := []
      walk := x.walk.map fun w => { w with prod := [], pieces := [], ahead := [] } }) t
    { t with lift := { t.lift with plan := t.lift.plan.filter fun p => p.cid != c } }

/-- A killed command that is to run again waits READY (R113). -/
def toReady (c : Nat) (s : State) : State :=
  modCmd c (fun x => { x with
    st := .ready, placed := false, loading := false, passed := 0, redet := false
    col := x.col.map fun k => { grp := k.grp, seq := k.seq, children := k.children } }) s

/-- A kill that returns the command to READY. -/
def killReady (c : Nat) (s : State) : State := toReady c (halt c none s)

/-- A kill that ends the command with a code and no side effects (R130). -/
def killDone (c code : Nat) (er : Bool) (s : State) : State := finish c code 0 er (halt c none s)

/-- The sealed plan without a command. -/
def unplan (c : Nat) (s : State) : State :=
  { s with lift := { s.lift with
      plan := s.lift.plan.filter fun p => p.cid != c
      sealed := s.lift.sealed.map fun l => l.filter fun p => p.cid != c } }

/-! ## Violations -/

/-- A program violation of ashlar `a` (R66, R480): the command is FROZEN with the ashlar, which sends HALTED (R49), and the bay and
the manager learn of it. -/
def violation (a reason detail address : Nat) (s : State) : State :=
  let c := (ash s a).cid
  match cmd? s c with
  | none => modAsh a (fun x => { x with run := .frozen }) s
  | some x =>
    let t := plumbRec { kind := 1, master := 2, bay := x.bay, reason := reason, queue := x.queue, slot := slotOf s x,
                        ashlar := a, address := address, detail := detail } s
    let t := cmdError x 0x03 0x30 detail address (some a) 3 t
    let t := sendCtl .halted a c (halt c (some a) t)
    modCmd c (fun x => { x with
      st := .frozen
      viol := some { master := 2, reason := reason, ashlar := some a, detail := detail, address := address } }) t

/-- A violation of a quoin engine (master 3) or of one of its streams (master 4) (R480). -/
def quoinViolation (p strm master reason address : Nat) (c : Nat) (s : State) : State :=
  match cmd? s c with
  | none => s
  | some x =>
    let t := plumbRec { kind := 1, master := master, bay := x.bay, reason := reason, queue := x.queue, slot := slotOf s x,
                        unit := p * 4096 + strm, address := address } s
    let t := cmdError x 0x03 0x30 0 address none 3 t
    let t := halt c none t
    let t := modQp p (fun q => if master = 3 then { q with frozenBays := sput x.bay q.frozenBays }
      else { q with frozenStreams := (x.bay, strm) :: q.frozenStreams }) t
    modCmd c (fun x => { x with
      st := .frozen
      viol := some { master := master, reason := reason, unit := p * 4096 + strm, address := address } }) t

/-! ## Translation faults -/

/-- The lowest free fault record of a bay (R398). -/
def freeFault (s : State) (b : Nat) : Option Nat :=
  (List.range 64).find? fun i => (tget i (bay s b).mem.faults).isNone

/-- A record is opened for a command, or the command joins the one open for the page, or it waits for a free one
(R397, R398, R399). -/
def openFault (c page first cause engine : Nat) (s : State) : State :=
  let x := cmdD s c
  match tfind (fun _ r => r.page == page) (bay s x.bay).mem.faults with
  | some (i, _) =>
    modBm x.bay (fun m => { m with faults := tmod i { page := page } (fun r => { r with waiters := r.waiters ++ [c] }) m.faults }) s
  | none =>
    match freeFault s x.bay with
    | none => modBm x.bay (fun m => { m with faultWait := m.faultWait ++ [(c, first, cause, engine)] }) s
    | some i =>
      let r : FaultRec := { page := page, firstByte := first, cause := cause % 8, need := cause / 8, waiters := [c], queue := x.queue,
                            slot := slotOf s x, engine := engine % 16, lift := lift32 s }
      let t := modBm x.bay (fun m => { m with faults := tput i r m.faults }) s
      let t := { t with mem := { t.mem with faults := satAdd 0xFFFF t.mem.faults 1 } }
      raise (srcFault x.bay) t

/-- The engine number of ashlar `a` as a fault's source: engine 0, with the ashlar's ID kept above (R267, R399). -/
def ashEngine (a : Nat) : Nat := 16 * (a + 1)

/-- A command faults: it is killed, FAULTED, and its page's record opened or joined (R390, R397). -/
def faultCmd (c first cause engine : Nat) (s : State) : State :=
  let t := halt c none s
  let t := modCmd c (fun x => { x with
    st := .faulted, placed := false, loading := false
    flt := some { origin := if x.placed then some (x.x0, x.y0) else none
                  ashlar := if engine / 16 = 0 then none else some (engine / 16 - 1), va := first } }) t
  openFault c (first / 4096 * 4096) first cause engine t

/-! ## Detections -/

/-- Whether a cause counts toward a hard fault (R455). -/
def hardCause (n : Nat) : Bool := n == 1 || n == 2 || n == 3 || n == 4 || n == 6 || n == 8

/-- Whether a trigger of a reset counts toward escalation (R493). -/
def counts (trigger : Nat) : Bool := decide (1 ≤ trigger ∧ trigger ≤ 6)

/-- The last 255 entries of a history with `t` added (R504). -/
def histPut (t : Nat) (h : List Nat) : List Nat := (t :: h).take 255

/-- A counted compute-part trigger enters the history (R505). -/
def countCompute (trigger : Nat) (s : State) : State :=
  if counts trigger then { s with rst := { s.rst with histC := histPut s.rst.time s.rst.histC } } else s

/-- Whether the compute-part history has reached its threshold (R506). -/
def escalates (s : State) : Bool := decide (footFld s 0x28 1 ≤ escCompute s)

/-- The reset of a trigger that comes now. -/
def resetAt (full : Bool) (trigger : Nat) (s : State) : ResetNow :=
  { full := full, trigger := trigger, time := s.rst.time, lift := s.lift.num, counted := counts trigger }

/-- A reset is wanted. -/
def setWant (full : Bool) (trigger : Nat) (s : State) : State :=
  { s with rst := { s.rst with want := some (resetAt full trigger s) } }

/-- A compute-part trigger during a compute-part reset is absorbed: logged, and counted if it counts (R500, R506). -/
def absorbTrigger (trigger : Nat) (s : State) : State :=
  let t := countCompute trigger s
  let up := counts trigger && escalates t
  let t := resetRec 2 trigger (b2n (counts trigger) + 2 * b2n up) 0xFF t.rst.time t.lift.num 0 t
  if up then setWant true 5 t else t

/-- A trigger of a compute-part or full reset comes (R493, R500): one for the whole block goes before any other, nothing is added to
a full block reset that runs or is wanted, and repointing holds a compute-part trigger back. -/
def wantReset (full : Bool) (trigger : Nat) (s : State) : State :=
  let on (f : Bool) : Bool := match s.rst.now, s.rst.want with
    | some r, w => r.full == f || (w.map (·.full)) == some f
    | none, w => (w.map (·.full)) == some f
  if on true then s
  else if full then setWant true trigger s
  else if on false then absorbTrigger trigger s
  else if s.sec.repointing then { s with rst := { s.rst with after := some (s.rst.after.getD trigger) } }
  else setWant false trigger s

/-- The ashlars a hard fault names are counted and remembered (R467). -/
def nameAshlars (as : List Nat) (s : State) : State :=
  { s with grid := { s.grid with named := as.foldl (fun t a => tmod a 0 (· + 1) t) s.grid.named } }

/-- A detection counts in RAS_DET (R478). -/
def countDet (cause : Nat) (s : State) : State :=
  { s with ras := { s.ras with det := tmod cause 0 (fun n => satAdd 0xFFFFFFFF n 1) s.ras.det } }

/-- Where a record of a command's error says it happened: queue and slot. -/
def qslot (s : State) (c : Cmd) : Nat := c.queue * 65536 + slotOf s c

/-- A command is exhausted (R456): it ends RERUN_EXHAUSTED with its error record and the manager's record. -/
def exhaust (c cause address : Nat) (a : Option Nat) (s : State) : State :=
  match cmd? s c with
  | none => s
  | some x =>
    let t := halt c none s
    let t := cmdError x 0x06 0x32 cause address a 2 t
    let t := rasRec 2 cause x.bay 0 4 address (qslot s x) t
    finish c 0x32 0 true t

/-- A hard fault is declared (R456): HARD_FAULT record, every ashlar a detection of the command named (R467), a compute-part reset with
trigger 1. -/
def hardFault (cause : Nat) (b : Nat) (as : List Nat) (s : State) : State :=
  let a := as.getLastD 0
  let t := rasRec 3 cause b 0 1 (a * 0x80000) a s
  let t := nameAshlars (dedup as) t
  wantReset false 1 { t with rst := { t.rst with named := as.foldl (fun l a => sput a l) t.rst.named } }

/-- A detection in a command (R455, R456, R459): it is killed, counted and re-run, aborted, or exhausted at the third;
a third detection with a counting cause, or any of cause 8, is a hard fault. -/
def detect (c cause : Nat) (a : Option Nat) (space address : Nat) (s : State) : State :=
  match cmd? s c with
  | none => s
  | some x =>
    if x.committed || x.st == .anchored || x.st == .frozen then countDet cause s
    else
      let t := rasRec 1 cause x.bay 0 space address (qslot s x) (countDet cause s)
      let dets := x.dets ++ [cause]
      let named := x.detAt ++ a.toList
      if x.abort then
        let t := killDone c 0x10 false t
        if cause = 8 then hardFault 8 x.bay named t else t
      else if 3 ≤ dets.length then
        let t := exhaust c cause 0 a t
        if dets.any hardCause then hardFault ((dets.find? hardCause).getD cause) x.bay named t else t
      else
        let t := halt c none t
        let t := toReady c (modCmd c (fun x => { x with dets := dets, detAt := named, reruns := x.reruns + 1 }) t)
        let t := modCmd c (fun x => { x with redet := true }) t
        if cause = 8 then hardFault 8 x.bay named t else t

/-! ## Aborts -/

/-- The abort flag of a command is set (R136): it is removed or killed and ends ABORTED, unless it is FROZEN or past its commit point.
A collective that has sent to its peers is past the abort: it commits with abort_late, or ends with its own code. -/
def abortCmd (c : Nat) (s : State) : State :=
  match cmd? s c with
  | none => s
  | some x =>
    let anchored := x.st == .anchored || (x.st == .committing && opc x == opCollective)
    let t := modCmd c (fun x => { x with abort := !anchored, abortLate := x.committed || anchored }) s
    match x.st with
    | .frozen => t
    | .anchored => t
    | .running => killDone c 0x10 false t
    | .committing => if x.committed || anchored then t else killDone c 0x10 false t
    | .faulted =>
      let t := modBm x.bay (fun m => { m with
        faults := (m.faults.map fun e => (e.1, { e.2 with waiters := e.2.waiters.filter (· != c) })).filter
          fun e => !e.2.waiters.isEmpty
        faultWait := m.faultWait.filter fun w => w.1 != c }) t
      finish c 0x10 0 false t
    | _ => finish c 0x10 0 false (unplan c t)

end Sys2Proof.Machine
end

