-- ==== Sys2Proof/Machine/AshOps.lean ====
section
/-! DEFINITION. One ashlar: registers, scratchpad and accumulator accesses with the journal of R139 and the races of R60
and R61, and how an instruction issues (R34, R66). -/
namespace Sys2Proof.Machine

/-! ## Registers -/

/-- General register `r`; g0 reads 0 (R29). -/
def gr (x : Ashlar) (r : Nat) : W64 := if r = 0 then 0 else tgetD r x.g 0
/-- A write of general register `r`; one of g0 is ignored. -/
def setG (r : Nat) (v : W64) (x : Ashlar) : Ashlar := if r = 0 then x else { x with g := tput r v x.g }
/-- Lane `l` of vector register `r`. -/
def vr (x : Ashlar) (r l : Nat) : W32 := tgetD (64 * r + l) x.v 0
/-- The 64 lanes of vector register `r`. -/
def vrow (x : Ashlar) (r : Nat) : List W32 := (List.range 64).map fun l => vr x r l
/-- The lanes from `l` of vector register `r` written. -/
def setV (r : Nat) (vs : List W32) (x : Ashlar) : Ashlar :=
  { x with v := (vs.foldl (fun (p : Nat × Tbl W32) v => (p.1 + 1, tput (64 * r + p.1) v p.2)) (0, x.v)).2 }
/-- The instruction retires: one clock and the next instruction (R34). -/
def retire (x : Ashlar) : Ashlar := { x with pc := x.pc + 1, cycle := x.cycle + 1, stall := .none }
/-- A taken branch costs two clocks more (R34). -/
def jump (t : Nat) (x : Ashlar) : Ashlar := { x with pc := t, cycle := x.cycle + 3, stall := .none }
/-- The sequencer waits. -/
def stallFor (k : Stall) (x : Ashlar) : Ashlar := { x with stall := k, cycle := x.cycle + 1 }

/-! ## Scratchpad and accumulator -/

/-- Whether a journal already holds a line. -/
def hasLine (j : List JItem) (addr : Nat) : Bool := j.any fun i => match i with
  | .line a _ => a == addr
  | .row _ _ => false
/-- Whether a journal already holds an accumulator row. -/
def hasRow (j : List JItem) (r : Nat) : Bool := j.any fun i => match i with
  | .line _ _ => false
  | .row q _ => q == r

/-- The first write to a line copies the old line into the journal; the argument window is excluded (R139). -/
def journalLine (l : Nat) (x : Ashlar) : Ashlar :=
  if !x.ctx || decide (0x7FF00 ≤ 64 * l) || hasLine x.journal (64 * l) then x
  else { x with journal := .line (64 * l) (mread x.spad (64 * l) 64) :: x.journal }

/-- The first write to an accumulator row copies the old row into the journal (R139). -/
def journalRow (r : Nat) (x : Ashlar) : Ashlar :=
  if !x.ctx || hasRow x.journal r then x
  else { x with journal := .row r ((List.range 32).map fun c => accE x r c) :: x.journal }

/-- The 64-byte lines a run of bytes touches. -/
def linesOf (addr n : Nat) : List Nat :=
  if n = 0 then [] else (List.range ((addr + n - 1) / 64 - addr / 64 + 1)).map (· + addr / 64)

/-- From which serial on every operation must see a write: at once for an ST, a finished read and a message, which the sequencer
orders; not before a FENCE for a unit (R60, R61). -/
def sureFrom (writer serial : Nat) : Option Nat := if writer = 0 ∨ writer = 3 then some (serial + 1) else none

/-- Notes the overwritten bytes of a run for the races of R60; where nothing is under way, a write that every later operation must
see settles its bytes. -/
def noteBytes (writer addr n : Nat) (x : Ashlar) : Ashlar :=
  let past := (List.range n).map fun i => (⟨x.serial, addr + i, mget x.spad (addr + i), writer, sureFrom writer x.serial⟩ :
    Overwrite Byte)
  { x with
    hist := if unitsBusy x || (sureFrom writer x.serial).isNone then past ++ x.hist
      else x.hist.filter fun o => !(decide (addr ≤ o.addr) && decide (o.addr < addr + n))
    serial := x.serial + 1 }

/-- A scratchpad write by `writer`. -/
def spadWr (writer addr : Nat) (bs : List Byte) (x : Ashlar) : Ashlar :=
  let y := noteBytes writer addr bs.length ((linesOf addr bs.length).foldl (fun y l => journalLine l y) x)
  { y with spad := mputs addr bs y.spad }

/-- A write of accumulator row `r` from column 0 by `writer`. -/
def accWr (writer r : Nat) (ws : List W32) (x : Ashlar) : Ashlar :=
  let y := journalRow r x
  let n := ws.length
  let y := { y with
    ahist := ((List.range n).map fun c => (⟨y.serial, 32 * r + c, accE y r c, writer, none⟩ : Overwrite W32)) ++ y.ahist
    serial := y.serial + 1 }
  { y with acc := (ws.foldl (fun (p : Nat × Tbl W32) w => (p.1 + 1, tput (32 * r + p.1) w p.2)) (0, y.acc)).2 }

/-- A load by the sequencer: bytes under a busy read tag are not valid (R61). -/
def ldBytes (x : Ashlar) (k a n : Nat) : List Byte :=
  (List.range n).map fun i => if inBusyRead x (a + i) then (Config.free (k + i)).truncate 8 else mget x.spad (a + i)

/-- Whether a run of bytes meets a configured joint's region (R58). -/
def inJoint (x : Ashlar) (a n : Nat) : Bool := x.joints.any fun j => overlaps j.2.base j.2.size a n

/-! ## Issue -/

/-- The instruction at the program counter, none beyond the image (R66). -/
def fetchWord (x : Ashlar) : Option W64 := if x.pc < x.imgLen then some (tgetD x.pc x.imem 0) else none

/-- An illegal instruction (R66, reason 0x10 of R485). -/
def illegal (a : Nat) : State → State := violation a 0x10 0 0

/-- The effect of an instruction row on ashlar `a`: the running sequencer issues the instruction at its program counter;
an illegal word or a fetch beyond the image is a program violation; another instruction than the row's leaves the row
without effect (log entry 9). No instruction issues once a thermal trip has stopped the clock (R567). -/
def issueAt (code a : Nat) (body : W64 → Ashlar → State → State) (s : State) : State :=
  let x := ash s a
  if x.run != .running || s.pwr.trip then s
  else match fetchWord x with
    | none => illegal a s
    | some w => if !legal w then illegal a s else if codeOf w = code then body w x s else s

/-- An instruction row. -/
def issue (code a : Nat) (body : W64 → Ashlar → State → State) (s : State) : Host.Outcome State Fault Refusal :=
  onUnit (decide (a < ashlars s)) "ashlar" (run fpWork (issueAt code a body) s)

/-- An instruction whose effect is on its ashlar alone. -/
def issueAsh (code a : Nat) (f : W64 → Ashlar → Ashlar) (s : State) : Host.Outcome State Fault Refusal :=
  issue code a (fun w _ t => modAsh a (f w) t) s

end Sys2Proof.Machine
end

