-- ==== Sys2Proof/Machine/DmaFam.lean ====
section
/-! DEFINITION. The DMA mover (R42 to R45, R390): DMA, DWAIT, DPOLL and the ends of transfers. Remote pages are read by
fabric requests (R422) whose answers READ_DATA delivers. -/
namespace Sys2Proof.Machine

/-- Lines counted for the extent of bay `b` that holds `va` (R200). -/
def countLines (b va k : Nat) (wr : Bool) (s : State) : State :=
  modExtent b (va / 2 ^ 21) (fun e =>
    if wr then { e with wr := satAdd 0xFFFFFFFF e.wr k } else { e with rd := satAdd 0xFFFFFFFF e.rd k }) s

/-- A transfer counted (R200): one of fewer than 64 bytes is one line, any other the lines it touches in each page. -/
def countRange (b va n : Nat) (wr : Bool) (s : State) : State :=
  if n = 0 then s
  else if n < 64 then countLines b va 1 wr s
  else (pagesOf va n).foldl (fun t p => countLines b p.1 ((p.1 % 64 + p.2 + 63) / 64) wr t) s

/-- The records of a run of writes to host memory or a remote window: a range that adjoins or overlaps one already
recorded for the same target extends it (R122). -/
def addRange (va n : Nat) (tgt : Option (Nat × Nat)) : List OutRec → List OutRec
  | [] => [.range va n tgt]
  | .range v m k :: t =>
    if k = tgt ∧ va ≤ v + m ∧ v ≤ va + n then .range (min va v) (max (va + n) (v + m) - min va v) tgt :: t
    else .range v m k :: addRange va n tgt t
  | r :: t => r :: addRange va n tgt t

/-- The outbox after the writes of a descriptor bound for host memory or a remote window are recorded. -/
def recordWrites (s : State) (b : Nat) (d : DmaDesc) (ob : List OutRec) : List OutRec :=
  (memRows d).foldl (fun l r => (pagesOf r.1 r.2).foldl (fun l p => match xlate s b p.1 2 false with
    | .ok (.host _) => addRange p.1 p.2 none l
    | .ok (.remote ep w _) => addRange p.1 p.2 (some (ep, w)) l
    | _ => l) l) ob

/-- The outbox records that writes recorded but that the outbox did not yet hold. -/
def outboxGrowth (a b : List OutRec) : Nat := b.length - a.length

/-- The first byte of a range that no range of a list covers; each covering range is passed at most once. -/
def uncovered (rs : List Range) : Nat → Nat → Nat → Option Nat
  | 0, va, n => if n = 0 then none else some va
  | k + 1, va, n =>
    if n = 0 then none
    else match rs.find? fun r => decide (r.va ≤ va) && decide (va < r.va + r.len) with
      | none => some va
      | some r => uncovered rs k (max va (r.va + r.len)) (va + n - (r.va + r.len))

/-- The first byte a write reaches outside the command's declared output ranges (R43); reads are never checked (R127). The
batch area counts as declared for a gathered command, which must write it (R176, R177, log entry 16). -/
def outsideOutputs (c : Cmd) (d : DmaDesc) : Option Nat :=
  let outs := if c.batch.isSome then { va := batchBase, len := 2 ^ 44 } :: c.desc.outs else c.desc.outs
  if d.toMem then (memRows d).findSome? fun r => uncovered outs (outs.length + 1) r.1 r.2 else none

/-- Whether the credit table of an ashlar holds a credit for a joint of an ashlar (R45, R56). -/
def creditOf (x : Ashlar) (dx dy j : Nat) : Option Credit :=
  x.credits.find? fun k => k.dx == dx && k.dy == dy && k.joint == j && decide (0 < k.count)

/-- Whether a credit entry is the pair's (R55). -/
def creditFor (dx dy j : Nat) (k : Credit) : Bool := k.dx == dx && k.dy == dy && k.joint == j

/-- One credit of a pair taken (R45, R56). -/
def spendCredit (dx dy j : Nat) (x : Ashlar) : Ashlar :=
  { x with credits := modFirst (creditFor dx dy j) (fun k => { k with count := k.count - 1 }) x.credits }

/-- A message of a pair leaves: its seq is advanced (R48). -/
def nextSeq (dx dy j : Nat) (x : Ashlar) : Ashlar :=
  { x with credits := modFirst (creditFor dx dy j) (fun k => { k with seq := (k.seq + 1) % 8 }) x.credits }

/-- One credit of a pair taken by a message that leaves at once (R48, R56). -/
def takeCreditTo (dx dy j : Nat) (x : Ashlar) : Ashlar := nextSeq dx dy j (spendCredit dx dy j x)

/-- Expected seq of a source and joint at a receiver. -/
def seqKey (src j : Nat) : Nat := src * 16 + j

/-- The seq a new credit entry starts at: the one its receiver expects after the messages in flight (log entry 12). -/
def freshSeq (s : State) (src dst j : Nat) : Nat :=
  (tgetD (seqKey src j) (ash s dst).seqIn 0 +
    (s.grid.net.filter fun m => (m.kind == 0 || m.kind == 2) && m.src == src && m.dst == dst && m.joint == j).length) % 8

/-- Whether coordinates lie in the panel (R43, R56). -/
def inPanel (x : Ashlar) (dx dy : Nat) : Bool := decide (dx < x.pw) && decide (dy < x.ph)

/-- The first byte of a transfer in a failing page, rows ascending (R390). -/
def dmaFault (batch : Bool) (s : State) (b : Nat) (d : DmaDesc) (stale : Nat → Bool) : Option (Nat × Nat) :=
  (memRows d).findSome? fun r => firstFaultIn batch s b r.1 r.2 (if d.toMem then 2 else 1) stale

/-- A fault of cause 4 (R394, R398): a Page Request goes out with the record, unless PRI is off or failed, when the fault
is refused at once; beyond 64 outstanding requests it waits unsent. -/
def fault4 (c dev need engine : Nat) (s : State) : State :=
  let b := (cmdD s c).bay
  let t := faultCmd c dev 4 engine s
  match tfind (fun _ r => r.page == dev / 4096 * 4096 && r.cause == 4 && r.state == 1) (bay t b).mem.faults with
  | none => t
  | some (i, _) =>
    let m := (bay t b).mem
    if !m.priEnable || m.priFailed then
      modBm b (fun m => { m with faults := tmod i { page := 0 } (fun r => { r with state := 3 }) m.faults }) t
    else if 64 ≤ (m.faults.filter fun e => e.2.state == 2).length then t
    else emit (.pageRequest (b + 1) (dev / 4096) i need (reqT s (b + 1)))
      (modBm b (fun m => { m with faults := tmod i { page := 0 } (fun r => { r with state := 2 }) m.faults }) t)

/-- The error record of a refused fault (R400): it names the panel and the ashlar that faulted, and the command's own byte. -/
def faultError (x : Cmd) (va : Nat) : State → State :=
  match x.flt with
  | some f =>
    let o := f.origin.getD (0, 0)
    cmdError { x with placed := f.origin.isSome, x0 := o.1, y0 := o.2 } 0x04 0x33 0 f.va f.ashlar 2
  | none => cmdError x 0x04 0x33 0 va none 2

/-- Every record of a bay refused at once (state 3) is refused now: each waiter completes XLT_FAULT with its error record
(R400). -/
def refuseFault (b i : Nat) (s : State) : State :=
  match tget i (bay s b).mem.faults with
  | none => s
  | some r =>
    let t := modBm b (fun m => { m with faults := tdrop i m.faults }) s
    let t := progress b t
    r.waiters.foldl (fun t c => match cmd? t c with
      | none => t
      | some x => finish c 0x33 0 true (faultError x r.firstByte t)) t

/-- Commands that wait for a free fault record take the ones that are free (R398). -/
def retryFaults (b : Nat) (s : State) : State :=
  let w := (bay s b).mem.faultWait
  w.foldl (fun t e => openFault e.1 (e.2.1 / 4096 * 4096) e.2.1 e.2.2.1 e.2.2.2 t)
    (modBm b (fun m => { m with faultWait := [] }) s)

/-- A fault is resolved: every waiter is READY again and the record is free (R400). -/
def resolveFault (b i : Nat) (s : State) : State :=
  match tget i (bay s b).mem.faults with
  | none => s
  | some r =>
    let t := progress b (modBm b (fun m => { m with faults := tdrop i m.faults }) s)
    retryFaults b (r.waiters.foldl (fun t c => modCmd c (fun x => { x with st := .ready }) t) t)

/-- A fault of cause 4, refused at once where R394 says so. -/
def fault4Now (c dev need engine : Nat) (s : State) : State :=
  let b := (cmdD s c).bay
  let t := fault4 c dev need engine s
  match tfind (fun _ r => r.state == 3) (bay t b).mem.faults with
  | some (i, _) => retryFaults b (refuseFault b i t)
  | none => t

/-- Where the fabric serves a place of bay `b`: the endpoint, window and offset of a remote window page, or of a frame in one of the bay's
backing windows (R198, R423). -/
def fabricAt (s : State) (b : Nat) : Place → Option (Nat × Nat × Nat)
  | .remote ep w o => some (ep, w, o)
  | .win k => (tget (k / 2 ^ 44 % 16) (bay s b).mem.windows).map fun v => (v.ep, v.win, v.off + k % 2 ^ 44)
  | _ => none

/-- The same of a device address. -/
def fabricVa (s : State) (b va : Nat) (stale : Bool) : Option (Nat × Nat × Nat) :=
  match xlate s b va 1 stale with
  | .ok p => fabricAt s b p
  | .fault _ => none

/-- The pieces of a read that the fabric serves (R422, R423). -/
def remotePieces (s : State) (b : Nat) (d : DmaDesc) (stale : Nat → Bool) : List (Nat × Nat) :=
  (memRows d).flatMap fun r => (reqPieces r.1 r.2).filter fun p => (fabricVa s b p.1 (stale (p.1 / 4096))).isSome

/-- Asks for the next piece of a read while tags are free (R422); one whose extent has moved into HBM since is read there. -/
def pumpOne (c a tag : Nat) (s : State) : State :=
  match tget tag (ash s a).tags with
  | none => s
  | some x =>
    match x.todo with
    | [] => s
    | p :: rest =>
      let b := (cmdD s c).bay
      match fabricVa s b p.1 true, freeTag s b with
      | some (ep, w, o), some _ =>
        if ownWriting s ep (globalAddr w o) p.2 then s
        else sendReq { kind := fkRead, dst := ep, addr := globalAddr w o, len := p.2, bay := b, va := p.1, owner := .dma c a tag }
          (modAsh a (fun y => { y with tags := tput tag { x with todo := rest, asked := x.asked + 1 } y.tags }) s)
      | some _, none => s
      | none, _ => modAsh a (fun y => { y with tags := tput tag { x with todo := rest } y.tags }) s

/-- Asks for as many remote pieces as tags allow. -/
def pumpDma (c a tag : Nat) (s : State) : State :=
  match tget tag (ash s a).tags with
  | none => s
  | some x => (List.range x.todo.length).foldl (fun t _ => pumpOne c a tag t) s

/-- The reads of host memory of a transfer go out (R392, R393); the bytes come with its end (log entry 5). -/
def askHost (b : Nat) (rows : List (Nat × Nat)) (stale : Nat → Bool) (s : State) : State :=
  rows.foldl (fun t r => (pagesOf r.1 r.2).foldl (fun t p => match xlate t b p.1 1 (stale (p.1 / 4096)) with
    | .ok (.host iova) => hostAsk b iova p.2 t
    | _ => t) t) s

/-- The transfer starts on its tag: every page has translated. -/
def dmaStart (a tag : Nat) (d : DmaDesc) (stale : Nat → Bool) (ob : List OutRec) (s : State) : State :=
  let c := (ash s a).cid
  let b := (cmdD s c).bay
  let t := modCmd c (fun x => { x with outCount := x.outCount + outboxGrowth x.outbox ob, outbox := ob }) s
  let t := modAsh a (fun y =>
    let z := if d.notifyEn then spendCredit d.dx d.dy d.joint y else y
    retire { z with tags := tput tag { d := d, h0 := y.serial,
                                       todo := if d.toMem then [] else remotePieces s b d stale } z.tags }) t
  pumpDma c a tag ((memRows d).foldl (fun t r => countRange b r.1 r.2 d.toMem t) (if d.toMem then t else askHost b (memRows d) stale t))

/-- Whether a mover finds a page in its own cache or in the bay's partition of the grid edge's (R388, R389), or the command holds the page's
host address since its fetch (R392). -/
def moverHit (s : State) (a : Nat) (c : Cmd) (page : Nat) : Bool :=
  (ash s a).tlb.contains page || tlbHit s c.bay 0 page || c.hostPages.any fun h => h.1 / 4096 == page

/-- The mover's translations of a transfer (R389, R390): what is found enters both caches. -/
def moverXlate (a : Nat) (c : Cmd) (d : DmaDesc) (s : State) : State :=
  let ps := foundPages s c.bay (memRows d) (if d.toMem then 2 else 1) (moverHit s a c)
  moverFill a ps (tlbFill c.bay 0 ps s)

/-- What DMA does once its tag is idle and its descriptor read (R43, R45, R122, R390): a write that needs a 513th record is stopped
before it could wait for anything. -/
def dmaGo (a tag : Nat) (bs : List Byte) (x : Ashlar) (s : State) : State :=
  let d := descOf bs
  let c := cmdD s x.cid
  let stale := moverHit s a c
  let s1 := moverXlate a c d s
  let need := if d.toMem then 2 else 1
  if !descReserved bs || !descShape d || (d.notifyEn && !d.toMem) || (d.notifyEn && !inPanel x d.dx d.dy) ||
      (!d.toMem && (spadRows d).any fun r => inJoint x r.1 r.2) then violation a 0x11 0 0 s
  else if (outsideOutputs c d).isSome then violation a 0x11 0 ((outsideOutputs c d).getD 0) s
  else if d.toMem && decide (512 < c.outCount + outboxGrowth c.outbox (recordWrites s c.bay d c.outbox)) then violation a 0x14 0 0 s
  else if d.notifyEn && (creditOf x d.dx d.dy d.joint).isNone then modAsh a (stallFor .credit) s
  else match dmaFault c.batch.isSome s c.bay d stale with
    | some f => faultCmd x.cid f.1 f.2 (ashEngine a) s1
    | none =>
      let hp := hostPagesOf s c.bay (memRows d) need stale
      if hostShut s c.bay then modAsh a (stallFor .tag) s1 else
      match atsMiss s c.bay hp with
      | some p => atsAsk c.bay p.1 p.2 x.cid need (ashEngine a) (modAsh a (stallFor .tag) s1)
      | none =>
        match atsDenied s c.bay need hp with
        | some p => fault4Now x.cid p.2 need (ashEngine a) s1
        | none =>
          dmaStart a tag d stale (if d.toMem then recordWrites s c.bay d c.outbox else c.outbox) s1

/-- The mask of idle tags (R41). -/
def idleMask (x : Ashlar) : Nat :=
  (List.range 16).foldl (fun m t => if (tget t x.tags).isNone then m + 2 ^ t else m) 0

/-- DWAIT: stall until every tag in mask n is idle (R41). -/
def execDwait (a : Nat) (s : State) : Host.Outcome State Fault Refusal :=
  issueAsh 0x501 a (fun w x => if Nat.land (xN w) (idleMask x) = xN w then retire x else stallFor .tag x) s

/-- DPOLL: rd ← mask of idle tags (R41). -/
def execDpoll (a : Nat) (s : State) : Host.Outcome State Fault Refusal :=
  issueAsh 0x502 a (fun w x => retire (setG (xRd w) (BitVec.ofNat 64 (idleMask x)) x)) s

/-! ## The ends of transfers -/

/-- The blocks of a physical range whose MAC failed, with whether the second read passed (R460). -/
def badBlocks (env : Env) (pa n : Nat) : List (Nat × Bool) := env.bad.filter fun e => overlaps pa n (e.1 * 512) 512

/-- The physical ranges of the placed memory a range of bay `b` covers. -/
def physRanges (s : State) (b va n need : Nat) : List (Nat × Nat × Nat) :=
  (pagesOf va n).filterMap fun p => match xlate s b p.1 need true with
    | .ok (.hbm pa) => some (p.1, pa, p.2)
    | _ => none

/-- Whether an address lies in the token log of an open stream. -/
def inTokenLog (s : State) (b va : Nat) : Bool :=
  (bay s b).strm.streams.any fun e => e.2.state != .free && within e.2.logVa (4 * e.2.limit) va 1
/-- Whether an address lies in a command ring of the bay's device memory. -/
def inRing (s : State) (b va : Nat) : Bool :=
  (bay s b).eqi.queues.any fun q => !bit q.2.qflags 0 && within q.2.ringAddr (64 * 2 ^ q.2.log2Ring) va 1
/-- Whether an address lies in the append area of a batch. -/
def inAppend (s : State) (b va : Nat) : Bool :=
  (bay s b).strm.batches.any fun x => decide (x.appendVa ≤ va) && (x.count = 0 || decide (va < x.inputVa) || decide (x.inputVa < batchBase))

/-- A block's class: what the block knows of it (R462): sealed weights (1), a slab (2), a token log (3), an append area (9), a declared
output range of a command that has not committed (10), a command ring (14), other data of the bay (11). -/
def dataClass (s : State) (b va : Nat) : Nat :=
  if batchBase ≤ va then (if inAppend s b va then 9 else 11)
  else if kvBase ≤ va then 2
  else if holdsWeights s b va then 1
  else if inTokenLog s b va then 3
  else if inRing s b va then 14
  else if (bayCmds s b).any fun c => !c.committed && c.desc.outs.any fun r => within r.va r.len va 1 then 10
  else 11

/-- A block is poisoned: it is listed with its class, and the manager learns of it (R460, R476). -/
def poisonBlock (b blk cls : Nat) (s : State) : State :=
  rasRec 5 5 b cls 0 (blk * 512) 0 (raise srcPoison { s with mem := { s.mem with poison := tput blk cls s.mem.poison } })

/-- Whether the sealed weights in the block at `va` lie in a segment whose refetch has failed (R463). -/
def refetchFailed (s : State) (b va : Nat) : Bool :=
  (bay s b).strm.models.any fun m => m.weights.any fun w =>
    overlaps w.1 w.2.1 va 512 && m.failedSegs.contains ((w.2.2 + (max va w.1 - w.1)) / 2 ^ 20)

/-- A second read that passed is counted (R460). -/
def countTransient (s : State) : State :=
  { s with ras := { s.ras with transient := satAdd 0xFFFF s.ras.transient 1 } }

/-- MAC failures met by a read of placed memory (R460); a page that was never written has no MAC that a read would check (R384). -/
def macFailures (b va pa n : Nat) (env : Env) (s : State) : State :=
  (badBlocks env pa n).foldl (fun t e =>
    if (tget e.1 t.mem.poison).isSome || !pageValid t (e.1 * 512) then t
    else if e.2 then countTransient t
    else poisonBlock b e.1 (dataClass t b (va + (e.1 * 512 - pa))) t) s

/-- MAC failures met by the blocks a write of placed memory covers in part, which it reads and merges (R363, R460). -/
def mergeFailures (b va pa n : Nat) (env : Env) (s : State) : State :=
  macFailures b va pa n { env with bad := env.bad.filter fun e => !(decide (pa ≤ e.1 * 512) && decide (e.1 * 512 + 512 ≤ pa + n)) } s

/-- The bytes of one row of a read as they arrive: placed memory, the host's answer, or the peer's answers. -/
def rowBytes (s : State) (b : Nat) (env : Env) (got : Mem) (va n : Nat) : Option (List Byte) :=
  readVa s b { env with remote := got } true va n

/-- Whether the command holds a context whose line or row at rest is damaged when a check fires on a line or row the row does not
name (R457): a free value. -/
def atRest (s : State) (x : Ashlar) (cause : Nat) : Bool :=
  x.ctx && (cause == 2 || cause == 3) && (freeVal s).toNat % 2 == 1

/-- A context is marked damaged (R457): commands that name it and have not started end INVALID_ARGUMENT. -/
def damageCtx (b h : Nat) (s : State) : State :=
  let t := modSt b (fun y => { y with ctxs := modFirst (fun c => c.handle == h) (fun c => { c with damaged := true }) y.ctxs }) s
  (bayCmds t b).foldl (fun t c =>
    if ctxOf c = h && (c.st == .waiting || c.st == .ready || c.st == .planned) then finish c.cid 0x23 0 false (unplan c.cid t)
    else t) t

/-- A damaged line or row at rest in a context ends the command and the context (R457). -/
def restDamaged (a space address : Nat) (s : State) : State :=
  let c := cmdD s (ash s a).cid
  damageCtx c.bay (ctxOf c) (exhaust c.cid 9 0 (some a) (rasRec 1 9 c.bay 0 space address (qslot s c) (countDet 9 s)))

/-- A detection on an ashlar (R455, R457, R99). -/
def ashDetect (a cause space address : Nat) (s : State) : State :=
  let x := ash s a
  if atRest s x cause then restDamaged a space address (drewFree s) else detect x.cid cause (some a) space address (drewFree s)

/-- The code of the scratchpad line at `addr` of ashlar `a` shows an error as the line is read (R97, R455): a line of a context that
the command has not written is damaged at rest (R457). -/
def lineDetect (a addr : Nat) (s : State) : State :=
  let x := ash s a
  if x.ctx && !hasLine x.journal (addr / 64 * 64) && decide (addr < 0x7FF00) then restDamaged a 1 (a * 0x80000 + addr) s
  else detect x.cid 3 (some a) 1 (a * 0x80000 + addr) s

/-- DMA (R41, R43): a busy tag stalls it; its descriptor's line is checked as it is read (R97). -/
def execDma (a : Nat) (s : State) (det : Bool := false) : Host.Outcome State Fault Refusal :=
  issue 0x500 a (fun w x t =>
    let addr := (gr x (xRa w)).toNat
    if addr % 64 != 0 then violation a 0x11 0 0 t
    else if 0x80000 < addr + 64 then illegal a t
    else if (tget (xSel w) x.tags).isSome then modAsh a (stallFor .tag) t
    else if det then lineDetect a addr t
    else dmaGo a (xSel w) (mread x.spad addr 64) x t) s

/-- The first poisoned block a read meets (R461). -/
def readPoison (s : State) (b : Nat) (d : DmaDesc) : Option (Nat × Nat) :=
  (memRows d).findSome? fun r => poisonVa s b r.1 r.2

/-- What poison does to its reader, by class (R462, R463, R464): a committed result cannot be read again, every other
class kills and re-runs. -/
def poisonReader (a : Option Nat) (c : Nat) (p : Nat × Nat) (s : State) : State :=
  if p.2 = 1 && refetchFailed s (cmdD s c).bay p.1 then
    exhaust c 10 p.1 a (rasRec 1 5 (cmdD s c).bay 0 4 p.1 (qslot s (cmdD s c)) (countDet 5 s))
  else if p.2 = 11 then
    exhaust c 5 p.1 a (rasRec 1 5 (cmdD s c).bay 0 4 p.1 (qslot s (cmdD s c)) (countDet 5 s))
  else
    let t := detect c 5 a 4 p.1 s
    if p.2 = 1 then modCmd c (fun x => { x with held := true }) t else t

/-- DMA_READ_COMPLETE (R44, R455, R460, R461): the bytes of a read reach the scratchpad and the tag is idle; a joint configured
meanwhile where they go is a violation (R58). -/
def dmaReadDone (a tag : Nat) (env : Env) (s : State) : State :=
  let s := match env.ce with
    | some k => ceCorrect k s
    | none => s
  let x := ash s a
  match tget tag x.tags with
  | none => s
  | some t =>
    if t.d.toMem || x.run == .frozen || !t.todo.isEmpty || decide (0 < t.asked) then s
    else
      let c := cmdD s x.cid
      let s1 := (memRows t.d).foldl (fun u r =>
        (physRanges u c.bay r.1 r.2 1).foldl (fun u q => macFailures c.bay q.1 q.2.1 q.2.2 env u) u) s
      match env.det, readPoison s1 c.bay t.d with
      | some cause, _ => ashDetect a cause 1 (a * 0x80000 + t.d.spadAddr) s1
      | none, some p => poisonReader (some a) x.cid p s1
      | none, none =>
        let rows := List.zip (memRows t.d) (spadRows t.d)
        match rows.mapM fun r => (rowBytes s1 c.bay env t.got r.1.1 r.1.2).map fun bs => (r.2.1, readRow s1 c.bay t r.1.1 bs) with
        | none =>
          let e := cmdError c 0x04 0x33 0 t.d.vaddr (some a) 2 s1
          killDone x.cid 0x33 true e
        | some parts =>
          if parts.any fun p => inJoint x p.1 p.2.length then violation a 0x12 0 0 s1
          else drewN (2 ^ 28)
            (modAsh a (fun y => parts.foldl (fun y p => spadWr 3 p.1 p.2 y) { y with tags := tdrop tag y.tags }) s1)

/-- DMA_READ_COMPLETE (R44). -/
def execDmaReadComplete (a tag : Nat) (env : Env) (s : State) : Host.Outcome State Fault Refusal :=
  onUnit (decide (a < ashlars s)) "ashlar" (run fpWork (dmaReadDone a tag env) s)

/-- A row of a write reaches memory: in place, or into the staging extent for a STAGED command and for host and remote
targets (R120, R121, R128). -/
def writeRow (c : Cmd) (va : Nat) (bs : List Byte) (s : State) : State :=
  (pagesOf va bs.length).foldl (fun t p =>
    let part := (bs.drop (p.1 - va)).take p.2
    match xlate t c.bay p.1 2 true with
    | .ok (.hbm pa) =>
      if staged c then modCmd c.cid (stagePut p.1 part) t else writePa pa part t
    | .ok (.win k) =>
      if staged c then modCmd c.cid (stagePut p.1 part) t
      else writeWin k part t
    | .ok _ => modCmd c.cid (stagePut p.1 part) t
    | .fault _ => t) s

/-- Where a write of command `c` to `va` lands: in place, or in its staging extent (R120, R121, R128). -/
def inPlace (s : State) (c : Cmd) (va : Nat) : Bool :=
  !staged c && (lineOf s c.bay (va / 64)).isSome

/-- A piece of a finished write lands (R63): where another write has landed on its line meanwhile, a free value chooses whose line
memory keeps (log entry 28). -/
def landDone (c : Cmd) (a : Nat) (x : DmaXfer) (s0 : State) (p : Nat × Nat × Nat) (s : State) : State :=
  if x.clash.contains (p.1 / 64) && (Config.free (s0.out.free + 2 ^ 27 + p.1 / 64)).toNat % 2 == 1 then s
  else writeRow c p.1 (sourceBytes s0 c.bay (ash s0 a) x.h0 p.2.1 p.2.2)
    (noteLanded c.bay (if inPlace s c p.1 then none else some c.cid) (p.1 / 64) s)

/-- A write in place reads the blocks it covers in part (R363). -/
def mergeRows (c : Cmd) (d : DmaDesc) (env : Env) (s : State) : State :=
  if staged c then s
  else (memRows d).foldl (fun t r => (physRanges t c.bay r.1 r.2 2).foldl (fun u q => mergeFailures c.bay q.1 q.2.1 q.2.2 env u) t) s

/-- The message header's code of an ashlar (R48). -/
def ashCode (a : Nat) : Nat := a

/-- A message enters the network (R48). -/
def sendMsg (m : MMsg) (s : State) : State := { s with grid := { s.grid with net := s.grid.net ++ [m] } }

/-- The absolute ID of a panel-relative ashlar. -/
def absId (x : Ashlar) (a dx dy : Nat) : Nat := (a / 32 - x.py + dy) * 32 + (a % 32 - x.px + dx)

/-- DMA_WRITE_COMPLETE (R44, R45): the port has acknowledged every byte, the tag is idle, and a notify goes out. -/
def dmaWriteDone (a tag : Nat) (env : Env) (s : State) : State :=
  let x := ash s a
  match tget tag x.tags with
  | none => s
  | some t =>
    if !t.d.toMem || x.run == .frozen then s
    else
      let c := cmdD s x.cid
      match env.det with
      | some cause => ashDetect a cause 1 (a * 0x80000 + t.d.spadAddr) s
      | none =>
        let s0 := modAsh a (fun z => { z with tags := tdrop tag z.tags }) s
        let s1 := drewN (2 ^ 28) ((xferPieces t.d).foldl (fun u p => landDone c a t s0 p u) (mergeRows c t.d env s0))
        if t.d.notifyEn then
          let dst := absId x a t.d.dx t.d.dy
          let seq := match x.credits.find? (creditFor t.d.dx t.d.dy t.d.joint) with
            | some k => k.seq
            | none => freshSeq s a dst t.d.joint
          sendMsg { kind := 2, src := ashCode a, dst := dst, joint := t.d.joint, seq := seq, cid := x.cid }
            (modAsh a (nextSeq t.d.dx t.d.dy t.d.joint) s1)
        else s1

/-- DMA_WRITE_COMPLETE (R44). -/
def execDmaWriteComplete (a tag : Nat) (env : Env) (s : State) : Host.Outcome State Fault Refusal :=
  onUnit (decide (a < ashlars s)) "ashlar" (run fpWork (dmaWriteDone a tag env) s)

end Sys2Proof.Machine
end

