-- ==== Sys2Proof/Machine/Admit.lean ====
section
/-! DEFINITION. What a front checks of a command entry (R236): the catalogue (R239), the formats (R234, R240 to R261), the
launch descriptor (R241), and the command-specific tests: charge and budget (R103, R109, R111), overlap (R126), staging
(R129) and panels (R207, R208). Also the frames of a bay's share (R197, R199). -/
namespace Sys2Proof.Machine

/-! ## The catalogue (R239, R271) -/

/-- An opcode's row: kernel only, the minor revision of 3.x that introduced it, and whether 2.2 has it. -/
structure OpInfo where
  kernel : Bool
  minor : Nat
  compat : Bool
  deriving DecidableEq, Repr, Inhabited

/-- The rows of R239. -/
def opInfo (o : Nat) : Option OpInfo :=
  match o with
  | 0x01 => some ⟨false, 0, true⟩
  | 0x02 => some ⟨false, 0, false⟩
  | 0x03 => some ⟨false, 0, false⟩
  | 0x04 => some ⟨false, 1, false⟩
  | 0x05 => some ⟨false, 3, false⟩
  | 0x06 => some ⟨false, 3, false⟩
  | 0x10 => some ⟨false, 1, false⟩
  | 0x11 => some ⟨false, 1, false⟩
  | 0x12 => some ⟨false, 1, false⟩
  | 0x13 => some ⟨false, 0, false⟩
  | 0x14 => some ⟨false, 0, false⟩
  | 0x15 => some ⟨false, 0, true⟩
  | 0x16 => some ⟨false, 0, true⟩
  | 0x20 => some ⟨true, 0, true⟩
  | 0x21 => some ⟨true, 0, true⟩
  | 0x22 => some ⟨true, 0, true⟩
  | 0x23 => some ⟨true, 0, true⟩
  | 0x24 => some ⟨true, 3, false⟩
  | 0x25 => some ⟨true, 0, true⟩
  | 0x26 => some ⟨true, 0, true⟩
  | 0x27 => some ⟨true, 0, true⟩
  | _ => none

/-- Step 1 of R236: whether the opcode belongs to the bay's revision. -/
def opInRevision (s : State) (b : Nat) (i : OpInfo) : Bool := if compat22 s b then i.compat else revAtLeast s b i.minor

/-- Where an entry stands: in a ring, in a guest's graph of some parameter bytes, or in a model's graph. -/
inductive Scope | ring | guest (paramBytes : Nat) | model
  deriving DecidableEq, Repr, Inhabited

/-- Whether the flags belong to the bay's revision (R270): WALKED from 3.3, PARAM from 3.1; in 2.2 PARAM breaks the format (R271). -/
def flagInRevision (s : State) (c : Cmd) : Bool :=
  (!flag c 2 || revAtLeast s c.bay 3) && (compat22 s c.bay || !flag c 6 || revAtLeast s c.bay 1)

/-! ## Formats: each check is a byte offset and whether the field there is well formed -/

/-- Reserved bytes `[lo, hi]` are 0. -/
def rsv (c : Cmd) (lo hi : Nat) : List (Nat × Bool) :=
  (List.range (hi + 1 - lo)).map fun i => (lo + i, cf c (lo + i) 1 == 0)

/-- The header's checks (R234, R253, R271). -/
def headChecks (s : State) (sc : Scope) (c : Cmd) : List (Nat × Bool) :=
  let launchy := opc c == opLaunch || opc c == opQuoin
  let old := compat22 s c.bay
  [(1, !flag c 7 && (!old || !(flag c 0 || flag c 1 || flag c 6)) && (!flag c 1 || launchy) &&
       (!flag c 2 || (sc == .model && opc c == opLaunch)) && (!flag c 6 || (sc != .ring && launchy))),
   (2, !flag c 4 || decide (cf c 2 2 < syncPerBay s)),
   (4, !flag c 5 || decide (cf c 4 2 < syncPerBay s))]

/-- The shape of a panel (R23, R240). -/
def shapeChecks (s : State) (c : Cmd) : List (Nat × Bool) :=
  [(6, decide (1 ≤ wOf c ∧ wOf c ≤ 32)), (7, decide (1 ≤ hOf c ∧ hOf c ≤ courses s))]

/-- The group a COLLECTIVE names: entry index, if it is in use and the bay owns it (R430). -/
def groupOf (s : State) (c : Cmd) : Option Nat :=
  let h := cf c 0x18 4
  if h = 0 then none
  else match tget (h - 1) s.arch.groups with
    | some g => if g.bay = c.bay then some (h - 1) else none
    | none => none

/-- The bytes of an element (R431). -/
def dtBytes (t : Nat) : Nat := if t = 0 ∨ t = 3 then 4 else if t = 1 ∨ t = 2 then 2 else 1
/-- Operation and reduction of a COLLECTIVE (R431). -/
def colOp (c : Cmd) : Nat := bits (cf c 0x1C 1) 3 0
def colRed (c : Cmd) : Nat := bits (cf c 0x1C 1) 5 4
/-- Whether the operation reduces. -/
def colReduces (c : Cmd) : Bool := decide (colOp c ≤ 1)
/-- The element count. -/
def colC (c : Cmd) : Nat := cf c 0x20 8
/-- The chunk bytes, the default of 64 KiB applied (R243). -/
def colChunk (c : Cmd) : Nat := if cf c 0x38 4 = 0 then 65536 else cf c 0x38 4
/-- Input and output elements of rank `r` of `m` members (R432). -/
def colIn (c : Cmd) (m r : Nat) : Nat :=
  match colOp c with
  | 2 => colC c / m
  | 3 => if r = cf c 0x1E 2 then colC c else 0
  | 5 => 0
  | _ => colC c
def colOut (c : Cmd) (m : Nat) : Nat :=
  match colOp c with
  | 1 => colC c / m
  | 5 => 0
  | _ => colC c

/-- The slice of a buffer of `n` elements, in bytes. -/
def sliceBytes (c : Cmd) (n : Nat) : Nat := n / (wOf c * hOf c) * dtBytes (cf c 0x1D 1)

/-- A buffer divides evenly, in slices of whole lines unless the panel is 1 × 1 (R433). -/
def bufOk (c : Cmd) (n : Nat) : Bool :=
  n % (wOf c * hOf c) == 0 && (wOf c * hOf c == 1 || sliceBytes c n % 64 == 0)

/-- The checks of COLLECTIVE (R431 to R433). -/
def colChecks (s : State) (c : Cmd) : List (Nat × Bool) :=
  let op := colOp c
  let dt := cf c 0x1D 1
  let src := cf c 0x30 4
  let dst := cf c 0x34 4
  let g := (groupOf s c).bind fun i => tget i s.arch.groups
  let m := match g with
    | some g => g.members
    | none => 1
  let r := match g with
    | some g => g.rank
    | none => 0
  let ni := colIn c m r
  let no := colOut c m
  let bi := sliceBytes c ni
  let bo := sliceBytes c no
  shapeChecks s c ++
  [(0x1C, decide (op ≤ 5) && colRed c != 3 && decide (cf c 0x1C 1 < 64) && (colReduces c || colRed c == 0)),
   (0x1D, decide (dt ≤ 6) && (!colReduces c || decide (dt ≤ 3))),
   (0x1E, op == 3 || cf c 0x1E 2 == 0),
   (0x20, (if op = 5 then colC c == 0 else if op = 0 ∨ op = 3 then decide (1 ≤ colC c) else colC c % m == 0) &&
          bufOk c ni && bufOk c no),
   (0x28, decide (1 ≤ boundOf c)),
   (0x30, src % 64 == 0 && (op == 5 || decide (src + bi ≤ 0x7FF00)) &&
          (op == 5 || (src == dst && bi == bo) || !overlaps src bi dst bo)),
   (0x34, dst % 64 == 0 && (op == 5 || decide (dst + bo ≤ 0x7FF00))),
   (0x38, cf c 0x38 4 % 4096 == 0 && decide (cf c 0x38 4 ≤ 65536))] ++ rsv c 0x3C 0x3F

/-- The checks of MAP, UNMAP and INVALIDATE (R246). -/
def mapChecks (c : Cmd) : List (Nat × Bool) :=
  let kind := cf c 6 1
  let map := opc c == 0x20
  let unit := if map && kind == 0 then 0x200000 else 4096
  let tgt := cf c 0x28 8
  [(6, if map then decide (kind ≤ 2) else if opc c = 0x21 then kind == 0 else decide (kind ≤ 3)),
   (7, if map then decide (cf c 7 1 ≤ 3) else cf c 7 1 == 0),
   (0x18, cf c 0x18 8 % unit == 0),
   (0x20, cf c 0x20 8 % unit == 0 && cf c 0x20 8 != 0),
   (0x28, if map && kind == 1 then tgt % 4096 == 0 else if map && kind == 2 then decide (tgt < 2 ^ 24) else tgt == 0),
   (0x30, (map && kind == 2) || cf c 0x30 8 == 0)] ++ rsv c 0x38 0x3F

/-- The STREAM_ADMIN operations that use a field (R245): each field with its operations. -/
def adminFields : List (Nat × Nat × List Nat) :=
  [(0x18, 4, [0, 1, 2, 3, 4, 5, 6, 7]), (0x1C, 2, [0]), (0x1E, 2, [0, 6]), (0x20, 2, [0, 4]), (0x22, 1, [9, 10]),
   (0x24, 4, [0]), (0x28, 4, [0, 5]), (0x30, 8, [0, 7, 9]), (0x38, 8, [8, 9])]

/-- The checks of STREAM_ADMIN (R245). -/
def adminChecks (c : Cmd) : List (Nat × Bool) :=
  (6, decide (cf c 6 1 ≤ 10)) :: (0x22, decide (cf c 0x22 1 ≤ 15)) :: (adminFields.map fun f => (f.1, f.2.2.contains (cf c 6 1) || cf c f.1 f.2.1 == 0)) ++
    rsv c 7 7 ++ rsv c 0x23 0x23 ++ rsv c 0x2C 0x2F

/-- The checks of each command's own fields (R240 to R251, R258 to R262). -/
def fieldChecks (s : State) (c : Cmd) : List (Nat × Bool) :=
  match opc c with
  | 0x01 => shapeChecks s c ++ [(0x18, cf c 0x18 8 % 4096 == 0), (0x20, cf c 0x20 8 % 64 == 0), (0x28, decide (1 ≤ boundOf c))]
  | 0x02 => [(6, decide (wOf c < quoinPorts s)), (0x18, cf c 0x18 8 % 64 == 0), (0x28, decide (1 ≤ boundOf c))] ++
      rsv c 0x20 0x27 ++ rsv c 0x2C 0x2F
  | 0x03 => colChecks s c
  | 0x04 => rsv c 6 7 ++ rsv c 0x1C 0x3F
  | 0x05 => rsv c 6 7 ++ rsv c 0x1C 0x3F
  | 0x06 => [(0x1C, decide (1 ≤ cf c 0x1C 4 ∧ cf c 0x1C 4 ≤ 256))] ++ rsv c 6 7 ++ rsv c 0x28 0x3F
  | 0x10 => [(0x20, decide (1 ≤ cf c 0x20 2 ∧ cf c 0x20 2 ≤ 4096)),
             (0x24, cf c 0x24 4 % 64 == 0 && decide (64 ≤ cf c 0x24 4 ∧ cf c 0x24 4 ≤ 65536))] ++
      rsv c 6 7 ++ rsv c 0x22 0x23 ++ rsv c 0x30 0x3F
  | 0x11 => rsv c 6 7 ++ rsv c 0x1C 0x3F
  | 0x12 => rsv c 6 7 ++ rsv c 0x24 0x27 ++ rsv c 0x30 0x3F
  | 0x13 => shapeChecks s c ++ rsv c 0x18 0x3F
  | 0x14 => rsv c 6 7 ++ rsv c 0x1C 0x3F
  | 0x15 => rsv c 6 7 ++ rsv c 0x1A 0x1F ++ rsv c 0x28 0x3F
  | 0x16 => (6, decide (cf c 6 1 ≤ 1)) :: rsv c 7 7 ++
      (if cf c 6 1 = 1 then [(0x1A, decide (1 ≤ cf c 0x1A 2 ∧ cf c 0x1A 2 ≤ 64))] ++ rsv c 0x1C 0x1F ++ rsv c 0x28 0x3F
       else rsv c 0x18 0x3F)
  | 0x20 => mapChecks c
  | 0x21 => mapChecks c
  | 0x22 => mapChecks c
  | 0x23 => [(0x1B, decide (cf c 0x1B 1 ≤ 7))] ++ rsv c 6 7 ++ rsv c 0x1A 0x1A ++ rsv c 0x1C 0x3F
  | 0x24 => adminChecks c
  | 0x25 => [(6, decide (cf c 6 1 ≤ 1)), (0x18, cf c 0x18 2 != 0xFFFF)] ++ rsv c 7 7 ++ rsv c 0x1A 0x1B ++
      rsv c 0x30 0x3F ++ (if cf c 6 1 = 1 then rsv c 0x1C 0x2F else [])
  | 0x26 => [(0x1A, decide (cf c 0x1A 1 ≤ 1)), (0x1B, decide (cf c 0x1B 1 ≤ 7)),
             (0x1C, decide (6 ≤ cf c 0x1C 1 ∧ cf c 0x1C 1 ≤ 16)), (0x1D, decide (6 ≤ cf c 0x1D 1 ∧ cf c 0x1D 1 ≤ 16)),
             (0x1E, decide (cf c 0x1E 1 ≤ 7)), (0x1F, decide (cf c 0x1F 1 ≤ 63)), (0x20, cf c 0x20 8 % 4096 == 0),
             (0x28, cf c 0x28 8 % 4096 == 0)] ++ rsv c 6 7 ++ rsv c 0x30 0x3F
  | 0x27 => rsv c 6 7 ++ rsv c 0x1A 0x3F
  | _ => []

/-- The least offset of a failed check. -/
def firstBad (l : List (Nat × Bool)) : Option Nat :=
  (l.filter fun p => !p.2).foldl (fun m p => match m with
    | none => some p.1
    | some n => some (min n p.1)) none

/-- The first bad field of an entry (R236 step 3, R268). -/
def entryBad (s : State) (sc : Scope) (c : Cmd) : Option Nat := firstBad (headChecks s sc c ++ fieldChecks s c)

/-! ## The launch descriptor (R241) -/

/-- Checks of a descriptor's first 0x140 bytes. -/
def descHeadBad (quoin : Bool) (h : List Byte) : Option Nat :=
  let al := fld h 0x100 2
  firstBad ([(0x100, decide (al ≤ 256)), (0x102, decide (fld h 0x102 1 ≤ 16)), (0x103, decide (fld h 0x103 1 ≤ 16)),
    (0x104, if quoin then fld h 0x104 2 == 0 else decide (1 ≤ fld h 0x104 2 ∧ fld h 0x104 2 ≤ 8192))] ++
    ((List.range 256).map fun i => (i, decide (i < al) || fld h i 1 == 0)) ++
    ((List.range 0x3A).map fun i => (0x106 + i, fld h (0x106 + i) 1 == 0)))

/-- Checks of the ranges. -/
def descRangesBad (t : List Byte) (n : Nat) : Option Nat :=
  firstBad ((List.range n).flatMap fun i =>
    [(0x148 + 16 * i, fld t (16 * i + 8) 4 != 0), (0x14C + 16 * i, fld t (16 * i + 12) 4 == 0)])

/-- The descriptor's fields. -/
def descParse (h t : List Byte) : Desc :=
  let ni := fld h 0x102 1
  let no := fld h 0x103 1
  let rs := (List.range (ni + no)).map fun i => ({ va := fld t (16 * i) 8, len := fld t (16 * i + 8) 4 } : Range)
  { args := h.take 256, argLen := fld h 0x100 2, ins := rs.take ni, outs := rs.drop ni, imageInstr := fld h 0x104 2 }

/-- What a read of bytes a command takes at fetch gives (R225, R402, R462 class 14). -/
inductive Took | bytes (bs : List Byte) | failed (address : Nat) (poison : Bool)
  deriving DecidableEq, Repr, Inhabited

/-- Reads a command's bytes in device memory at fetch; the front uses the translations its cache holds (R388, R389). -/
def takeVa (s : State) (b : Nat) (env : Env) (va n : Nat) : Took :=
  match poisonVa s b va n with
  | some p => .failed p.1 true
  | none =>
    match firstFaultIn false s b va n 1 (tlbHit s b 2) with
    | some f => .failed (max va f.1) false
    | none =>
      match readVa s b env true va n with
      | some bs => .bytes bs
      | none => .failed (badByte s b env true va n) false

/-- The bytes of a KV element, by the manifest's kv_fmt (R163, R297). -/
def kvElem (f : Nat) : Nat := if f = 1 ∨ f = 2 then 1 else 2
/-- The bytes of a piece (R164). -/
def pieceBytes (m : Model) : Nat := 2 * 256 * m.d * kvElem m.kvFmt
/-- The per-token KV size of one layer (R163). -/
def kvTok (m : Model) : Nat := 2 * m.hkv * m.d * kvElem m.kvFmt
/-- The slab size (R163). -/
def slabBytes (m : Model) : Nat := 256 * kvTok m

/-- The first field of a walk descriptor that breaks its geometry, as an offset of the launch descriptor (R181): w × h = ways × H_kv /
hpa, the ring below 0x7_FF00, slot lines that hold a part, and reserved bytes 0. -/
def walkBad (m : Model) (c : Cmd) (args : List Byte) : Option Nat :=
  let d := args.drop 0xC0
  let ring := fld d 8 4
  let slots := fld d 0xC 2
  let lines := fld d 0xE 2
  let hpa := fld d 0x12 1
  let ways := fld d 0x13 1
  let parts := fld d 0x28 1
  firstBad [(0xC8, ring % 64 == 0 && decide (ring + 64 + slots * lines * 64 ≤ 0x7FF00)), (0xCC, decide (1 ≤ slots ∧ slots ≤ 64)),
    (0xCE, parts == 0 || decide (1 + pieceBytes m / (64 * parts) ≤ lines)),
    (0xD2, hpa != 0 && m.hkv % hpa == 0 && wOf c * hOf c == ways * (m.hkv / hpa)), (0xD3, decide (1 ≤ ways)),
    (0xD4, decide (1 ≤ fld d 0x14 4 ∧ fld d 0x14 4 ≤ 8192)), (0xE8, [1, 2, 4, 8, 16].contains parts),
    (0xE9, allZero ((d.drop 0x29).take 0x17))]

/-- A refusal at fetch: its code and, where one is written, its error record's kind, detail and address. -/
structure Refuse where
  code : Nat
  kind : Nat := 0
  detail : Nat := 0
  address : Nat := 0
  deriving DecidableEq, Repr, Inhabited

/-- A field breaks its format: `at_` is 0 the entry, 1 its descriptor, 2 a graph body entry (R268). -/
def formatRefuse (at_ idx off : Nat) : Refuse := { code := 0x20, kind := 1, detail := at_ * 2 ^ 56 + idx * 2 ^ 32 + off }
/-- A read at fetch fails (R402, R462). -/
def tookRefuse (va : Nat) (poison : Bool) : Refuse :=
  { code := 0x33, kind := if poison then 6 else 4, detail := if poison then 5 else 0, address := va }

/-- What one of the front's tests says. -/
inductive Verd | go (c : Cmd) | no (r : Refuse) | priv
  deriving DecidableEq, Repr, Inhabited

/-- The bytes of a descriptor: device memory, or the parameter region the launch pinned (R259). -/
def takeDesc (s : State) (env : Env) (region : Option Mem) (c : Cmd) (off n : Nat) : Took :=
  let va := if opc c = opQuoin then cf c 0x18 8 else cf c 0x20 8
  match region with
  | some m => if flag c 6 then .bytes (mread m (va + off) n) else takeVa s c.bay env (va + off) n
  | none => takeVa s c.bay env (va + off) n

/-- Reads and checks the launch descriptor of a LAUNCH or QUOIN_LAUNCH (R241, R259); `room` is the parameter region's
size where the descriptor lies in it. -/
def withDesc (s : State) (env : Env) (region : Option Mem) (room : Nat) (c : Cmd) : Verd :=
  let quoin := opc c == opQuoin
  let off := if quoin then cf c 0x18 8 else cf c 0x20 8
  match takeDesc s env region c 0 0x140 with
  | .failed a p => .no (tookRefuse a p)
  | .bytes h =>
    match descHeadBad quoin h with
    | some o => .no (formatRefuse 1 0 o)
    | none =>
      let n := fld h 0x102 1 + fld h 0x103 1
      if flag c 6 && decide (room < off + 0x140 + 16 * n) then .no (formatRefuse 1 0 0x102)
      else match takeDesc s env region c 0x140 (16 * n) with
        | .failed a p => .no (tookRefuse a p)
        | .bytes t =>
          match descRangesBad t n with
          | some o => .no (formatRefuse 1 0 o)
          | none => .go { c with desc := descParse h t }

/-! ## Charge and budget (R103, R109, R111, R128) -/

/-- The lift budget at a period and clock (R103). -/
def budgetAt (period clk : Nat) : Nat := period * clk - 12000

/-- The words of a command's image as they stand (R225 does not copy an image). -/
def imageNow (s : State) (c : Cmd) : Option (List W64) :=
  if c.words.isEmpty then
    (readVa s c.bay {} false (cf c 0x18 8) (8 * c.desc.imageInstr)).map fun bs =>
      (List.range (bs.length / 8)).map fun i => BitVec.ofNat 64 (fld bs (8 * i) 8)
  else some c.words

/-- The table of an image's words, zero words unlisted. -/
def imageTable (ws : List W64) : Tbl W64 :=
  (ws.foldl (fun (p : Nat × Tbl W64) w => (p.1 + 1, if w = 0 then p.2 else tput p.1 w p.2)) (0, [])).2

/-- Whether an image is loaded on every ashlar of a list (R31). -/
def loadedOn (s : State) (ws : List W64) (ids : List Nat) : Bool :=
  let t := imageTable ws
  ids.all fun a => (ash s a).img.isSome && (ash s a).imgLen == ws.length && (ash s a).imem == t

/-- Whether the command's image is loaded on every ashlar of a panel. -/
def imageOn (s : State) (c : Cmd) (ids : List Nat) : Bool :=
  !isLaunch c || match imageNow s c with
    | some ws => loadedOn s ws ids
    | none => false

/-- a_mem in units of 0.1 Gb/s × 64 bytes / 65: bytes per second divided by 10^8 × 64 / 65 × 2 (R128). -/
def aMemNum (s : State) : Nat := 2 * s.hw.pinRate * 64 * 100000000
/-- Its denominator. -/
def aMemDen : Nat := 65

/-- The staged bytes of a command (R128). -/
def stagedBytes (s : State) (c : Cmd) : Nat :=
  (c.desc.outs.map fun r =>
    if staged c then r.len
    else ((pagesOf r.va r.len).map fun p => match xlate s c.bay p.1 0 false with
      | .ok (.hbm _) => 0
      | .ok (.win _) => 0
      | .ok _ => p.2
      | .fault _ => 0).foldl (· + ·) 0).foldl (· + ·) 0

/-- The staging clocks of a STAGED command on `n` ashlars at a clock in MHz (R128). -/
def stagingClocks (s : State) (c : Cmd) (n clk : Nat) : Nat :=
  if staged c then ceilDiv (2 * stagedBytes s c * clk * 1000000 * aMemDen) (n * aMemNum s) else 0

/-- The context with a handle, if the bay holds it. -/
def ctx? (s : State) (b h : Nat) : Option Ctx := (bay s b).strm.ctxs.find? fun x => x.handle == h

/-- The bytes of the longest journal of a context's ashlars (R140). -/
def journalBytes (s : State) (x : Ctx) : Nat :=
  let js : List (List JItem) := match x.resident with
    | some o => (rectIds o.1 o.2 x.w x.h).map fun a => (ash s a).journal
    | none => x.images.map fun e => e.2.journal
  js.foldl (fun m j => max m ((j.map fun i => match i with
    | .line _ _ => 64
    | .row _ _ => 128).foldl (· + ·) 0)) 0

/-- Replay clocks of a pending journal (R140). -/
def replayClocks (s : State) (c : Cmd) (clk : Nat) : Nat :=
  match ctx? s c.bay (ctxOf c) with
  | some x => if x.pending then ceilDiv (journalBytes s x * clk * 1000000 * aMemDen) (aMemNum s) else 0
  | none => 0

/-- The charge of a panel command (R109); `loaded` tells whether its image need not be loaded. -/
def chargeOf (s : State) (c : Cmd) (loaded : Bool) (clk : Nat) : Nat :=
  boundOf c + (if loaded then 0 else if s.bays.count = 16 then 1300 else 1000) + (if ctxOf c = 0 then 512 else 0) +
    replayClocks s c clk + 4000 + stagingClocks s c (wOf c * hOf c) clk

/-- A bay's slice of a quoin engine in a lift, in the engine's clocks (R116). The spec does not say which span is an engine's time in
the lift: the model takes the whole period for a quoin engine, which has clocks of its own, and the lift budget for the arch unit
and the walker (log entry 62). -/
def quoinSlice (s : State) (period p : Nat) : Nat := period * (qport s p).mhz / s.bays.count
/-- A bay's slice of the arch unit or the slab walker in a lift, in ashlar clocks (R116). -/
def unitSlice (s : State) (period clk : Nat) : Nat := budgetAt period clk / s.bays.count

/-! ## Panels (R207 to R211) -/

/-- Whether one panel constraint admits a panel at an origin, in coordinates of the share (R209). -/
def conAdmits (k : PanelCon) (x y w h : Nat) : Bool :=
  match k.mode with
  | 0 => decide (k.x ≤ x ∧ x + w ≤ k.x + k.w ∧ k.y ≤ y ∧ y + h ≤ k.y + k.h)
  | 1 => decide (x = k.x ∧ y = k.y)
  | _ => !(decide (x < k.x + k.w ∧ k.x < x + w ∧ y < k.y + k.h ∧ k.y < y + h))

/-- The origins a panel of a queue may take, as absolute coordinates, lower y then lower x first (R207). -/
def originsOf (s : State) (b q w h : Nat) : List (Nat × Nat) :=
  let cons := (bay s b).mem.cons.filter fun k => k.queue == q
  let base := courseBase s b
  ((List.range (shareCourses s + 1 - h)).flatMap fun y => (List.range (33 - w)).map fun x => (x, y)).filterMap fun o =>
    if cons.all (conAdmits · o.1 o.2 w h) && (rectIds o.1 (base + o.2) w h).all (!isLost s ·) then some (o.1, base + o.2)
    else none

/-- R111 at fetch: the charge at 1.25 GHz fits the budget of the current period; the image term falls away when a
permitted origin holds the image. A shared-engine command fits its bay's slice. -/
def fitsPeriod (s : State) (period : Nat) (c : Cmd) : Bool :=
  if opc c = opQuoin then
    decide (boundOf c ≤ quoinSlice s period (wOf c))
  else
    let os := originsOf s c.bay c.queue (wOf c) (hOf c)
    let loaded := os.any fun o => imageOn s c (rectIds o.1 o.2 (wOf c) (hOf c))
    decide (chargeOf s c loaded 1250 ≤ budgetAt period 1250) &&
      (opc c != opCollective || decide (boundOf c ≤ unitSlice s period 1250)) && (match c.walk with
        | some w => decide (w.bound ≤ unitSlice s period 1250)
        | none => true)

/-! ## Overlap and staging (R126, R129) -/

/-- Whether declared outputs overlap inputs or each other (R126). -/
def overlapsDecl (d : Desc) : Bool :=
  let rec go : List Range → Bool
    | [] => false
    | o :: os => (d.ins ++ os).any (fun r => overlaps o.va o.len r.va r.len) || go os
  go d.outs

/-- The extents of a bay's staging pool (R129). -/
def stagingPool (s : State) : Nat := shareExtents s / 64

/-- The first frame of a bay's staging pool, the highest frames of its share (log entry 16): placed memory and the other regions of R197
lie below. -/
def stagingBase (s : State) : Nat := shareExtents s - stagingPool s

/-- The frames of a bay's share that repointing withheld (R365). -/
def withheldIn (s : State) (b : Nat) : List Nat :=
  (s.mem.withheld.filter fun e => decide (b * shareExtents s ≤ e) && decide (e < (b + 1) * shareExtents s)).map (· - b * shareExtents s)

/-- The `n` lowest free frames of a bay's staging pool, fewer where it has no more (R129). -/
def stagingFrames (s : State) (b n : Nat) : List Nat :=
  let used := (bayCmds s b).flatMap (·.stageAt) ++ withheldIn s b
  (((List.range (min (stagingPool s) (used.length + n))).map (stagingBase s + ·)).filter fun f => !used.contains f).take n

/-! ## The command-specific tests (R236 step 5) -/

/-- The context test of LAUNCH and COLLECTIVE (R240, R433, R457). -/
def contextOk (s : State) (c : Cmd) (need : Bool) : Bool :=
  if ctxOf c = 0 then !need
  else match ctx? s c.bay (ctxOf c) with
    | some x => x.w == wOf c && x.h == hOf c && !x.damaged
    | none => false

/-- Handle, index and context tests (R236, R240, R242, R265, R433, R174). -/
def handlesOk (s : State) (c : Cmd) : Bool :=
  let b := bay s c.bay
  let strm := cf c 0x18 4
  let open_ := decide (strm < streamEntries s / s.bays.count) && (stream s c.bay strm).state != .free
  match opc c with
  | 0x01 => contextOk s c false
  | 0x02 => (qport s (wOf c)).registered
  | 0x03 => (groupOf s c).isSome && contextOk s c true
  | 0x04 => b.strm.graphs.any fun g => g.handle == cf c 0x18 4 && g.owner.isNone
  | 0x05 => open_
  | 0x06 => open_
  | 0x11 => b.strm.graphs.any fun g => g.handle == cf c 0x18 4
  | 0x12 => b.strm.graphs.any fun g => g.handle == cf c 0x18 4 && g.owner.isNone
  | 0x14 => b.strm.ctxs.any fun x => x.handle == cf c 0x18 4
  | 0x15 => decide (cf c 0x18 2 < queuesPerBay s)
  | 0x16 => cf c 6 1 == 0 || decide (cf c 0x18 2 + cf c 0x1A 2 ≤ syncPerBay s)
  | 0x23 => decide (cf c 0x18 2 < queuesPerBay s)
  | 0x24 => if cf c 6 1 = 0 then strm == 0xFFFFFFFF || decide (strm < streamEntries s / s.bays.count)
            else decide (8 ≤ cf c 6 1) || open_
  | 0x26 => decide (cf c 0x18 2 < queuesPerBay s)
  | 0x27 => decide (cf c 0x18 2 < queuesPerBay s)
  | _ => true

/-- Step 5 of R236, in its order. -/
def step5 (s : State) (c : Cmd) : Verd :=
  if !handlesOk s c then .no { code := 0x23 }
  else if !isEngineCmd c then .go c
  else if !fitsPeriod s s.lift.period c then .no { code := 0x25 }
  else if !staged c && overlapsDecl c.desc then .no { code := 0x24 }
  else if decide (stagingPool s * 2 ^ 21 / 4 < stagedBytes s c) then .no { code := 0x26 }
  else if onPanel c && (originsOf s c.bay c.queue (wOf c) (hOf c)).isEmpty then .no { code := 0x27 }
  else .go c

/-! ## Frames of a bay's share (R197, R199) -/

/-- The frames placed extents, moves in progress, pages awaiting invalidation and lost table entries hold (R388, R466). -/
def usedFrames (m : BayMem) : List Nat :=
  dedup <| (m.extents.flatMap fun e => (match e.2.home with
      | .hbm f => [f]
      | .win _ _ => []) ++ (match e.2.move with
      | some v => match v.dst with
        | .hbm f => [f]
        | .win _ _ => []
      | none => [])) ++
    (m.awaiting.filterMap fun a => match a.home with
      | some (.hbm f) => some f
      | _ => none) ++ m.withheld

/-- The frames of the fixed-home regions that have frames of their own: KV pool, batch area, context home regions (R139, R170, R197). -/
def homeFrames (y : BayStream) : List Nat := y.pool ++ y.area ++ y.ctxs.flatMap (·.home)

/-- The frames below the staging pool that no placement uses: those in use, and those repointing withheld (R365). -/
def takenFrames (s : State) (b : Nat) : List Nat :=
  dedup (usedFrames (bay s b).mem ++ homeFrames (bay s b).strm ++ (withheldIn s b).filter fun f => decide (f < stagingBase s))

/-- Extents of the fixed-home regions of R197 that are only counted: the staging pool, graphs, program images. -/
def fixedFrames (s : State) (b : Nat) : Nat :=
  let y := (bay s b).strm
  stagingPool s +
    ((y.graphs.map fun g => ceilDiv (2 * g.paramBytes) 0x200000).foldl (· + ·) 0) +
    ((y.models.map fun m => ceilDiv ((m.images.map fun ws => 8 * ws.length).foldl (· + ·) 0) 0x200000).foldl (· + ·) 0)

/-- The free placeable frames of a bay's HBM share (R199, R219). -/
def freeFrames (s : State) (b : Nat) : Nat := shareExtents s - fixedFrames s b - (takenFrames s b).length

/-- The lowest unused number below a limit: it lies at or below the count of the used ones. -/
def lowestFree (used : List Nat) (limit : Nat) : Option Nat :=
  (List.range (min limit (used.length + 1))).find? fun i => !used.contains i

/-- The `n` highest frames below the staging pool that nothing uses (log entry 16). -/
def highFrames (s : State) (b n : Nat) : List Nat :=
  let used := takenFrames s b
  (((List.range (min (stagingBase s) (used.length + n))).map fun i => stagingBase s - 1 - i).filter fun f => !used.contains f).take n

/-- A frame of the HBM share, if one is free. -/
def freeHbm (s : State) (b : Nat) : Option Home :=
  if freeFrames s b = 0 then none else (lowestFree (takenFrames s b) (stagingBase s)).map .hbm

/-- A freed frame is zeroed before it counts as free (R387). -/
def zeroHome (b : Nat) (h : Home) (s : State) : State :=
  match h with
  | .hbm f =>
    let pa := physOf s b f 0
    { s with mem := { s.mem with
        hbm := mzero pa (2 ^ 21) s.mem.hbm
        poison := s.mem.poison.filter fun e => !within pa (2 ^ 21) (e.1 * 512) 512 } }
  | .win w f => { s with mem := { s.mem with win := mzero ((16 * b + w) * 2 ^ 44 + f * 2 ^ 21) (2 ^ 21) s.mem.win } }

/-- Frames of the share zeroed one by one. -/
def zeroFrames (b : Nat) (fs : List Nat) (s : State) : State := each fs (fun f => zeroHome b (.hbm f)) s

/-- The frames of a backing window in use. -/
def winUsed (m : BayMem) (w : Nat) : List Nat :=
  (m.extents.flatMap fun e => (match e.2.home with
      | .win v f => if v = w then [f] else []
      | .hbm _ => []) ++ (match e.2.move with
      | some x => match x.dst with
        | .win v f => if v = w then [f] else []
        | .hbm _ => []
      | none => [])) ++
    m.awaiting.filterMap fun a => match a.home with
      | some (.win v f) => if v = w then some f else none
      | _ => none

/-- A frame of one backing window, unless it is being removed. -/
def freeWinOf (s : State) (b w : Nat) : Option Home :=
  match tget w (bay s b).mem.windows with
  | none => none
  | some k => if k.removing.isSome then none else (lowestFree (winUsed (bay s b).mem w) (k.len / 2 ^ 21)).map (.win w)

/-- A frame of the bay's backing windows, in the order the manager added them (R199). -/
def freeWin (s : State) (b : Nat) : Option Home :=
  (tkeys ((bay s b).mem.windows.mergeSort fun x y => decide (x.2.added ≤ y.2.added))).findSome? (freeWinOf s b)

/-- The home of a newly mapped extent (R199, R405). -/
def newHome (s : State) (b : Nat) (hint : Nat) (exported : Bool) : Option Home :=
  if exported then freeHbm s b
  else if hint = 2 then (freeWin s b).orElse fun _ => freeHbm s b
  else (freeHbm s b).orElse fun _ => freeWin s b

end Sys2Proof.Machine
end

