-- ==== Sys2Proof/Machine/Vector.lean ====
section
/-! DEFINITION. The vector instructions (R81 to R92): what issue does, and what the vector unit does with the operation at
the head of its queue. -/
namespace Sys2Proof.Machine

/-- Bytes of an element of a type code (R37). -/
def elemBytes (t : Nat) : Nat := if t = 0 || t = 3 then 4 else if t = 1 || t = 2 then 2 else 1

/-- The scratchpad address or accumulator row of a V instruction (R36). -/
def vAddr (base : W64) (w : W64) : Nat := (base + vOff w).toNat

/-- Whether the operand place of a V instruction is aligned and in range (R36, R66). -/
def vPlaceOk (w : W64) (addr : Nat) : Bool :=
  let op := wf w 59 52
  if op = 0 || op = 1 then addr % 64 == 0 && decide (addr + 64 * elemBytes (vType w) ≤ 0x80000)
  else if op = 2 || op = 3 then addr % 2 == 0 && decide (addr + 1 < 512)
  else true

/-- A vector instruction is handed to the unit's queue of 16 with g[base] as it stands (R34). -/
def vectorIssue (a : Nat) (w : W64) (x : Ashlar) (s : State) : State :=
  let base := gr x (vBase w)
  let addr := vAddr base w
  if !vPlaceOk w addr then illegal a s
  else if wf w 59 52 == 1 && inJoint x addr (64 * elemBytes (vType w)) then violation a 0x12 0 0 s
  else if 16 ≤ x.vq.length then modAsh a (stallFor .queue) s
  else modAsh a (fun y => retire { y with vq := y.vq ++ [{ word := w, base := base, h0 := y.serial }] }) s

/-- VLD (R88). -/
def execVld (a : Nat) (s : State) : Host.Outcome State Fault Refusal := issue 0x400 a (vectorIssue a) s

/-- VST (R88, R58). -/
def execVst (a : Nat) (s : State) : Host.Outcome State Fault Refusal := issue 0x401 a (vectorIssue a) s

/-- VLDA (R81). -/
def execVlda (a : Nat) (s : State) : Host.Outcome State Fault Refusal := issue 0x402 a (vectorIssue a) s

/-- VSTA (R81). -/
def execVsta (a : Nat) (s : State) : Host.Outcome State Fault Refusal := issue 0x403 a (vectorIssue a) s

/-- VBCAST (R89). -/
def execVbcast (a : Nat) (s : State) : Host.Outcome State Fault Refusal := issue 0x404 a (vectorIssue a) s

/-- VADD (R90). -/
def execVadd (a : Nat) (s : State) : Host.Outcome State Fault Refusal := issue 0x410 a (vectorIssue a) s

/-- VSUB (R90). -/
def execVsub (a : Nat) (s : State) : Host.Outcome State Fault Refusal := issue 0x411 a (vectorIssue a) s

/-- VMUL (R90). -/
def execVmul (a : Nat) (s : State) : Host.Outcome State Fault Refusal := issue 0x412 a (vectorIssue a) s

/-- VFMA (R90). -/
def execVfma (a : Nat) (s : State) : Host.Outcome State Fault Refusal := issue 0x413 a (vectorIssue a) s

/-- VMAX (R90). -/
def execVmax (a : Nat) (s : State) : Host.Outcome State Fault Refusal := issue 0x414 a (vectorIssue a) s

/-- VMIN (R90). -/
def execVmin (a : Nat) (s : State) : Host.Outcome State Fault Refusal := issue 0x415 a (vectorIssue a) s

/-- VEXP2 (R91). -/
def execVexp2 (a : Nat) (s : State) : Host.Outcome State Fault Refusal := issue 0x416 a (vectorIssue a) s

/-- VRCP (R91). -/
def execVrcp (a : Nat) (s : State) : Host.Outcome State Fault Refusal := issue 0x417 a (vectorIssue a) s

/-- VRSQ (R91). -/
def execVrsq (a : Nat) (s : State) : Host.Outcome State Fault Refusal := issue 0x418 a (vectorIssue a) s

/-- VCVT (R89). -/
def execVcvt (a : Nat) (s : State) : Host.Outcome State Fault Refusal := issue 0x420 a (vectorIssue a) s

/-- VREDSUM (R92). -/
def execVredsum (a : Nat) (s : State) : Host.Outcome State Fault Refusal := issue 0x421 a (vectorIssue a) s

/-- VREDMAX (R92). -/
def execVredmax (a : Nat) (s : State) : Host.Outcome State Fault Refusal := issue 0x422 a (vectorIssue a) s

/-! ## What the unit does -/

/-- The elements of `n` bytes each of a byte string. -/
def elems (n : Nat) (bs : List Byte) : List Nat := (List.range (bs.length / n)).map fun i => fld bs (n * i) n

/-- The lane an element is loaded into (R88): FP32 unchanged, narrower types exactly. -/
def loadLane (t c : Nat) : W32 :=
  match t, fmtOfType t with
  | 0, _ => BitVec.ofNat 32 c
  | _, some f => laneOf (decodeF f c)
  | _, none => BitVec.ofNat 32 c

/-- The encoded element a lane is stored as (R88). -/
def storeElem (t : Nat) (r : Option Nat) (w : W32) : List Byte :=
  match fmtOfType t with
  | some f => natLe (elemBytes t) (encodeF f (roundTo f r (lane w)))
  | none => natLe 4 w.toNat

/-- The 64 rounding draws of an operation: none under round-to-nearest-even, one r a lane under stochastic rounding. -/
def draws (rnd : Nat) (rng : W64) : W64 × List (Option Nat) :=
  if rnd = 1 then
    let p := rngSteps 64 rng
    (p.1, p.2.map some)
  else (rng, List.replicate 64 none)

/-- One level of a reduction tree: lane i and lane i + half are combined with the next draws (R92). -/
def redLevel (f : Fmt) (half : Nat) (p : List Val × List (Option Nat)) : List Val × List (Option Nat) :=
  let sums := List.zipWith (fun (q : Val × Val) r => roundTo f r (addV q.1 q.2))
    (List.zip (p.1.take half) (p.1.drop half)) (p.2.take half)
  (sums, p.2.drop half)

/-- VREDSUM's six levels (R92). -/
def redSum (f : Fmt) (rs : List (Option Nat)) (vs : List Val) : Val :=
  (([32, 16, 8, 4, 2, 1].foldl (fun p h => redLevel f h p) (vs, rs)).1).headD (.fin false 0 0)

/-- The maximum of all lanes (R90, R92). -/
def redMax (vs : List Val) : Val :=
  match vs with
  | [] => .nan
  | v :: t => t.foldl maxV v

/-- The new lanes of vd for an operation that writes a vector register from registers alone (R88 to R92). -/
def vecCompute (w : W64) (x : Ashlar) (base : W64) (rs : List (Option Nat)) (k : Nat) : List W32 :=
  let f := (fmtOfType (vType w)).getD fp32
  let va := (vrow x (vVa w)).map lane
  let vb := (vrow x (vVb w)).map lane
  let vc := (vrow x (vVc w)).map lane
  let two := fun (g : Val → Val → Val) =>
    List.zipWith (fun (v : Val) r => laneRound f r v) (List.zipWith g va vb) rs
  let func := fun op => (List.zip (List.range 64) rs).map fun p =>
    laneOf (funcOp op f (Config.funcOffset op (vr x (vVa w) p.1) (k + p.1)) p.2 (va.getD p.1 .nan))
  match wf w 59 52 with
  | 0x04 => rs.map fun r => laneRound f r (ofInt base.toInt)
  | 0x10 => two addV
  | 0x11 => two fun p q => addV p (negV q)
  | 0x12 => two mulV
  | 0x13 => List.zipWith (fun (v : Val) r => laneRound f r v)
      (List.zipWith addV (List.zipWith mulV va vb) vc) rs
  | 0x14 => two maxV
  | 0x15 => two minV
  | 0x16 => func 0
  | 0x17 => func 1
  | 0x18 => func 2
  | 0x20 => List.zipWith (fun (v : Val) r => laneRound ((fmtOfType (vVc w)).getD fp32) r v) va rs
  | 0x21 => laneOf (redSum f rs va) :: List.replicate 63 0
  | _ => laneRound f (rs.headD none) (redMax va) :: List.replicate 63 0

/-- Accumulator rows r and r + 1 into lanes (R81). -/
def vldaLanes (w : W64) (x : Ashlar) (h0 r : Nat) (rs : List (Option Nat)) (k : Nat) : List W32 :=
  let es := (List.range 64).map fun i => seenAcc x 2 h0 k (r + i / 32) (i % 32)
  if vType w = 3 then List.zipWith (fun (e : W32) q => laneRound fp32 q (ofInt e.toInt)) es rs
  else es.map fun e => if bits e.toNat 30 23 = 0 then e &&& 0x80000000 else e

/-- Lanes back into accumulator rows r and r + 1 (R81). -/
def vstaRows (w : W64) (x : Ashlar) (rs : List (Option Nat)) : List W32 :=
  let ls := vrow x (vVd w)
  if vType w = 0 then ls
  else if vType w = 3 then List.zipWith (fun (l : W32) q => toInt32 q (lane l)) ls rs
  else List.zipWith (fun (l : W32) q => laneRound ((fmtOfType (vType w)).getD fp32) q (lane l)) ls rs

/-- The operation at the head of the vector queue takes effect and leaves the queue (R83, R86); `inc` is
what a read under way brings to a scratchpad byte (R60). -/
def vectorDo (inc : Nat → Byte) (k : Nat) (x : Ashlar) : Ashlar :=
  match x.vq with
  | [] => x
  | o :: rest =>
    let w := o.word
    let d := draws (vRnd w) x.rng
    let addr := vAddr o.base w
    let n := elemBytes (vType w)
    let y := match wf w 59 52 with
      | 0x00 => setV (vVd w) ((elems n (seenBytes x inc 2 o.h0 k addr (64 * n))).map (loadLane (vType w))) x
      | 0x01 => spadWr 2 addr ((List.zipWith (fun l r => storeElem (vType w) r l) (vrow x (vVd w)) d.2).flatMap id) x
      | 0x02 => setV (vVd w) (vldaLanes w x o.h0 addr d.2 k) x
      | 0x03 =>
        let ls := vstaRows w x d.2
        accWr 2 (addr + 1) (ls.drop 32) (accWr 2 addr (ls.take 32) x)
      | _ => setV (vVd w) (vecCompute w x o.base d.2 k) x
    { y with vq := rest, rng := d.1 }

end Sys2Proof.Machine
end

