-- ==== Sys2Proof/Machine/ColOps.lean ====
section
/-! DEFINITION. The arch unit (R429 to R446): agreement over the tree of a group, the plan of sends and receives of each
operation and path, reductions (R442), and how a collective ends. The layouts of COL_HS payloads are the model's (log
entry 14). -/
namespace Sys2Proof.Machine

/-! ## Groups and messages -/

/-- Entry `i` of the group table. -/
def group? (s : State) (i : Nat) : Option Group := tget i s.arch.groups
/-- Entry `i` changed by `f`. -/
def modGroup (i : Nat) (f : Group → Group) (s : State) : State :=
  { s with arch := { s.arch with groups := s.arch.groups.map fun e => (e.1, if e.1 = i then f e.2 else e.2) } }
/-- The entry that holds a group ID. -/
def groupById (s : State) (gid : Nat) : Option (Nat × Group) := tfind (fun _ g => g.gid == gid) s.arch.groups
/-- The endpoint of a rank. -/
def epOf (g : Group) (r : Nat) : Nat := g.eps.getD r 0
/-- The rank of an endpoint; the member count where it is no member (a switch tree). -/
def rankOf (g : Group) (ep : Nat) : Nat := (g.eps.findIdx? (· == ep)).getD g.members
/-- The children of a rank in the agreement tree (R436). -/
def childrenOf (g : Group) : List Nat := (List.range 8).filterMap fun i => if 8 * g.rank + 1 + i < g.members then some (8 * g.rank + 1 + i) else none
/-- The parent of a rank. -/
def parentOf (g : Group) : Nat := (g.rank - 1) / 8

/-- The addr field of COL_ kinds (R414). -/
def colAddr (gid seq low : Nat) : Nat := gid % 2 ^ 32 * 2 ^ 20 + seq % 16 * 2 ^ 16 + low % 2 ^ 16

/-- An agreement or control message of a collective leaves. -/
def colMsg (kind dst gid seq low : Nat) (data : List Byte) (s : State) : State :=
  let b := match groupById s gid with
    | some e => e.2.bay
    | none => 16
  kwSend b { kind := kind, dst := dst, addr := colAddr gid seq low, data := data } s

/-- COL_HS to the parent: combined hash, capability, partial result. -/
def hsUp (g : Group) (seq : Nat) (hash : W64) (cap : Bool) (part : List Byte) : State → State :=
  colMsg fkColHs (epOf g (parentOf g)) g.gid seq 0 (natLe 8 hash.toNat ++ natLe 1 (b2n cap) ++ part)

/-- The verdict to every child (R436): 0 MISMATCH, 1 AGREE ENDPOINT, 2 AGREE IN_SWITCH. -/
def hsDown (g : Group) (seq v : Nat) (res : List Byte) (s : State) : State :=
  each (childrenOf g) (fun r => colMsg fkColHs (epOf g r) g.gid seq 0 (natLe 1 v ++ res)) s

/-- What a member that never starts a sequence number owes for it (R438): combined hash 0 up, or MISMATCH down. -/
def sendOwedHs (g : Group) (seq : Nat) (s : State) : State := if g.rank = 0 then hsDown g seq 0 [] s else hsUp g seq 0 false [] s

/-- Every COL_HS that is owed leaves (R438). -/
def flushOwed (s : State) : State :=
  s.arch.groups.foldl (fun t e =>
    if e.2.owedHs.isEmpty then t
    else each e.2.owedHs (sendOwedHs e.2) (modGroup e.1 (fun g => { g with owedHs := [] }) t)) s

/-- An effect that can end collectives before they start. -/
def settle (f : State → State) (s : State) : State := flushOwed (f s)

/-- The next sequence number of a group is taken by a COLLECTIVE at its fetch (R430). Messages name it modulo 16 (R414): what is kept
of a number eight before is forgotten. -/
def takeSeq (i : Nat) (s : State) : Nat × State :=
  match group? s i with
  | some g => (g.nextSeq, modGroup i (fun g => { g with
      nextSeq := if g.nextSeq = 0xFFFFFFFF then 1 else g.nextSeq + 1
      early := g.early.filter fun e => e.1 != (g.nextSeq + 8) % 16
      verdicts := g.verdicts.filter (· != (g.nextSeq + 8) % 16)
      abandoned := g.abandoned.filter fun e => e.1 != (g.nextSeq + 8) % 16 }) s)
  | none => (0, s)

/-! ## Buffers and elements -/

/-- Command, collective and group together. -/
structure ColCtx where
  c : Cmd
  k : Col
  g : Group
  deriving DecidableEq, Repr, Inhabited

/-- The collective a command carries out. -/
def colCtx (s : State) (cid : Nat) : Option ColCtx :=
  match cmd? s cid with
  | none => none
  | some c =>
    match c.col with
    | none => none
    | some k => (group? s k.grp).map fun g => ⟨c, k, g⟩

/-- A command's collective changed by `f`. -/
def modCol (cid : Nat) (f : Col → Col) : State → State := modCmd cid fun c => { c with col := c.col.map f }

/-- The bytes of the member's input and output buffers. -/
def inBytes (x : ColCtx) : Nat := colIn x.c x.g.members x.g.rank * dtBytes (cf x.c 0x1D 1)
def outBytes (x : ColCtx) : Nat := colOut x.c x.g.members * dtBytes (cf x.c 0x1D 1)
/-- Whether the collective completes within agreement (R440). -/
def colSmall (x : ColCtx) : Bool := decide (inBytes x ≤ 256) && decide (outBytes x ≤ 256)
/-- Whether every input slice has been gathered. -/
def allGathered (x : ColCtx) : Bool := inBytes x == 0 || x.k.gathered.length == wOf x.c * hOf x.c

/-- An encoded element as a working value (R442): FP32 exactly, or INT32. -/
def redIn (t c : Nat) : W32 := loadLane t c
/-- A working value as an encoded element, rounded once. -/
def redOut (t : Nat) (w : W32) : List Byte := if t = 3 then natLe 4 w.toNat else storeElem t none w
/-- The reduction of two working values (R90, R442). -/
def redOp (t red : Nat) (a b : W32) : W32 :=
  if t = 3 then
    (match red with
     | 0 => a + b
     | 1 => if BitVec.slt a b then b else a
     | _ => if BitVec.slt b a then b else a)
  else
    (match red with
     | 0 => laneRound fp32 none (addV (lane a) (lane b))
     | 1 => laneOf (maxV (lane a) (lane b))
     | _ => laneOf (minV (lane a) (lane b)))

/-- The member's own element `e` as a working value. -/
def ownElem (x : ColCtx) (e : Nat) : W32 :=
  let n := dtBytes (cf x.c 0x1D 1)
  redIn (cf x.c 0x1D 1) (leNat (mread x.k.inp (e * n) n))
/-- The working value of an element: what has been received with the own contribution, or the contribution alone. -/
def workElem (x : ColCtx) (e : Nat) : W32 := tgetD e x.k.part (ownElem x e)

/-! ## The plan of transfers (R441) -/

/-- One chunk between this member and a peer: stage 0 a partial sum, 1 finished bytes, 2 a contribution to a tree. -/
structure Xfer where
  peer : Nat
  blk : Nat
  stage : Nat
  chunk : Nat
  step : Nat := 0
  deriving DecidableEq, Repr, Inhabited

/-- Whether blocks are the M shares of the buffer, or the whole of it. -/
def blocked (x : ColCtx) (path : Verdict) : Bool := !(colOp x.c == 3 || (colOp x.c == 0 && path == .inSwitch))
/-- The first element of block `b` of the buffer of C elements, and its element count. -/
def blkStart (x : ColCtx) (path : Verdict) (b : Nat) : Nat := if blocked x path then b * colC x.c / x.g.members else 0
def blkElems (x : ColCtx) (path : Verdict) (b : Nat) : Nat :=
  if blocked x path then (b + 1) * colC x.c / x.g.members - b * colC x.c / x.g.members else colC x.c
/-- The bytes of an element on the wire: partial sums travel as FP32 or INT32. -/
def wireBytes (x : ColCtx) (stage : Nat) : Nat := if stage = 0 then 4 else dtBytes (cf x.c 0x1D 1)
/-- The elements of a full chunk. -/
def perChunk (x : ColCtx) (stage : Nat) : Nat := colChunk x.c / wireBytes x stage
/-- The chunks of a block. -/
def chunksOf (x : ColCtx) (path : Verdict) (stage b : Nat) : Nat := ceilDiv (blkElems x path b) (perChunk x stage)
/-- The elements of a chunk: first, count. -/
def chunkSpan (x : ColCtx) (path : Verdict) (f : Xfer) : Nat × Nat :=
  let n := perChunk x f.stage
  (blkStart x path f.blk + f.chunk * n, min n (blkElems x path f.blk - f.chunk * n))

/-- The chunks of a block to or from a peer. -/
def xfers (x : ColCtx) (path : Verdict) (peer blk stage step : Nat) : List Xfer :=
  (List.range (chunksOf x path stage blk)).map fun c => { peer := peer, blk := blk, stage := stage, chunk := c, step := step }

/-- `(a - b) mod m` of ranks. -/
def back (a b m : Nat) : Nat := (a + m * (b / m + 1) - b) % m

/-- The sends of this member, in order. -/
def sendsOf (x : ColCtx) (path : Verdict) : List Xfer :=
  let m := x.g.members
  let r := x.g.rank
  let nx := (r + 1) % m
  let ring (stage off step0 : Nat) := (List.range (m - 1)).flatMap fun k => xfers x path nx (back r (off + k) m) stage (step0 + k)
  let sw := path == .inSwitch
  match colOp x.c with
  | 0 => if sw then xfers x path m 0 2 0 else ring 0 1 0 ++ ring 1 0 (m - 1)
  | 1 => if sw then (List.range m).flatMap (fun b => xfers x path m b 2 0) else ring 0 1 0
  | 2 => ring 1 0 0
  | 3 =>
    let root := cf x.c 0x1E 2
    if sw then (if r = root then xfers x path m 0 1 0 else [])
    else if nx = root then [] else xfers x path nx 0 1 0
  | 4 => (List.range (m - 1)).flatMap fun k => xfers x path ((r + 1 + k) % m) ((r + 1 + k) % m) 1 k
  | _ => []

/-- The receives of this member, in order. -/
def recvsOf (x : ColCtx) (path : Verdict) : List Xfer :=
  let m := x.g.members
  let r := x.g.rank
  let pv := back r 1 m
  let ring (stage off step0 : Nat) := (List.range (m - 1)).flatMap fun k => xfers x path pv (back r (off + k) m) stage (step0 + k)
  let sw := path == .inSwitch
  match colOp x.c with
  | 0 => if sw then xfers x path m 0 1 0 else ring 0 2 0 ++ ring 1 1 (m - 1)
  | 1 => if sw then xfers x path m r 1 0 else ring 0 2 0
  | 2 => ring 1 1 0
  | 3 =>
    let root := cf x.c 0x1E 2
    if r = root then [] else if sw then xfers x path m 0 1 0 else xfers x path pv 0 1 0
  | 4 => (List.range (m - 1)).flatMap fun k => xfers x path (back r (1 + k) m) (back r (1 + k) m) 1 k
  | _ => []

/-- Whether the data of a send is there: it needs the receive of the same block and chunk of the step before, if the
plan has one. -/
def sendReady (x : ColCtx) (path : Verdict) (f : Xfer) : Bool :=
  let rs := recvsOf x path
  let dep := fun (q : Xfer) => colOp x.c != 4 && q.blk == f.blk && (q.chunk == f.chunk || q.stage != f.stage) &&
    (q.step + 1 == f.step || colOp x.c == 3)
  (List.range rs.length).all fun i => match rs[i]? with
    | some q => !dep q || x.k.got.contains i
    | none => true

/-- The number of a transfer among those with its peer. -/
def peerIndex (l : List Xfer) (i : Nat) : Nat :=
  match l[i]? with
  | some f => ((l.take i).filter fun q => q.peer == f.peer).length
  | none => 0

/-- The output position of an element the member holds finished. -/
def outElem (x : ColCtx) (path : Verdict) (f : Xfer) (e : Nat) : Nat :=
  match colOp x.c with
  | 1 => e - blkStart x path f.blk
  | _ => e

/-- The bytes of a send. -/
def sendBytes (x : ColCtx) (path : Verdict) (f : Xfer) : List Byte :=
  let t := cf x.c 0x1D 1
  let n := dtBytes t
  let p := chunkSpan x path f
  if f.stage = 0 then (List.range p.2).flatMap fun i => natLe 4 (workElem x (p.1 + i)).toNat
  else if f.stage = 2 then mread x.k.inp (p.1 * n) (p.2 * n)
  else if colOp x.c = 4 then mread x.k.inp (p.1 * n) (p.2 * n)
  else mread x.k.out (p.1 * n) (p.2 * n)

/-! ## Sending chunks -/

/-- The endpoint a peer number names: a member's, or the switch tree's. -/
def peerEp (g : Group) (p : Nat) : Nat := if p < g.members then epOf g p else g.tree

/-- A frame of a collective's data phase: the flow of its group, with its weight (R420). -/
def colStaged (g : Group) (f : Frame) : Staged := { frame := f, bay := g.bay, flow := g.gid + 1, weight := g.weight }

/-- The frames of a chunk, on the port that the number of the member's chunk chooses in round robin (R441). -/
def chunkFrames (g : Group) (seq kind peer xi num : Nat) (data : List Byte) (s : State) : State :=
  let ps := trainedPorts s
  match ps[num % max 1 ps.length]? with
  | none => s
  | some p => each (List.range (max 1 ((data.length + 2047) / 2048))) (fun i t =>
      portSend p (colStaged g { kind := kind, vc := 0, dst := peerEp g peer, src := t.kw.ep, tag := xi % 256 * 32 + i
                                addr := colAddr g.gid seq 0, data := (data.drop (2048 * i)).take 2048 }) t) s

/-- Sends the next chunk of the plan, if the input is gathered, its data is there and its receiver has acknowledged the chunk two before (R441). -/
def pumpSend (cid : Nat) (s : State) : State :=
  match colCtx s cid with
  | none => s
  | some x =>
    if (x.k.verdict != .inSwitch && x.k.verdict != .endpoint) || !allGathered x then s
    else
      let l := sendsOf x x.k.verdict
      match l[x.k.next]? with
      | none => s
      | some f =>
        let xi := peerIndex l x.k.next
        if !sendReady x x.k.verdict f || (x.k.sent.any fun q => q.dst == f.peer && decide (q.xfer + 2 ≤ xi)) then s
        else
          let data := sendBytes x x.k.verdict f
          let kind := if f.stage = 2 then fkColIsr else fkColData
          chunkFrames x.g x.k.seq kind f.peer xi x.k.next data
            (modCol cid (fun k => { k with
              next := k.next + 1
              sent := k.sent ++ [{ dst := f.peer, xfer := xi, kind := kind, data := data, num := x.k.next }] }) s)

/-- Sends every chunk that can go. -/
def pumpAll (cid : Nat) (s : State) : State :=
  match colCtx s cid with
  | none => s
  | some x => (List.range ((sendsOf x x.k.verdict).length - x.k.next)).foldl (fun t _ => pumpSend cid t) s

/-! ## How a collective ends -/

/-- The counters of R452. -/
def countCol (code : Nat) (s : State) : State :=
  { s with arch := { s.arch with
      mismatch := if code = 0x50 then satAdd 255 s.arch.mismatch 1 else s.arch.mismatch
      lost := if code = 0x51 then satAdd 255 s.arch.lost 1 else s.arch.lost
      exhausted := if code = 0x52 then satAdd 255 s.arch.exhausted 1 else s.arch.exhausted } }

/-- COL_ABANDON to every other member (R443 to R445), once for each sequence number. -/
def abandonAll (gi : Nat) (seq code : Nat) (s : State) : State :=
  match group? s gi with
  | none => s
  | some g =>
    if g.abandoned.any fun e => e.1 == seq % 16 then s
    else
      each ((List.range g.members).filter (· != g.rank)) (fun r => colMsg fkColAbandon (epOf g r) g.gid seq code [])
        (modGroup gi (fun g => { g with abandoned := (seq % 16, code) :: g.abandoned.take 7 }) s)

/-- A collective ends with an error: no side effect, its context's journal pending (R446). -/
def colEnd (cid code : Nat) (s : State) : State :=
  match colCtx s cid with
  | none => s
  | some x =>
    let t := modCol cid (fun k => { k with sentUp := true }) s
    let t := countCol code (halt cid none t)
    finish cid code x.k.seq false t

/-- A collective ends for a reason the other members must hear of. -/
def colAbandon (cid code : Nat) (s : State) : State :=
  match colCtx s cid with
  | none => s
  | some x => colEnd cid code (abandonAll x.k.grp x.k.seq code s)

/-! ## Agreement -/

/-- The hash of the descriptor record (R435). -/
def colHash (c : Cmd) (g : Group) (seq : Nat) : W64 :=
  let r := natLe 4 g.gid ++ natLe 4 seq ++ natLe 1 (cf c 0x1C 1) ++ natLe 1 (cf c 0x1D 1) ++ natLe 2 0 ++
    natLe 2 (cf c 0x1E 2) ++ natLe 2 0 ++ natLe 8 (colC c) ++ natLe 4 (colChunk c) ++ natLe 4 0
  let h := (Config.sha384 r).truncate 64
  if h = 0 then 1 else h

/-- The combined hash (R436). -/
def combined (k : Col) : W64 := if k.children.all fun h => h.hash == k.hash then k.hash else 0
/-- The capability bit (R436). -/
def capable (s : State) (x : ColCtx) : Bool :=
  x.g.treeValid && (trainedPorts s).all (fun p => (kport s p).rev == 3) && x.k.children.all (·.cap)

/-- A small collective's partial result: working values added up, or (rank, length, bytes) parts in rank order. -/
def smallPart (x : ColCtx) : List Byte :=
  let own := mread x.k.inp 0 (inBytes x)
  if colReduces x.c then
    (List.range (colC x.c)).flatMap fun e =>
      natLe 4 ((x.k.children.foldl (fun w h => redOp (cf x.c 0x1D 1) (colRed x.c) w (BitVec.ofNat 32 (fld h.data (4 * e) 4)))
        (ownElem x e))).toNat
  else natLe 2 x.g.rank ++ natLe 2 own.length ++ own ++ x.k.children.flatMap (·.data)

/-- The bytes of a rank in a concatenation of parts. -/
def partOf (r : Nat) : Nat → List Byte → List Byte
  | 0, _ => []
  | n + 1, bs =>
    if bs.length < 4 then []
    else
      let l := fld bs 2 2
      if fld bs 0 2 = r then (bs.drop 4).take l else partOf r n (bs.drop (4 + l))

/-- The output a small collective's result gives this member (R432, R440). -/
def smallOut (x : ColCtx) (res : List Byte) : List Byte :=
  let t := cf x.c 0x1D 1
  let n := dtBytes t
  let m := x.g.members
  let part (r : Nat) := partOf r (m + 1) res
  match colOp x.c with
  | 0 => (List.range (colC x.c)).flatMap fun e => redOut t (BitVec.ofNat 32 (fld res (4 * e) 4))
  | 1 => (List.range (colC x.c / m)).flatMap fun e =>
      redOut t (BitVec.ofNat 32 (fld res (4 * (x.g.rank * (colC x.c / m) + e)) 4))
  | 2 => (List.range m).flatMap part
  | 3 => part (cf x.c 0x1E 2)
  | 4 => (List.range m).flatMap fun i => ((part i).drop (x.g.rank * (colC x.c / m) * n)).take (colC x.c / m * n)
  | _ => []

/-- What a member already holds of its output when the data phase begins. -/
def initOut (x : ColCtx) : Mem :=
  let n := dtBytes (cf x.c 0x1D 1)
  let m := x.g.members
  let b := colC x.c / m * n
  match colOp x.c with
  | 2 => mputs (x.g.rank * b) (mread x.k.inp 0 b) []
  | 3 => if x.g.rank = cf x.c 0x1E 2 then x.k.inp else []
  | 4 => mputs (x.g.rank * b) (mread x.k.inp (x.g.rank * b) b) []
  | _ => []

/-- A collective with nothing left to move is at its end (R113): every receive complete, every chunk acknowledged, every
output slice written. -/
def colDone (x : ColCtx) : Bool :=
  let v := x.k.verdict
  (v == .inSwitch || v == .endpoint) &&
    (colSmall x || (x.k.got.length == (recvsOf x v).length && x.k.next == (sendsOf x v).length && x.k.sent.isEmpty)) &&
    (outBytes x == 0 || x.k.scattered.length == wOf x.c * hOf x.c)

/-- A finished collective enters COMMITTING (R113). -/
def colFinish (cid : Nat) (s : State) : State :=
  match colCtx s cid with
  | some x => if x.c.st == .anchored && colDone x then modCmd cid (fun c => { c with st := .committing, result := x.k.seq }) s else s
  | none => s

/-- The verdict reaches a member: it forwards it and acts on it (R436, R437, R440). -/
def applyVerdict (cid v : Nat) (res : List Byte) (s : State) : State :=
  match colCtx s cid with
  | none => s
  | some x =>
    let t := hsDown x.g x.k.seq v res s
    if v = 0 then colEnd cid 0x50 t
    else
      let path : Verdict := if v = 2 then .inSwitch else .endpoint
      let out := if colSmall x then mputs 0 (smallOut x res) [] else initOut x
      colFinish cid (pumpAll cid (modCol cid (fun k => { k with verdict := path, out := out }) t))

/-- COL_HS goes up, or the root decides, once the children have reported and a small collective's input is there
(R436): from then on the collective is anchored (R135). -/
def tryHs (cid : Nat) (s : State) : State :=
  match colCtx s cid with
  | none => s
  | some x =>
    if x.c.st != .running || x.k.sentUp || decide (x.k.children.length < (childrenOf x.g).length) ||
        (colSmall x && !allGathered x) then s
    else
      let h := combined x.k
      let cap := capable s x
      let part := if colSmall x then smallPart x else []
      let t := modCmd cid (fun c => { c with st := .anchored }) (modCol cid (fun k => { k with sentUp := true }) s)
      if x.g.rank = 0 then
        applyVerdict cid (if h = 0 then 0 else if cap then 2 else 1) part t
      else hsUp x.g x.k.seq h cap part t

/-- A collective starts: its hash is formed and the messages that came early are taken (R435, R439); a sequence number
abandoned already, or one whose verdict MISMATCH has come, ends it (R438, R445). -/
def colStart (cid : Nat) (s : State) : State :=
  match colCtx s cid with
  | none => s
  | some x =>
    let q := x.k.seq % 16
    let kids := (x.g.early.filter fun e => e.1 == q).map (·.2)
    let t := modCol cid (fun k => { k with hash := colHash x.c x.g x.k.seq, children := k.children ++ kids }) s
    let t := modGroup x.k.grp (fun g => { g with early := g.early.filter fun e => e.1 != q }) t
    match x.g.abandoned.find? fun e => e.1 == q with
    | some e => colEnd cid e.2 (modGroup x.k.grp (fun g => { g with abandoned := g.abandoned.filter fun e => e.1 != q }) t)
    | none =>
      if x.g.verdicts.contains q then colEnd cid 0x50 (modGroup x.k.grp (fun g => { g with verdicts := g.verdicts.filter (· != q) }) t)
      else tryHs cid t

end Sys2Proof.Machine
end

