-- ==== Sys2Proof/Machine/Eqi.lean ====
section
/-! DEFINITION. Doorbells (R226 to R230, R271), fronts and their bindings (R231, R232), negotiation (R273), and the fetch of
a command entry with the checks of R236. -/
namespace Sys2Proof.Machine

/-! ## Doorbells -/

/-- An ignored doorbell write counts (R275). -/
def countIgnored (s : State) : State := { s with dev := { s.dev with ignoredDb := satAdd 0xFFFF s.dev.ignoredDb 1 } }

/-- The 64-bit position a doorbell write names: 8 bytes, or in 2.2 compatibility mode the low half, extended on the
assumption that it advanced by less than 2^31 (R227, R271). -/
def dbValue (s : State) (b cur off size v : Nat) : Option Nat :=
  if off != 0 then none
  else if size = 8 then some (v % 2 ^ 64)
  else if size = 4 && compat22 s b then
    let d := (v % 2 ^ 32 + 2 ^ 32 - cur % 2 ^ 32) % 2 ^ 32
    some (if d < 2 ^ 31 then cur + d else cur + d - 2 ^ 32)
  else none

/-- The position of the command whose completion entry a queue owes: the last one fetched into the entry's slot (R224). -/
def owedPos (x : Queue) (e : List Byte) : Nat :=
  x.fetch - 1 - (x.fetch - 1 + 2 ^ x.log2Ring - leNat (e.take 2)) % 2 ^ x.log2Ring

/-- The position of the oldest command of a queue that is not DONE (R113, R228): fetched ones are in the table or are owed their
completion entry, unfetched ones start at the fetch position. -/
def oldestPos (s : State) (b q : Nat) (x : Queue) : Nat :=
  x.owed.foldl (fun m e => min m (owedPos x e))
    (((bayCmds s b).filter fun c => c.queue == q && c.parent.isNone && c.batch.isNone).foldl (fun m c => min m c.pos) x.fetch)

/-- The fetched commands of a bay that are not DONE (R232): those in the table, and those owed their completion entry. -/
def heldCount (s : State) (b : Nat) : Nat :=
  (bay s b).eqi.queues.foldl (fun n e => n + e.2.owed.length) (bayCmds s b).length

/-- An accepted doorbell: progress, and on an idle queue the flag is cleared and firmware asked for a front (R229, R486). -/
def doorbellSeen (b q : Nat) (s : State) : State :=
  match queue? s b q with
  | none => s
  | some x =>
    let t := progress b s
    if x.idle then raise srcDoorbell (modQueue b q (fun x => { x with idle := false, asked := true }) t) else t

/-- A write of sq_wp (R228); `off` counts from the field. During repointing every doorbell write is ignored (R367). -/
def sqWp (b q off size v : Nat) (s : State) : State :=
  match (if s.sec.repointing then none else queue? s b q) with
  | none => countIgnored s
  | some x =>
    match dbValue s b x.wp off size v with
    | none => countIgnored s
    | some v =>
      if bit x.qflags 2 then countIgnored s
      else if v ≤ x.wp then s
      else if 2 ^ x.log2Ring < v - oldestPos s b q x then
        errRecord b 8 0x23 q 0xFFFF v 0 [] 0xFFFF 0xFFFF 0xFFFF 0 0 [] (countIgnored s)
      else doorbellSeen b q (modQueue b q (fun x => { x with wp := v }) s)

/-- SQ_WP_WRITE (R228). -/
def execSqWpWrite (b q off size v : Nat) (s : State) (t : Option Nat := none) : Host.Outcome State Fault Refusal :=
  onUnit (decide (b < s.bays.count)) "bay" (run fpWork (onBar b t (sqWp b q off size v)) s)

/-- A write of cq_head (R230): the freed slots take what the queue owes. -/
def cqHead (b q off size v : Nat) (s : State) : State :=
  match (if s.sec.repointing then none else queue? s b q) with
  | none => countIgnored s
  | some x =>
    match dbValue s b x.cqHead off size v with
    | none => countIgnored s
    | some v =>
      if v < x.cqHead || x.cqNext < v then countIgnored s
      else if v = x.cqHead then s
      else cqPost b q (progress b (modQueue b q (fun x => { x with cqHead := v }) s))

/-- CQ_HEAD_WRITE (R230). -/
def execCqHeadWrite (b q off size v : Nat) (s : State) (t : Option Nat := none) : Host.Outcome State Fault Refusal :=
  onUnit (decide (b < s.bays.count)) "bay" (run fpWork (onBar b t (cqHead b q off size v)) s)

/-! ## Negotiation -/

/-- Whether the block implements a revision (R270). -/
def revKnown (major minor : Nat) : Bool := (major == 3 && decide (minor ≤ 4)) || (major == 2 && minor == 2)

/-- A write of EQI_NEG (R273). -/
def negotiate (b : Nat) (v : BitVec 32) : State → State :=
  modEqi b fun e =>
    if e.negDone then e
    else
      let major := bits v.toNat 15 8
      let minor := bits v.toNat 7 0
      { e with major := major, minor := minor, negDone := revKnown major minor, negRefused := !revKnown major minor }

/-- EQI_NEG_WRITE (R273); a bay that does not exist has no window. -/
def execEqiNegWrite (b : Nat) (v : BitVec 32) (s : State) (t : Option Nat := none) : Host.Outcome State Fault Refusal :=
  onUnit (decide (b < s.bays.count)) "bay" (run [.bays, .out] (onBar b t (onlyIf (fun t => (bay t b).st != .absent && !t.sec.repointing) (negotiate b v))) s)

/-! ## Bindings -/

/-- The position up to which entries of a queue are fetched: of one being destroyed, those written when its QUEUE_DESTROY came (R247). -/
def fetchTo (x : Queue) : Nat := if x.destroyer.isSome then min x.wp x.destroyWp else x.wp

/-- Whether a queue is active (R231). -/
def activeQ (x : Queue) : Bool := decide (x.fetch < fetchTo x) && !x.frozen

/-- Whether a front serves a queue. -/
def boundQ (s : State) (b q : Nat) : Bool := s.dev.fronts.any fun e => e.2.bay == b && e.2.queue == q

/-- Whether a queue is to be bound: an active one without a front, or one whose doorbell found the idle flag set and asked for a front,
whatever another front has fetched since (R229, R231). -/
def wantsFront (s : State) (b q : Nat) (x : Queue) : Bool := !x.frozen && (x.asked || (activeQ x && !boundQ s b q))

/-- The queue a front is bound to next (R231): one left unbound for eight lifts, longest first; else by priority from 7
down, in round robin within one priority, after the queue bound last. -/
def nextQueue (s : State) (b : Nat) : Option Nat :=
  let c := (bay s b).eqi.queues.filter fun e => wantsFront s b e.1 e.2
  let starved := c.filter fun e => decide (8 ≤ e.2.unbound)
  let most := starved.foldl (fun m e => max m e.2.unbound) 0
  match starved.find? fun e => e.2.unbound == most with
  | some e => some e.1
  | none =>
    let top := c.foldl (fun m e => max m (e.2.prio + 1)) 0
    let same := c.filter fun e => e.2.prio + 1 == top
    let last := tget (8 * b + (top - 1)) s.dev.frontRr
    let after := same.filter fun e => match last with
      | some l => decide (l < e.1)
      | none => true
    (after ++ same).head?.map (·.1)

/-- The lowest free front of a bay. -/
def freeFront (s : State) (b : Nat) : Option Nat :=
  ((List.range (frontsPerBay s)).map (· + b * frontsPerBay s)).find? fun f => (tget f s.dev.fronts).isNone

/-- Firmware binds the next active queue of a bay to a free front (R231). -/
def bindFront (b : Nat) (s : State) : State :=
  match nextQueue s b, freeFront s b with
  | some q, some f =>
    let p := match queue? s b q with
      | some x => x.prio
      | none => 0
    let t := modQueue b q (fun x => { x with unbound := 0, asked := false }) s
    { t with dev := { t.dev with
        fronts := tput f { bay := b, queue := q } t.dev.fronts
        frontRr := tput (8 * b + p) q t.dev.frontRr } }
  | _, _ => s

/-- FRONT_BIND (R231). -/
def execFrontBind (b : Nat) (s : State) : Host.Outcome State Fault Refusal :=
  onUnit (decide (b < s.bays.count)) "bay" (run [.bays, .dev] (bindFront b) s)

/-! ## The checks of R236 -/

/-- Whether the entry's opcode and flags, DEV_ENQ among them, belong to the bay's revision (step 1, R270): the offset of the
first that does not. -/
def revBad (s : State) (c : Cmd) : Option Nat :=
  match opInfo (opc c) with
  | none => some 0
  | some i =>
    if !opInRevision s c.bay i then some 0
    else if !flagInRevision s c then some 1
    else if opc c == 0x26 && bit (cf c 0x1E 1) 2 && !revAtLeast s c.bay 2 then some 0x1E
    else none

/-- Whether a user queue may not carry the entry (step 2, R250, R264). -/
def privBad (s : State) (c : Cmd) : Bool :=
  match queue? s c.bay c.queue, opInfo (opc c) with
  | some q, some i => q.user && (i.kernel || (opc c == 0x15 && cf c 0x18 2 != c.queue))
  | _, _ => false

/-- Steps 1 to 3 on the entry alone. -/
def entryCheck (s : State) (sc : Scope) (c : Cmd) : Verd :=
  match revBad s c with
  | some o => .no { code := 0x21, kind := 1, detail := o }
  | none =>
    if privBad s c then .priv
    else match entryBad s sc c with
      | some o => .no (formatRefuse 0 0 o)
      | none => .go c

/-- A run of bytes a command takes at fetch, kept in its own copy from offset `o` (R225). -/
def takeRun (s : State) (env : Env) (va n o : Nat) (c : Cmd) : Verd :=
  match takeVa s c.bay env va n with
  | .failed a p => .no (tookRefuse a p)
  | .bytes bs => .go { c with stage := mputs o bs c.stage }

/-- Entry `i` of a graph body in a GRAPH_CREATE's own copy. -/
def bodyEntry (c : Cmd) (i : Nat) : List Byte := mread c.stage (64 * i) 64

/-- The tests of step 5 that a body entry alone decides: handles, indices and contexts, a bound beyond the budget whatever its image, and
panels without an origin (R236, R258); its descriptor is not read before its launch (R259). -/
def entryStep5 (s : State) (k : Cmd) : Option Nat :=
  if !handlesOk s k then some 0x23
  else if opc k = 0x16 then none
  else if !(if opc k = opQuoin then decide (boundOf k ≤ quoinSlice s s.lift.period (wOf k))
      else decide (chargeOf s k true 1250 ≤ budgetAt s.lift.period 1250) &&
        (opc k != opCollective || decide (boundOf k ≤ unitSlice s s.lift.period 1250))) then some 0x25
  else if onPanel k && (originsOf s k.bay k.queue (wOf k) (hOf k)).isEmpty then some 0x27
  else none

/-- The first entry of a guest's graph body that breaks a check of R236, with what it is refused for (R234, R258, R259). -/
def bodyBad (s : State) (c : Cmd) : Option Refuse :=
  (List.range (cf c 0x20 2)).findSome? fun i =>
    let k : Cmd := { c with entry := bodyEntry c i, desc := {}, words := [] }
    if !(opc k == opLaunch || opc k == opQuoin || opc k == opCollective || opc k == 0x16) then some (formatRefuse 2 i 0)
    else match revBad s k with
      | some o => some { formatRefuse 2 i o with code := 0x21 }
      | none =>
        match entryBad s (.guest (cf c 0x24 4)) k with
        | some o => some (formatRefuse 2 i o)
        | none =>
          let f := if opc k = opLaunch then 0x20 else 0x18
          if flag k 6 && (cf k f 8 % 64 != 0 || decide (cf c 0x24 4 < cf k f 8 + 0x140)) then some (formatRefuse 2 i f)
          else (entryStep5 s k).map fun n => { code := n }

/-- The bytes a GRAPH_CREATE takes (R225, R258): its body, checked entry by entry, then the initial parameters, which its
copy holds from offset 2^20. -/
def takeGraph (s : State) (env : Env) (c : Cmd) : Verd :=
  match takeRun s env (cf c 0x18 8) (64 * cf c 0x20 2) 0 c with
  | .go c =>
    match bodyBad s c with
    | some r => .no r
    | none => takeRun s env (cf c 0x28 8) (cf c 0x24 4) (2 ^ 20) c
  | r => r

/-- The bytes a PATCH takes, after its range is checked against its graph (R261). -/
def takePatch (s : State) (env : Env) (c : Cmd) : Verd :=
  match (bay s c.bay).strm.graphs.find? fun g => g.handle == cf c 0x18 4 with
  | none => .go c
  | some g =>
    if g.paramBytes < cf c 0x1C 4 then .no (formatRefuse 0 0 0x1C)
    else if g.paramBytes - cf c 0x1C 4 < cf c 0x20 4 then .no (formatRefuse 0 0 0x20)
    else takeRun s env (cf c 0x28 8) (cf c 0x20 4) 0 c

/-- The bytes a command takes from memory at fetch (R225). -/
def takeArgs (s : State) (env : Env) (region : Option Mem) (room : Nat) (c : Cmd) : Verd :=
  match opc c with
  | 0x01 => withDesc s env region room c
  | 0x02 => withDesc s env region room c
  | 0x06 => takeRun s env (cf c 0x20 8) (4 * cf c 0x1C 4) 0 c
  | 0x10 => takeGraph s env c
  | 0x12 => takePatch s env c
  | _ => .go c

/-- The pages of a command's declared ranges that lie in host memory: device page and I/O virtual address (R392). -/
def hostRanges (s : State) (c : Cmd) : List (Nat × Nat) :=
  ((c.desc.ins ++ c.desc.outs).flatMap fun r => pagesOf r.va r.len).filterMap fun p =>
    match xlate s c.bay (p.1 / 4096 * 4096) 0 false with
    | .ok (.host iova) => some (p.1 / 4096 * 4096, iova)
    | _ => none

/-- What a front does with a command's memory and arguments after its entry has passed (R225, R236 steps 3 to 5): bytes
taken, then the abort flag, then the command-specific tests. -/
def argCheck (s : State) (env : Env) (region : Option Mem) (room : Nat) (aborted : Bool) (c : Cmd) : Verd :=
  match takeArgs s env region room c with
  | .go c =>
    if aborted then .no { code := 0x10 }
    else match step5 s c with
      | .go c => .go { c with hostPages := if isF s then [] else hostRanges s c }
      | r => r
  | r => r

/-! ## What a checked command becomes -/

/-- A COLLECTIVE takes its group's next sequence number at fetch, refused or not, unless its handle is bad (R430, R438). -/
def numberCol (c : Cmd) (s : State) : Cmd × State :=
  if opc c = opCollective then
    match groupOf s c with
    | some i =>
      let r := takeSeq i s
      ({ c with col := some { grp := i, seq := r.1 }, result := r.1 }, r.2)
    | none => (c, s)
  else (c, s)

/-- A refused command completes at once (R236); one with a record has error_record set (R238). -/
def refuse (c : Cmd) (r : Refuse) (s : State) : State :=
  let t := if r.kind = 0 then s else cmdError c r.kind r.code r.detail r.address none 0 s
  match c.parent with
  | some p => finishBody p c r.code (r.kind != 0) (owesHs c t)
  | none => finishTop c r.code c.result (r.kind != 0) (owesHs c t)

/-- A privilege violation: the queue freezes and the command completes (R264). -/
def refusePriv (c : Cmd) (s : State) : State :=
  let t := freezeQueue c.bay c.queue s
  let t := cmdError c 2 0x22 0 0 none 0 t
  let t := queueViolation c.bay c.queue (slotOf s c) 1 (opc c) t
  finishTop c 0x22 c.result true t

/-- An accepted command waits; a stream command counts in its stream (R158, R233). -/
def accept (c : Cmd) (s : State) : State :=
  let t := { s with cmds := { s.cmds with all := tput c.cid { c with st := .waiting } s.cmds.all } }
  if opc c = opStreamStep ∨ opc c = opStreamFill then
    modStream c.bay (cf c 0x18 4) (fun k => { k with
      pending := k.pending + 1, state := if k.state = .idle then .ready else k.state }) t
  else t

/-- A verdict takes effect. -/
def settleVerd (c : Cmd) (v : Verd) (s : State) : State :=
  match v with
  | .go c =>
    let r := numberCol c s
    accept r.1 r.2
  | .no x =>
    let r := numberCol c s
    flushOwed (refuse r.1 x r.2)
  | .priv => refusePriv c s

/-! ## Fetch -/

/-- The most fetched commands of a bay that are not DONE (R232). -/
def fetchLimit (s : State) : Nat := (if isF s then 65536 else 32768) / s.bays.count

/-- Whether fronts of a bay fetch (R321, R496, R507). -/
def mayFetch (s : State) (b : Nat) : Bool := (bay s b).st == .attached && !s.rst.shored && !s.rst.oos && !hostShut s b

/-- A front ends its binding. -/
def releaseFront (f : Nat) (s : State) : State := { s with dev := { s.dev with fronts := tdrop f s.dev.fronts } }

/-- The address of the entry at a queue's fetch position (R224). -/
def entryAt (q : Queue) : Nat := q.ringAddr + 64 * (q.fetch % 2 ^ q.log2Ring)

/-- The entry at a queue's fetch position (R402, R462 class 14). -/
def ringRead (s : State) (b : Nat) (q : Queue) (env : Env) : Took :=
  let a := entryAt q
  if bit q.qflags 0 then
    match readHost env a 64 with
    | some bs => .bytes bs
    | none => .failed a false
  else takeVa s b env a 64

/-- What an entry takes from device memory at its fetch (R225): its launch descriptor, its list, or its body and parameters. -/
def takenRanges (e : List Byte) : List (Nat × Nat) :=
  let inRegion := bit (fld e 1 1) 6
  match fld e 0 1 with
  | 0x01 => if inRegion then [] else [(fld e 0x20 8, 0x140)]
  | 0x02 => if inRegion then [] else [(fld e 0x18 8, 0x140)]
  | 0x06 => [(fld e 0x20 8, 4 * fld e 0x1C 4)]
  | 0x10 => [(fld e 0x18 8, 64 * fld e 0x20 2), (fld e 0x28 8, fld e 0x24 4)]
  | 0x12 => [(fld e 0x28 8, fld e 0x20 4)]
  | _ => []

/-- The front's translations of some ranges enter its cache (R389). -/
def frontXlate (b : Nat) (rows : List (Nat × Nat)) (s : State) : State := tlbFill b 2 (foundPages s b rows 1 (tlbHit s b 2)) s

/-- The reads of other endpoints for what an entry takes at fetch go out (R225, R423), and the front's cache takes the translations. -/
def askTaken (b : Nat) (e : List Byte) (s : State) : State :=
  frontXlate b (takenRanges e) ((takenRanges e).foldl (fun t r =>
    if (firstFaultIn false t b r.1 r.2 1 (tlbHit t b 2)).isNone then askVa b r.1 r.2 t else t) s)

/-- A ring that cannot be read freezes its queue (R402, R462). -/
def ringFail (b q address : Nat) (poison : Bool) (s : State) : State :=
  let t := freezeQueue b q s
  let t := errRecord b (if poison then 6 else 4) 0x33 q 0xFFFF (if poison then 5 else 0) address [] 0xFFFF 0xFFFF 0xFFFF 0 0
    [] t
  queueViolation b q 0xFFFF 2 0 t

/-- One entry is taken and checked (R236); in a queue being destroyed every entry has its abort flag set (R247). -/
def takeEntry (b q : Nat) (x : Queue) (entry : List Byte) (env : Env) (s : State) : State :=
  let aborted := x.aborts.contains x.fetch || x.destroyer.isSome
  let c : Cmd := { cid := s.cmds.next, bay := b, queue := q, pos := x.fetch, entry := entry, abort := aborted }
  let t := progress b { s with cmds := { s.cmds with next := s.cmds.next + 1 } }
  let t := modQueue b q (fun x => { x with fetch := x.fetch + 1, aborts := sdrop x.fetch x.aborts }) t
  let v := match entryCheck t .ring c with
    | .go c => argCheck t env none 0 aborted c
    | r => r
  settleVerd c v t

/-- A front's binding goes on. -/
def keepFront (f : Nat) (x : Front) (s : State) : State :=
  if (tget f s.dev.fronts).isSome then { s with dev := { s.dev with fronts := tput f x s.dev.fronts } } else s

/-- After an entry: the front of an exhausted queue sets the idle flag and has the write position to read again (R229); a binding
fetches at most 16 entries (R232). -/
def afterEntry (f b q n : Nat) (s : State) : State :=
  match queue? s b q with
  | none => releaseFront f s
  | some x =>
    if fetchTo x ≤ x.fetch then
      keepFront f { bay := b, queue := q, fetched := n, reread := true } (modQueue b q (fun x => { x with idle := true }) s)
    else if 16 ≤ n || x.frozen then releaseFront f s
    else keepFront f { bay := b, queue := q, fetched := n } s

/-- Reads the write position again after the idle flag was set (R229): new entries clear the flag and the front fetches on, unless
its binding is used up (R232); else the binding ends. -/
def reread (f : Nat) (fr : Front) (x : Queue) (s : State) : State :=
  if activeQ x then
    let t := modQueue fr.bay fr.queue (fun x => { x with idle := false }) s
    if 16 ≤ fr.fetched then releaseFront f t else keepFront f { fr with reread := false } t
  else releaseFront f s

/-- A binding that finds no entry ends; one that fetched nothing counts (R229, R275). -/
def emptyBinding (f : Nat) (fr : Front) (x : Queue) (s : State) : State :=
  let t := releaseFront f s
  let t := if fetchTo x ≤ x.fetch then modQueue fr.bay fr.queue (fun x => { x with idle := true }) t else t
  if fr.fetched = 0 then { t with dev := { t.dev with wastedFetch := satAdd 0xFFFF t.dev.wastedFetch 1 } } else t

/-- A ring entry is read: in F one in host memory needs its page's translation first (R223, R393, R402). -/
def fetchEntry (f : Nat) (fr : Front) (x : Queue) (env : Env) (s : State) : State :=
  let hp := if bit x.qflags 0 then [(entryAt x / 4096, entryAt x)] else []
  if (atsMiss s fr.bay hp).isSome then atsAsk fr.bay (entryAt x / 4096) (entryAt x) fr.queue 1 7 s
  else if (atsDenied s fr.bay 1 hp).isSome then ringFail fr.bay fr.queue (entryAt x) false s
  else match ringRead s fr.bay x env with
    | .failed a p => ringFail fr.bay fr.queue a p s
    | .bytes bs =>
      let t := if bit x.qflags 0 then hostAsk fr.bay (entryAt x) 64 s else frontXlate fr.bay [(entryAt x, 64)] (askVa fr.bay (entryAt x) 64 s)
      afterEntry f fr.bay fr.queue (fr.fetched + 1) (takeEntry fr.bay fr.queue x bs env (askTaken fr.bay bs t))

/-- A bound front fetches one command, or reads the write position again (R224, R229, R231, R232, R236). -/
def frontFetch (f : Nat) (env : Env) (s : State) : State :=
  match tget f s.dev.fronts with
  | none => s
  | some fr =>
    match queue? s fr.bay fr.queue with
    | none => releaseFront f s
    | some x =>
      if !mayFetch s fr.bay then releaseFront f s
      else if fr.reread then reread f fr x s
      else if fetchLimit s ≤ heldCount s fr.bay then raise srcFetchLimit s
      else if !activeQ x then emptyBinding f fr x s
      else if oldestPos s fr.bay fr.queue x + 2 ^ x.log2Ring ≤ x.fetch then s
      else fetchEntry f fr x env s

/-- FRONT_FETCH (R236). -/
def execFrontFetch (f : Nat) (env : Env) (s : State) : Host.Outcome State Fault Refusal :=
  onUnit (decide (f < fronts s)) "front" (run fpWork (frontFetch f env) s)

/-! ## Leaving WAITING -/

/-- Whether the commands ahead of one in queue order have committed or are DONE (R235, R259); stream commands keep order
only among those of their stream, and the commands of a batch among themselves (R176, R182). -/
def orderClear (s : State) (c : Cmd) : Bool :=
  if c.batch.isSome then
    !(bayCmds s c.bay).any fun d => d.batch == c.batch && decide (d.bodyIdx < c.bodyIdx) && !d.committed &&
      (!flag c 0 || d.walk.isSome)
  else if opc c == opStreamStep || opc c == opStreamFill then
    !(bayCmds s c.bay).any fun d => (opc d == opStreamStep || opc d == opStreamFill) && d.parent.isNone && d.batch.isNone &&
      cf d 0x18 4 == cf c 0x18 4 && decide (d.cid < c.cid)
  else if flag c 0 then true
  else !(bayCmds s c.bay).any fun d => d.queue == c.queue && d.batch.isNone && !d.committed &&
    some d.cid != c.parent && (match d.parent, c.parent with
      | none, _ => decide (d.pos < c.pos)
      | some p, some r => p == r && decide (d.bodyIdx < c.bodyIdx)
      | some _, none => false)

/-- Whether a control command has begun and waits for others to end: it destroys a queue, closes a stream, removes a spill range, or has
made the kills of an INVALIDATE. -/
def begun (s : State) (c : Cmd) : Bool :=
  let y := bay s c.bay
  y.eqi.queues.any (fun e => e.2.destroyer == some c.cid) || y.strm.streams.any (fun e => e.2.closing == some c.cid) ||
    y.strm.spills.any (fun e => e.2.removing == some c.cid) || (opc c == 0x22 && c.gen == 1)

/-- Whether commands of a bay leave WAITING at all: an attached bay of a block that is not shored; a quiescing bay only finishes
what has begun (R321, R322, R496). -/
def goesOn (s : State) (c : Cmd) : Bool :=
  !s.rst.shored && ((bay s c.bay).st == .attached || ((bay s c.bay).st == .quiescing && begun s c))

/-- Whether a command may leave WAITING (R113, R233, R235). -/
def mayLeave (s : State) (c : Cmd) : Bool := c.st == .waiting && goesOn s c && waitMet s c && orderClear s c

/-- The seed of a LAUNCH (R87, R240, R270): the entry's when the revision has it and it is not 0, else drawn. -/
def withSeed (cid : Nat) (s : State) : State :=
  match cmd? s cid with
  | none => s
  | some c =>
    if c.seeded then s
    else
      let lo := cf c 0x30 8
      let hi := cf c 0x38 8
      if revAtLeast s c.bay 4 && (lo != 0 || hi != 0) then
        modCmd cid (fun c => { c with seeded := true, seedLo := BitVec.ofNat 64 lo, seedHi := BitVec.ofNat 64 hi }) s
      else
        let r := randVal s
        modCmd cid (fun c => { c with seeded := true, seedLo := r.truncate 64, seedHi := (r >>> 64).truncate 64 }) (drewRandom s)

/-- A panel, shared-engine or stream command becomes READY (R113). -/
def becomeReady (cid : Nat) : State → State := modCmd cid fun c => { c with st := .ready }

/-- The row of an opcode whose command leaves WAITING. -/
def leaveRow (op cid : Nat) (f : State → State) (s : State) : Host.Outcome State Fault Refusal :=
  run fpWork (onlyIf (fun t => match cmd? t cid with
    | some c => opc c == op && mayLeave t c
    | none => false) f) s

/-- LAUNCH (R240): READY, with its seed. -/
def execLaunch (cid : Nat) (s : State) : Host.Outcome State Fault Refusal :=
  leaveRow opLaunch cid (fun t => becomeReady cid (withSeed cid t)) s

/-- QUOIN_LAUNCH (R242). -/
def execQuoinLaunch (cid : Nat) (s : State) : Host.Outcome State Fault Refusal := leaveRow opQuoin cid (becomeReady cid) s

/-- COLLECTIVE (R243). -/
def execCollective (cid : Nat) (s : State) : Host.Outcome State Fault Refusal := leaveRow opCollective cid (becomeReady cid) s

/-- Whether a stream command can be served: STREAM_LOST and STREAM_FULL end it now (R174, R180). -/
def streamVerdict (s : State) (c : Cmd) : Option Nat :=
  let k := stream s c.bay (cf c 0x18 4)
  let n := if opc c = opStreamFill then cf c 0x1C 4 else 1
  if k.state = .lost then some 0x41
  else if k.limit < k.position + n then some 0x40
  else none

/-- A stream command leaves WAITING: it ends with its stream's condition, or waits for the gatherer (R173 to R175). -/
def streamReady (cid : Nat) (s : State) : State :=
  match cmd? s cid with
  | none => s
  | some c =>
    match streamVerdict s c with
    | some code => finish cid code 0 false s
    | none => becomeReady cid s

/-- STREAM_STEP (R173). -/
def execStreamStep (cid : Nat) (s : State) : Host.Outcome State Fault Refusal := leaveRow opStreamStep cid (streamReady cid) s

/-- STREAM_FILL (R180). -/
def execStreamFill (cid : Nat) (s : State) : Host.Outcome State Fault Refusal := leaveRow opStreamFill cid (streamReady cid) s

end Sys2Proof.Machine
end

