-- ==== Sys2Proof/Machine/EqiCmds.lean ====
section
/-! DEFINITION. The control commands of queues, events, contexts and graphs (R246 to R251, R257 to R262), ABORT (R136, R250),
and the launch of a stored graph (R259, R260). -/
namespace Sys2Proof.Machine

/-! ## Control commands -/

/-- A control command completes (R107, R238): its header signal is released with OK and ALREADY_DONE. -/
def ctlDone (cid code result : Nat) (er : Bool) (s : State) : State :=
  match cmd? s cid with
  | none => s
  | some c =>
    let good := code = 0 ∨ code = 0x11
    let t := if good ∧ flag c 5 then signal c.bay (cf c 4 2) (cf c 0x10 8) s else s
    let t := if good ∧ c.parent.isSome then modCmd cid (fun c => { c with committed := true }) t else t
    finish cid code result er t

/-- The row of a control command: it runs once the command may leave WAITING (R235). -/
def ctl (op cid : Nat) (f : Cmd → State → State) (s : State) : Host.Outcome State Fault Refusal :=
  leaveRow op cid (fun t => f (cmdD t cid) t) s

/-- The row of an operation of a control command with an op byte. -/
def ctlOp (op k cid : Nat) (f : Cmd → State → State) (s : State) : Host.Outcome State Fault Refusal :=
  leaveRow op cid (onlyIf (fun t => cf (cmdD t cid) 6 1 == k) fun t => f (cmdD t cid) t) s

/-! ## Events -/

/-- A write of a control command: device memory and host memory as `writeVa`, a remote window by WRITE requests (R423). -/
def postVa (cid b va : Nat) (bs : List Byte) (s : State) : State :=
  (reqPieces va bs.length).foldl (fun t p =>
    match xlate t b p.1 2 false with
    | .ok (.remote ep w off) =>
      sendReq { kind := fkWrite, dst := ep, addr := globalAddr w off, len := p.2, data := (bs.drop (p.1 - va)).take p.2
                bay := b, va := p.1, owner := .effect cid 0 } t
    | _ => writeVa b p.1 ((bs.drop (p.1 - va)).take p.2) t) s

/-- The first address at which EVENT READ's copy fails: an unmapped or read-only page, or the first I/O address the host
refuses. -/
def readFails (s : State) (c : Cmd) (hostErr : Option Nat) : Option Nat :=
  (pagesOf (cf c 0x20 8) (8 * cf c 0x1A 2)).findSome? fun p =>
    if 2 ^ 48 ≤ p.1 then some p.1
    else match xlate s c.bay p.1 2 false with
      | .ok (.host iova) => hostErr.bind fun e => if iova ≤ e ∧ e < iova + p.2 then some e else none
      | .ok _ => none
      | .fault _ => some p.1

/-! ## ABORT -/

/-- The bytes of the batch area. -/
def areaRead (s : State) (b va n : Nat) : List Byte := (readVa s b {} false va n).getD (List.replicate n 0)
/-- Bytes written into the batch area. -/
def areaWrite (b va : Nat) (bs : List Byte) : State → State := writeVa b va bs

/-- The mask bit of the members that `p` picks is set in every sealed batch that has not committed (R179, R187), in the
bytes of its batch table too. -/
def maskIf (b : Nat) (p : Member → Bool) (s : State) : State :=
  (bay s b).strm.batches.foldl (fun t x =>
    if x.committed then t
    else (List.range x.members.length).foldl (fun t i => match x.members[i]? with
      | some m =>
        if p m then
          areaWrite b (x.tableVa + 64 + 16 * i) (natLe 4 (m.strm + 2 ^ 31))
            (modBatch b x.id (fun y => { y with members := y.members.modify i fun m => { m with masked := true } }) t)
        else t
      | none => t) t) s

/-- A sealed member of a batch is masked; the rest of the batch goes on (R179). -/
def maskMember (b cid : Nat) : State → State := maskIf b fun m => m.step == some cid

/-- The abort flag of any command in flight is set (R136, R179, R260). -/
def abortAny (cid : Nat) (s : State) : State :=
  match cmd? s cid with
  | none => s
  | some c =>
    if opc c = opGraphLaunch ∧ c.st = .running then
      let kids := ((bayCmds s c.bay).filter fun k => k.parent == some cid).map (·.cid)
      each kids abortCmd (modCmd cid (fun c => { c with abort := true }) s)
    else if opc c = opStreamStep ∨ opc c = opStreamFill then abortCmd cid (maskMember c.bay cid s)
    else flushOwed (abortCmd cid s)

/-- The abort flag of a command that only waits for its completion entry: one past its commit point ends with abort_late (R136). -/
def abortOwed (pos : Nat) (x : Queue) : Queue :=
  { x with owed := x.owed.map fun e =>
      if owedPos x e = pos ∧ (e.drop 17).headD 0 = 1 then e.take 4 ++ [(e.drop 4).headD 0 ||| 2] ++ e.drop 5 else e }

/-- What ABORT does (R250): the code, and the state with the flag set. -/
def abortAt (b q pos : Nat) (s : State) : Nat × State :=
  match queue? s b q with
  | none => (0x23, s)
  | some x =>
    if x.wp ≤ pos then (0x23, s)
    else if pos < oldestPos s b q x then (0x11, s)
    else if x.fetch ≤ pos then (0, modQueue b q (fun x => { x with aborts := sput pos x.aborts }) s)
    else match (bayCmds s b).find? fun c => c.queue == q && c.pos == pos && c.parent.isNone && c.batch.isNone with
      | some c => (0, abortAny c.cid s)
      | none => if x.owed.any fun e => owedPos x e == pos then (0, modQueue b q (abortOwed pos) s) else (0x11, s)

/-- ABORT (R136, R250). An ABORT that names itself completes with OK. -/
def execAbort (cid : Nat) (s : State) : Host.Outcome State Fault Refusal :=
  ctl 0x15 cid (fun c t =>
    if cf c 0x18 2 = c.queue ∧ cf c 0x20 8 = c.pos then ctlDone cid 0 0 false t
    else
      let r := abortAt c.bay (cf c 0x18 2) (cf c 0x20 8) t
      ctlDone cid r.1 0 false r.2) s

/-! ## Queues -/

/-- Whether a ring of `n` bytes is mapped: in device memory by the bay, in host memory by the host, which denies some pages (R223). -/
def ringMapped (s : State) (b : Nat) (host : Bool) (denied : List Nat) (a n : Nat) : Bool :=
  if host then !denied.any fun p => decide (a / 4096 ≤ p) && decide (4096 * p < a + n)
  else (firstFault s b a n 0 false).isNone

/-- Whether a queue's rings may be created (R247). -/
def ringsOk (s : State) (b : Nat) (denied : List Nat) (x : Queue) : Bool :=
  ringMapped s b (bit x.qflags 0) denied x.ringAddr (64 * 2 ^ x.log2Ring) &&
    ringMapped s b (bit x.qflags 1) denied x.cqAddr (16 * 2 ^ x.log2Cq) &&
    !(bit x.qflags 2 && (!x.user || bit x.qflags 0))

/-- The queue a QUEUE_CREATE describes. -/
def newQueue (c : Cmd) : Queue :=
  { user := cf c 0x1A 1 == 1, prio := cf c 0x1B 1, log2Ring := cf c 0x1C 1, log2Cq := cf c 0x1D 1, qflags := cf c 0x1E 1
    vector := cf c 0x1F 1, ringAddr := cf c 0x20 8, cqAddr := cf c 0x28 8 }

/-- A queue exists from now on. -/
def putQueue (b q : Nat) (x : Queue) : State → State := modEqi b fun e => { e with queues := tput q x e.queues }

/-- QUEUE_CREATE (R223, R247); `denied` are the host pages of its rings that the host does not translate. -/
def execQueueCreate (cid : Nat) (s : State) (denied : List Nat := []) : Host.Outcome State Fault Refusal :=
  ctl 0x26 cid (fun c t =>
    if (queue? t c.bay (cf c 0x18 2)).isSome || !ringsOk t c.bay denied (newQueue c) then ctlDone cid 0x23 0 false t
    else ctlDone cid 0 0 false (putQueue c.bay (cf c 0x18 2) (newQueue c) t)) s

/-- The commands of a queue that are not DONE, those of its graph launches included. -/
def queueCmds (s : State) (b q : Nat) : List Cmd := (bayCmds s b).filter fun c => c.queue == q && c.batch.isNone

/-- Whether a queue being destroyed has no work left: every entry written before is fetched and DONE (R247). A slot reservation in its ring (R257) is taken and used within the one step of
the commit point. -/
def queueEmpty (s : State) (b q : Nat) : Bool :=
  (queueCmds s b q).isEmpty && match queue? s b q with
    | some x => x.owed.isEmpty && decide (fetchTo x ≤ x.fetch)
    | none => true

/-- A queue is gone. -/
def freeQueue (b q : Nat) (s : State) : State := unbind b q (modEqi b (fun e => { e with queues := tdrop q e.queues }) s)

/-- QUEUE_DESTROY: every command of the queue is aborted, those not yet fetched at their fetch, and the queue is freed when all are DONE;
until then the command waits and this row runs again (R247, R250, R257). -/
def destroyQueue (c : Cmd) (s : State) : State :=
  let q := cf c 0x18 2
  match queue? s c.bay q with
  | none => ctlDone c.cid 0x23 0 false s
  | some x =>
    if q = 0 ∨ q = c.queue ∨ (x.destroyer.isSome ∧ x.destroyer ≠ some c.cid) then ctlDone c.cid 0x23 0 false s
    else
      let t := if x.destroyer.isSome then s
        else each ((queueCmds s c.bay q).map (·.cid)) abortAny
          (modQueue c.bay q (fun x => { x with destroyer := some c.cid, destroyWp := x.wp }) s)
      if queueEmpty t c.bay q then ctlDone c.cid 0 0 false (freeQueue c.bay q t) else t

/-- QUEUE_DESTROY (R247). -/
def execQueueDestroy (cid : Nat) (s : State) : Host.Outcome State Fault Refusal := ctl 0x27 cid destroyQueue s

/-- SET_PRIORITY (R247). -/
def execSetPriority (cid : Nat) (s : State) : Host.Outcome State Fault Refusal :=
  ctl 0x23 cid (fun c t =>
    if (queue? t c.bay (cf c 0x18 2)).isNone then ctlDone cid 0x23 0 false t
    else ctlDone cid 0 0 false (modQueue c.bay (cf c 0x18 2) (fun x => { x with prio := cf c 0x1B 1 }) t)) s

/-! ## Contexts -/

/-- The extents of a context's home region (R139). -/
def ctxExtents (w h : Nat) : Nat := ceilDiv (w * h * 1152 * 1024) 0x200000

/-- CONTEXT_CREATE (R139, R248): its home region is the highest free frames below the staging pool (log entry 16), and its save image is
zeros. -/
def execContextCreate (cid : Nat) (s : State) : Host.Outcome State Fault Refusal :=
  ctl 0x13 cid (fun c t =>
    if freeFrames t c.bay < ctxExtents (wOf c) (hOf c) then ctlDone cid 0x34 0 false t
    else
      let h := (bay t c.bay).strm.nextCtx
      let fs := highFrames t c.bay (ctxExtents (wOf c) (hOf c))
      ctlDone cid 0 h false
        (modSt c.bay (fun y => { y with
          nextCtx := h + 1, ctxs := y.ctxs ++ [{ handle := h, w := wOf c, h := hOf c, home := fs }] }) (zeroFrames c.bay fs t))) s

/-- CONTEXT_DESTROY (R248); the frames of its home region are zeroed before they count as free (R387). -/
def execContextDestroy (cid : Nat) (s : State) : Host.Outcome State Fault Refusal :=
  ctl 0x14 cid (fun c t =>
    let h := cf c 0x18 4
    if !((bay t c.bay).strm.ctxs.any fun x => x.handle == h) then ctlDone cid 0x23 0 false t
    else if (bayCmds t c.bay).any fun k => ctxOf k == h then ctlDone cid 0x28 0 false t
    else ctlDone cid 0 0 false (modSt c.bay (fun y => { y with ctxs := y.ctxs.filter fun x => x.handle != h })
      (zeroFrames c.bay (((bay t c.bay).strm.ctxs.filter fun x => x.handle == h).flatMap (·.home)) t))) s

/-! ## Stored graphs -/

/-- Graph `h` of bay `b`. -/
def graph? (s : State) (b h : Nat) : Option Graph := (bay s b).strm.graphs.find? fun g => g.handle == h
/-- Whether a launch pins the generation before the current one, for which a PATCH waits (R261, R487). -/
def pinsBefore (g : Graph) : Bool := g.pins.any fun p => p.2 + 1 == g.gen
/-- Graph `h` of bay `b` changed by `f`. -/
def modGraph (b h : Nat) (f : Graph → Graph) : State → State :=
  modSt b fun y => { y with graphs := modFirst (fun g => g.handle == h) f y.graphs }

/-- GRAPH_CREATE (R258). -/
def graphCreate (c : Cmd) (s : State) : State :=
  let pb := cf c 0x24 4
  if freeFrames s c.bay < ceilDiv (2 * pb) 0x200000 then ctlDone c.cid 0x34 0 false s
  else
    let h := (bay s c.bay).strm.nextGraph
    let g : Graph :=
      { handle := h, body := (List.range (cf c 0x20 2)).map (bodyEntry c), paramBytes := pb
        user := (match queue? s c.bay c.queue with
          | some q => q.user
          | none => false)
        r0 := mslice c.stage (2 ^ 20) pb 0 }
    ctlDone c.cid 0 h false (modSt c.bay (fun y => { y with nextGraph := h + 1, graphs := y.graphs ++ [g] }) s)

/-- GRAPH_CREATE (R258). -/
def execGraphCreate (cid : Nat) (s : State) : Host.Outcome State Fault Refusal := ctl 0x10 cid graphCreate s

/-- GRAPH_DESTROY (R262). -/
def execGraphDestroy (cid : Nat) (s : State) : Host.Outcome State Fault Refusal :=
  ctl 0x11 cid (fun c t =>
    let h := cf c 0x18 4
    match graph? t c.bay h with
    | none => ctlDone cid 0x23 0 false t
    | some g =>
      if g.owner.isSome || (bayCmds t c.bay).any fun k =>
          (opc k == opGraphLaunch || opc k == 0x12) && k.parent.isNone && cf k 0x18 4 == h then
        ctlDone cid 0x28 0 false t
      else ctlDone cid 0 0 false (modSt c.bay (fun y => { y with graphs := y.graphs.filter fun g => g.handle != h }) t)) s

/-- The content of a graph's parameter region of generation `g` (R258, R261). -/
def regionOf (x : Graph) (g : Nat) : Mem := if g % 2 = 0 then x.r0 else x.r1

/-- The graph with a new generation: the current region copied to the other and patched (R261). -/
def patched (c : Cmd) (x : Graph) : Graph :=
  let m := mputs (cf c 0x1C 4) (mread c.stage 0 (cf c 0x20 4)) (regionOf x x.gen)
  if x.gen % 2 = 0 then { x with gen := x.gen + 1, r1 := m } else { x with gen := x.gen + 1, r0 := m }

/-- PATCH (R261): it waits while a launch pins the generation before the current one. -/
def patchGo (c : Cmd) (s : State) : State :=
  let h := cf c 0x18 4
  match graph? s c.bay h with
  | none => ctlDone c.cid 0x23 0 false s
  | some g =>
    if pinsBefore g then s
    else ctlDone c.cid 0 (g.gen + 1) false (modGraph c.bay h (patched c) s)

/-- PATCH (R261). -/
def execPatch (cid : Nat) (s : State) : Host.Outcome State Fault Refusal := ctl 0x12 cid patchGo s

/-- Body entry `i` of a graph is fetched for a launch (R259): its descriptor is read, from the pinned region where PARAM is
set, and it waits as a command of the launching queue; one of an aborted launch is refused as such (R260). -/
def launchEntry (p : Cmd) (g : Graph) (env : Env) (i : Nat) (s : State) : State :=
  let c : Cmd := { cid := s.cmds.next, bay := p.bay, queue := p.queue, pos := p.pos, parent := some p.cid, bodyIdx := i
                   entry := g.body.getD i [], abort := p.abort }
  let t := { s with cmds := { s.cmds with next := s.cmds.next + 1 } }
  settleVerd c (argCheck t env (some (regionOf g p.gen)) g.paramBytes p.abort c) t

/-- The body entries of a launch not fetched yet are fetched while the bay may hold more commands (R232, R259). -/
def launchMore (env : Env) (pc : Nat) (g : Graph) (s : State) : State :=
  each (List.range g.body.length) (fun i t => match cmd? t pc with
    | none => t
    | some p =>
      if p.bodyNext = i ∧ heldCount t p.bay < fetchLimit t then
        launchEntry p g env i (modCmd pc (fun p => { p with bodyNext := i + 1 }) t)
      else t) s

/-- A GRAPH_LAUNCH leaves WAITING (R259): it pins the current generation and its body is fetched; the row runs again where the bay's
limit holds entries back. -/
def graphLaunch (env : Env) (cid : Nat) (s : State) : State :=
  let c := cmdD s cid
  let h := cf c 0x18 4
  match graph? s c.bay h with
  | none => finish c.cid 0x23 0 false s
  | some g =>
    if c.st = .running then launchMore env cid g s
    else
      let t := modGraph c.bay h (fun g => { g with pins := g.pins ++ [(cid, g.gen)] }) s
      launchMore env cid g (modCmd cid (fun c => { c with st := .running, gen := g.gen }) t)

/-- Whether a GRAPH_LAUNCH has entries to fetch (R232, R259). -/
def launching (s : State) (c : Cmd) : Bool := c.st == .running && goesOn s c && decide (c.bodyNext < bodyCount s c)

/-- GRAPH_LAUNCH (R259). -/
def execGraphLaunch (cid : Nat) (env : Env) (s : State) : Host.Outcome State Fault Refusal :=
  run fpWork (onlyIf (fun t => match cmd? t cid with
    | some c => opc c == opGraphLaunch && (mayLeave t c || launching t c)
    | none => false) (graphLaunch env cid)) s

end Sys2Proof.Machine
end

