-- ==== Sys2Proof/Machine/BoxOps.lean ====
section
/-! DEFINITION. Mailboxes (R279 to R294): the request at the head of the order of go writes, the refusals of R287 in their order,
responses and operation slots. -/
namespace Sys2Proof.Machine

/-! ## Requests -/

/-- A request as its header and payload stand in the message area (R280, R281). -/
structure Req where
  msg : Nat
  minor : Nat
  major : Nat
  tag : Nat
  len : Nat
  target : Nat
  reservedOk : Bool
  /-- The payload: its first `len` bytes, zero extended. -/
  p : List Byte
  deriving DecidableEq, Repr, Inhabited

/-- The request in mailbox `x`. -/
def reqOf (s : State) (x : Nat) : Req :=
  let a := (mbx s x).area
  let h := mread a 0 64
  let n := fld h 8 4
  { msg := fld h 0 2, minor := fld h 2 1, major := fld h 3 1, tag := fld h 4 4, len := n, target := fld h 0xC 4
    reservedOk := allZero (h.drop 0x10), p := padTo 1984 (mread a 0x40 (min n 1984)) }

/-- Where a message may be sent and whom it concerns: box 0 both, 1 manager, 2 bay; whether it concerns a bay; the ABI minor
that added it (R292, R294). -/
structure MsgInfo where
  box : Nat
  ofBay : Bool
  minor : Nat := 0
  deriving DecidableEq, Repr, Inhabited

/-- The catalogue (R292). -/
def msgInfo (m : Nat) : Option MsgInfo :=
  if m = 1 then some ⟨0, false, 0⟩
  else if 0x100 ≤ m ∧ m ≤ 0x102 then some ⟨2, true, 0⟩
  else if m = 0x103 then some ⟨2, true, 2⟩
  else if 0x200 ≤ m ∧ m ≤ 0x205 then some ⟨0, true, 1⟩
  else if m = 0x206 ∨ m = 0x207 then some ⟨1, true, 1⟩
  else if 0x300 ≤ m ∧ m ≤ 0x304 then some ⟨1, true, 0⟩
  else if 0x400 ≤ m ∧ m ≤ 0x403 then some ⟨1, false, 0⟩
  else if m = 0x404 then some ⟨1, false, 2⟩
  else if 0x500 ≤ m ∧ m ≤ 0x506 then some ⟨1, false, 0⟩
  else if 0x600 ≤ m ∧ m ≤ 0x605 then some ⟨1, false, 0⟩
  else none

/-- Whether a number is a power of two from 16 to 4,096. -/
def pow2Range (n : Nat) : Bool := [16, 32, 64, 128, 256, 512, 1024, 2048, 4096].contains n

/-- Whether a range to scrub keeps the rules of R471. -/
def scrubRangeOk (s : State) (spad : Bool) (start len : Nat) : Bool :=
  if spad then start % 64 == 0 && len % 64 == 0 && decide (start + len ≤ ashlars s * 0x80000)
  else start % 512 == 0 && len % 512 == 0 && decide (start + len ≤ physTop s)

/-- The formats of payload fields (R292, R293, R471). -/
def payloadOk (s : State) (m : Nat) (p : List Byte) : Bool :=
  match m with
  | 0x100 => decide (fld p 0 1 ≤ 7) && decide (6 ≤ fld p 1 1 ∧ fld p 1 1 ≤ 16) && decide (6 ≤ fld p 2 1 ∧ fld p 2 1 ≤ 16) &&
      decide (fld p 3 1 < 4) && decide (fld p 4 1 ≤ 63) && fld p 8 8 % 4096 == 0 && fld p 0x10 8 % 4096 == 0
  | 0x101 => fld p 0 8 == 0 || pow2Range (fld p 8 4)
  | 0x102 => decide (1 ≤ fld p 8 4 ∧ fld p 8 4 ≤ 1984)
  | 0x200 => decide (fld p 0x10 4 ≤ 1) && fld p 0 8 % 2 ^ 21 == 0 && fld p 8 8 % 2 ^ 21 == 0 && fld p 8 8 != 0
  | 0x202 => decide (fld p 2 1 ≤ 2)
  | 0x204 => decide (fld p 0 1 ≤ 1) && decide (fld p 1 1 ≤ 2)
  | 0x205 => decide (1 ≤ fld p 8 4 ∧ fld p 8 4 ≤ 64)
  | 0x206 => fld p 8 8 % 2 ^ 21 == 0 && fld p 0x10 8 % 2 ^ 21 == 0 && fld p 0x10 8 != 0
  | 0x400 => decide (25 ≤ fld p 0 2 ∧ fld p 0 2 ≤ 1000)
  | 0x401 => fld p 0 2 == 0 || decide (800 ≤ fld p 0 2 ∧ fld p 0 2 ≤ 1250)
  | 0x403 => decide (fld p 0x18 1 ≤ 1) && scrubRangeOk s (fld p 0x18 1 == 1) (fld p 0 8) (fld p 8 8)
  | 0x505 => decide (fld p 8 4 ≤ 2 ^ 26)
  | 0x602 => decide (fld p 0 1 ≤ 1)
  | 0x603 => decide (1 ≤ fld p 2 2 ∧ fld p 2 2 ≤ 256) && decide (fld p 0 2 + fld p 2 2 ≤ 256)
  | _ => true

/-- The messages served out of service on the manager mailbox (R287). -/
def servedOut (m : Nat) : Bool := [1, 0x503, 0x504, 0x505, 0x506, 0x600, 0x601, 0x602, 0x603, 0x604, 0x605].contains m

/-- The bay a request concerns: that of the mailbox, or the manager's target. -/
def reqBay (x : Nat) (r : Req) : Nat := if x = 0 then r.target else x - 1

/-- The refusal of a request, the first case that applies (R287, R294, R300, R318); none where it is served. -/
def refusal (s : State) (x : Nat) (r : Req) : Option Nat :=
  let abi := r.msg == 1
  match msgInfo r.msg with
  | none => some 0x21
  | some i =>
    if (mbx s x).boot && !(abi || r.msg == 0x600) then some 0x21
    else if !abi && (decide (r.minor < i.minor) || r.major != 1 || decide (2 < r.minor)) then some 0x21
    else if (x != 0 && i.box == 1) || (x == 0 && i.box == 2) then some 0x22
    else if !r.reservedOk || (x != 0 && r.target != 0) || (x == 0 && !i.ofBay && !abi && r.target != 0xFFFFFFFF) ||
        decide (1984 < r.len) || !payloadOk s r.msg r.p then some 0x20
    else if s.rst.oos && !(x == 0 && servedOut r.msg) then some 0x70
    else if s.sec.repointing && x != 0 then some 0x28
    else if i.ofBay && x == 0 &&
        (decide (s.bays.count ≤ r.target) || ((bay s r.target).st == .absent && r.msg != 0x300)) then some 0x23
    else none

/-! ## Responses -/

/-- The response half is written, busy cleared, done set, the interrupt raised, and the next request is at the head (R282,
R283). -/
def respondWith (x code slot opId bound : Nat) (payload : List Byte) (s : State) : State :=
  let r := reqOf s x
  let h := padTo 64 (natLe 2 r.msg ++ natLe 2 code ++ natLe 4 r.tag ++ natLe 4 payload.length ++ natLe 1 slot ++
    natLe 1 opId ++ natLe 2 0 ++ natLe 4 bound)
  let t := modMbx x (fun m => { m with
    busy := false, done := true, area := mputs 0x800 (h ++ payload) (mzero 0x800 2048 m.area) }) s
  raise (srcMailbox x) { t with boxes := { t.boxes with order := t.boxes.order.filter (· != x) } }

/-- Requests with a reserved message code are refused as they reach the head (R287). -/
def flushBoxes : Nat → State → State
  | 0, s => s
  | n + 1, s =>
    match s.boxes.order with
    | [] => s
    | x :: _ =>
      if (msgInfo (reqOf s x).msg).isNone then flushBoxes n (respondWith x 0x21 0xFF 0 0 [] s) else s

/-- A request completes. -/
def respond (x code : Nat) (payload : List Byte) (s : State) : State :=
  let t := respondWith x code 0xFF 0 0 payload s
  flushBoxes t.boxes.order.length t

/-- A request completes with OK or a refusal code. -/
def reply (x code : Nat) : State → State := respond x code []

/-! ## Operation slots -/

/-- The lowest free slot of a mailbox. -/
def freeSlot (s : State) (x : Nat) : Option Nat := (List.range 4).find? fun i => (tget i (mbx s x).ops).isNone

/-- A long request takes a slot and responds ACCEPTED, then its work starts; all slots in use refuse it (R286). -/
def accepted (x : Nat) (kind : OpKind) (bound : Nat) (go : Nat → State → State) (s : State) : State :=
  match freeSlot s x with
  | none => reply x 0x28 s
  | some i =>
    let id := (mbx s x).nextOp
    let t := modMbx x (fun m => { m with
      ops := tput i { opId := id, kind := kind } m.ops, nextOp := if id = 255 then 1 else id + 1 }) s
    let t := respondWith x 1 i id bound [] t
    let t := go i t
    flushBoxes t.boxes.order.length t

/-- An operation ends (R286): final code, op_done, interrupt. -/
def opEnd (x i code : Nat) (s : State) : State :=
  match tget i (mbx s x).ops with
  | none => s
  | some o =>
    if !o.running then s
    else raise (srcMailbox x) (modMbx x (fun m => { m with
      ops := tput i { o with running := false, code := code } m.ops
      opDone := if bit m.opDone i then m.opDone else m.opDone + 2 ^ i }) s)

/-- The operation of a kind in progress: mailbox and slot. -/
def opOf (s : State) (k : OpKind) : Option (Nat × Nat) :=
  s.boxes.all.findSome? fun e => (tfind (fun _ o => o.running && o.kind == k) e.2.ops).map fun o => (e.1, o.1)

/-- Ends the operation of a kind, if one is in progress. -/
def endKind (k : OpKind) (code : Nat) (s : State) : State :=
  match opOf s k with
  | some o => opEnd o.1 o.2 code s
  | none => s

/-- Whether one of STORE, FW_ACTIVATE, REPOINT, RESET_COMPUTE and RESET_FULL is in progress (R286). -/
def exclusiveBusy (s : State) : Bool :=
  (opOf s .store).isSome || (opOf s .fwActivate).isSome || (opOf s .repoint).isSome || (opOf s .resetCompute).isSome ||
    (opOf s .resetFull).isSome

/-! ## The row of a message -/

/-- A message executes when its request is at the head of the order of go writes (R284): it is refused under R287, or `f` acts. -/
def boxRow (fp : List Grp) (m x : Nat) (f : Req → State → State) (s : State) : Host.Outcome State Fault Refusal :=
  onUnit (decide (x ≤ maxBays s)) "mailbox" (run ([.boxes, .irq] ++ fp) (onlyIf (fun t =>
    t.boxes.order.head? == some x && (reqOf t x).msg == m) fun t =>
      let r := reqOf t x
      match refusal t x r with
      | some code => reply x code t
      | none => f r t) s)



end Sys2Proof.Machine
end

