-- ==== Sys2Proof/Machine/Place.lean ====
section
/-! DEFINITION. Placement of a bay's extents (R196 to R212): hints and pins, frames freed and zeroed, moves abandoned (R204),
conflict records (R214, R215). -/
namespace Sys2Proof.Machine

/-- The hint an extent carries: 0 none, 1 LOCAL, 2 REMOTE (R209). -/
def hintOf (m : BayMem) (e : Nat) : Nat :=
  match m.hints.find? fun h => decide (h.1 ≤ e) && decide (e < h.1 + h.2.1) with
  | some h => h.2.2.1
  | none => 0

/-- Whether a pin names an extent. -/
def pinHas (e : Nat) (p : Pin) : Bool := decide (p.ext0 ≤ e) && decide (e < p.ext0 + p.exts)
/-- The pin that names an extent. -/
def pinOf (m : BayMem) (e : Nat) : Option Pin := m.pins.find? (pinHas e)
/-- Whether a home is the one a pin names: HBM, or a backing window. -/
def atHome (p : Pin) (h : Home) : Bool :=
  match h, p.home with
  | .hbm _, none => true
  | .win w _, some v => w == v
  | _, _ => false

/-- Whether an extent lies in the range of an enabled window entry (R405). -/
def exportedExt (s : State) (b e : Nat) : Bool :=
  s.mem.wins.any fun w => w.2.enabled && w.2.bay == b && decide (w.2.base ≤ e) &&
    decide (e < w.2.base + (if w.2.len = 0 then 524288 else w.2.len))

/-- The number of the placement epoch (R201). -/
def epoch (s : State) : Nat := s.lift.num / 16

/-- A move is abandoned: its destination frame is freed unless another extent still has it, and the extent is not moved
for 16 epochs (R204); a move into the frame it was to leave is abandoned with it. -/
def abandonMove (b e : Nat) (s : State) : State :=
  match extent? s b e with
  | none => s
  | some x =>
    match x.move with
    | none => s
    | some v =>
      let t := modExtent b e (fun x => { x with move := none, noMoveUntil := epoch s + 16 }) s
      let u := { t with mem := { t.mem with abandoned := satAdd 0xFFFF t.mem.abandoned 1 } }
      let w := each ((bay u b).mem.extents.filter fun k => k.1 != e && (k.2.move.any fun m => m.dst == x.home)) (fun k u =>
        modExtent b k.1 (fun y => { y with move := none, noMoveUntil := epoch s + 16 })
          { u with mem := { u.mem with abandoned := satAdd 0xFFFF u.mem.abandoned 1 } }) u
      if (bay w b).mem.extents.any fun k => k.2.home == v.dst then w else zeroHome b v.dst w

/-- Homes for a run of new extents in ascending order, or none when one has no frame (R199, R387, R405). -/
def placeAll (b perm : Nat) : List Nat → State → Option State
  | [], s => some s
  | e :: es, s =>
    match newHome s b (hintOf (bay s b).mem e) (exportedExt s b e) with
    | none => none
    | some h => placeAll b perm es (modBm b (fun m => { m with extents := tput e { home := h, perm := perm } m.extents }) s)

/-! ## Pins and conflicts -/

/-- An event to the party that set a pin (R333, R588): the manager's record names the bay. -/
def pinEvent (b : Nat) (byMgr : Bool) (code w x : Nat) : State → State :=
  if byMgr then mgrEvent code b w x else bayEvent b code 0 w x

/-- An event to the party that set a constraint: the manager, or the bay (R214). -/
def partyEvent (b : Nat) (byMgr : Bool) (code h w x : Nat) : State → State :=
  if byMgr then mgrEvent code h w x else bayEvent b code h w x

/-- The mapped extents of a pin that are not at its home. -/
def pinOpen (s : State) (b : Nat) (p : Pin) : Nat :=
  ((bay s b).mem.extents.filter fun e => pinHas e.1 p && !atHome p e.2.home).length
/-- The mapped extents of a pin. -/
def pinExts (s : State) (b : Nat) (p : Pin) : Nat := ((bay s b).mem.extents.filter fun e => pinHas e.1 p).length

/-- Pin `h` of bay `b` changed by `f`. -/
def modPin (b h : Nat) (byMgr : Bool) (f : Pin → Pin) : State → State :=
  modBm b fun m => { m with pins := modFirst (fun p => p.handle == h && p.byMgr == byMgr) f m.pins }

/-- Every pin whose last extent has reached its home is settled and its requester told (R210). -/
def settlePins (b : Nat) (s : State) : State :=
  (bay s b).mem.pins.foldl (fun t p =>
    if p.settled || pinOpen t b p != 0 then t
    else pinEvent b p.byMgr 0x104 p.handle (pinExts t b p) (modPin b p.handle p.byMgr (fun p => { p with settled := true }) t)) s

/-- A conflict event or its clearing (R214, R215): `end_` tells CONFLICT_CLEARED from `code`. -/
def conflict (end_ : Bool) (code loop limit b : Nat) (byMgr : Bool) (handle detail : Nat) (s : State) : State :=
  let t := if end_ then s else { s with mem := { s.mem with conflRaised := satAdd 0xFFFF s.mem.conflRaised 1 } }
  partyEvent b byMgr (if end_ then 0x114 else code) (loop + 256 * limit) handle detail t

end Sys2Proof.Machine
end

