-- ==== Sys2Proof/Machine/Dvfs.lean ====
section
/-! DEFINITION. The clock and power loop (R213, R214, R562 to R568): the cap in force, the highest clock the limits allow, the
step at a lift boundary, the conflicts of floor and cap, and the other loops the limits bind: scrub rate (R472) and pins. -/
namespace Sys2Proof.Machine

/-- The cap in force, in W (R568, R577): the lower of the manager's cap and MFR_PIN_MAX; 0 where neither is known. -/
def capInForce (s : State) : Nat :=
  if s.pwr.cap = 0 then s.pwr.pinMax else if s.pwr.pinMax = 0 then s.pwr.cap else min s.pwr.cap s.pwr.pinMax

/-- The sum of the READ_PIN values of the last 10 ms, and how many there are. -/
def pinSum (s : State) : Nat := s.pwr.window.foldl (· + ·) 0
def pinCount (s : State) : Nat := s.pwr.window.length

/-- Whether the 10 ms average lies above the cap in force (R567). -/
def overCap (s : State) : Bool := capInForce s != 0 && decide (capInForce s * pinCount s < pinSum s)

/-- The limit on a die sensor or stack in normal running (R567). -/
def thermalLimit (s : State) : Bool := decide (105 ≤ s.pwr.dieC) || decide (95 ≤ s.pwr.stackC)

/-- The highest point the cap allows above a clock: each step is taken while average and estimate stay below the cap (R568). -/
def climb (s : State) : Nat → Nat → Nat → Nat
  | 0, clk, _ => clk
  | n + 1, clk, est =>
    if 1250 ≤ clk then clk
    else
      let e := est + Config.powerEstimate clk (clk + 50)
      if capInForce s = 0 ∨ pinSum s + e * pinCount s < capInForce s * pinCount s ∨ pinCount s = 0 then climb s n (clk + 50) e else clk

/-- The highest clock the limits and the cap allow, and the limit that sets it: 0 none, 1 thermal, 2 electrical, 3 power cap
(R567, R568, R577). Failed telemetry counts as an electrical limit. -/
def allowed (s : State) : Nat × Nat :=
  let clk := max 800 s.lift.clk
  match s.pwr.throttle with
  | some .thermal => (800, 1)
  | some .electrical => (800, 2)
  | none =>
    if s.pwr.pmbFail then (800, 2)
    else if thermalLimit s then (max 800 (clk - 50), 1)
    else if overCap s then (max 800 (clk - 50), 3)
    else
      let top := climb s 9 clk 0
      (top, if top < 1250 then 3 else 0)

/-- The clock conflict of a floor (R214, R568), raised and cleared once. -/
def floorConflict (s : State) : State :=
  let p := s.pwr
  let now := p.floor != 0 && decide (p.allow < p.floor)
  if now == p.floorConflict then s
  else conflict (!now) 0x111 1 p.limit 0 true p.floorHandle (min (max 800 s.lift.clk) p.allow)
    { s with pwr := { p with floorConflict := now } }

/-- The conflict of a manager's cap (R214, R568): above the module's electrical limit, or below what 800 MHz draws. -/
def capConflict (s : State) : State :=
  let p := s.pwr
  let high := p.cap != 0 && p.pinMax != 0 && decide (p.pinMax < p.cap)
  let low := p.cap != 0 && s.lift.clk == 800 && overCap s
  if (high || low) == p.capConflict then s
  else conflict (!(high || low)) 0x112 2 (if high then 2 else 3) 0 true p.capHandle (capInForce s)
    { s with pwr := { p with capConflict := high || low } }

/-- The limits as they stand now. -/
def refreshLimits (s : State) : State :=
  let a := allowed s
  capConflict (floorConflict { s with pwr := { s.pwr with allow := a.1, limit := a.2 } })

/-! ## The rate of a pass (R472) -/

/-- Bandwidth in bytes per second of all memory ports as R472 states it. -/
def scrubBandwidth (s : State) : Nat := if isF s then 16400000000000 else 8200000000000

/-- The required rate in force: the last SCRUB_RATE_SET, until the first the footing store's; 0 for none. -/
def requiredRate (s : State) : Nat := (s.ras.required).getD (footFld s 0x30 4)

/-- Whether a rate exceeds a quarter of one bay share's bandwidth. -/
def rateTooHigh (s : State) (r : Nat) : Bool := decide (scrubBandwidth s < r * 1024 * 256 * s.bays.count)

/-- The rate without a requirement, in units of 1,024 lines per second. -/
def floorRate (s : State) : Nat := (if isF s then 16000000000 else 8000000000) / s.bays.count / 1024

/-- What the power cap allows (log entry 19). -/
def allowedRate (s : State) : Nat := Config.scrubAllowance s.lift.clk (capInForce s)

/-- Whether the cap keeps the required rate from being met. -/
def rateBlocked (s : State) : Bool := requiredRate s != 0 && capInForce s != 0 && decide (allowedRate s < requiredRate s)

/-- The rate in force for a pass. -/
def rateInForce (s : State) : Nat :=
  if requiredRate s = 0 then floorRate s else if rateBlocked s then allowedRate s else requiredRate s

/-- The rate of the pass in progress, and its conflict with the cap, raised and cleared once (R214, R472). -/
def refreshScrub (s : State) : State :=
  let on := s.ras.pass.isSome
  let t := { s with ras := { s.ras with rate := if on then rateInForce s else 0 } }
  let now := on && rateBlocked t
  if now == t.ras.conflict then t
  else conflict (!now) 0x113 3 3 0 true t.ras.reqHandle t.ras.rate { t with ras := { t.ras with conflict := now } }

/-! ## Pins under the cap (R214) -/

/-- Whether the power cap binds, which suspends moves (R214). -/
def capBinds (s : State) : Bool := s.pwr.limit == 3

/-- The conflicts of pins that a binding cap keeps from their home, raised once each and cleared when moves resume (R214). -/
def pinConflicts (b : Nat) (s : State) : State :=
  each (bay s b).mem.pins (fun p t =>
    let now := capBinds t && pinOpen t b p != 0
    if now == p.conflict then t
    else conflict (!now) 0x110 0 3 b p.byMgr p.handle (pinOpen t b p) (modPin b p.handle p.byMgr (fun p => { p with conflict := now }) t)) s

/-- Every adaptive loop under the limits as they stand now (R213, R214): the clock, the scrub rate and the pins' moves. -/
def refreshLoops (s : State) : State :=
  let t := refreshScrub (refreshLimits s)
  each (List.range t.bays.count) pinConflicts t


/-- vdd_ash of an operating point, in 10 mV (R565). -/
def pointVolt (mhz : Nat) : Nat := 30 + mhz / 25

/-- The clock the next lift is to have (R568): at once what a limit demands, or what the READY commands ask for where that is
granted (R112), else one point towards the highest allowed. -/
def clockWanted (s : State) : Nat :=
  let clk := s.lift.clk
  if s.pwr.allow < clk then s.pwr.allow
  else if clk < s.pwr.ask ∧ s.pwr.ask ≤ s.pwr.allow then s.pwr.ask
  else if clk < s.pwr.allow then clk + 50 else clk

/-- The DVFS step at a lift boundary (R568): a higher clock's voltage is written first (R565). -/
def dvfsStep (s : State) : State :=
  let t := refreshLoops s
  let clk := t.lift.clk
  let want := clockWanted t
  let u := { t with pwr := { t.pwr with wantClk := if want = clk then none else some want } }
  if clk < want ∧ t.pwr.volt < pointVolt want ∧ s.pwr.wantClk ≠ some want then emit (.avsWrite (10 * pointVolt want)) u else u

end Sys2Proof.Machine
end

