-- ==== Sys2Proof/Machine/KwLink.lean ====
section
/-! DEFINITION. The Kewick link layer: frames accepted in order or discarded (R415, R416), credits and acknowledgements,
training, retraining and keys (R359 to R361, R410 to R412, R417). The contents of LINK frames are the model's layout (log
entry 15). -/
namespace Sys2Proof.Machine

/-- Whether Kewick port `p` exists. -/
def onKw (p : Nat) (s : State) (o : Host.Outcome State Fault Refusal) : Host.Outcome State Fault Refusal :=
  onUnit (decide (p < kwPorts s)) "Kewick port" o

/-- A LINK frame is sent: it needs no credit (R418). -/
def linkSend (p kind full : Nat) (data : List Byte) (s : State) : State :=
  portSend p { frame := { kind := kind, vc := 3, src := s.kw.ep, full := full, data := data } } s

/-- A TRAIN or KEYX frame: it takes no sequence number, and is not encrypted (R413, R416). -/
def rawFrame (s : State) (kind full idx : Nat) (d : List Byte) : Frame :=
  { kind := kind, vc := 3, src := s.kw.ep, full := full, addr := idx, data := d, wire := d }
/-- A TRAIN frame. -/
def rawSend (p kind full : Nat) (s : State) : State := emit (.frame p (rawFrame s kind full 0 [])) s

/-- The entry of a port in the record in force (R303): enable, highest revision, preset. -/
def linkFld (s : State) (p k : Nat) : Nat := footFld s (0x78 + 4 * p + k) 1

/-- The full sequence number of the last frame a port accepted, one below the next expected (R417). -/
def lastRx (x : Port) : Nat := (x.sRx + 2 ^ 64 - 1) % 2 ^ 64

/-- A link loses training and trains anew (R412). -/
def retrain (p : Nat) (s : State) : State :=
  raise (srcKw p) (rawSend p fkTrain (lastRx (kport s p))
    (modKw p (fun x => { x with
      st := .training, rev := 0, key := .none, retrains := satAdd 255 x.retrains 1, resends := 0
      hello := [], peerHello := [], nextTx := none, nextRx := none }) s))

/-- A frame's tag failed: it is counted (R359). -/
def countTagFail (p : Nat) : State → State := modKw p fun x => { x with tagFail := satAdd 255 x.tagFail 1 }

/-- Whether the receiver discards a frame (R416). -/
def discards (x : Port) (f : Frame) : Bool :=
  !f.fecOk || !f.tagOk || f.seq != x.sRx % 65536 || vcOfFrame x.rev f.kind != some f.vc

/-- A frame arrives at a port that carries traffic: discarded and NAKed, or accepted in its order and handled. After a
frame that took a credit the block returns the credit and acknowledges (R416, R418). -/
def recvFrame (p want : Nat) (f : Frame) (body : State → State) (s : State) : State :=
  let x := kport s p
  if !linkUp x then s
  else if discards x f then
    let t := if f.fecOk && !f.tagOk then countTagFail p s else s
    linkSend p fkNak x.sRx [] t
  else if f.kind != want then s
  else
    let t := body (modKw p (fun x => { x with sRx := x.sRx + 1 }) (turn p s))
    if f.vc < 3 then
      linkSend p fkCredit x.sRx ((List.range 3).flatMap fun v => natLe 2 (b2n (v == f.vc))) t
    else t

/-- IDLE: no content (R415). -/
def execIdle (p : Nat) (fr : Frame) (s : State) : Host.Outcome State Fault Refusal :=
  onKw p s (run fpWork (recvFrame p fkIdle fr id) s)

/-- Credits granted and frames acknowledged (R416). -/
def creditBody (p : Nat) (f : Frame) (s : State) : State :=
  flushPort p (modKw p (fun x => { x with
    credReq := x.credReq + fld f.data 0 2
    credRsp := x.credRsp + fld f.data 2 2
    credSpr := x.credSpr + fld f.data 4 2
    resends := if x.replay.any (fun e => e.1 ≤ f.full) then 0 else x.resends
    replay := x.replay.filter fun e => f.full < e.1 }) s)

/-- CREDIT (R416). -/
def execKwCredit (p : Nat) (fr : Frame) (s : State) : Host.Outcome State Fault Refusal :=
  onKw p s (run fpWork (recvFrame p fkCredit fr (creditBody p fr)) s)

/-- NAK: every frame from the named sequence number is resent as it was first sent; after eight times without acceptance the
link retrains (R412, R416). -/
def nakBody (p : Nat) (f : Frame) (s : State) : State :=
  let x := kport s p
  let t := modKw p (fun x => { x with naks := satAdd 255 x.naks 1, resends := x.resends + 1 }) s
  if 8 ≤ x.resends then retrain p t
  else each (x.replay.filter fun e => f.full ≤ e.1) (fun e t => emit (.frame p e.2) t) t

/-- NAK (R416). -/
def execNak (p : Nat) (fr : Frame) (s : State) : Host.Outcome State Fault Refusal :=
  onKw p s (run fpWork (recvFrame p fkNak fr (nakBody p fr)) s)

/-- TRAIN: the peer reports the last frame it accepted; only the frames beyond it stay to be resent (R417). -/
def trainBody (p : Nat) (f : Frame) (s : State) : State :=
  let x := kport s p
  if x.st == .training || x.st == .retrying then
    rawSend p fkTrain (lastRx x)
      (modKw p (fun x => { x with replay := if f.full < x.sTx then x.replay.filter (fun e => f.full < e.1) else x.replay }) s)
  else s

/-- TRAIN (R417). -/
def execTrain (p : Nat) (fr : Frame) (s : State) : Host.Outcome State Fault Refusal :=
  onKw p s (run [.kw, .irq, .out] (trainBody p fr) s)

/-- The parts of at most 2,048 bytes in which a message goes out. -/
def keyxParts (l : List Byte) : List (List Byte) := (List.range (ceilDiv l.length 2048)).map fun i => (l.drop (2048 * i)).take 2048

/-- A message of the key exchange, in as many KEYX frames as it needs. -/
def keyxSend (p : Nat) (msg : List Byte) (s : State) : State :=
  each ((keyxParts msg).zipIdx) (fun e t => emit (.frame p (rawFrame t fkKeyx 0 e.2 e.1)) t) s

/-- A link key exchange begins (R360 step 1): an ephemeral public key, a nonce and the certificate chain. -/
def startKeyx (p : Nat) (s : State) : State :=
  let r := drawP384 s
  let m := publicKey r.1 ++ natLe 32 (randVal r.2).toNat ++ slot0 s
  keyxSend p (natLe 1 1 ++ m) (modKw p (fun x => { x with eph := r.1, hello := m, peerHello := [], nextTx := none, nextRx := none })
    (drewRandom r.2))

/-- The bit of a link in SEC_REPOINT.links_pending is cleared (R373). -/
def linkDone (p : Nat) (s : State) : State :=
  { s with sec := { s.sec with linksPending := if bit s.sec.linksPending p then s.sec.linksPending - 2 ^ p else s.sec.linksPending } }

/-- The transcript of an exchange: both first messages, in one order at both ends (log entry 15). -/
def transcript (a b : List Byte) : List Byte := if leNat a < leNat b then a ++ b else b ++ a

/-- The key of the direction whose sender has public key `pub` (R360 step 4). -/
def linkKey (x : Port) (pub : List Byte) : BitVec 256 :=
  BitVec.ofNat 256 (leNat (hkdf (Config.p384Ecdh x.eph (x.peerHello.take 97))
    (ascii "FX2 LINK" ++ digestBytes (Config.sha384 (transcript x.hello x.peerHello)) ++ pub) 32))

/-- The first link sequence number not yet accepted (R417). -/
def firstOpen (x : Port) : Nat := match x.replay with
  | [] => x.sTx
  | e :: _ => e.1

/-- The peer's first message (R360 step 1): an end that has not begun an exchange begins it; then the signature goes out, with the number
from which the new keys hold in this direction (step 2, R361): on a link that carries traffic, one ahead that is a free value. -/
def keyxHello (p : Nat) (m : List Byte) (s : State) : State :=
  let s := if (kport s p).hello.isEmpty then
    startKeyx p (modKw p (fun x => { x with key := if x.key = .keyed then .rekeying else x.key }) s) else s
  let x := kport s p
  let live := x.st == .up && x.key == .rekeying
  let c := if live then x.sTx + (freeVal s).toNat % 65536 else firstOpen x
  let t := modKw p (fun x => { x with peerHello := m, cut := c }) (if live then drewFree s else s)
  keyxSend p (natLe 1 2 ++ natLe 8 c ++ (sign s (transcript x.hello m ++ natLe 8 c)).getD []) t

/-- The peer's signature (R360 steps 2 to 4): with success both keys are derived and the peer's chain recorded. On a link that carries
traffic they take effect at the numbers agreed (R361); otherwise at once, and the frames not yet accepted are resent under them
(R417); those the peer has discarded from its replay buffer are expected no more. -/
def keyxSigned (p n : Nat) (ok : Bool) (s : State) : State :=
  let x := kport s p
  if x.peerHello.isEmpty then s
  else if !ok then
    raise (srcKw p) (modKw p (fun x => { x with key := .failed, hello := [], peerHello := [] }) s)
  else
    let tx := linkKey x (x.hello.take 97)
    let rx := linkKey x (x.peerHello.take 97)
    let y := { x with peer := Config.sha384 (x.peerHello.drop 129), hello := [], peerHello := [] }
    let t := linkDone p s
    if x.st == .up && x.key == .rekeying then
      flushPort p (turn p (modKw p (fun _ => { y with nextTx := some (x.cut, tx), nextRx := some (n, rx) }) t))
    else
      let z := { y with
        st := .up, key := .keyed, rekeys := satAdd 255 x.rekeys 1, txKey := tx, rxKey := rx, nextTx := none, nextRx := none
        sK := x.cut, sKRx := n, sRx := max x.sRx n }
      let z := { z with replay := z.replay.map fun e => (e.1, sealFrame z e.1 e.2) }
      flushPort p (each z.replay (fun e t => emit (.frame p e.2) t) (raise (srcKw p) (modKw p (fun _ => z) t)))

/-- KEYX: a message of the peer, its frames taken together; the first byte tells which (log entry 15). -/
def keyxBody (p : Nat) (f : Frame) (ok : Bool) (s : State) : State :=
  let x := kport s p
  if !(x.st == .keying || x.st == .up) then s
  else if fld f.data 0 1 = 1 then keyxHello p (f.data.drop 1) s
  else if fld f.data 0 1 = 2 then keyxSigned p (fld f.data 1 8) ok s
  else s

/-- KEYX (R360): `ok` tells whether the peer's chain parses and its signature verifies (step 3). -/
def execKeyx (p : Nat) (fr : Frame) (ok : Bool) (s : State) : Host.Outcome State Fault Refusal :=
  onKw p s (run [.kw, .sec, .irq, .out] (keyxBody p fr ok) s)

/-- The end of a port's training (R410, R411, R412): identity from the first port that trains, MISMATCH for a later port
that reports another. -/
def linkTrained (p ep dom peerRev : Nat) (ok : Bool) (s : State) : State :=
  let x := kport s p
  if x.st != .training || linkFld s p 0 != 1 then s
  else if !ok then raise (srcKw p) (modKw p (fun x => { x with st := .retrying }) s)
  else if s.kw.epValid && (s.kw.ep != ep % 4096 || s.kw.dom != dom % 4096) then raise (srcKw p) (modKw p (fun x => { x with st := .mismatch }) s)
  else
    let t := { s with kw := { s.kw with epValid := true, ep := ep % 4096, dom := dom % 4096 } }
    raise (srcKw p) (startKeyx p
      (modKw p (fun x => { x with st := .keying, rev := min (min 3 (linkFld s p 1)) peerRev }) t))

/-- LINK_TRAINED (R410). -/
def execLinkTrained (p ep dom peerRev : Nat) (ok : Bool) (s : State) : Host.Outcome State Fault Refusal :=
  onKw p s (run [.kw, .irq, .out] (linkTrained p ep dom peerRev ok) s)

/-- LANE_LOCK_LOSS: the link retrains (R412). -/
def execLaneLockLoss (p lane : Nat) (s : State) : Host.Outcome State Fault Refusal :=
  onKw p s (onUnit (decide (lane < 4)) "Kewick lane" (run [.kw, .irq, .out]
    (onlyIf (fun t => (kport t p).st == .up || (kport t p).st == .keying) (retrain p)) s))

/-- TRAINING_RETRY_TIMER: a port that failed training tries again (R412). -/
def execTrainingRetryTimer (p : Nat) (s : State) : Host.Outcome State Fault Refusal :=
  onKw p s (run [.kw, .out] (onlyIf (fun t => (kport t p).st == .retrying) fun t =>
    rawSend p fkTrain (lastRx (kport t p)) (modKw p (fun x => { x with st := .training }) t)) s)

/-- REPLAY_BUFFER_DISCARD: 100 ms after losing training without keys, the frames are discarded (R417). -/
def execReplayBufferDiscard (p : Nat) (s : State) : Host.Outcome State Fault Refusal :=
  onKw p s (run [.kw] (onlyIf (fun t => !linkUp (kport t p)) (modKw p fun x => { x with replay := [] })) s)

/-- LINK_REKEY_TRIGGER: a counter reached 2^40, or 24 h passed: a re-key starts while traffic goes on (R361). -/
def execLinkRekeyTrigger (p : Nat) (s : State) : Host.Outcome State Fault Refusal :=
  onKw p s (run [.kw, .irq, .out] (onlyIf (fun t => (kport t p).st == .up && (kport t p).key == .keyed) fun t =>
    raise (srcKw p) (startKeyx p (modKw p (fun x => { x with key := .rekeying }) t))) s)

/-- LINK_COUNTER_LIMIT: a counter reached 2^44 before the re-key completed: traffic stops and the link retrains (R361). -/
def execLinkCounterLimit (p : Nat) (s : State) : Host.Outcome State Fault Refusal :=
  onKw p s (run [.kw, .irq, .out] (onlyIf (fun t => (kport t p).st == .up && (kport t p).key == .rekeying) (retrain p)) s)

/-- KEYX_RETRY_TIMEOUT: a failed exchange is repeated every 100 ms (R360). -/
def execKeyxRetryTimeout (p : Nat) (s : State) : Host.Outcome State Fault Refusal :=
  onKw p s (run [.kw, .out] (onlyIf (fun t => (kport t p).key == .failed) (startKeyx p)) s)

end Sys2Proof.Machine
end

