-- ==== Sys2Proof/Machine/KwReq.lean ====
section
/-! DEFINITION. Requests and answers on the fabric (R404, R421 to R428): inbound READ, WRITE, ATOMIC and REDUCE on the
windows, answers to the block's own requests, effects after a commit point (R124, R423), and timeouts (R427). -/
namespace Sys2Proof.Machine

/-! ## Windows (R404) -/

/-- A window entry's length in bytes (R408). -/
def winBytes (w : WinEnt) : Nat := (if w.len = 0 then 524288 else w.len) * 2 ^ 21

/-- Whether a range of bay `b` maps placed memory with permission `need` and holds no sealed weights. -/
def placedOk (s : State) (b va n need : Nat) : Bool :=
  (pagesOf va n).all fun p => !holdsWeights s b p.1 && match xlate s b p.1 need false with
    | .ok (.hbm _) => true
    | .ok (.win _) => true
    | _ => false

/-- The checks of R404: the bay and device address a request reaches, or none. `op` is the permission bit. -/
def winCheck (s : State) (src addr n op : Nat) : Option (Nat × Nat) :=
  let off := addr % 2 ^ 40
  match tget (addr / 2 ^ 40) s.mem.wins with
  | none => none
  | some w =>
    let st := (bay s w.bay).st
    let va := w.base * 2 ^ 21 + off
    if w.enabled && !w.frozen && Nat.land src w.reqMask == Nat.land w.reqId w.reqMask && bit w.perm op &&
        decide (off + n ≤ winBytes w) && (st == .attached || st == .quiescing || st == .quiesced) &&
        (tdi s w.bay).st == .unlocked && placedOk s w.bay va n (if op = 0 then 1 else if op = 1 then 2 else 3) then
      some (w.bay, va)
    else none

/-- The bay whose traffic an answer is: that of the window the request names (R420). -/
def windowBay (s : State) (f : Frame) : Nat :=
  match tget (f.addr / 2 ^ 40) s.mem.wins with
  | some w => w.bay
  | none => 16

/-- An answer leaves by the port its request came by, with the request's tag and mark, as traffic of bay `b` (R414, R420, R428). -/
def answerFor (b p kind : Nat) (f : Frame) (status : Nat) (data : List Byte) (s : State) : State :=
  portSend p { frame := { kind := kind, vc := 1, dst := f.src, src := s.kw.ep, tag := f.tag, mark := f.mark, addr := status, data := data }
               bay := b } s
/-- The answer to a request on a window. -/
def answer (p kind : Nat) (f : Frame) (status : Nat) (data : List Byte) (s : State) : State :=
  answerFor (windowBay s f) p kind f status data s

/-- Whether inbound requests find the block unavailable: repointing (R367), a full block reset (R501), out of service
(R507). -/
def unavailable (s : State) : Bool :=
  s.sec.repointing || s.rst.oos || match s.rst.now with
    | some r => r.full
    | none => false

/-- A MALFORMED request freezes the enabled entry it used (R480). -/
def malformed (p kind : Nat) (f : Frame) (s : State) : State :=
  let i := f.addr / 2 ^ 40
  let t := match tget i s.mem.wins with
    | none => s
    | some w =>
      if !w.enabled then s
      else plumbRec { kind := 1, master := 5, bay := w.bay, reason := 0x40, unit := i, address := f.addr % 2 ^ 40, detail := f.src }
        { s with mem := { s.mem with wins := tput i { w with enabled := false, frozen := true, viol := (f.addr % 2 ^ 40, f.src) } s.mem.wins } }
  answer p kind f 3 [] t

/-- A request is denied under R404. -/
def denied (p kind : Nat) (f : Frame) (s : State) : State :=
  answer p kind f 1 [] { s with mem := { s.mem with denied := satAdd 0xFFFF s.mem.denied 1 } }

/-- An inbound request (`wr`: a WRITE, which reads only the blocks it covers in part, R363): unavailable, malformed (`bad`, or longer than 2,048 bytes), denied, poisoned, or served (R404, R426, R461). -/
def inbound (p kind op n : Nat) (wr bad : Bool) (env : Env) (f : Frame) (serve : Nat → Nat → State → State) (s : State) : State :=
  if unavailable s then answer p kind f 2 [] s
  else if bad || decide (2048 < f.data.length) then malformed p kind f s
  else match winCheck s f.src f.addr n op with
    | none => denied p kind f s
    | some (b, va) =>
      let t := (physRanges s b va n 0).foldl (fun u q => (if wr then mergeFailures else macFailures) b q.1 q.2.1 q.2.2 env u) s
      if (poisonVa t b va n).isSome then answer p kind f 1 [] t
      else serve b va t

/-- READ (R426). -/
def readReq (p : Nat) (f : Frame) (env : Env) (s : State) : State :=
  let n := fld f.data 0 2
  inbound p fkReadData 0 n false (decide (2048 < n)) env f (fun b va t =>
    answer p fkReadData f 0 ((readVa t b {} false va n).getD []) (countRange b va n false t)) s

/-- READ (R426). -/
def execRead (p : Nat) (fr : Frame) (env : Env) (s : State) : Host.Outcome State Fault Refusal :=
  onKw p s (run fpWork (recvFrame p fkRead fr (readReq p fr env)) s)

/-- WRITE (R426). -/
def writeReq (p : Nat) (f : Frame) (env : Env) (s : State) : State :=
  inbound p fkStatus 1 f.data.length true false env f (fun b va t =>
    answer p fkStatus f 0 [] (countRange b va f.data.length true (writeVa b va f.data t))) s

/-- WRITE (R426). -/
def execWrite (p : Nat) (fr : Frame) (env : Env) (s : State) : Host.Outcome State Fault Refusal :=
  onKw p s (run fpWork (recvFrame p fkWrite fr (writeReq p fr env)) s)

/-- Whether an ATOMIC names an operation and type of R425. -/
def atomicOk (op ty : Nat) : Bool := (op == 0 && (ty == 6 || ty == 3 || ty == 0)) || (decide (1 ≤ op ∧ op ≤ 4) && ty == 6)
/-- The bytes an ATOMIC updates. -/
def atomicBytes (ty : Nat) : Nat := if ty = 6 then 8 else 4

/-- The new value of an ATOMIC (R425). -/
def atomicNew (op ty old operand compare : Nat) : Nat :=
  let o : BitVec 64 := BitVec.ofNat 64 old
  let v : BitVec 64 := BitVec.ofNat 64 operand
  match op with
  | 0 =>
    if ty = 0 then (laneRound fp32 none (addV (lane (BitVec.ofNat 32 old)) (lane (BitVec.ofNat 32 operand)))).toNat
    else if ty = 3 then (old + operand) % 2 ^ 32
    else (o + v).toNat
  | 1 => v.toNat
  | 2 => if old = compare then v.toNat else old
  | 3 => if BitVec.slt v o then v.toNat else old
  | _ => if BitVec.slt o v then v.toNat else old

/-- ATOMIC (R425). -/
def atomicReq (p : Nat) (f : Frame) (env : Env) (s : State) : State :=
  let op := fld f.data 0 1
  let ty := fld f.data 1 1
  let n := atomicBytes ty
  let bad := f.data.length != 24 || !atomicOk op ty || f.addr % 8 != 0
  inbound p fkStatus 2 n false bad env f (fun b va t =>
    let old := leNat ((readVa t b {} false va n).getD [])
    let new := atomicNew op ty old (fld f.data 8 8) (fld f.data 16 8)
    answer p fkStatus f 0 (natLe 8 old) (countRange b va n true (countRange b va n false (writeVa b va (natLe n new) t)))) s

/-- ATOMIC (R425). -/
def execAtomic (p : Nat) (fr : Frame) (env : Env) (s : State) : Host.Outcome State Fault Refusal :=
  onKw p s (run fpWork (recvFrame p fkAtomic fr (atomicReq p fr env)) s)

/-- The bytes of a REDUCE's element. -/
def reduceBytes (ty : Nat) : Nat := if ty = 1 ∨ ty = 2 then 2 else 4
/-- An element updated by REDUCE: added as in R90, wrapped for INT32, or the smaller or larger of the two (R425). -/
def reduceElem (op ty old new : Nat) : Nat :=
  if ty = 3 then
    (match op with
     | 0 => (old + new) % 2 ^ 32
     | 1 => if BitVec.slt (BitVec.ofNat 32 new) (BitVec.ofNat 32 old) then new else old
     | _ => if BitVec.slt (BitVec.ofNat 32 old) (BitVec.ofNat 32 new) then new else old)
  else match fmtOfType ty with
    | none => old
    | some f =>
      let a := decodeF f old
      let b := decodeF f new
      encodeF f (roundTo f none (match op with
        | 0 => addV a b
        | 1 => minV a b
        | _ => maxV a b))

/-- REDUCE (R425). -/
def reduceReq (p : Nat) (f : Frame) (env : Env) (s : State) : State :=
  let op := fld f.data 0 1
  let ty := fld f.data 1 1
  let e := reduceBytes ty
  let es := f.data.drop 8
  let bad := decide (f.data.length < 16) || decide (2 < op) || decide (3 < ty) || f.addr % e != 0 || es.length % e != 0
  inbound p fkStatus 3 es.length false bad env f (fun b va t =>
    let old := (readVa t b {} false va es.length).getD []
    let new := (List.range (es.length / e)).flatMap fun i => natLe e (reduceElem op ty (fld old (i * e) e) (fld es (i * e) e))
    answer p fkStatus f 0 [] (countRange b va es.length true (countRange b va es.length false (writeVa b va new t)))) s

/-- REDUCE (R425). -/
def execReduce (p : Nat) (fr : Frame) (env : Env) (s : State) : Host.Outcome State Fault Refusal :=
  onKw p s (run fpWork (recvFrame p fkReduce fr (reduceReq p fr env)) s)

/-! ## The block's own requests -/

/-- A transaction's tag is free again. -/
def dropTxn (tag : Nat) (s : State) : State := { s with kw := { s.kw with txns := tdrop tag s.kw.txns } }

/-- A completion code for an answer's status (R415, R269). -/
def statusCode (st : Nat) : Nat := if st = 2 then 0x60 else 0x61

/-- Whether two requests touch a common 64-byte line (R423). -/
def sameLine (a b : Txn) : Bool :=
  a.dst == b.dst && overlaps (a.addr / 64 * 64) (ceilDiv (a.addr % 64 + max 1 a.len) 64 * 64)
    (b.addr / 64 * 64) (ceilDiv (b.addr % 64 + max 1 b.len) 64 * 64)

/-- The requests of a command's effects that are issued and not answered. -/
def effOut (s : State) (cid : Nat) : List Txn :=
  (s.kw.txns.map Prod.snd).filter fun t => match t.owner with
    | .effect c _ => c == cid
    | _ => false

/-- Issues the effects that may go: each only once every earlier effect of the command on an overlapping line has been
answered, while tags are free (R423), and none while the compute part is shored (R496). -/
def pumpEffects (cid : Nat) (s : State) : State :=
  match cmd? s cid with
  | none => s
  | some c =>
    if s.rst.shored then s
    else (c.effq.foldl (fun (p : State × List Txn) t =>
      if (freeTag p.1 c.bay).isNone || (p.2 ++ effOut p.1 cid).any (sameLine t) then (p.1, p.2 ++ [t])
      else (sendReq t p.1, p.2)) (s, [])) |> fun p => modCmd cid (fun c => { c with effq := p.2 }) p.1

/-- A command past its commit point completes once its copies are done and every remote effect is answered (R124). -/
def finishOwed (cid : Nat) (s : State) : State :=
  match cmd? s cid with
  | none => s
  | some c => if c.committed && !c.copyOwed && c.remoteLeft == 0 then finish cid c.code c.result false s else s

/-- A request of effect `idx` is answered: the effect is over with its last one (R124). -/
def effAnswered (cid idx status : Nat) (s : State) : State :=
  match cmd? s cid with
  | none => s
  | some c =>
    let e := tgetD idx c.effs (0, false)
    let failed := e.2 || status != 0
    let code := if status != 0 && c.code == 0 then statusCode status else c.code
    let t := modCmd cid (fun c => { c with
      effs := tput idx (e.1 - 1, failed) c.effs
      code := code
      remoteLeft := if e.1 = 1 then c.remoteLeft - 1 else c.remoteLeft
      remoteFailed := if e.1 = 1 ∧ failed then c.remoteFailed + 1 else c.remoteFailed }) s
    finishOwed cid (pumpEffects cid t)

/-- A read of a running command fails remotely: it is killed and completes with that code and its XLT record (R403). -/
def remoteReadFailed (cid : Nat) (a : Option Nat) (va status : Nat) (s : State) : State :=
  match cmd? s cid with
  | none => s
  | some c => killDone cid (statusCode status) true (cmdError c 0x04 (statusCode status) 0 va a 2 s)

/-- What an answered request does for its owner. -/
def ownerAnswered (t : Txn) (status : Nat) (data : List Byte) (s : State) : State :=
  match t.owner with
  | .effect cid idx => effAnswered cid idx status s
  | .own => pumpOwn 8192 s
  | .dma cid a tag =>
    if (ash s a).cid != cid || (tget tag (ash s a).tags).isNone then s
    else if status != 0 then remoteReadFailed cid (some a) t.va status s
    else pumpDma cid a tag (modAsh a (fun x => { x with
      tags := tmod tag {} (fun d => { d with got := mputs t.va data d.got, asked := d.asked - 1 }) x.tags }) s)

/-- Whether a READ is still wanted: a killed command's tag waits for nothing. -/
def stillWanted (s : State) (t : Txn) : Bool := match t.owner with
  | .dma cid a tag => (ash s a).cid == cid && (tget tag (ash s a).tags).isSome
  | _ => true

/-- The READ requests to be issued again go out while tags are free (R427). -/
def pumpAgain (s : State) : State :=
  s.kw.again.foldl (fun u t =>
    if !stillWanted u t then u
    else if (freeTag u t.bay).isNone then { u with kw := { u.kw with again := u.kw.again ++ [t] } }
    else sendReq t u) { s with kw := { s.kw with again := [] } }

/-- What of a bay waits for a tag is issued while tags are free (R422). -/
def pumpBay (b : Nat) (s : State) : State :=
  let t := each ((bayCmds s b).filter fun c => !c.effq.isEmpty) (fun c => pumpEffects c.cid) (pumpAgain s)
  let t := pumpOwn 8192 t
  each (t.grid.ashlars.filter fun e => (e.2.tags.any fun d => !d.2.todo.isEmpty) && (cmdD t e.2.cid).bay == b) (fun e t =>
    each (tkeys e.2.tags) (pumpDma e.2.cid e.1) t) t

/-- An answer arrives: dropped when no request has its tag (R427) or when its mark is stale (R428); else its tag is free
and its owner is served. -/
def answered (kind : Nat) (f : Frame) (s : State) : State :=
  match tget f.tag s.kw.txns with
  | none => s
  | some t =>
    if f.mark != s.kw.mark then dropTxn f.tag { s with kw := { s.kw with stale := satAdd 0xFFFF s.kw.stale 1 } }
    else if (kind == fkReadData) != (t.kind == fkRead) then s
    else pumpBay t.bay (ownerAnswered t (f.addr % 16) f.data (dropTxn f.tag s))

/-- READ_DATA (R427, R428). -/
def execReadData (p : Nat) (fr : Frame) (s : State) : Host.Outcome State Fault Refusal :=
  onKw p s (run fpWork (recvFrame p fkReadData fr (answered fkReadData fr)) s)

/-- REQUEST_TIMEOUT: a READ is issued again under a new tag, at most twice; anything else, and a READ timed out three
times, ends with ENDPOINT_UNAVAILABLE (R427). -/
def timedOut (tag : Nat) (s : State) : State :=
  match tget tag s.kw.txns with
  | none => s
  | some t =>
    let u := dropTxn tag s
    let u := { u with kw := { u.kw with timeout := satAdd 0xFFFF u.kw.timeout 1, cooling := tput tag u.rst.time u.kw.cooling } }
    if t.kind = fkRead ∧ t.tries < 3 then
      pumpAgain { u with kw := { u.kw with again := u.kw.again ++ [{ t with tries := t.tries + 1 }] } }
    else ownerAnswered t 2 [] u

/-- REQUEST_TIMEOUT (R427). -/
def execRequestTimeout (tag : Nat) (s : State) : Host.Outcome State Fault Refusal := run fpWork (timedOut tag) s

end Sys2Proof.Machine
end

