-- ==== Sys2Proof/Machine/Joints.lean ====
section
/-! DEFINITION. Joints and credits (R53 to R57), and the instructions of class 0x7: FENCE, SIGNAL, ENQ, HALT, TRAP and NOP
(R41, R65, R66, R122). -/
namespace Sys2Proof.Machine

/-- A joint rule broken (R485, reason 0x12). -/
def jointRule (a : Nat) : State → State := violation a 0x12 0 0

/-- The joint JCFG configures (R53). -/
def jointOf (w : W64) (x : Ashlar) : Joint :=
  let size := bits (xN w) 5 0 * 1024
  let sl := bits (xN w) 15 8
  { base := (gr x (xRa w)).toNat, size := size, slotLines := sl, slots := size / (sl * 64) }

/-- Whether JCFG may configure a joint (R53). -/
def jointOk (w : W64) (x : Ashlar) : Bool :=
  let j := jointOf w x
  (tget (xSel w) x.joints).isNone && decide (1 ≤ j.size) && decide (j.size ≤ 32768) && decide (1 ≤ j.slotLines) &&
    decide (j.slotLines ≤ 65) && decide (1 ≤ j.slots) && decide (j.base + j.size ≤ 0x80000) && !inJoint x j.base j.size

/-- JCFG (R53). -/
def execJcfg (a : Nat) (s : State) : Host.Outcome State Fault Refusal :=
  issue 0x600 a (fun w x t =>
    if (gr x (xRa w)).toNat % 64 != 0 then illegal a t
    else if jointOk w x then modAsh a (fun y => retire { y with joints := tput (xSel w) (jointOf w x) y.joints }) t
    else jointRule a t) s

/-- Slots of a joint already granted (R54). -/
def grantedOf (x : Ashlar) (j : Nat) : Nat :=
  ((x.grants.filter fun g => g.joint == j).map (·.count)).foldl (· + ·) 0

/-- Whether a grant record is the pair's. -/
def isPair (j dx dy : Nat) (g : Grant) : Bool := g.joint == j && g.dx == dx && g.dy == dy

/-- Whether GRANT of `n` credits succeeds (R54). -/
def grantOk (x : Ashlar) (j : Joint) (sel dx dy n : Nat) : Bool :=
  decide (grantedOf x sel + n ≤ j.slots) && (x.grants.any (isPair sel dx dy) || decide (x.grants.length < 64))

/-- `n` more slots granted to a pair (R54). -/
def addGrant (sel dx dy n : Nat) (gs : List Grant) : List Grant :=
  if gs.any (isPair sel dx dy) then modFirst (isPair sel dx dy) (fun g => { g with count := g.count + n }) gs
  else gs ++ [{ joint := sel, dx := dx, dy := dy, count := n }]

/-- `n` fewer slots granted to a pair; a record at 0 is removed (R55). -/
def subGrant (sel dx dy n : Nat) (gs : List Grant) : List Grant :=
  (modFirst (isPair sel dx dy) (fun g => { g with count := g.count - n }) gs).filter fun g => !(isPair sel dx dy g && g.count == 0)

/-- A CREDIT message for a pair: its payload carries the count and the slot payload size (R54), and the joint, which the header
of its kind cannot name (R48; log entry 11). -/
def sendCredit (a : Nat) (x : Ashlar) (sel dx dy n limit : Nat) (s : State) : State :=
  sendMsg { kind := 1, src := a, dst := absId x a dx dy, payload := natLe 2 n ++ natLe 2 limit ++ natLe 1 sel, cid := x.cid } s

/-- GRANT (R54). -/
def execGrant (a : Nat) (s : State) : Host.Outcome State Fault Refusal :=
  issue 0x601 a (fun w x t =>
    let p := unpackXy (gr x (xRa w))
    match tget (xSel w) x.joints with
    | none => jointRule a t
    | some j =>
      if !inPanel x p.1 p.2 then jointRule a t
      else if grantOk x j (xSel w) p.1 p.2 (xN w) then
        sendCredit a x (xSel w) p.1 p.2 (xN w) ((j.slotLines - 1) * 64)
          (modAsh a (fun y => retire (setG (xRd w) 1 { y with grants := addGrant (xSel w) p.1 p.2 (xN w) y.grants })) t)
      else modAsh a (fun y => retire (setG (xRd w) 0 y)) t) s

/-- What SEND and TSEND transmit (R56): the payload leaves the scratchpad, the credit is taken. -/
def sendGo (a : Nat) (w : W64) (x : Ashlar) (k : Credit) (f : Ashlar → Ashlar) (s : State) : State :=
  let p := unpackXy (gr x (xRa w))
  sendMsg { kind := 0, src := a, dst := absId x a p.1 p.2, joint := xSel w, seq := k.seq,
            payload := ldBytes x s.out.free (gr x (xRb w)).toNat (xN w), cid := x.cid }
    (drewN (xN w) (modAsh a (fun y => f (takeCreditTo p.1 p.2 (xSel w) y)) s))

/-- SEND or TSEND: `wait` tells what happens without a credit (R56); an n above the pair's payload limit, and so any above 4,096, is
found with the credit. The payload's lines are checked as they are read (R97). -/
def sendStep (a : Nat) (det : Bool) (wait : Ashlar → Ashlar) (done : W64 → Ashlar → Ashlar) (w : W64) (x : Ashlar) (s : State) : State :=
  let p := unpackXy (gr x (xRa w))
  if !inPanel x p.1 p.2 then jointRule a s
  else match creditOf x p.1 p.2 (xSel w) with
    | none => modAsh a wait s
    | some k =>
      if k.limit < xN w then jointRule a s
      else if 0x80000 < (gr x (xRb w)).toNat + xN w then illegal a s
      else if det && decide (0 < xN w) then lineDetect a (gr x (xRb w)).toNat s
      else sendGo a w x k (done w) s

/-- SEND (R56). -/
def execSend (a : Nat) (s : State) (det : Bool := false) : Host.Outcome State Fault Refusal :=
  issue 0x602 a (fun w x t => sendStep a det (stallFor .credit) (fun _ => retire) w x t) s

/-- TSEND (R56). -/
def execTsend (a : Nat) (s : State) (det : Bool := false) : Host.Outcome State Fault Refusal :=
  issue 0x603 a (fun w x t => sendStep a det (fun y => retire (setG (xRd w) 0 y))
    (fun v y => retire (setG (xRd v) 1 y)) w x t) s

/-- The address of slot `k` of a joint. -/
def slotAddr (j : Joint) (k : Nat) : Nat := j.base + k * j.slotLines * 64

/-- The fields WAITJ writes (R57); the payload address has 19 bits. -/
def waitjWord (j : Joint) (m : JMsg) : W64 :=
  BitVec.ofNat 64 ((slotAddr j m.slot + 64) % 2 ^ 19 + m.len * 2 ^ 32 + m.dx * 2 ^ 48 + m.dy * 2 ^ 56)

/-- WAITJ (R57). -/
def execWaitj (a : Nat) (s : State) : Host.Outcome State Fault Refusal :=
  issue 0x604 a (fun w x t =>
    match tget (xSel w) x.joints with
    | none => jointRule a t
    | some j =>
      match j.msgs with
      | [] => modAsh a (stallFor .joint) t
      | m :: _ => modAsh a (fun y => retire (setG (xRd w) (waitjWord j m) y)) t) s

/-- POP (R57): the head slot is free and its credit goes back to the source. -/
def execPop (a : Nat) (s : State) : Host.Outcome State Fault Refusal :=
  issue 0x605 a (fun w x t =>
    match tget (xSel w) x.joints with
    | none => jointRule a t
    | some j =>
      match j.msgs with
      | [] => jointRule a t
      | m :: rest =>
        sendCredit a x (xSel w) m.dx m.dy 1 ((j.slotLines - 1) * 64)
          (modAsh a (fun y => retire { y with joints := tput (xSel w) { j with msgs := rest } y.joints }) t)) s

/-- JPOLL (R57). -/
def execJpoll (a : Nat) (s : State) : Host.Outcome State Fault Refusal :=
  issue 0x606 a (fun w x t =>
    match tget (xSel w) x.joints with
    | none => jointRule a t
    | some j => modAsh a (fun y => retire (setG (xRd w) (BitVec.ofNat 64 j.msgs.length) y)) t) s

/-! ## Class 0x7 -/

/-- Whether the units of a FENCE mask have finished all earlier work (R41). -/
def fenceMet (n : Nat) (x : Ashlar) : Bool :=
  (!bit n 0 || x.mq.isEmpty) && (!bit n 1 || x.vq.isEmpty) && (!bit n 2 || x.tags.isEmpty)

/-- What a fence orders (R60, R61): the overwrites of the fenced units, which every later operation must see. -/
def fenced (n : Nat) (x : Ashlar) : Ashlar :=
  let gone := fun (u : Nat) => (u == 1 && bit n 0) || (u == 2 && bit n 1)
  let f := fun (α : Type) (o : Overwrite α) =>
    if gone o.writer && o.sure.isNone then { o with sure := some (x.serial + 1) } else o
  { x with hist := prune (unitsBusy x) (x.hist.map (f Byte)), ahist := prune (unitsBusy x) (x.ahist.map (f W32))
           serial := x.serial + 1 }

/-- FENCE (R41). -/
def execFence (a : Nat) (s : State) : Host.Outcome State Fault Refusal :=
  issueAsh 0x700 a (fun w x => if fenceMet (xN w) x then retire (fenced (xN w) x) else stallFor .fence x) s

/-- A record goes to the commit outbox by an OUTBOX message; beyond 512 records it is a violation (R41, R122). -/
def queueRecord (a : Nat) (x : Ashlar) (r : OutRec) (s : State) : State :=
  if 512 ≤ (cmdD s x.cid).outCount then violation a 0x14 0 0 s
  else sendCtl (.outbox r) a x.cid
    (modCmd x.cid (fun c => { c with outCount := c.outCount + 1 }) (modAsh a retire s))

/-- SIGNAL (R41, R253): an index beyond the bay's count is a program violation. -/
def execSignal (a : Nat) (s : State) : Host.Outcome State Fault Refusal :=
  issue 0x701 a (fun w x t =>
    let o := (gr x (xRa w)).toNat
    if syncPerBay t ≤ o then violation a 0x15 0 0 t
    else queueRecord a x (.signal o (gr x (xRb w)).toNat) t) s

/-- Whether a queue takes device-side entries (R255). -/
def isDevEnq (s : State) (b q : Nat) : Bool :=
  match queue? s b q with
  | some x => bit x.qflags 2
  | none => false

/-- ENQ (R41, R255, R270); the line of its entry is checked as it is read (R97). -/
def execEnq (a : Nat) (s : State) (det : Bool := false) : Host.Outcome State Fault Refusal :=
  issue 0x702 a (fun w x t =>
    let q := (gr x (xRa w)).toNat
    let addr := (gr x (xRb w)).toNat
    let b := (cmdD t x.cid).bay
    if addr % 64 != 0 || decide (0x80000 ≤ addr) then illegal a t
    else if !revAtLeast t b 2 || !isDevEnq t b q then violation a 0x15 0 0 t
    else if det then lineDetect a addr t
    else drewN 64 (queueRecord a x (.enq q (ldBytes x t.out.free addr 64)) t)) s

/-- An ashlar that has ended its program: sequencer stopped, joints unconfigured (R53, R65). -/
def haltAsh (x : Ashlar) : Ashlar :=
  { x with run := .halted, stall := .none, cycle := x.cycle + 1, joints := [], grants := [], credits := [], seqIn := [],
           hist := [], ahist := [], shadow := none, active := none }

/-- HALT (R65): waits for unit queues and tags, then stops and sends HALTED. -/
def execHalt (a : Nat) (s : State) : Host.Outcome State Fault Refusal :=
  issue 0x703 a (fun _ x t =>
    if !x.mq.isEmpty || !x.vq.isEmpty || !x.tags.isEmpty then modAsh a (stallFor .halt) t
    else sendCtl .halted a x.cid (modAsh a haltAsh t)) s

/-- TRAP: a program violation with code n (R41). -/
def execTrap (a : Nat) (s : State) : Host.Outcome State Fault Refusal :=
  issue 0x704 a (fun w _ t => violation a 0x13 (xN w) 0 t) s

/-- NOP (R41). -/
def execNop (a : Nat) (s : State) : Host.Outcome State Fault Refusal :=
  issueAsh 0x705 a (fun _ x => retire x) s

end Sys2Proof.Machine
end

