-- ==== Sys2Proof/Machine/Matrix.lean ====
section
/-! DEFINITION. The matrix instructions MLDW, MMA and MZERO (R40, R75 to R79): what issue does, and what the matrix unit
does with the operation at the head of its queue. -/
namespace Sys2Proof.Machine

/-- Bytes of an A row under depth `k` (R74). -/
def rowBytesOf (fmt k : Nat) : Nat := match mfmt fmt with
  | some f => k * f.width / 8
  | none => 0

/-- Whether a weight tile and its scales lie within the scratchpad (R66). -/
def tileInRange (w : W64) : Bool :=
  let k := depthK (mwFmt w)
  let mx := match mfmt (mwFmt w) with
    | some f => f.mx
    | none => false
  decide (mwLine w * 64 + 32 * rowBytesOf (mwFmt w) k ≤ 0x80000) && (!mx || decide (mwScale w * 64 + k ≤ 0x80000))

/-- Whether the A rows of an MMA and their scales lie within the scratchpad, for the depth its tile sets. -/
def rowsInRange (w : W64) (k : Nat) : Bool :=
  let mx := match mfmt (maFmt w) with
    | some f => f.mx
    | none => false
  decide (maLine w * 64 + maRows w * rowBytesOf (maFmt w) k ≤ 0x80000) &&
    (!mx || decide (maScale w * 64 + maRows w * (k / 32) ≤ 0x80000))

/-- The accumulator rows an MMA or MZERO names: 1 to 512 of them, none beyond the file (R40). -/
def accRowsOk (w : W64) : Bool := decide (1 ≤ maRows w) && decide (maAcc w + maRows w ≤ 512)

/-- The tile an MMA would use: with swap the one in the shadow buffer, else the active one (R40). -/
def tileFor (x : Ashlar) (w : W64) : Option Tile := if maSwap w then x.shadow else x.active

/-- Whether the matrix unit refuses the operation at the head of its queue (R40, R66): no tile, a pairing R39 does not
permit, or operands out of range. -/
def headIllegal (x : Ashlar) : Bool :=
  match x.mq with
  | [] => false
  | o :: _ =>
    if codeOf o.word != 0x301 then false
    else match tileFor x o.word with
      | none => true
      | some t => !pairing (maFmt o.word) t.bfmt || !rowsInRange o.word (depthK t.bfmt)

/-- The unit looks at the operation that has reached the head of its queue. -/
def headCheck (a : Nat) (s : State) : State := if headIllegal (ash s a) then illegal a s else s

/-- A matrix instruction is handed to the unit's queue of 8; the sequencer stalls while it is full (R34). -/
def matrixIssue (a : Nat) (w : W64) (x : Ashlar) (s : State) : State :=
  if 8 ≤ x.mq.length then modAsh a (stallFor .queue) s
  else headCheck a (modAsh a (fun y => retire { y with mq := y.mq ++ [{ word := w, h0 := y.serial }] }) s)

/-- MLDW (R40). -/
def execMldw (a : Nat) (s : State) : Host.Outcome State Fault Refusal :=
  issue 0x300 a (fun w x t => if tileInRange w then matrixIssue a w x t else illegal a t) s

/-- MMA (R40). -/
def execMma (a : Nat) (s : State) : Host.Outcome State Fault Refusal :=
  issue 0x301 a (fun w x t => if accRowsOk w then matrixIssue a w x t else illegal a t) s

/-- MZERO (R40). -/
def execMzero (a : Nat) (s : State) : Host.Outcome State Fault Refusal :=
  issue 0x302 a (fun w x t => if accRowsOk w then matrixIssue a w x t else illegal a t) s

/-! ## What the unit does -/

/-- MLDW fills the shadow buffer. -/
def doMldw (o : MatOp) (inc : Nat → Byte) (k : Nat) (x : Ashlar) : Ashlar :=
  let w := o.word
  let d := depthK (mwFmt w)
  let mx := match mfmt (mwFmt w) with
    | some f => f.mx
    | none => false
  { x with shadow := some {
      bfmt := mwFmt w
      elems := seenBytes x inc 1 o.h0 k (mwLine w * 64) (32 * rowBytesOf (mwFmt w) d)
      scales := if mx then seenBytes x inc 1 o.h0 k (mwScale w * 64) d else [] } }

/-- The scale factor exponent of a group: the sum of both operands' exponents, none for NaN (R70, R75, R79). -/
def groupScale (aMx bMx : Bool) (sa sb : Byte) : Option Int :=
  match (if aMx then scaleExp sa else some 0), (if bMx then scaleExp sb else some 0) with
  | some p, some q => some (p + q)
  | _, _ => none

/-- One accumulator entry after an MMA row (R75 to R79): `ar` and `bc` are the element codes of the A row and of the
weight column, `as` and `bs` their scales. -/
def mmaEntry (afmt bfmt : Nat) (ar bc : List Nat) (as bs : List Byte) (old : Option W32) (order : Nat) : W32 :=
  match mfmt afmt, mfmt bfmt with
  | some fa, some fb =>
    let groups := ar.length / 32
    let gs := List.range groups
    let sc := fun g => groupScale fa.mx fb.mx (as.getD g 0) (bs.getD g 0)
    let cut := fun (l : List Nat) g => (l.drop (32 * g)).take 32
    if fa.int then
      let sum := gs.foldl (fun t g => t + groupInt (sc g) ((cut ar g).map elemInt) ((cut bc g).map elemInt)) (0 : Int)
      BitVec.ofInt 32 sum + old.getD 0
    else
      accSum order old (gs.map fun g =>
        groupFp (afmt == 6 && bfmt == 6) (sc g) ((cut ar g).map (elemVal afmt)) ((cut bc g).map (elemVal bfmt)))
  | _, _ => old.getD 0

/-- One A row against a tile: 32 new entries for accumulator row `r`. -/
def mmaRow (x : Ashlar) (o : MatOp) (t : Tile) (inc : Nat → Byte) (k i : Nat) : List W32 :=
  let w := o.word
  let d := depthK t.bfmt
  let rb := rowBytesOf (maFmt w) d
  let cb := rowBytesOf t.bfmt d
  let wa := match mfmt (maFmt w) with
    | some f => f.width
    | none => 8
  let wb := match mfmt t.bfmt with
    | some f => f.width
    | none => 8
  let ar := unpack wa d (seenBytes x inc 1 o.h0 k (maLine w * 64 + i * rb) rb)
  let as := seenBytes x inc 1 o.h0 k (maScale w * 64 + i * (d / 32)) (d / 32)
  (List.range 32).map fun c =>
    let bc := unpack wb d ((t.elems.drop (c * cb)).take cb)
    let bs := (t.scales.drop (c * (d / 32))).take (d / 32)
    let r := maAcc w + i
    let old := if maZero w then none else some (seenAcc x 1 o.h0 (k + 2 ^ 27) r c)
    mmaEntry (maFmt w) t.bfmt ar bc as bs old (Config.free (k + 2 ^ 28 + 32 * i + c)).toNat

/-- MMA streams its A rows (R40): rows are read before any is written, each row's sums go to its accumulator row. -/
def doMma (o : MatOp) (inc : Nat → Byte) (k : Nat) (x : Ashlar) : Ashlar :=
  match tileFor x o.word with
  | none => x
  | some t =>
    let y := if maSwap o.word then { x with shadow := none, active := some t } else x
    (List.range (maRows o.word)).foldl (fun z i => accWr 1 (maAcc o.word + i) (mmaRow x o t inc k i) z) y

/-- MZERO writes +0 into its rows (R40). -/
def doMzero (o : MatOp) (x : Ashlar) : Ashlar :=
  (List.range (maRows o.word)).foldl (fun z i => accWr 1 (maAcc o.word + i) (List.replicate 32 0) z) x

/-- The operation at the head of the matrix queue takes effect and leaves the queue. -/
def matrixDo (inc : Nat → Byte) (k : Nat) (x : Ashlar) : Ashlar :=
  match x.mq with
  | [] => x
  | o :: rest =>
    let y := if codeOf o.word = 0x300 then doMldw o inc k x else if codeOf o.word = 0x301 then doMma o inc k x else doMzero o x
    { y with mq := rest }

end Sys2Proof.Machine
end

