-- ==== Sys2Proof/Machine/Mortar.lean ====
section
/-! DEFINITION. What happens in the grid besides instructions: unit operations complete (R34, R99), messages arrive (R50,
R55, R57, R604), control messages arrive, are acknowledged and repeated (R49, R50), images are loaded (R31), a panel is
drained (R65). -/
namespace Sys2Proof.Machine

/-! ## UNIT_OP_COMPLETE -/

/-- Whether a VST at the head of the vector queue would write a joint's region (R58). -/
def vstJoint (x : Ashlar) : Bool :=
  match x.vq with
  | [] => false
  | o :: _ => codeOf o.word == 0x401 && inJoint x (vAddr o.base o.word) (64 * elemBytes (vType o.word))

/-- What reads that are not done bring to the scratchpad bytes of an ashlar (R60). -/
def unitIncoming (s : State) (a : Nat) : Nat → Byte := incoming s (cmdD s (ash s a).cid).bay (ash s a) s.out.free

/-- The matrix or vector unit finishes the operation at the head of its queue (R34), or a check fires in it (R99, R455). -/
def unitDone (a : Nat) (u : VUnit) (det : Option Nat) (s : State) : State :=
  let x := ash s a
  if x.run != .running then s
  else
    let empty := match u with
      | .matrix => x.mq.isEmpty
      | .vector => x.vq.isEmpty
    if empty then s
    else match det with
      | some cause => ashDetect a cause (if cause = 2 then 2 else 1) (a * 0x80000) s
      | none =>
        match u with
        | .matrix => headCheck a (drewN (2 ^ 28 + 2 ^ 15) (modAsh a (matrixDo (unitIncoming s a) s.out.free) s))
        | .vector => if vstJoint x then jointRule a s else drewN (2 ^ 27) (modAsh a (vectorDo (unitIncoming s a) s.out.free) s)

/-- UNIT_OP_COMPLETE (R34). -/
def execUnitOpComplete (a : Nat) (u : VUnit) (det : Option Nat) (s : State) : Host.Outcome State Fault Refusal :=
  onUnit (decide (a < ashlars s)) "ashlar" (run fpWork (unitDone a u det) s)

/-! ## Messages of programs -/

/-- Message `i` of the network. -/
def netMsg (s : State) (i : Nat) : Option MMsg := s.grid.net[i]?
/-- The network without message `i`. -/
def netDrop (i : Nat) (s : State) : State := { s with grid := { s.grid with net := s.grid.net.eraseIdx i } }

/-- Whether message `i` is the oldest of its kind in flight of its source, destination and joint (R59); the spec orders no CREDIT. -/
def oldestOfPair (s : State) (i : Nat) (m : MMsg) : Bool :=
  m.kind == 1 || !(s.grid.net.take i).any fun k => k.kind == m.kind && k.src == m.src && k.dst == m.dst && k.joint == m.joint

/-- What the receiver sees: the message as sent, or what arrived in its place. -/
def received (m : MMsg) : Option Rx → Rx
  | none => { hdr := mortarHdr m.kind m.dst m.src m.joint m.seq m.payload, payload := m.payload }
  | some r => r

/-- The kind field of a header (R48). -/
def hKind (h : W64) : Nat := wf h 35 32
/-- The seq field. -/
def hSeq (h : W64) : Nat := wf h 18 16
/-- The joint field. -/
def hJoint (h : W64) : Nat := wf h 39 36
/-- The src field. -/
def hSrc (h : W64) : Nat := wf h 50 40

/-- Whether a header is malformed: CRC, reserved kind, or a vc that does not match (R50). -/
def badHeader (r : Rx) : Bool :=
  mortarCrc r.hdr.toNat r.payload != r.hdr.toNat % 65536 || vcOf (hKind r.hdr) != some (wf r.hdr 63 62) ||
    wf r.hdr 31 19 != r.payload.length

/-- A discarded message is counted in GRID_MORTAR_ERR (R28, R50). -/
def countBad (seqGap : Bool) (s : State) : State :=
  let g := s.grid
  { s with grid := if seqGap then { g with seqErr := satAdd 0xFFFF g.seqErr 1 } else { g with crcErr := satAdd 0xFFFF g.crcErr 1 } }

/-- A message is discarded and counted; the command it belongs to is re-run (R50, R455 cause 4). -/
def discardMsg (a : Nat) (seqGap : Bool) (c : Nat) (s : State) : State := detect c 4 (some a) 1 (a * 0x80000) (countBad seqGap s)

/-- The bytes of a slot as a message fills it: the header line, then whole payload lines zero filled (R57, R98). -/
def slotBytes (h : W64) (payload : List Byte) : List Byte :=
  padTo 64 (natLe 8 h.toNat) ++ padTo ((payload.length + 63) / 64 * 64) payload

/-- A message is written into the next slot of its joint (R57). -/
def intoJoint (r : Rx) (x : Ashlar) (a : Nat) (j : Joint) : Ashlar :=
  let src := hSrc r.hdr
  let m : JMsg := { slot := j.head, len := r.payload.length, dx := src % 32 - (a % 32 - x.px), dy := src / 32 - (a / 32 - x.py) }
  let y := spadWr 3 (slotAddr j j.head) (slotBytes r.hdr r.payload) x
  { y with
    joints := tput (hJoint r.hdr) { j with head := (j.head + 1) % j.slots, msgs := j.msgs ++ [m] } y.joints
    seqIn := tput (seqKey src (hJoint r.hdr)) ((hSeq r.hdr + 1) % 8) y.seqIn }

/-- A MSG or DMA_CPL arrives (R50, R57, R604). At an ashlar that has halted it is discarded uncounted before its header is looked
at: R604 goes before R50 there (log entry 12). -/
def arrive (kind i : Nat) (rx : Option Rx) (s : State) : State :=
  match netMsg s i with
  | none => s
  | some m =>
    if m.kind != kind || !oldestOfPair s i m then s
    else
      let a := m.dst
      let x := ash s a
      let t := netDrop i s
      let r := received m rx
      if x.cid != m.cid || x.run != .running then t
      else if badHeader r || hKind r.hdr != kind then discardMsg a false m.cid t
      else if hSeq r.hdr != tgetD (seqKey (hSrc r.hdr) (hJoint r.hdr)) x.seqIn 0 then discardMsg a true m.cid t
      else match tget (hJoint r.hdr) x.joints with
        | none => t
        | some j => modAsh a (fun y => intoJoint r y a j) t

/-- MSG (R57). -/
def execMsg (i : Nat) (rx : Option Rx) (s : State) : Host.Outcome State Fault Refusal := run fpWork (arrive 0 i rx) s

/-- DMA_CPL (R45): a completion notice takes a slot and carries no payload. -/
def execDmaCpl (i : Nat) (rx : Option Rx) (s : State) : Host.Outcome State Fault Refusal := run fpWork (arrive 2 i rx) s

/-- Credits of a joint taken into the sender's table (R55), none where it refuses them. -/
def creditIn (dx dy j n limit seq : Nat) (cs : List Credit) : Option (List Credit) :=
  if cs.any fun k => k.dx == dx && k.dy == dy && k.joint == j then
    some (modFirst (fun k => k.dx == dx && k.dy == dy && k.joint == j) (fun k => { k with count := k.count + n, limit := limit }) cs)
  else
    let e : Credit := { dx := dx, dy := dy, joint := j, count := n, limit := limit, seq := seq }
    if cs.length < 64 then some (cs ++ [e])
    else if cs.any fun k => k.count == 0 then some (modFirst (fun k => k.count == 0) (fun _ => e) cs)
    else none

/-- CREDIT arrives (R55, R604). -/
def creditArrive (i : Nat) (rx : Option Rx) (s : State) : State :=
  match netMsg s i with
  | none => s
  | some m =>
    if m.kind != 1 then s
    else
      let a := m.dst
      let x := ash s a
      let t := netDrop i s
      let r := received m rx
      if x.cid != m.cid || x.run != .running then t
      else if badHeader r || hKind r.hdr != 1 then discardMsg a false m.cid t
      else
        let g := m.src
        let j := fld r.payload 4 1
        let dx := g % 32 - (a % 32 - x.px)
        let dy := g / 32 - (a / 32 - x.py)
        let n := fld r.payload 0 2
        match creditIn dx dy j n (fld r.payload 2 2) (freshSeq s a g j) x.credits with
        | some cs => modAsh a (fun y => { y with credits := cs }) t
        | none => modAsh g (fun y => { y with grants := subGrant j x.px x.py n y.grants, grefused := y.grefused + 1 }) t

/-- CREDIT (R55). -/
def execCredit (i : Nat) (rx : Option Rx) (s : State) : Host.Outcome State Fault Refusal := run fpWork (creditArrive i rx) s

/-! ## Control messages -/

/-- Control message `i`. -/
def ctl? (s : State) (i : Nat) : Option Ctl := tget i s.grid.ctl
/-- Control message `i` has arrived: its receiver owes CTL_ACK. -/
def ctlArrived (i : Nat) (s : State) : State :=
  match ctl? s i with
  | none => s
  | some k => { s with grid := { s.grid with ctl := tput i { k with arrived := true } s.grid.ctl } }

/-- The arguments of a command as START writes them: 256 bytes (R32, R241). -/
def argBytes (c : Cmd) : List Byte := padTo 256 (c.desc.args.take c.desc.argLen)

/-- Accumulator and scratchpad at START: a command without a context starts from zeros (R138); the argument window holds
the arguments (R32), and prod, cons and total of a walk ring are 0 (R184). -/
def startMem (c : Cmd) (x : Ashlar) : Ashlar :=
  if ctxOf c = 0 then { x with spad := mputs 0x7FF00 (argBytes c) [], acc := [], journal := [] }
  else
    let y := { x with journal := [] }
    let y := match c.walk with
      | some w => spadWr 3 w.ring (List.replicate 24 0) { y with ctx := true }
      | none => y
    { y with spad := mputs 0x7FF00 (argBytes c) y.spad }

/-- The state of an ashlar at START (R32, R33, R86). -/
def startAsh (c : Cmd) (a : Nat) (x : Ashlar) : Ashlar :=
  let px := a % 32 - c.x0
  let py := a / 32 - c.y0
  startMem c { x with
    run := .running, stall := .none, cid := c.cid, px := px, py := py, pw := wOf c, ph := hOf c
    g := [(1, 0x7FF00)], v := [], pc := 0, cycle := 0, bound := boundOf c, rerun := c.reruns, seedLo := c.seedLo
    grefused := 0, rng := rngSeed c.seedLo c.seedHi (py * wOf c + px), mq := [], vq := [], shadow := none, active := none
    tags := [], joints := [], grants := [], credits := [], seqIn := [], hist := [], ahist := []
    ctx := ctxOf c != 0 }

/-- START arrives at an ashlar (R32). -/
def startArrive (i : Nat) (s : State) : State :=
  match ctl? s i with
  | none => s
  | some k =>
    if k.kind != .start || k.arrived then s
    else
      let t := ctlArrived i s
      match cmd? s k.cid with
      | none => t
      | some c => if c.st == .running then modAsh k.a (startAsh c k.a) t else t

/-- START (R32). -/
def execStart (i : Nat) (s : State) : Host.Outcome State Fault Refusal := run fpWork (startArrive i) s

/-- KILL arrives at an ashlar: it stops if it still runs the command (R65). -/
def killArrive (i : Nat) (s : State) : State :=
  match ctl? s i with
  | none => s
  | some k =>
    if k.kind != .kill || k.arrived then s
    else
      let t := ctlArrived i s
      if (ash s k.a).cid = k.cid && (ash s k.a).run == .running && (cmdD s k.cid).st != .running then modAsh k.a stopAsh t else t

/-- KILL (R65). -/
def execKill (i : Nat) (s : State) : Host.Outcome State Fault Refusal := run fpWork (killArrive i) s

/-- OUTBOX arrives at the control corner: its record joins the command's outbox (R120). -/
def outboxArrive (i : Nat) (s : State) : State :=
  match ctl? s i with
  | none => s
  | some k =>
    match k.kind with
    | .outbox r => if k.arrived then s else modCmd k.cid (fun c => { c with outbox := c.outbox ++ [r] }) (ctlArrived i s)
    | _ => s

/-- OUTBOX (R120). -/
def execOutbox (i : Nat) (s : State) : Host.Outcome State Fault Refusal := run fpWork (outboxArrive i) s

/-- HALTED arrives: the ashlar has ended its program (R65). -/
def haltedArrive (i : Nat) (s : State) : State :=
  match ctl? s i with
  | none => s
  | some k =>
    if k.kind != .halted || k.arrived then s
    else modCmd k.cid (fun c => { c with halted := sput k.a c.halted }) (ctlArrived i s)

/-- HALTED (R65). -/
def execHalted (i : Nat) (s : State) : Host.Outcome State Fault Refusal := run fpWork (haltedArrive i) s

/-- CTL_ACK arrives at the sender of a control message that was received: it is repeated no more (R50). -/
def ackArrive (i : Nat) (s : State) : State :=
  match ctl? s i with
  | none => s
  | some k => if k.arrived then { s with grid := { s.grid with ctl := tdrop i s.grid.ctl } } else s

/-- CTL_ACK (R50). -/
def execCtlAck (i : Nat) (s : State) : Host.Outcome State Fault Refusal := run fpWork (ackArrive i) s

/-- Whether the control message or its acknowledgement was discarded for its CRC or header, and counted, or is only late: a free
value (R28, R50). -/
def lostCtl (s : State) : State :=
  if (freeVal s).toNat % 2 = 1 then
    drewFree { s with grid := { s.grid with crcErr := satAdd 0xFFFF s.grid.crcErr 1 } }
  else drewFree s

/-- 2,048 clocks without CTL_ACK: sent again at most twice; a third loss is a hard fault, cause 8 (R50, R455). -/
def resendCtl (i : Nat) (s : State) : State :=
  match ctl? s i with
  | none => s
  | some k =>
    let s := lostCtl s
    if k.resent < 2 then { s with grid := { s.grid with ctl := tput i { k with resent := k.resent + 1 } s.grid.ctl } }
    else
      let t := { s with grid := { s.grid with ctl := tdrop i s.grid.ctl } }
      match cmd? t k.cid with
      | some c =>
        if c.committed || c.st == .anchored || c.st == .frozen then hardFault 8 c.bay (c.detAt ++ [k.a]) (countDet 8 t)
        else detect k.cid 8 (some k.a) 1 (k.a * 0x80000) t
      | none => hardFault 8 (bayOfAsh s k.a) [k.a] t

/-- CTL_RESEND_TIMEOUT (R50). -/
def execCtlResendTimeout (i : Nat) (s : State) : Host.Outcome State Fault Refusal := run fpWork (resendCtl i) s

/-! ## Panels and images -/

/-- Whether a panel is drained: every ashlar has halted, no traffic of the command is left and no tag is busy (R65). -/
def drained (s : State) (c : Cmd) : Bool :=
  c.st == .running && isLaunch c && c.placed && (panelIds c).all (c.halted.contains ·) &&
    !s.grid.net.any (fun m => m.cid == c.cid) && !s.grid.ctl.any (fun k => k.2.cid == c.cid && !k.2.arrived)

/-- PANEL_DRAINED: the command has run to its end and is COMMITTING (R65, R113, R123). -/
def execPanelDrained (cid : Nat) (s : State) : Host.Outcome State Fault Refusal :=
  run fpWork (onlyIf (fun t => drained t (cmdD t cid)) (modCmd cid fun c => { c with st := .committing })) s

/-- The digest of a program image. -/
def imageDigest (ws : List W64) : BitVec 384 := Config.sha384 (ws.flatMap fun w => natLe 8 w.toNat)

/-- An entry of a measurement log extends its chain (R345, R346); the raw log keeps the first 1,000. -/
def logEntry (kind b model size : Nat) (digest : BitVec 384) (l : MLog) : MLog :=
  let e := natLe 1 kind ++ natLe 1 b ++ natLe 2 model ++ natLe 4 (l.count + 1) ++ natLe 4 size ++ natLe 4 0 ++
    natLe 48 digest.toNat
  { chain := Config.sha384 (natLe 48 l.chain.toNat ++ e), count := l.count + 1
    entries := if l.entries.length < 1000 then l.entries ++ [e] else l.entries
    seen := if kind = 1 then (b, digest) :: l.seen else l.seen }

/-- The program log after an image is loaded for a bay: an entry the first time (R346). -/
def logProgram (b model size : Nat) (digest : BitVec 384) (s : State) : State :=
  if s.sec.progLog.seen.contains (b, digest) then s
  else { s with sec := { s.sec with progLog := logEntry 1 b model size digest s.sec.progLog } }

/-- The words of an image in its bytes. -/
def wordsOf (bs : List Byte) : List W64 := (List.range (bs.length / 8)).map fun i => BitVec.ofNat 64 (fld bs (8 * i) 8)

/-- An ashlar's instruction memory loaded. -/
def loadImem (ws : List W64) (x : Ashlar) : Ashlar :=
  { x with imem := (ws.foldl (fun (p : Nat × Tbl W64) w => (p.1 + 1, if w = 0 then p.2 else tput p.1 w p.2)) (0, [])).2
           imgLen := ws.length, img := some (imageDigest ws) }

/-- The image is on every ashlar of the panel: START goes out (R31, R106). -/
def startPanel (c : Nat) (s : State) : State :=
  each (panelIds (cmdD s c)) (fun a t => sendCtl .start a c t) (modCmd c (fun x => { x with loading := false }) s)

/-- An image load ends: the words reach every ashlar of the panel, or the load faults (R31, R386). -/
def imageLoaded (cid : Nat) (env : Env) (s : State) : State :=
  match cmd? s cid with
  | none => s
  | some c =>
    if !c.loading || c.st != .running then s
    else
      let n := 8 * c.desc.imageInstr
      let va := cf c 0x18 8
      if c.words.isEmpty && hostWaits s c.bay va n 1 then s
      else match env.det, (if c.words.isEmpty then firstFaultIn false s c.bay va n 1 (tlbHit s c.bay 0) else none) with
      | some cause, _ => detect cid cause (panelIds c).head? 1 0 s
      | none, some f => faultCmd cid f.1 f.2 0 s
      | none, none =>
        match (if c.words.isEmpty then (readVa s c.bay env true va n).map wordsOf else some c.words) with
        | none => killDone cid 0x33 true (cmdError c 0x04 0x33 0 (badByte s c.bay env true va n) none 2 s)
        | some ws =>
          let s := if c.words.isEmpty then tlbFill c.bay 0 (foundPages s c.bay [(va, n)] 1 (tlbHit s c.bay 0)) s else s
          let t := each (panelIds c) (fun a t => modAsh a (loadImem ws) t) s
          startPanel cid (logProgram c.bay 0xFFFF ws.length (imageDigest ws) (countRange c.bay va n false (if c.words.isEmpty then askVa c.bay va n t else t)))

/-- IMAGE_LOAD_COMPLETE (R31). -/
def execImageLoadComplete (cid : Nat) (env : Env) (s : State) : Host.Outcome State Fault Refusal :=
  run fpWork (imageLoaded cid env) s

end Sys2Proof.Machine
end

