-- ==== Sys2Proof/Machine/Collective.lean ====
section
/-! DEFINITION. The commands of a collective in progress (R434 to R446): slices between panel and arch unit, agreement
messages, chunks, acknowledgements, probes and abandonment. -/
namespace Sys2Proof.Machine

/-! ## The panel level (ARCH_DATA stands after the chunks it releases) -/

/-- The panel index of an ashlar. -/
def panelIndex (c : Cmd) (a : Nat) : Nat := (a / 32 - c.y0) * wOf c + (a % 32 - c.x0)

/-- The arch unit reads an ashlar's input slice (R432, R441). -/
def gather (x : ColCtx) (a : Nat) (s : State) : State :=
  let q := panelIndex x.c a
  let n := sliceBytes x.c (colIn x.c x.g.members x.g.rank)
  if x.k.gathered.contains q then s
  else modCol x.c.cid (fun k => { k with
    inp := mputs (q * n) (mread (ash s a).spad (cf x.c 0x30 4) n) k.inp, gathered := q :: k.gathered }) s

/-- The arch unit writes an ashlar's output slice, once its bytes are finished; the write is journalled (R139, R434). -/
def scatter (x : ColCtx) (a : Nat) (s : State) : State :=
  let q := panelIndex x.c a
  let n := sliceBytes x.c (colOut x.c x.g.members)
  let v := x.k.verdict
  let ready := (v == .inSwitch || v == .endpoint) && (colSmall x || x.k.got.length == (recvsOf x v).length)
  if !ready || x.k.scattered.contains q then s
  else modCol x.c.cid (fun k => { k with scattered := q :: k.scattered })
    (modAsh a (spadWr 3 (cf x.c 0x34 4) (mread x.k.out (q * n) n)) s)

/-- ARCH_CTL: a control message of the arch unit arrives at a mortar port; a damaged one is discarded and counted (R49, R50), and of
the kinds whose loss re-runs the command it is none. -/
def execArchCtl (a _cid : Nat) (rx : Option Rx) (s : State) : Host.Outcome State Fault Refusal :=
  onUnit (decide (a < ashlars s)) "ashlar" (run fpWork (fun t => match rx with
    | some r => if badHeader r || hKind r.hdr != 4 then countBad false t else t
    | none => t) s)

/-! ## Matching (R439) -/

/-- The group a COL_ frame names. -/
def frameGroup (s : State) (f : Frame) : Option (Nat × Group) := groupById s (f.addr / 2 ^ 20)
/-- The sequence number modulo 16 a COL_ frame names. -/
def frameSeq (f : Frame) : Nat := f.addr / 2 ^ 16 % 16

/-- The collective in progress a COL_ frame belongs to: the oldest of the group with that sequence number that has
started. -/
def frameCol (s : State) (f : Frame) : Option Nat :=
  match frameGroup s f with
  | none => none
  | some (i, _) => (s.cmds.all.find? fun e => (e.2.st == .running || e.2.st == .anchored || e.2.st == .committing) &&
      match e.2.col with
      | some k => k.grp == i && k.seq % 16 == frameSeq f
      | none => false).map Prod.fst

/-! ## COL_HS -/

/-- A child's report. -/
def childOf (r : Nat) (f : Frame) : ChildHs :=
  { rank := r, hash := BitVec.ofNat 64 (fld f.data 0 8), cap := fld f.data 8 1 == 1, data := f.data.drop 9 }

/-- COL_HS arrives: from the parent it is the verdict, from a child its report, kept for a sequence number that has not
started (R436, R439). A verdict that comes before this member has started its number is passed on at once, and MISMATCH, which needs no
COL_HS of this member (R438), waits for the start: AGREE does need one. A member that has started and not yet sent its COL_HS ends at
MISMATCH. -/
def keepVerdict (i q v : Nat) (s : State) : State :=
  if v = 0 then modGroup i (fun g => { g with verdicts := sput q g.verdicts }) s else s

/-- COL_HS arrives (R436, R438, R439). -/
def colHsGo (f : Frame) (s : State) : State :=
  match frameGroup s f with
  | none => s
  | some (i, g) =>
    let r := rankOf g f.src
    if g.rank != 0 && r == parentOf g then
      (match frameCol s f with
       | some cid =>
         if (cmdD s cid).st == .anchored || ((cmdD s cid).st == .running && fld f.data 0 1 == 0) then
           applyVerdict cid (fld f.data 0 1) (f.data.drop 1) s
         else s
       | none => hsDown g (frameSeq f) (fld f.data 0 1) (f.data.drop 1) (keepVerdict i (frameSeq f) (fld f.data 0 1) s))
    else if !(childrenOf g).contains r then s
    else match frameCol s f with
      | some cid => tryHs cid (modCol cid (fun k => { k with children := k.children ++ [childOf r f] }) s)
      | none => modGroup i (fun g => { g with early := g.early ++ [(frameSeq f, childOf r f)] }) s

/-- COL_HS (R436). -/
def execColHs (p : Nat) (fr : Frame) (s : State) : Host.Outcome State Fault Refusal :=
  onKw p s (run fpWork (recvFrame p fkColHs fr (colHsGo fr)) s)

/-! ## Chunks -/

/-- The receive of the plan a chunk frame belongs to: the first of its sender's not yet complete whose number ends in the
frame's. -/
def recvIndex (x : ColCtx) (peer xi : Nat) : Option Nat :=
  let l := recvsOf x x.k.verdict
  (List.range l.length).find? fun i => match l[i]? with
    | some q => q.peer == peer && peerIndex l i % 256 == xi && !x.k.got.contains i
    | none => false

/-- A complete chunk enters the buffers: partial sums are added to the own contribution, the last of them rounded once;
finished bytes are kept (R441, R442). -/
def absorb (x : ColCtx) (q : Xfer) (data : List Byte) (k : Col) : Col :=
  let t := cf x.c 0x1D 1
  let n := dtBytes t
  let v := x.k.verdict
  let p := chunkSpan x v q
  if q.stage = 0 then
    let ws := (List.range p.2).map fun j =>
      (p.1 + j, redOp t (colRed x.c) (BitVec.ofNat 32 (fld data (4 * j) 4)) (ownElem x (p.1 + j)))
    let last := q.step + 2 == x.g.members
    { k with
      part := ws.foldl (fun m w => tput w.1 w.2 m) k.part
      out := if last then ws.foldl (fun m w => mputs (outElem x v q w.1 * n) (redOut t w.2) m) k.out else k.out }
  else { k with out := mputs (outElem x v q p.1 * n) data k.out }

/-- The bytes a chunk has on the wire. -/
def chunkLen (x : ColCtx) (q : Xfer) : Nat := (chunkSpan x x.k.verdict q).2 * wireBytes x q.stage

/-- COL_ACK or COL_NAK for a chunk (R443). -/
def ackChunk (g : Group) (p kind : Nat) (f : Frame) (s : State) : State :=
  portSend p (colStaged g { kind := kind, vc := 1, dst := f.src, src := s.kw.ep, tag := f.tag / 32 * 32, addr := f.addr / 2 ^ 16 * 2 ^ 16 }) s

/-- COL_DATA: a frame of a chunk (R441, R443). A chunk complete and checked is acknowledged; a detection asks for it again. -/
def colDataGo (p : Nat) (f : Frame) (err : Bool) (s : State) : State :=
  match (frameCol s f).bind (colCtx s) with
  | none => s
  | some x =>
    let peer := rankOf x.g f.src
    let xi := f.tag / 32 % 256
    let key := peer * 256 + xi
    match recvIndex x peer xi with
    | none => ackChunk x.g p fkColAck f s
    | some i =>
      if err then ackChunk x.g p fkColNak f (modCol x.c.cid (fun k => { k with slots := tdrop key k.slots }) s)
      else
        let have_ := tgetD key x.k.slots []
        if have_.length != 2048 * (f.tag % 32) then s
        else
          let data := have_ ++ f.data
          match (recvsOf x x.k.verdict)[i]? with
          | none => s
          | some q =>
            if data.length < chunkLen x q then modCol x.c.cid (fun k => { k with slots := tput key data k.slots }) s
            else if !allGathered x then
              (if x.k.held.any fun h => h.2.src == f.src && h.2.tag == f.tag then s
               else modCol x.c.cid (fun k => { k with held := k.held ++ [(p, f)] }) s)
            else
              let t := modCol x.c.cid (fun k => absorb x q data { k with slots := tdrop key k.slots, got := sput i k.got }) s
              colFinish x.c.cid (pumpAll x.c.cid (ackChunk x.g p fkColAck f t))

/-- COL_DATA (R441). -/
def execColData (p : Nat) (fr : Frame) (err : Bool) (s : State) : Host.Outcome State Fault Refusal :=
  onKw p s (run fpWork (recvFrame p fkColData fr (colDataGo p fr err)) s)

/-- A chunk that had to wait for the member's own input enters now (R441): sums need the own contribution. -/
def releaseHeld (cid : Nat) (s : State) : State :=
  match colCtx s cid with
  | none => s
  | some x => each x.k.held (fun h => colDataGo h.1 h.2 false) (modCol cid (fun k => { k with held := [] }) s)

/-- The whole input is gathered: the data phase goes on from it. -/
def inputReady (cid : Nat) (s : State) : State :=
  match colCtx s cid with
  | none => s
  | some x =>
    if !allGathered x || x.k.verdict == .none || colSmall x then s
    else pumpAll cid (releaseHeld cid (modCol cid (fun k => { k with out := initOut x }) s))

/-- ARCH_DATA: a slice moves between the arch unit and an ashlar (R49, R441). A damaged message is discarded; before
anchoring its detection re-runs the command, after it the arch unit asks for the slice again (R443, R455, R459). The same holds of an
error in the arch unit's own reduction, which an anchored collective repeats (R443); either way the row has no other effect. -/
def archDataGo (cid a : Nat) (toPanel : Bool) (rx : Option Rx) (err : Bool) (s : State) : State :=
  match colCtx s cid with
  | none => s
  | some x =>
    if !(panelIds x.c).contains a || !(x.c.st == .running || x.c.st == .anchored) then s
    else match rx with
      | some r =>
        if badHeader r then
          let t := detect cid 4 (some a) 1 (a * 0x80000) s
          { t with grid := { t.grid with crcErr := satAdd 0xFFFF t.grid.crcErr 1 } }
        else s
      | none =>
        if err then
          (if x.c.st == .anchored then { s with arch := { s.arch with retries := satAdd 0xFFFFFFFF s.arch.retries 1 } } else detect cid 6 none 4 0 s)
        else if toPanel then colFinish cid (scatter x a s)
        else if x.k.gathered.contains (panelIndex x.c a) then s
        else
          let t := tryHs cid (gather x a s)
          if inBytes x == 0 then t else inputReady cid t

/-- ARCH_DATA (R49); `err` tells that the arch unit's residue check fires (R97, R455 cause 6). -/
def execArchData (cid a : Nat) (toPanel : Bool) (rx : Option Rx) (s : State) (err : Bool := false) : Host.Outcome State Fault Refusal :=
  onUnit (decide (a < ashlars s)) "ashlar" (run fpWork (archDataGo cid a toPanel rx err) s)

/-- COL_ACK: the chunk is at its receiver (R443). -/
def colAckGo (f : Frame) (s : State) : State :=
  match (frameCol s f).bind (colCtx s) with
  | none => s
  | some x =>
    let peer := rankOf x.g f.src
    colFinish x.c.cid (pumpAll x.c.cid (modCol x.c.cid (fun k => { k with
      sent := k.sent.filter fun q => !(q.dst == peer && q.xfer % 256 == f.tag / 32 % 256) }) s))

/-- COL_ACK (R443). -/
def execColAck (p : Nat) (fr : Frame) (s : State) : Host.Outcome State Fault Refusal :=
  onKw p s (run fpWork (recvFrame p fkColAck fr (colAckGo fr)) s)

/-- A chunk is sent again; after the eighth failed attempt the member gives up (R443). -/
def resendChunk (cid dst xi : Nat) (s : State) : State :=
  match colCtx s cid with
  | none => s
  | some x =>
    match x.k.sent.find? fun q => q.dst == dst && q.xfer % 256 == xi % 256 with
    | none => s
    | some q =>
      if 8 ≤ q.tries then colAbandon cid 0x52 s
      else
        let t := modCol cid (fun k => { k with
          sent := modFirst (fun r => r.dst == dst && r.xfer == q.xfer) (fun r => { r with tries := r.tries + 1 }) k.sent }) s
        let t := { t with arch := { t.arch with retries := satAdd 0xFFFFFFFF t.arch.retries 1 } }
        chunkFrames x.g x.k.seq q.kind q.dst q.xfer q.num q.data t

/-- COL_NAK: the chunk is sent again (R443). -/
def colNakGo (f : Frame) (s : State) : State :=
  match (frameCol s f).bind (colCtx s) with
  | none => s
  | some x => resendChunk x.c.cid (rankOf x.g f.src) (f.tag / 32) s

/-- COL_NAK (R443). -/
def execColNak (p : Nat) (fr : Frame) (s : State) : Host.Outcome State Fault Refusal :=
  onKw p s (run fpWork (recvFrame p fkColNak fr (colNakGo fr)) s)

/-- CHUNK_RESEND_TIMEOUT: no answer within 20 µs, or an answer that the endpoint is unavailable (R443). -/
def execChunkResendTimeout (cid dst chunk : Nat) (s : State) : Host.Outcome State Fault Refusal :=
  run fpWork (resendChunk cid dst chunk) s

/-! ## Liveness and abandonment -/

/-- COL_ABANDON: forwarded to the members not told yet; the collective ends with its code, the first one deciding
(R445). -/
def colAbandonGo (f : Frame) (s : State) : State :=
  match frameGroup s f with
  | none => s
  | some (i, g) =>
    if g.abandoned.any fun e => e.1 == frameSeq f then s
    else
      let t := abandonAll i (frameSeq f) (f.addr % 2 ^ 16) s
      match frameCol s f with
      | some cid => if (cmdD s cid).st == .committing then t else colEnd cid (f.addr % 2 ^ 16) t
      | none => t

/-- COL_ABANDON (R445). -/
def execColAbandon (p : Nat) (fr : Frame) (s : State) : Host.Outcome State Fault Refusal :=
  onKw p s (run fpWork (recvFrame p fkColAbandon fr (colAbandonGo fr)) s)

/-- The bay of the group a probe names. -/
def probeBay (s : State) (f : Frame) : Nat :=
  match frameGroup s f with
  | some e => e.2.bay
  | none => 16

/-- COL_PROBE: answered with status 0, or as unavailable while repointing (R367, R444). -/
def execColProbe (p : Nat) (fr : Frame) (s : State) : Host.Outcome State Fault Refusal :=
  onKw p s (run fpWork (recvFrame p fkColProbe fr fun t =>
    answerFor (probeBay t fr) p fkStatus fr (if unavailable t then 2 else 0) [] t) s)

/-- COL_ISR: contributions are for switch trees; the block takes none (R415). -/
def execColIsr (p : Nat) (fr : Frame) (s : State) : Host.Outcome State Fault Refusal :=
  onKw p s (run fpWork (recvFrame p fkColIsr fr id) s)

/-- Whether a member waits for a message of a peer after its first COL_HS (R444). -/
def waitsFor (x : ColCtx) (peer : Nat) : Bool :=
  x.c.st == .anchored &&
    (if x.k.verdict == .none then x.g.rank != 0 && peer == parentOf x.g
     else x.k.sent.any (·.dst == peer) ||
       (List.range (recvsOf x x.k.verdict).length).any fun i => !x.k.got.contains i && match (recvsOf x x.k.verdict)[i]? with
         | some q => q.peer == peer
         | none => false)

/-- COL_PROBE_TIMER: a waiting member probes its peer; after eight probes in a row that found it unavailable the
collective ends (R444). -/
def probe (cid peer : Nat) (bad : Bool) (s : State) : State :=
  match colCtx s cid with
  | none => s
  | some x =>
    if !waitsFor x peer then s
    else
      let n := if bad then tgetD peer x.k.probes 0 + 1 else 0
      if 8 ≤ n then colAbandon cid 0x51 s
      else colMsg fkColProbe (peerEp x.g peer) x.g.gid x.k.seq 0 [] (modCol cid (fun k => { k with probes := tput peer n k.probes }) s)

/-- COL_PROBE_TIMER (R444). -/
def execColProbeTimer (cid peer : Nat) (unavailable : Bool) (s : State) : Host.Outcome State Fault Refusal :=
  run fpWork (probe cid peer unavailable) s

/-- STATUS: the answer to a WRITE, ATOMIC or REDUCE (R427); an ENDPOINT_UNAVAILABLE for a chunk has it sent again (R443). -/
def statusGo (f : Frame) (s : State) : State :=
  match tget f.tag s.kw.txns with
  | some _ => answered fkStatus f s
  | none =>
    if f.addr % 16 != 2 then s
    else match s.cmds.all.findSome? fun e => match colCtx s e.1 with
      | some x => if x.k.sent.any fun q => peerEp x.g q.dst == f.src && q.xfer % 256 == f.tag / 32 % 256 then some (e.1, rankOf x.g f.src) else none
      | none => none with
      | some (cid, peer) => resendChunk cid peer (f.tag / 32) s
      | none => s

/-- STATUS (R427). -/
def execStatus (p : Nat) (fr : Frame) (s : State) : Host.Outcome State Fault Refusal :=
  onKw p s (run fpWork (recvFrame p fkStatus fr (statusGo fr)) s)

end Sys2Proof.Machine
end

