-- ==== Sys2Proof/Machine/MemCmds.lean ====
section
/-! DEFINITION. MAP, UNMAP and INVALIDATE (R387, R388, R396). -/
namespace Sys2Proof.Machine

/-! ## Ranges of pages -/

/-- The target `k` pages on. -/
def shiftTgt (k : Nat) : Target → Target
  | .host iova => .host (iova + k * 4096)
  | .remote ep w off => .remote ep w (off + k * 4096)

/-- Whether pages `[p, p + n)` and `[q, q + m)` meet. -/
def pagesMeet (p n q m : Nat) : Bool := overlaps p n q m

/-- The part of a mapped run outside `[p, p + n)`. -/
def mapOutside (p n : Nat) (r : MapRange) : List MapRange :=
  if !pagesMeet p n r.page r.pages then [r]
  else
    (if r.page < p then [{ r with pages := p - r.page }] else []) ++
    (if p + n < r.page + r.pages then
      [{ r with page := p + n, pages := r.page + r.pages - (p + n), tgt := shiftTgt (p + n - r.page) r.tgt }] else [])

/-- The part of a mapped run inside `[p, p + n)`, as pages awaiting invalidation. -/
def mapInside (p n : Nat) (r : MapRange) : List Awaiting :=
  if !pagesMeet p n r.page r.pages then []
  else
    let a := max p r.page
    [{ page := a, pages := min (p + n) (r.page + r.pages) - a, tgt := some (shiftTgt (a - r.page) r.tgt), perm := r.perm }]

/-- The part of a run awaiting invalidation outside `[p, p + n)`. -/
def waitOutside (p n : Nat) (r : Awaiting) : List Awaiting :=
  if !pagesMeet p n r.page r.pages then [r]
  else
    (if r.page < p then [{ r with pages := p - r.page }] else []) ++
    (if p + n < r.page + r.pages then
      [{ r with page := p + n, pages := r.page + r.pages - (p + n), tgt := r.tgt.map (shiftTgt (p + n - r.page)) }] else [])

/-! ## MAP -/

/-- The entries of a bay's translation tables in use: one per placed extent, one per mapped page (R387). -/
def tableUsed (m : BayMem) : Nat := m.extents.length + (m.maps.map (·.pages)).foldl (· + ·) 0
/-- The entries of a bay's partition (R387). -/
def tableSize (s : State) : Nat := (if isF s then 536870912 else 268435456) / s.bays.count

/-- Whether two targets of `n` and `m` pages share a page. -/
def targetsMeet (n m : Nat) : Target → Target → Bool
  | .host a, .host b => overlaps a (n * 4096) b (m * 4096)
  | .remote e w o, .remote f v p => e == f && w == v && overlaps o (n * 4096) p (m * 4096)
  | _, _ => false

/-- The target a MAP of kind 1 or 2 names (R246). -/
def mapTarget (c : Cmd) : Target :=
  if cf c 6 1 = 1 then .host (cf c 0x28 8)
  else .remote (bits (cf c 0x28 8) 11 0) (bits (cf c 0x28 8) 23 12) (cf c 0x30 8)

/-- Why a MAP is refused (R387), none where it may go on. -/
def mapRefusal (s : State) (c : Cmd) : Option Nat :=
  let m := (bay s c.bay).mem
  let va := cf c 0x18 8
  let n := cf c 0x20 8
  let kind := cf c 6 1
  let p := va / 4096
  let k := n / 4096
  if decide (2 ^ 48 < va + n) || cf c 7 1 == 0 || (kind == 2 && cf c 0x30 8 % 4096 != 0) then some 0x23
  else if (m.extents.any fun e => pagesMeet p k (e.1 * 512) 512) || (m.maps.any fun r => pagesMeet p k r.page r.pages) ||
      (kind != 0 && m.maps.any fun r => targetsMeet k r.pages (mapTarget c) r.tgt) then some 0x23
  else if m.awaiting.any fun r => pagesMeet p k r.page r.pages then some 0x28
  else if tableSize s < tableUsed m + (if kind = 0 then n / 2 ^ 21 else k) then some 0x34
  else none

/-- The fault records a completed MAP resolves: those whose page is now mapped with the permission needed (R400). -/
def mapResolves (b : Nat) (s : State) : State :=
  ((bay s b).mem.faults.filter fun e => e.2.cause != 4 && match xlate s b e.2.page e.2.need false with
    | .ok _ => true
    | .fault _ => false).foldl (fun t e => resolveFault b e.1 t) s

/-- MAP (R199, R387). -/
def mapGo (c : Cmd) (s : State) : State :=
  let b := c.bay
  let va := cf c 0x18 8
  let n := cf c 0x20 8
  match mapRefusal s c with
  | some code => ctlDone c.cid code 0 false s
  | none =>
    if cf c 6 1 = 0 then
      match placeAll b (cf c 7 1) ((List.range (n / 2 ^ 21)).map (· + va / 2 ^ 21)) s with
      | none => ctlDone c.cid 0x34 0 false s
      | some t => ctlDone c.cid 0 0 false (mapResolves b t)
    else
      let r : MapRange := { page := va / 4096, pages := n / 4096, perm := cf c 7 1, tgt := mapTarget c }
      ctlDone c.cid 0 0 false (mapResolves b (modBm b (fun m => { m with maps := m.maps ++ [r] }) s))

/-- MAP (R387). -/
def execMap (cid : Nat) (s : State) : Host.Outcome State Fault Refusal := ctl 0x20 cid mapGo s

/-! ## UNMAP -/

/-- An extent is unmapped: a move of it ends, and its pages await invalidation (R204, R388). -/
def unmapExtent (b e : Nat) (s : State) : State :=
  let t := abandonMove b e s
  match extent? t b e with
  | none => t
  | some x => modBm b (fun m => { m with
      extents := tdrop e m.extents
      awaiting := m.awaiting ++ [{ page := e * 512, pages := 512, home := some x.home, perm := x.perm }] }) t

/-- UNMAP (R388). -/
def unmapGo (c : Cmd) (s : State) : State :=
  let b := c.bay
  let p := cf c 0x18 8 / 4096
  let k := cf c 0x20 8 / 4096
  let hit := (bay s b).mem.extents.filter fun e => pagesMeet p k (e.1 * 512) 512
  if hit.any fun e => !within p k (e.1 * 512) 512 then ctlDone c.cid 0x23 0 false s
  else
    let t := each (tkeys hit) (unmapExtent b) s
    let t := modBm b (fun m => { m with
      maps := m.maps.flatMap (mapOutside p k)
      awaiting := m.awaiting ++ m.maps.flatMap (mapInside p k) }) t
    ctlDone c.cid 0 0 false t

/-- UNMAP (R388). -/
def execUnmap (cid : Nat) (s : State) : Host.Outcome State Fault Refusal := ctl 0x21 cid unmapGo s

/-! ## INVALIDATE -/

/-- The targets that pages `[p, p + k)` of a bay map or mapped: device page, host page. -/
def hostPagesIn (m : BayMem) (p k : Nat) : List (Nat × Nat) :=
  let one (page pages : Nat) (t : Target) : List (Nat × Nat) :=
    match t with
    | .host iova =>
      let a := max p page
      (List.range (min (p + k) (page + pages) - a)).map fun i => (a + i, iova / 4096 + (a - page) + i)
    | .remote _ _ _ => []
  (m.maps.filter fun r => pagesMeet p k r.page r.pages).flatMap (fun r => one r.page r.pages r.tgt) ++
    (m.awaiting.filter fun r => pagesMeet p k r.page r.pages).flatMap fun r => match r.tgt with
      | some t => one r.page r.pages t
      | none => []

/-- The device pages whose translations a command holds: those checked at its START and those of its transfers under way,
of an image load and of an engine's write. -/
def heldPages (s : State) (c : Cmd) : List Nat :=
  let rows := ((panelIds c).flatMap fun a => ((ash s a).tags.map Prod.snd).flatMap fun x => memRows x.d) ++
    (if c.loading then [(cf c 0x18 8, 8 * c.desc.imageInstr)] else []) ++
    (if opc c = opQuoin then (qport s (wOf c)).writes.map fun w => (w.va, w.left) else [])
  c.transPages.map (· / 4096) ++ c.hostPages.map (fun p => p.1 / 4096) ++ rows.flatMap fun r => (pagesOf r.1 r.2).map (·.1 / 4096)

/-- Whether INVALIDATE kills a command (R396 step 3): it is running or committing, not anchored or past its commit point,
and holds a removed translation, or a mover of its panel caches one. -/
def invHits (s : State) (kind p k : Nat) (c : Cmd) : Bool :=
  let host := (hostPagesIn (bay s c.bay).mem p k).map (·.1)
  let held := (heldPages s c).filter fun q => decide (p ≤ q ∧ q < p + k) && (bit kind 0 || host.contains q)
  isEngineCmd c && !c.committed && (c.st == .running || c.st == .committing) &&
    (!held.isEmpty || (bit kind 0 && isLaunch c && c.st == .running && (panelIds c).any fun a => (ash s a).tlb.any fun q => decide (p ≤ q ∧ q < p + k)))

/-- The pages of a range leave every cache of R389 (R396 step 1). -/
def tlbDrop (b p k : Nat) (s : State) : State :=
  let out (l : List Nat) : List Nat := l.filter fun q => !decide (p ≤ q ∧ q < p + k)
  each (shareIds s b) (fun a t => if (ash t a).tlb.isEmpty then t else modAsh a (fun x => { x with tlb := out x.tlb }) t)
    (modBm b (fun m => { m with tlbs := tmap (fun _ l => out l) m.tlbs }) s)

/-- Steps 1 to 3 of INVALIDATE. -/
def invKill (kind p k : Nat) (c : Cmd) (s : State) : State :=
  let b := c.bay
  let host := hostPagesIn (bay s b).mem p k
  let hit := (bayCmds s b).filter (invHits s kind p k)
  let t := if bit kind 0 then tlbDrop b p k s else s
  let t := if bit kind 1 then modBm b (fun m => { m with atc := m.atc.filter fun e => !(host.any fun h => h.2 == e.1) }) t else t
  let t := each (hit.map (·.cid)) killReady t
  if bit kind 1 then
    { t with cmds := { t.cmds with all := tmap (fun _ x =>
        if x.bay = b ∧ x.committed = false then
          { x with hostPages := x.hostPages.filter fun h => !(host.any fun g => g.1 == h.1 / 4096) } else x) t.cmds.all } }
  else t

/-- Whether a post-commit copy still uses a translation of the range that was removed (step 4): with bit 1 alone, one of a host page. -/
def copyHolds (s : State) (b kind p k : Nat) : Bool :=
  let host := (hostPagesIn (bay s b).mem p k).map (·.1)
  (bayCmds s b).any fun c => c.committed && c.copyOwed &&
    c.desc.outs.any fun r => (pagesOf r.va r.len).any fun g =>
      decide (p ≤ g.1 / 4096 ∧ g.1 / 4096 < p + k) && (bit kind 0 || host.contains (g.1 / 4096))

/-- Step 5: pages of the range wait no longer; a frame no page of which waits any more is zeroed and freed. -/
def invFree (b p k : Nat) (s : State) : State :=
  let m := (bay s b).mem
  let rest := m.awaiting.flatMap (waitOutside p k)
  let freed := (m.awaiting.filterMap (·.home)).filter fun h => !(rest.any fun r => r.home == some h)
  freed.foldl (fun t h => zeroHome b h t) (modBm b (fun m => { m with awaiting := rest }) s)

/-- ATS invalidations that no post-commit copy holds any more are answered (R395). -/
def flushInval (b : Nat) (s : State) : State :=
  each (bay s b).mem.inval (fun r t =>
    let dev := ((bay t b).mem.maps.filterMap fun m => match m.tgt with
      | .host iova => if overlaps (iova / 4096) m.pages r.1 r.2 then some (m.page, m.pages) else none
      | .remote _ _ _ => none)
    if dev.any fun d => copyHolds t b 3 d.1 d.2 then t
    else emit (.atsInvalidated (b + 1) r.1 (reqT t (b + 1))) (modBm b (fun m => { m with inval := m.inval.filter (· != r) }) t)) s

/-- INVALIDATE (R396): its kills happen once, then it waits for copies that hold a translation, and this row runs again. -/
def invalidateGo (c : Cmd) (s : State) : State :=
  let p := cf c 0x18 8 / 4096
  let k := cf c 0x20 8 / 4096
  let kind := cf c 6 1
  if kind = 0 then ctlDone c.cid 0x23 0 false s
  else
    let t := if c.gen = 0 then modCmd c.cid (fun c => { c with gen := 1 }) (invKill kind p k c s) else s
    if copyHolds t c.bay kind p k then t
    else ctlDone c.cid 0 0 false (if bit kind 0 then invFree c.bay p k t else t)

/-- INVALIDATE (R396). -/
def execInvalidate (cid : Nat) (s : State) : Host.Outcome State Fault Refusal := ctl 0x22 cid invalidateGo s

end Sys2Proof.Machine
end

