-- ==== Sys2Proof/Machine/Streams.lean ====
section
/-! DEFINITION. Streams and slabs as the rows share them (R155 to R191): descriptors, rows and frames of the slab map, the
bytes of slabs, poisoning, and how a stream leaves a batch or is lost. -/
namespace Sys2Proof.Machine

/-! ## Models and partitions -/

/-- A bay's stream indices and slab-map entries (R155, R165). -/
def streamsPerBay (s : State) : Nat := streamEntries s / s.bays.count
def slabsPerBay (s : State) : Nat := slabEntries s / s.bays.count
/-- The cache entries a bay may hold (R156). -/
def cacheShare (s : State) : Nat := 16384 / s.bays.count

/-- The loaded model with an ID. -/
def model? (s : State) (b id : Nat) : Option Model := (bay s b).strm.models.find? fun m => m.id == id && !m.loading
/-- The model of a stream's main or buttress list. -/
def listModel (s : State) (b : Nat) (k : Stream) (butt : Bool) : Option Model := model? s b (if butt then k.buttressId else k.modelId)

/-! ## The stream cache (R156) -/

/-- Whether a descriptor may not be evicted. -/
def pinnedStream (s : State) (b k : Nat) : Bool := (stream s b k).state == .stepping || (stream s b k).state == .filling

/-- A descriptor is touched: it enters the bay's share of the cache, the least recently used one leaving. -/
def touchStream (b k : Nat) (dirty : Bool) (s : State) : State :=
  let l := (bay s b).strm.cache
  match l.find? fun e => e.1 == k with
  | some e => modSt b (fun y => { y with cache := (k, e.2 || dirty) :: l.filter fun e => e.1 != k }) s
  | none =>
    let t := { s with mem := { s.mem with cacheMiss := satAdd 0xFFFF s.mem.cacheMiss 1 } }
    if l.length < cacheShare s then modSt b (fun y => { y with cache := (k, dirty) :: l }) t
    else match l.reverse.find? fun e => !pinnedStream s b e.1 with
      | none => t
      | some v =>
        let t := if v.2 then { t with mem := { t.mem with cacheWb := satAdd 0xFFFF t.mem.cacheWb 1 } } else t
        modSt b (fun y => { y with cache := (k, dirty) :: l.filter fun e => e.1 != v.1 }) t

/-- The slab-map entries a bay may hold in the slab-map cache (R165, R312). -/
def mapCacheShare (s : State) : Nat := 65536 / s.bays.count

/-- Slab-map entries are resolved or written: they are in the bay's share of the slab-map cache, the least recently used leaving it. -/
def touchSlabs (b : Nat) (is : List Nat) (s : State) : State :=
  modSt b (fun y => { y with mapCache := (is ++ y.mapCache.filter fun i => !is.contains i).take (mapCacheShare s) }) s

/-! ## Rows (R167, R168) -/

/-- No row. -/
def noRow : Nat := 0xFFFFFFFF

/-- The first row of a stream's list; a FREE or LOST stream has none (R160, R190). -/
def firstRow (k : Stream) (butt : Bool) : Nat :=
  if k.state = .free ∨ k.state = .lost then noRow else if butt then k.bRoot else k.root

/-- The `i`-th row of a list from row `r`. -/
def rowFrom (s : State) (b : Nat) : Nat → Nat → Option Nat
  | 0, r => if r = noRow then none else some r
  | i + 1, r => if r = noRow ∨ (slab s b r).last then none else rowFrom s b i (slab s b r).nextRow

/-- The row of a stream's list for positions from 256 s. -/
def rowAt (s : State) (b strm : Nat) (butt : Bool) (i : Nat) : Option Nat :=
  rowFrom s b i (firstRow (stream s b strm) butt)

/-- The rows of a list, at most `n` of them. -/
def rowsFrom (s : State) (b : Nat) : Nat → Nat → List Nat
  | 0, _ => []
  | n + 1, r => if r = noRow then [] else r :: (if (slab s b r).last then [] else rowsFrom s b n (slab s b r).nextRow)

/-- The rows of a stream's list in ascending order. -/
def listRows (s : State) (b strm : Nat) (butt : Bool) : List Nat :=
  rowsFrom s b (slabsPerBay s) (firstRow (stream s b strm) butt)

/-- A run of `n` free entries at or above `lo`. -/
def freeRun (s : State) (b n lo : Nat) : Option Nat :=
  let used := tkeys ((bay s b).strm.slabs.filter fun e => e.2.loc != .free)
  let cand := lo :: (used.map (· + 1)).filter fun i => decide (lo ≤ i)
  (cand.filter fun i => decide (i + n ≤ slabsPerBay s) && !used.any fun u => decide (i ≤ u ∧ u < i + n)).foldl
    (fun m i => match m with
      | none => some i
      | some j => some (min i j)) none

/-- A pointer to row `o` now names row `n`. -/
def rename (o n r : Nat) : Nat := if r = o then n else r

/-- A row of `len` entries moves from `o` to `n`; no slab data moves (R168). -/
def moveRow (b o n len : Nat) (s : State) : State :=
  let es := (List.range len).map fun i => slab s b (o + i)
  modSt b (fun y =>
    let cleared := y.slabs.filter fun e => !(decide (o ≤ e.1) && decide (e.1 < o + len))
    let put := (es.foldl (fun (p : Nat × Tbl Slab) e => (p.1 + 1, tput (n + p.1) e p.2)) (0, cleared)).2
    { y with
      slabs := tmap (fun _ e => { e with nextRow := rename o n e.nextRow }) put
      streams := tmap (fun _ k => { k with root := rename o n k.root, tail := rename o n k.tail
                                           bRoot := rename o n k.bRoot, bTail := rename o n k.bTail }) y.streams }) s

/-- Every row that may move: start and length (R168). -/
def movableRows (s : State) (b : Nat) : List (Nat × Nat) :=
  (bay s b).strm.streams.flatMap fun e =>
    if pinnedStream s b e.1 || e.2.state == .lost then []
    else [false, true].flatMap fun butt => match listModel s b e.2 butt with
      | some m => (listRows s b e.1 butt).map fun r => (r, m.layers)
      | none => []

/-- Firmware compacts a partition: each movable row goes to the lowest run that holds it (R168). -/
def compact (b : Nat) (s : State) : State :=
  ((movableRows s b).mergeSort fun x y => decide (x.1 ≤ y.1)).foldl (fun t r =>
    match freeRun t b r.2 0 with
    | some n => if n < r.1 then moveRow b r.1 n r.2 t else t
    | none => t) s

/-- Between lifts firmware compacts the partitions in which an allocation waits for it (R168; log entry 64). -/
def compactWanted (s : State) : State :=
  each (List.range s.bays.count) (fun b => onlyIf (fun t => (bay t b).strm.wantRun) fun t =>
    modSt b (fun y => { y with wantRun := false, mapCache := [] }) (compact b t)) s

/-! ## Frames (R164, R170, R171) -/

/-- The bytes of a slab's frame. -/
def frameBytes (s : State) (b : Nat) (e : Slab) : Nat :=
  match listModel s b (stream s b e.stream) e.buttress with
  | some m => slabBytes m
  | none => 4096

/-- The frames in use, as address and bytes: those of the entries and those of moves under way. -/
def usedRanges (s : State) (b : Nat) : List (Nat × Nat) :=
  (bay s b).strm.slabs.flatMap fun e =>
    if e.2.loc = .free then []
    else
      let n := frameBytes s b e.2
      (e.2.vaPage * 4096, n) :: (match e.2.moving with
        | some a => [(a, n)]
        | none => [])

/-- A frame of `n` bytes of the KV pool: each extent holds frames of one size, and larger frames take whole extents. -/
def poolFrame (s : State) (b n : Nat) : Option Nat :=
  let used := usedRanges s b
  let ext := 2 ^ 21
  let per := max 1 (ext / n)
  let span := ceilDiv n ext
  let free (e : Nat) : Option Nat :=
    let here := used.filter fun u => overlaps (kvBase + e * ext) (span * ext) u.1 u.2
    if ext < n then (if here.isEmpty then some (kvBase + e * ext) else none)
    else if here.all fun u => u.2 == n then
      ((List.range per).map fun i => kvBase + e * ext + i * n).find? fun a => !here.any fun u => u.1 == a
    else none
  (List.range ((bay s b).strm.pool.length + 1 - span)).findSome? free

/-- A frame of `n` bytes of a spill range. -/
def spillFrame (s : State) (b n : Nat) (r : Spill) : Option Nat :=
  let used := (usedRanges s b).filter fun u => overlaps r.va r.size u.1 u.2
  let cand := (r.va :: used.map fun u => u.1 + u.2).map (fun a => ceilDiv a 4096 * 4096) |>.filter fun a => decide (a + n ≤ r.va + r.size)
  cand.find? fun a => !used.any fun u => overlaps a n u.1 u.2

/-- The slabs of a stream that are on their way into the pool. -/
def movingIn (s : State) (b strm : Nat) : Nat :=
  ((bay s b).strm.slabs.filter fun e => e.2.stream == strm && e.2.spill && (e.2.moving.any fun a => decide (kvBase ≤ a))).length

/-- The first location with room (R171): address, and the spill range where it is one. Slabs on their way into the pool count toward
the quota. -/
def frameFor (s : State) (b strm n : Nat) : Option (Nat × Option Nat) :=
  let k := stream s b strm
  let pool := if k.quota = 0 ∨ k.hbmSlabs + movingIn s b strm < k.quota then poolFrame s b n else none
  match pool with
  | some a => some (a, none)
  | none => (bay s b).strm.spills.findSome? fun e =>
      if e.2.removing.isSome then none else (spillFrame s b n e.2).map fun a => (a, some e.1)

/-- The slabs of a stream count as in the pool or spilled (R157). -/
def recount (b strm : Nat) (s : State) : State :=
  let mine := (bay s b).strm.slabs.filter fun e => e.2.loc != .free && e.2.stream == strm
  modStream b strm (fun k => { k with
    hbmSlabs := (mine.filter fun e => !e.2.spill).length
    spilled := mine.any fun e => e.2.spill
    poisoned := (mine.filter fun e => e.2.loc == .poisoned).length }) s

/-- The entries of one new row get their frames (R171), or none has room. -/
def fillRow (b strm : Nat) (butt : Bool) (n : Nat) : List Nat → State → Option State
  | [], s => some s
  | i :: is, s =>
    match frameFor s b strm n with
    | none => none
    | some f =>
      let e : Slab := { loc := .valid, spill := f.2.isSome, buttress := butt, last := true, stream := strm
                        spillNo := f.2.getD 0, vaPage := f.1 / 4096 }
      fillRow b strm butt n is (recount b strm (modSlab b i (fun _ => e) s))

/-- A row is linked behind the last row of its list. -/
def linkRow (b strm : Nat) (butt : Bool) (len r : Nat) (s : State) : State :=
  let k := stream s b strm
  let tail := if butt then k.bTail else k.tail
  let t := if tail = noRow then s
    else each (List.range len) (fun i => modSlab b (tail + i) fun e => { e with last := false, nextRow := r }) s
  modStream b strm (fun k =>
    if butt then { k with bRoot := if tail = noRow then r else k.bRoot, bTail := r }
    else { k with root := if tail = noRow then r else k.root, tail := r }) t

/-- What an allocation gives: the state with the new rows, a wait for firmware to compact the partition between lifts, or a failure
(R168, R174). -/
inductive Alloc | done (t : State) | wait (t : State) | fail
  deriving DecidableEq, Repr, Inhabited

/-- A new row of a list, with its frames (R168). -/
def newRow (b strm : Nat) (butt : Bool) (m : Model) (s : State) : Alloc :=
  match freeRun s b m.layers 0 with
  | none =>
    if (freeRun (compact b s) b m.layers 0).isNone then .fail
    else .wait (modSt b (fun y => { y with wantRun := true }) s)
  | some r =>
    let row := (List.range m.layers).map (· + r)
    match fillRow b strm butt (slabBytes m) row s with
    | none => .fail
    | some t => .done (touchSlabs b row (linkRow b strm butt m.layers r t))

/-- Rows up to the one that holds position `p` (R168). -/
def ensureRows (b strm : Nat) (butt : Bool) (m : Model) : Nat → Nat → State → Alloc
  | 0, _, s => .done s
  | n + 1, p, s =>
    if (rowAt s b strm butt (p / 256)).isSome then .done s
    else match newRow b strm butt m s with
      | .done t => ensureRows b strm butt m n p t
      | r => r

/-- Frees the rows of a list, their frames with them. -/
def freeList (b strm : Nat) (butt : Bool) (s : State) : State :=
  let t := modSt b (fun y => { y with slabs := y.slabs.filter fun e => !(e.2.stream == strm && e.2.buttress == butt) }) s
  recount b strm (modStream b strm (fun k =>
    if butt then { k with bRoot := noRow, bTail := noRow, bLen := 0 } else { k with root := noRow, tail := noRow, mLen := 0 }) t)

/-! ## The bytes of slabs -/

/-- Bytes of a slab's frame: the KV pool's lie in the bay's HBM share; a spilled frame's are kept with the bay (log entry 5). -/
def frameRead (s : State) (b a n : Nat) : List Byte :=
  if kvBase ≤ a then (pagesOf a n).flatMap fun p => match poolPa s b p.1 with
    | some pa => mread s.mem.hbm pa p.2
    | none => List.replicate p.2 0
  else mread (bay s b).strm.blk a n
/-- A read or a write of a spilled frame goes out to the endpoint its range is mapped to (R169, R423). -/
def ownSpill (b a n : Nat) (bs : List Byte) (wr : Bool) (s : State) : State :=
  (pagesOf a n).foldl (fun t p => match xlate t b p.1 0 false with
    | .ok (.remote ep w off) =>
      ownJob { bay := b, wr := wr, dst := ep, addr := globalAddr w off, left := p.2, data := (bs.drop (p.1 - a)).take p.2 } t
    | _ => t) s
/-- The read of a frame that the fabric serves goes out. -/
def askFrame (b a n : Nat) (s : State) : State := if kvBase ≤ a then s else ownSpill b a n [] false s
/-- Bytes written into a frame. -/
def frameWrite (b a : Nat) (bs : List Byte) (s : State) : State :=
  if kvBase ≤ a then (pagesOf a bs.length).foldl (fun t p => match poolPa t b p.1 with
    | some pa => writePa pa ((bs.drop (p.1 - a)).take p.2) t
    | none => t) s
  else modSt b (fun y => { y with blk := mputs a bs y.blk }) (ownSpill b a bs.length bs true s)

/-- The offset of head `h`, position `p` of a plane (0 K, 1 V) in a slab (R164). -/
def slabOff (m : Model) (plane h p : Nat) : Nat := ((plane * m.hkv + h) * 256 + p) * m.d * kvElem m.kvFmt

/-! ## How a stream moves between states (R158) -/

/-- The state of an open stream that is in no batch. -/
def restState (k : Stream) : StreamState :=
  if k.state = .lost then .lost else if k.regen then .regen else if 0 < k.pending then .ready else .idle

/-- A stream leaves STEPPING or FILLING. -/
def leaveBatch (b strm : Nat) : State → State :=
  modStream b strm fun k => if k.state = .stepping ∨ k.state = .filling then { k with state := restState { k with state := .idle } } else k

/-- The mask bit of a stream is set in every sealed batch that has not committed (R187). -/
def maskStream (b strm : Nat) : State → State := maskIf b fun m => m.strm == strm

/-- A stream has left every batch that names it: their ends do not concern it any more. -/
def passStream (b strm : Nat) : State → State :=
  modSt b fun y => { y with batches := y.batches.map fun x => { x with
    members := x.members.map fun m => if m.strm = strm then { m with masked := true, appended := true } else m } }

/-- A stream none of whose slabs is poisoned any more leaves REGEN (R158). -/
def cleanRegen (b strm : Nat) (s : State) : State :=
  if (bay s b).strm.slabs.any fun e => e.2.loc == .poisoned && e.2.stream == strm then s
  else modStream b strm (fun k =>
    let k := { k with regen := false }
    if k.state = .regen then { k with state := restState { k with state := .idle } } else k) s

/-- The pending stream commands of a stream. -/
def streamCmds (s : State) (b strm : Nat) : List Cmd :=
  (bayCmds s b).filter fun c => (opc c == opStreamStep || opc c == opStreamFill) && c.batch.isNone && c.parent.isNone &&
    cf c 0x18 4 == strm

/-- Every pending command of a stream completes with a code. -/
def endStreamCmds (b strm code : Nat) (s : State) : State :=
  each ((streamCmds s b strm).map (·.cid)) (fun c t => finish c code 0 false t) s

/-- A stream is LOST (R190): the bay is told, its sealed memberships are masked, its pending commands end. -/
def loseStream (b strm : Nat) (s : State) : State :=
  if (stream s b strm).state = .free ∨ (stream s b strm).state = .lost then s
  else
    let t := maskStream b strm s
    let t := modStream b strm (fun k => { k with state := .lost }) t
    let t := bayEvent b 0x41 0 strm 0 { t with mem := { t.mem with streamsLost := satAdd 0xFFFF t.mem.streamsLost 1 } }
    endStreamCmds b strm 0x41 t

/-- A stream whose descriptor is lost: it is rewritten with state LOST and every other field 0 (R190). -/
def loseDescriptor (b strm : Nat) (s : State) : State :=
  let k := stream s b strm
  if k.state = .free then s
  else modStream b strm (fun _ => { state := .lost, closing := k.closing }) (loseStream b strm s)

/-- A slab becomes POISONED (R186): counted in its stream, which is to be regenerated unless it is closing. -/
def poisonSlab (b i cause : Nat) (s : State) : State :=
  let e := slab s b i
  if e.loc != .valid then s
  else
    let t := modSlab b i (fun e => { e with loc := .poisoned, cause := cause }) s
    let t := recount b e.stream t
    let t := modStream b e.stream (fun k =>
      if k.closing.isSome ∨ k.state = .lost then k
      else { k with
        regen := true
        regenSince := if k.regen then k.regenSince else (bay s b).ev.prod
        state := if k.state = .idle ∨ k.state = .ready then .regen else k.state }) t
    bayEvent b 0x103 cause e.stream (stream t b e.stream).poisoned t

end Sys2Proof.Machine
end

