-- ==== Sys2Proof/Machine/StreamAdm.lean ====
section
/-! DEFINITION. STREAM_ADMIN (R159, R160, R170, R172, R191) and MODEL_LOAD_SEALED (R249, R295 to R298). -/
namespace Sys2Proof.Machine

/-! ## STREAM_ADMIN -/

/-- The row of one operation: the stream index and the command; the descriptor is touched (R156). -/
def admin (k cid : Nat) (f : Cmd → Nat → State → State) (s : State) : Host.Outcome State Fault Refusal :=
  ctlOp 0x24 k cid (fun c t =>
    let n := cf c 0x18 4
    if 1 ≤ k ∧ k ≤ 7 ∧ (stream t c.bay n).state = .free then ctlDone cid 0x23 0 false t else f c n t) s

/-- Whether a model may serve a stream: resident and with a KV geometry (R159, R295). -/
def servable (s : State) (b id : Nat) : Bool :=
  match model? s b id with
  | some m => m.fmt == 2
  | none => false

/-- The index an OPEN takes (R245). -/
def openIndex (s : State) (c : Cmd) : Option Nat :=
  let n := cf c 0x18 4
  if n = 0xFFFFFFFF then lowestFree ((tkeys ((bay s c.bay).strm.streams.filter fun e => e.2.state != .free)).mergeSort) (streamsPerBay s)
  else if n < streamsPerBay s ∧ (stream s c.bay n).state = .free then some n else none

/-- Whether an OPEN's arguments are good (R159). -/
def openOk (s : State) (c : Cmd) : Bool :=
  let limit := cf c 0x24 4
  servable s c.bay (cf c 0x1C 2) && (cf c 0x1E 2 == 0xFFFF || servable s c.bay (cf c 0x1E 2)) &&
    decide (1 ≤ limit ∧ limit ≤ 2097152) && decide (cf c 0x28 4 ≤ 4194304) &&
    (firstFault s c.bay (cf c 0x30 8) (4 * limit) 0 false).isNone

/-- The descriptor an OPEN writes. The spec gives no last_commit before the first token commit: the model takes the lift of the OPEN
(log entry 63). -/
def opened (s : State) (c : Cmd) : Stream :=
  { modelId := cf c 0x1C 2, buttressId := cf c 0x1E 2, state := .idle, deadline := cf c 0x20 2, limit := cf c 0x24 4
    quota := cf c 0x28 4, logVa := cf c 0x30 8, lastCommit := lift32 s, root := noRow, tail := noRow, bRoot := noRow, bTail := noRow }

/-- STREAM_ADMIN OPEN (R159). -/
def execStreamAdminOpen (cid : Nat) (s : State) : Host.Outcome State Fault Refusal :=
  admin 0 cid (fun c _ t =>
    match (if openOk t c then openIndex t c else none) with
    | none => ctlDone cid 0x23 0 false t
    | some i => ctlDone cid 0 i false (touchStream c.bay i true (modStream c.bay i (fun _ => opened t c) t))) s

/-- A stream is closed: its pending commands end, its rows are freed and its descriptor is zeros, written back when it leaves the
stream cache (R156, R160). -/
def closeStream (b n : Nat) (s : State) : State :=
  let t := endStreamCmds b n 0x10 (passStream b n (maskStream b n (touchStream b n true s)))
  let t := modSt b (fun y => { y with slabs := y.slabs.filter fun e => e.2.stream != n || e.2.loc == .free }) t
  modSt b (fun y => { y with streams := tdrop n y.streams }) t

/-- STREAM_ADMIN CLOSE (R160): while the stream is STEPPING or FILLING it waits, and this row runs again. -/
def execStreamAdminClose (cid : Nat) (s : State) : Host.Outcome State Fault Refusal :=
  admin 1 cid (fun c n t =>
    if pinnedStream t c.bay n then modStream c.bay n (fun k => { k with closing := some cid }) t
    else ctlDone cid 0 0 false (closeStream c.bay n t)) s

/-- An operation that changes a descriptor and completes. -/
def setStream (cid : Nat) (c : Cmd) (n : Nat) (f : Stream → Stream) (s : State) : State :=
  ctlDone cid 0 0 false (touchStream c.bay n true (modStream c.bay n f s))

/-- STREAM_ADMIN HOLD (R159). -/
def execStreamAdminHold (cid : Nat) (s : State) : Host.Outcome State Fault Refusal :=
  admin 2 cid (fun c n t => setStream cid c n (fun k => { k with hold := true }) t) s

/-- STREAM_ADMIN RELEASE (R159). -/
def execStreamAdminRelease (cid : Nat) (s : State) : Host.Outcome State Fault Refusal :=
  admin 3 cid (fun c n t => setStream cid c n (fun k => { k with hold := false }) t) s

/-- STREAM_ADMIN SET_DEADLINE (R159). -/
def execStreamAdminSetDeadline (cid : Nat) (s : State) : Host.Outcome State Fault Refusal :=
  admin 4 cid (fun c n t => setStream cid c n (fun k => { k with deadline := cf c 0x20 2 }) t) s

/-- STREAM_ADMIN SET_QUOTA (R159). -/
def execStreamAdminSetQuota (cid : Nat) (s : State) : Host.Outcome State Fault Refusal :=
  admin 5 cid (fun c n t =>
    if 4194304 < cf c 0x28 4 then ctlDone cid 0x23 0 false t
    else setStream cid c n (fun k => { k with quota := cf c 0x28 4 }) t) s

/-- Whether a sealed buttress step or fill of a stream has not been appended yet. -/
def buttressSealed (s : State) (b n : Nat) : Bool :=
  (bay s b).strm.batches.any fun x => x.buttress && x.members.any fun m => m.strm == n && !m.appended

/-- STREAM_ADMIN SET_BUTTRESS (R191): the old buttress list is freed once no step of it is sealed; until then the command
waits and this row runs again. -/
def execStreamAdminSetButtress (cid : Nat) (s : State) : Host.Outcome State Fault Refusal :=
  admin 6 cid (fun c n t =>
    let id := cf c 0x1E 2
    if id != 0xFFFF && !servable t c.bay id then ctlDone cid 0x23 0 false t
    else if buttressSealed t c.bay n then t
    else setStream cid c n (fun k => { k with buttressId := id, buttressActive := false, good := 0 }) (freeList c.bay n true t)) s

/-- STREAM_ADMIN READ (R159): the descriptor's bytes; a destination that cannot be written ends it as EVENT READ. -/
def execStreamAdminRead (cid : Nat) (s : State) : Host.Outcome State Fault Refusal :=
  admin 7 cid (fun c n t =>
    let t := touchStream c.bay n false t
    if hostWaits t c.bay (cf c 0x30 8) 64 2 then t
    else match firstFault t c.bay (cf c 0x30 8) 64 2 false with
    | some f => ctlDone cid 0x33 0 true (cmdError c 4 0x33 0 (max (cf c 0x30 8) f.1) none 0 t)
    | none => ctlDone cid 0 0 false (postVa cid c.bay (cf c 0x30 8) (streamBytes (stream t c.bay n)) t)) s

/-- The bytes a batch keeps of the batch area. -/
def batchBytes (s : State) (b : Nat) (x : Batch) : Nat :=
  match model? s b x.model with
  | some m => 64 + 16 * x.members.length + (max x.count x.members.length) * m.layers * kvTok m + 4 * x.count
  | none => 0

/-- A run of fixed extents resized to `n`: those that go are zeroed before they count as free (R387), new ones are the highest free
frames of the share (log entry 16). -/
def resizeRun (b n : Nat) (old : List Nat) (s : State) : List Nat × State :=
  (old.take n ++ highFrames s b (n - old.length), zeroFrames b (old.drop n) s)
/-- The KV pool takes `n` extents. -/
def resizePool (b n : Nat) (s : State) : State :=
  let r := resizeRun b n (bay s b).strm.pool s
  modSt b (fun y => { y with pool := r.1 }) r.2
/-- The batch area takes `n` extents. -/
def resizeArea (b n : Nat) (s : State) : State :=
  let r := resizeRun b n (bay s b).strm.area s
  modSt b (fun y => { y with area := r.1 }) r.2

/-- STREAM_ADMIN POOL (R170): no frame in use may fall outside the new pool, nor a batch outside the new batch area. -/
def execStreamAdminPool (cid : Nat) (s : State) : Host.Outcome State Fault Refusal :=
  admin 8 cid (fun c _ t =>
    let b := c.bay
    let pool := cf c 0x38 4
    let area := cf c 0x3C 4
    let y := (bay t b).strm
    let beyond := (usedRanges t b).any fun u => decide (kvBase ≤ u.1 ∧ kvBase + pool * 2 ^ 21 < u.1 + u.2)
    let wide := y.batches.any fun x => decide (batchBase + area * 2 ^ 21 < x.tableVa + batchBytes t b x)
    if beyond || wide then ctlDone cid 0x42 0 false t
    else if freeFrames t b + y.pool.length + y.area.length < pool + area then ctlDone cid 0x34 0 false t
    else ctlDone cid 0 0 false (resizeArea b area (resizePool b pool t))) s

/-- Whether every page of a range from `a` up to `e` is mapped to a remote window, by however many MAPs (R169). -/
def remoteUpTo (maps : List MapRange) (e : Nat) : Nat → Nat → Bool
  | 0, _ => false
  | n + 1, a =>
    match maps.find? fun r => decide (r.page * 4096 ≤ a ∧ a < (r.page + r.pages) * 4096) with
    | some r => (match r.tgt with
      | .remote _ _ _ => decide (e ≤ (r.page + r.pages) * 4096) || remoteUpTo maps e n ((r.page + r.pages) * 4096)
      | .host _ => false)
    | none => false
/-- Whether a range is one that may hold spilled slabs (R169). -/
def remoteRange (s : State) (b va n : Nat) : Bool :=
  let maps := (bay s b).mem.maps
  decide (0 < n) && remoteUpTo maps (va + n) maps.length va

/-- STREAM_ADMIN SPILL_ADD (R169, R170). -/
def execStreamAdminSpillAdd (cid : Nat) (s : State) : Host.Outcome State Fault Refusal :=
  admin 9 cid (fun c _ t =>
    let n := cf c 0x22 1
    let va := cf c 0x30 8
    let size := cf c 0x38 8
    if 16 ≤ n || (tget n (bay t c.bay).strm.spills).isSome || !remoteRange t c.bay va size then ctlDone cid 0x23 0 false t
    else ctlDone cid 0 0 false (modSt c.bay (fun y => { y with spills := tput n { va := va, size := size } y.spills }) t)) s

/-- The slabs of a spill range. -/
def spillSlabs (s : State) (b n : Nat) : List (Nat × Slab) :=
  (bay s b).strm.slabs.filter fun e => e.2.loc != .free && e.2.spill && e.2.spillNo == n

/-- A move of a slab starts to the first other location with room (R171, R172); a poisoned slab has no content to copy, and its entry is
rewritten at once. -/
def startSlabMove (b i : Nat) (s : State) : Option State :=
  let e := slab s b i
  if e.moving.isSome then some s
  else (frameFor s b e.stream (frameBytes s b e)).map fun f =>
    if e.loc = .poisoned then recount b e.stream
      (modSlab b i (fun e => { e with spill := f.2.isSome, spillNo := f.2.getD 0, vaPage := f.1 / 4096 }) s)
    else modSlab b i (fun e => { e with moving := some f.1 }) s

/-- Every slab of a range is on its way out, or one finds no room. -/
def evacuate (b : Nat) : List Nat → State → State × Bool
  | [], s => (s, true)
  | i :: is, s =>
    match startSlabMove b i s with
    | some t => evacuate b is t
    | none => (s, false)

/-- STREAM_ADMIN SPILL_REMOVE (R170): its slabs move out, and it completes when none is left; until then this row runs
again. -/
def execStreamAdminSpillRemove (cid : Nat) (s : State) : Host.Outcome State Fault Refusal :=
  admin 10 cid (fun c _ t =>
    let n := cf c 0x22 1
    let b := c.bay
    match tget n (bay t b).strm.spills with
    | none => ctlDone cid 0x23 0 false t
    | some r =>
      if (spillSlabs t b n).isEmpty then ctlDone cid 0 0 false (modSt b (fun y => { y with spills := tdrop n y.spills }) t)
      else
        let mark (v : Option Nat) := modSt b fun y => { y with spills := tput n { r with removing := v } y.spills }
        let u := evacuate b ((spillSlabs t b n).map (·.1)) (mark (some cid) t)
        if u.2 then u.1 else ctlDone cid 0x42 0 false (mark none u.1)) s

/-! ## Sealed images (R295 to R298) -/

/-- Pieces of `n` bytes. -/
def chunks (n : Nat) : Nat → List Byte → List (List Byte)
  | 0, _ => []
  | k + 1, bs => if bs.isEmpty then [] else bs.take n :: chunks n k (bs.drop n)

/-- The fields of an image's header as the checks need them. -/
structure SealHead where
  fmt : Nat
  manifest : Nat
  segs : Nat
  keyId : BitVec 128
  salt : List Byte
  aad : List Byte
  digest : BitVec 384
  deriving DecidableEq, Repr, Inhabited

/-- The size of the plaintext behind the manifest. -/
def sealPayload (bytes manifest segs : Nat) : Nat := bytes - 256 - (manifest + 16) - 16 * segs

/-- The header of a sealed image of `bytes` bytes, if its fields agree (R296). -/
def sealHead (h : List Byte) (bytes : Nat) : Option SealHead :=
  let man := fld h 0x10 4
  let segs := fld h 0x18 4
  let p := sealPayload bytes man segs
  let zero (lo hi : Nat) := allZero ((h.drop lo).take (hi - lo))
  if fld h 0 4 = 0x57535846 && (fld h 4 2 == 1 || fld h 4 2 == 2) && fld h 8 8 == bytes && decide (64 ≤ man ∧ man ≤ 1048576) &&
      fld h 0x14 4 == 1048576 && decide (256 + man + 16 + 16 * segs ≤ bytes) && ceilDiv p 1048576 == segs &&
      zero 6 8 && zero 0x1C 0x20 && zero 0x38 0x40 && zero 0x70 0x100 then
    some { fmt := fld h 4 2, manifest := man, segs := segs, keyId := BitVec.ofNat 128 (fld h 0x20 16)
           salt := (h.drop 0x30).take 8, aad := h.take 64, digest := BitVec.ofNat 384 (fld h 0x40 48) }
  else none

/-- The initialisation vector of segment `i` (R296): the salt, then `i` with its most significant byte first. -/
def sealIv (salt : List Byte) (i : Nat) : BitVec 96 := BitVec.ofNat 96 (leNat (salt ++ (natLe 4 i).reverse))

/-- One segment decrypted, its tag behind it. -/
def openSeg (key : BitVec 256) (hd : SealHead) (i : Nat) (ct : List Byte) : Option (List Byte) :=
  let n := ct.length - 16
  Config.gcmOpen key (sealIv hd.salt i) hd.aad (ct.take n) (BitVec.ofNat 128 (leNat (ct.drop n)))

/-- The segments decrypted in order: the plaintext so far, and whether every tag verified. -/
def openSegs (key : BitVec 256) (hd : SealHead) : Nat → List (List Byte) → List Byte → List Byte × Bool
  | _, [], acc => (acc, true)
  | i, ct :: rest, acc =>
    match openSeg key hd i ct with
    | none => (acc, false)
    | some p => openSegs key hd (i + 1) rest (acc ++ p)

/-- What a manifest declares (R297): images as segment offset and instructions; weights as segment offset, bytes, load_va;
the two graphs as body offset, entries, parameter offset, parameter bytes. -/
structure Manifest where
  images : List (Nat × Nat)
  weights : List (Nat × Nat × Nat)
  layers : Nat
  hkv : Nat
  kvFmt : Nat
  d : Nat
  maxBatch : Nat
  graphs : List (Nat × Nat × Nat × Nat)
  deriving DecidableEq, Repr, Inhabited

/-- The manifest's fields. -/
def manifestOf (m : List Byte) : Manifest :=
  let ni := fld m 0 2
  let nw := fld m 2 2
  { images := (List.range ni).map fun i => (fld m (0x40 + 16 * i) 8, fld m (0x48 + 16 * i) 2)
    weights := (List.range nw).map fun j =>
      let o := 0x40 + 16 * ni + 32 * j
      (fld m o 8, fld m (o + 8) 8, fld m (o + 16) 8)
    layers := fld m 8 2, hkv := fld m 0xA 1, kvFmt := fld m 0xB 1, d := fld m 0xC 2, maxBatch := fld m 0xE 2
    graphs := [(fld m 0x10 4, fld m 0x14 2, fld m 0x18 4, fld m 0x1C 4), (fld m 0x20 4, fld m 0x24 2, fld m 0x28 4, fld m 0x2C 4)] }

/-- Whether a manifest keeps the ranges of R163 and R297 and names no byte outside the image. -/
def manifestOk (fmt : Nat) (m payload : List Byte) : Bool :=
  let f := manifestOf m
  let geo := decide (1 ≤ f.layers ∧ f.layers ≤ 256) && decide (1 ≤ f.hkv ∧ f.hkv ≤ 64) &&
    decide (32 ≤ f.d ∧ f.d ≤ 512) && f.d % 16 == 0 && decide (1 ≤ f.kvFmt ∧ f.kvFmt ≤ 4) &&
    decide (1 ≤ f.maxBatch ∧ f.maxBatch ≤ 1024) && f.graphs.all fun g =>
      decide (1 ≤ g.2.1 ∧ g.2.1 ≤ 4096) && decide (64 ≤ g.2.2.2 ∧ g.2.2.2 ≤ 65536) && g.2.2.2 % 64 == 0 &&
      decide (g.1 + 64 * g.2.1 ≤ m.length) && decide (g.2.2.1 + g.2.2.2 ≤ m.length)
  decide (fld m 0 2 ≤ 256) && decide (1 ≤ fld m 2 2 ∧ fld m 2 2 ≤ 4096) &&
    decide (0x40 + 16 * fld m 0 2 + 32 * fld m 2 2 ≤ m.length) &&
    (if fmt = 1 then allZero ((m.drop 8).take 0x28) else geo) &&
    (f.images.all fun i => decide (1 ≤ i.2 ∧ i.2 ≤ 8192) && decide (i.1 + 8 * i.2 ≤ payload.length)) &&
    f.weights.all fun w => decide (1 ≤ w.2.1) && decide (w.1 + w.2.1 ≤ payload.length)

/-- The body entries of graph `i` of a manifest. -/
def sealBody (m : List Byte) (i : Nat) : List (List Byte) :=
  let g := (manifestOf m).graphs.getD i (0, 0, 0, 0)
  (List.range g.2.1).map fun k => (m.drop (g.1 + 64 * k)).take 64

/-- Its parameter region. -/
def sealParams (m : List Byte) (i : Nat) : Mem :=
  let g := (manifestOf m).graphs.getD i (0, 0, 0, 0)
  mputs 0 ((m.drop g.2.2.1).take g.2.2.2) []

/-- The first entry of a model's graph body that breaks its format (R234, R258, R297): index and offset. The walk descriptor
of a walked command lies in the parameter region its descriptor names (R181). -/
def sealBodyBad (s : State) (c : Cmd) (md : Model) (body : List (List Byte)) (params : Mem) (pb : Nat) : Option (Nat × Nat) :=
  (List.range body.length).findSome? fun i =>
    let e := body.getD i []
    let k : Cmd := { c with entry := if fld e 0 1 = opLaunch then e.take 0x18 ++ natLe 8 0 ++ e.drop 0x20 else e }
    let f := if opc k = opLaunch then 0x20 else 0x18
    if !(opc k == opLaunch || opc k == opQuoin || opc k == opCollective || opc k == 0x16) then some (i, 0)
    else match entryBad s .model k with
      | some o => some (i, o)
      | none =>
        if flag k 6 && (cf k f 8 % 64 != 0 || decide (pb < cf k f 8 + 0x140)) then some (i, f)
        else if opc k = opLaunch ∧ md.images.length ≤ fld e 0x18 2 then some (i, 0x18)
        else if flag k 2 && flag k 6 && (walkBad md k (mread params (cf k f 8) 256)).isSome then some (i, f)
        else none

/-- A model a manifest declares. -/
def sealedModel (id key fmt va bytes : Nat) (digest : BitVec 384) (m payload : List Byte) : Model :=
  let f := manifestOf m
  { id := id, fmt := fmt, layers := if fmt = 1 then 0 else f.layers, hkv := f.hkv, kvFmt := f.kvFmt, d := f.d
    maxBatch := f.maxBatch, key := key
    images := f.images.map fun i => wordsOf ((payload.drop i.1).take (8 * i.2))
    weights := f.weights.map fun w => (w.2.2, w.2.1, w.1), imageVa := va, imageBytes := bytes, digest := digest }

/-- Bytes written to placed memory by the seal engine, which no write permission binds (R298). -/
def sealWrite (b va : Nat) (bs : List Byte) (s : State) : State :=
  (pagesOf va bs.length).foldl (fun t p =>
    let part := (bs.drop (p.1 - va)).take p.2
    match xlate t b p.1 0 false with
    | .ok (.hbm pa) => writePa pa part t
    | .ok (.win k) => writeWin k part t
    | _ => t) s

/-- The weights an image's decrypted prefix holds are zeroed again when a LOAD is refused (R298). -/
def zeroWeights (b : Nat) (m : List Byte) (n : Nat) (s : State) : State :=
  (manifestOf m).weights.foldl (fun t w =>
    if w.1 < n then sealWrite b w.2.2 (List.replicate (min w.2.1 (n - w.1)) 0) t else t) s

/-- The first weight page that is not placed memory with read permission (R298). -/
def weightFault (s : State) (b : Nat) (ws : List (Nat × Nat × Nat)) : Option Nat :=
  ws.findSome? fun w => (pagesOf w.2.2 w.2.1).findSome? fun p =>
    if 2 ^ 48 ≤ p.1 then some p.1
    else match xlate s b p.1 1 false with
      | .ok (.hbm _) => none
      | .ok (.win _) => none
      | _ => some p.1

/-- Whether a weight page is homed in a backing window: its bytes reach it by block-internal WRITEs (R298, R423). -/
def weightsAway (s : State) (b : Nat) (ws : List (Nat × Nat × Nat)) : Bool :=
  ws.any fun w => (pagesOf w.2.2 w.2.1).any fun p =>
    match xlate s b p.1 1 false with
    | .ok (.win _) => true
    | _ => false

/-- A weight write to a backing window is answered with an error: the LOAD completes with that answer's code and is cleaned up (R423). -/
def weightLost (c : Cmd) (m : List Byte) (n : Nat) (s : State) : State :=
  ctlDone c.cid (if bit (freeVal s).toNat 1 then 0x61 else 0x60) 0 false (zeroWeights c.bay m n (drewFree s))

/-- The digest of a sealed image: the plaintext manifest, then every segment (R296). -/
def sealDigest (m payload : List Byte) : BitVec 384 := Config.sha384 (m ++ payload)

/-- The program log after the images of a manifest are loaded (R346). -/
def logImages (b : Nat) (md : Model) (s : State) : State :=
  md.images.foldl (fun t ws => logProgram b md.id ws.length (imageDigest ws) t) s

/-- A LOAD that passed every check: the weights reach their load_va, images and graphs are registered, the weights can no
longer be written, and both logs learn of it (R249, R298, R346). -/
def sealInstall (c : Cmd) (md : Model) (m payload : List Byte) (s : State) : State :=
  let b := c.bay
  let t := md.weights.foldl (fun t w => sealWrite b w.1 ((payload.drop w.2.2).take w.2.1) t) s
  let h := (bay t b).strm.nextGraph
  let graph (i : Nat) : Graph :=
    { handle := h + i, owner := some md.id, body := sealBody m i, r0 := sealParams m i
      paramBytes := ((manifestOf m).graphs.getD i (0, 0, 0, 0)).2.2.2 }
  let two := md.fmt = 2
  let t := modSt b (fun y => { y with
    models := y.models ++ [{ md with stepG := if two then h else 0, fillG := if two then h + 1 else 0 }]
    graphs := if two then y.graphs ++ [graph 0, graph 1] else y.graphs
    nextGraph := if two then h + 2 else h }) t
  let t := logImages b md t
  let t := { t with sec := { t.sec with wtLog := logEntry 2 b md.id 0 md.digest t.sec.wtLog } }
  ctlDone c.cid 0 md.id false t

/-- The extents program images and graph regions take of the share (R298, R258). -/
def sealExtents (md : Model) (m : List Byte) : Nat :=
  ceilDiv ((md.images.map fun ws => 8 * ws.length).foldl (· + ·) 0) 0x200000 +
    ((manifestOf m).graphs.map fun g => ceilDiv (2 * g.2.2.2) 0x200000).foldl (· + ·) 0

/-- A LOAD once its bytes have been read (R296 to R298). -/
def sealLoad (c : Cmd) (key : Nat × BitVec 128 × BitVec 256) (img : List Byte) (s : State) : State :=
  let b := c.bay
  let bad := ctlDone c.cid 0x2B 0 false
  match sealHead (img.take 256) img.length with
  | none => bad s
  | some hd =>
    if hd.keyId != key.2.1 then bad s
    else match openSeg key.2.2 hd 0 ((img.drop 256).take (hd.manifest + 16)) with
      | none => bad s
      | some m =>
        let body := img.drop (256 + hd.manifest + 16)
        let r := openSegs key.2.2 hd 1 (chunks 1048592 hd.segs body) []
        let md := sealedModel (cf c 0x18 2) key.1 hd.fmt (cf c 0x20 8) (cf c 0x28 8) hd.digest m r.1
        match weightFault s b (manifestOf m).weights with
        | some a => ctlDone c.cid 0x33 0 true (cmdError c 4 0x33 0 a none 0 s)
        | none =>
          if !r.2 || sealDigest m r.1 != hd.digest || !manifestOk hd.fmt m r.1 then bad (zeroWeights b m r.1.length s)
          else
            let bodyBad := if hd.fmt = 1 then none else [0, 1].findSome? fun i =>
              sealBodyBad s c md (sealBody m i) (sealParams m i) (((manifestOf m).graphs.getD i (0, 0, 0, 0)).2.2.2)
            match bodyBad with
            | some p =>
              ctlDone c.cid 0x20 0 true (cmdError c 1 0x20 (2 * 2 ^ 56 + p.1 * 2 ^ 32 + p.2) 0 none 0
                (zeroWeights b m r.1.length s))
            | none =>
              if freeFrames s b < sealExtents md m then ctlDone c.cid 0x34 0 false (zeroWeights b m r.1.length s)
              else if weightsAway s b (manifestOf m).weights && bit (freeVal s).toNat 0 then weightLost c m r.1.length s
              else sealInstall c md m r.1 s

/-- MODEL_LOAD_SEALED LOAD (R249, R298, R350). An ID in use is refused with INVALID_ARGUMENT, and an image that cannot be
read with XLT_FAULT. -/
def modelLoad (env : Env) (c : Cmd) (s : State) : State :=
  let b := c.bay
  match (bay s b).strm.keys.find? fun k => k.1 == cf c 0x1C 4 with
  | none => ctlDone c.cid 0x2C 0 false s
  | some key =>
    if (bay s b).strm.models.any fun m => m.id == cf c 0x18 2 then ctlDone c.cid 0x23 0 false s
    else if hostWaits s b (cf c 0x20 8) (cf c 0x28 8) 1 then s
    else match takeVa s b env (cf c 0x20 8) (cf c 0x28 8) with
      | .failed a _ => ctlDone c.cid 0x33 0 true (cmdError c 4 0x33 0 a none 0 s)
      | .bytes img => sealLoad c key img (askVa b (cf c 0x20 8) (cf c 0x28 8) s)

/-- MODEL_LOAD_SEALED_LOAD (R298). -/
def execModelLoad (cid : Nat) (env : Env) (s : State) : Host.Outcome State Fault Refusal := ctlOp 0x25 0 cid (modelLoad env) s

/-- Whether a model is in use (R249): an open stream names it, or a batch of it is not over. -/
def modelInUse (s : State) (b id : Nat) : Bool :=
  ((bay s b).strm.streams.any fun e => e.2.state != .free && (e.2.modelId == id || e.2.buttressId == id)) ||
    (bay s b).strm.batches.any fun x => x.model == id

/-- MODEL_LOAD_SEALED UNLOAD (R249): the weights may be written again. -/
def modelUnload (c : Cmd) (s : State) : State :=
  let b := c.bay
  let id := cf c 0x18 2
  if (model? s b id).isNone then ctlDone c.cid 0x23 0 false s
  else if modelInUse s b id then ctlDone c.cid 0x29 0 false s
  else ctlDone c.cid 0 id false (modSt b (fun y => { y with
    models := y.models.filter fun m => m.id != id
    graphs := y.graphs.filter fun g => g.owner != some id }) s)

/-- MODEL_LOAD_SEALED_UNLOAD (R249). -/
def execModelUnload (cid : Nat) (s : State) : Host.Outcome State Fault Refusal := ctlOp 0x25 1 cid modelUnload s

end Sys2Proof.Machine
end

