-- ==== Sys2Proof/Machine/Gather.lean ====
section
/-! DEFINITION. The stream gatherer (R173 to R176, R180, R188, R189, R191): which streams a batch takes, how a batch is sealed,
and what its commit point and its end do (R178). -/
namespace Sys2Proof.Machine

/-! ## Sealing a batch -/

/-- What a batch is to do, before it has a place in the batch area. -/
structure Draft where
  model : Nat
  kind : BatchKind
  buttress : Bool := false
  members : List Member
  maxSlabs : Nat := 0
  layerLimit : Nat := 0
  firstPos : Nat := 0
  count : Nat := 0
  /-- The token log address of the input records, or 0 where `inputs` holds them. -/
  inputVa : Nat := 0
  inputs : List Byte := []
  rebuild : List Nat := []
  /-- Queue and position of the command whose priority the batch takes (R176). -/
  queue : Nat := 0
  pos : Nat := 0
  deriving DecidableEq, Repr, Inhabited

/-- The batch a draft becomes at an address of the batch area. -/
def draftBatch (id va : Nat) (m : Model) (d : Draft) : Batch :=
  let append := va + 64 + 16 * d.members.length
  { id := id, model := d.model, kind := d.kind, buttress := d.buttress, members := d.members, maxSlabs := d.maxSlabs
    layerLimit := d.layerLimit, tableVa := va, appendVa := append, firstPos := d.firstPos, count := d.count
    inputVa := if d.count = 0 then 0 else if d.inputVa != 0 then d.inputVa
      else append + (max d.count d.members.length) * m.layers * kvTok m
    rebuild := d.rebuild }

/-- The bytes of a batch table (R176). -/
def tableBytes (x : Batch) : List Byte :=
  padTo 64 (natLe 4 x.members.length ++ natLe 4 x.maxSlabs ++ natLe 2 x.model ++ natLe 1 (b2n x.buttress) ++ natLe 1 0 ++
    natLe 4 x.layerLimit ++ natLe 8 x.appendVa ++ natLe 4 x.firstPos ++ natLe 4 x.count ++ natLe 8 x.inputVa) ++
  x.members.flatMap fun m => natLe 4 m.strm ++ natLe 4 m.pos ++ natLe 8 0

/-- The first place of the batch area with room for `n` bytes. -/
def areaPlace (s : State) (b n : Nat) : Option Nat :=
  let y := (bay s b).strm
  let top := batchBase + y.area.length * 2 ^ 21
  let used := y.batches.map fun x => (x.tableVa, ceilDiv (batchBytes s b x) 64 * 64)
  let cand := (batchBase :: used.map fun u => u.1 + u.2).filter fun a => decide (a + n ≤ top)
  cand.find? fun a => !used.any fun u => overlaps a n u.1 u.2

/-- Argument bytes 0xC0 to 0xC7 of a gathered command name the batch table (R263). -/
def withTable (va : Nat) (c : Cmd) : Cmd :=
  { c with desc := { c.desc with args := (padTo 256 c.desc.args).take 0xC0 ++ natLe 8 va ++ (padTo 256 c.desc.args).drop 0xC8
                                 argLen := 256 } }

/-- The chunk index of a walked command's arguments (R181). -/
def withChunk (k : Nat) (c : Cmd) : Cmd :=
  { c with desc := { c.desc with args := (padTo 256 c.desc.args).take 0xD8 ++ natLe 4 k ++ (padTo 256 c.desc.args).drop 0xDC } }

/-- The walk of a walked command, from the last 64 argument bytes (R181, R182). -/
def walkOf (x : Batch) (c : Cmd) : Walk :=
  let d := (padTo 256 c.desc.args).drop 0xC0
  let n := max 1 (fld d 0x14 4)
  { batch := x.id, chunks := max 1 (ceilDiv x.maxSlabs n), ring := fld d 8 4, slots := fld d 0xC 2, slotLines := fld d 0xE 2
    layer := fld d 0x10 2, hpa := fld d 0x12 1, ways := fld d 0x13 1, chunkSlabs := n, bound := fld d 0x1C 4
    outStride := fld d 0x20 8, parts := fld d 0x28 1 }

/-- A gathered command that its checks refuse is over: its batch notes the code. -/
def gatherRefuse (c : Cmd) (r : Refuse) (n : Nat) (s : State) : State :=
  let t := if r.kind = 0 then s else cmdError c r.kind r.code r.detail r.address none 0 s
  modBatch c.bay n (fun y => { y with
    left := y.left - 1, code := if y.code = 0 then r.code else y.code, err := y.err || r.kind != 0 }) (owesHs c t)

/-- Body entry `i` of a batch's graph becomes a command of the batch (R176, R181, R263). -/
def gatherEntry (b : Nat) (x : Batch) (m : Model) (g : Graph) (q pos i : Nat) (s : State) : State :=
  let e := g.body.getD i []
  let c : Cmd := { cid := s.cmds.next, bay := b, queue := q, pos := pos, bodyIdx := i, entry := e, batch := some x.id
                   words := if fld e 0 1 = opLaunch then m.images.getD (fld e 0x18 2) [] else [] }
  let t := { s with cmds := { s.cmds with next := s.cmds.next + 1 } }
  match argCheck t {} (some (regionOf g g.gen)) g.paramBytes false c with
  | .go c =>
    let c := if isLaunch c || opc c == opQuoin then withTable x.tableVa c else c
    let c := if flag c 2 then { withChunk 0 c with walk := some (walkOf x c) } else c
    let r := numberCol c t
    let refused : Option Refuse := if !flag c 2 then none else match walkBad m c c.desc.args with
      | some o => some (formatRefuse 1 0 o)
      | none => if unitSlice t t.lift.period 1250 < (walkOf x c).bound then some { code := 0x25 } else none
    match refused with
    | some k => gatherRefuse r.1 k x.id r.2
    | none => accept r.1 r.2
  | .no r =>
    let k := numberCol c t
    gatherRefuse k.1 r x.id k.2
  | .priv => gatherRefuse c { code := 0x22 } x.id t

/-- A batch command that may leave WAITING does so in the step that seals or advances its batch. -/
def wakeBatch (b n : Nat) (s : State) : State :=
  each (((bayCmds s b).filter fun c => c.batch == some n && isEngineCmd c).map (·.cid)) (fun cid t =>
    if mayLeave t (cmdD t cid) then becomeReady cid (if isLaunch (cmdD t cid) then withSeed cid t else t) else t) s

/-- The commands of a batch not fetched yet are fetched while the bay may hold more commands (R176, R232). -/
def gatherMore (b n : Nat) (s : State) : State :=
  match batch? s b n with
  | none => s
  | some x =>
    match model? s b x.model with
    | none => s
    | some m =>
      match graph? s b (if x.kind = .step then m.stepG else m.fillG) with
      | none => s
      | some g => wakeBatch b n (each (List.range g.body.length) (fun i t =>
          if x.fetched ≤ i ∧ heldCount t b < fetchLimit t then
            gatherEntry b x m g x.queue x.pos i (modBatch b n (fun y => { y with fetched := i + 1 }) t)
          else t) s)

/-- The state a member's stream takes when its batch is sealed (R158). -/
def memberState (k : BatchKind) (x : Stream) : StreamState :=
  match k with
  | .step => .stepping
  | .regen => x.state
  | _ => .filling

/-- A draft is sealed: its table is written, its commands fetched, its streams and stream commands marked; none when the batch
area has no room (R176). -/
def sealBatch (b : Nat) (d : Draft) (s : State) : Option State :=
  match model? s b d.model with
  | none => none
  | some m =>
    match graph? s b (if d.kind = .step then m.stepG else m.fillG) with
    | none => none
    | some g =>
      let id := (bay s b).strm.nextBatch
      match areaPlace s b (batchBytes s b (draftBatch id 0 m d)) with
      | none => none
      | some va =>
        let x := { draftBatch id va m d with left := g.body.length, last := g.body.length - 1, queue := d.queue, pos := d.pos }
        let t := modSt b (fun y => { y with nextBatch := id + 1, batches := y.batches ++ [x] }) s
        let t := areaWrite b va (tableBytes x) t
        let t := if d.inputs.isEmpty then t else areaWrite b x.inputVa d.inputs t
        let t := each d.members (fun k t =>
          let t := touchStream b k.strm true (modStream b k.strm (fun y => { y with
            state := memberState d.kind y
            lastStep := if d.kind = .step then s.lift.num else y.lastStep }) t)
          match k.step with
          | some c => modCmd c (fun y => { y with st := .planned }) t
          | none => t) t
        some (gatherMore b id t)

/-- A draft sealed where there is room. -/
def trySeal (b : Nat) (d : Draft) (s : State) : State := (sealBatch b d s).getD s

/-! ## The ends of a batch -/

/-- The streams of a batch leave it, and stream commands that were not served go back to READY (R187). -/
def releaseMembers (b : Nat) (x : Batch) (p : Member → Bool) (s : State) : State :=
  each (x.members.filter p) (fun m t =>
    let t := if x.kind = .regen ∨ m.appended then t else leaveBatch b m.strm t
    match m.step with
    | some c => modCmd c (fun y => { y with st := if y.st = .planned then .ready else y.st }) t
    | none => t) s

/-- A batch is gone from the batch area. -/
def dropBatch (b n : Nat) : State → State := modSt b fun y => { y with batches := y.batches.filter fun x => x.id != n }

/-- The completion of a member's stream command at the commit point: its header signal, its count of buttress tokens and
its completion entry (R123, R178). -/
def finishStep (c result : Nat) (butt : Bool) (s : State) : State :=
  match cmd? s c with
  | none => s
  | some x =>
    let t := if flag x 5 then signal x.bay (cf x 4 2) (cf x 0x10 8) s else s
    finish c 0 result false (modCmd c (fun x => { x with buttress := b2n butt }) t)

/-- The token records of a stream from position `p` (R161, R162). -/
def writeTokens (b strm p : Nat) (recs : List Nat) (s : State) : State :=
  writeVa b ((stream s b strm).logVa + 4 * p) (recs.flatMap (natLe 4)) s

/-- A position advance (R178). -/
def advance (b strm n : Nat) (s : State) : State :=
  modStream b strm (fun k => { k with position := k.position + n, lastCommit := lift32 s }) s

/-- A buttress token counts for the device and its bay (R154, R329). -/
def countButtress (b : Nat) (s : State) : State :=
  modBay b (fun y => { y with buttress := satAdd 0xFFFFFFFF y.buttress 1 })
    { s with stat := { s.stat with buttress := satAdd 0xFFFFFFFF s.stat.buttress 1 } }

/-- What a batch-advance record releases for member `i` (R178, R180). -/
def advanceMember (b : Nat) (x : Batch) (i : Nat) (m : Member) (s : State) : State :=
  match x.kind with
  | .step =>
    let tok := leNat (areaRead s b (x.tableVa + 64 + 16 * i + 8) 3)
    let t := writeTokens b m.strm m.pos [tok + (if x.buttress then 2 ^ 31 else 0)] s
    let t := advance b m.strm 1 t
    let t := if x.buttress then countButtress b t else t
    match m.step with
    | some c => finishStep c m.pos x.buttress t
    | none => t
  | .fill =>
    match m.step with
    | none => s
    | some c =>
      let recs := (List.range x.count).map fun j => leNat (areaRead s b (x.inputVa + 4 * j) 3) + 2 ^ 30
      let t := advance b m.strm x.count (writeTokens b m.strm x.firstPos recs s)
      finishStep c (x.firstPos + x.count) false t
  | _ => s

/-- The batch-advance record of batch `n` takes effect (R178); masked members leave the batch. -/
def batchAdvance (b n : Nat) (s : State) : State :=
  match batch? s b n with
  | none => s
  | some x =>
    if x.committed then s
    else
      let t := modBatch b n (fun y => { y with committed := true }) s
      let t := (List.range x.members.length).foldl (fun t i => match x.members[i]? with
        | some m => if m.masked then t else advanceMember b x i m t
        | none => t) t
      releaseMembers b x (·.masked) t

/-- A batch that ended without its commit: its steps end with its first code, the one whose queue and slot its commands take with the
mark of their error records (R176, R238), and a regeneration loses its stream (R190). -/
def failBatch (b : Nat) (x : Batch) (s : State) : State :=
  let t := each x.members (fun m t =>
    let t := match m.step with
      | some c => if m.masked then t else finish c x.code 0 (x.err && (cmdD t c).queue == x.queue && (cmdD t c).pos == x.pos) t
      | none => t
    if x.kind = .regen ∧ !m.appended ∧ x.code ≠ 0 then loseStream b m.strm t else t) s
  dropBatch b x.id (releaseMembers b x (fun _ => true) t)

/-- Batches that are over leave the batch area: those without commands left and no commit, and those whose members have
all been appended or masked. -/
def sweepBatches (b : Nat) (s : State) : State :=
  (bay s b).strm.batches.foldl (fun t x =>
    if x.left != 0 then t
    else if !x.committed then failBatch b x t
    else if x.members.all fun m => m.masked || m.appended then dropBatch b x.id t else t) s

/-! ## What the gatherer takes -/

/-- Whether the command of a stream that is READY is a step or a fill. -/
def readyCmd (s : State) (b strm op : Nat) : Option Cmd := (streamCmds s b strm).find? fun c => c.st == .ready && opc c == op

/-- The streams in STEPPING or FILLING. -/
def activeStreams (s : State) (b : Nat) : Nat := ((bay s b).strm.streams.filter fun e => pinnedStream s b e.1).length

/-- Whether a buttress list is whole up to the stream's position (R189). -/
def buttressWhole (s : State) (b strm : Nat) : Bool :=
  let k := stream s b strm
  k.bLen == k.position && !(listRows s b strm true).any fun r => match listModel s b k true with
    | some m => (List.range m.layers).any fun l => (slab s b (r + l)).loc == .poisoned
    | none => true

/-- Whether a stream's next work uses the buttress model (R145). -/
def usesButtress (s : State) (b : Nat) (k : Stream) : Bool := k.buttressActive && (listModel s b k true).isSome

/-- The streams whose next STREAM_STEP may be gathered (R175, R189), missed deadlines first, then by fetch order. -/
def stepCands (s : State) (b : Nat) : List (Nat × Cmd) :=
  let l := (bay s b).strm.streams.filterMap fun e =>
    let k := e.2
    let butt := usesButtress s b k
    let ok := !k.hold && k.closing.isNone && (k.state == .ready || (k.state == .regen && butt && buttressWhole s b e.1)) &&
      (if butt then k.bLen else k.mLen) == k.position && (listModel s b k butt).isSome
    if ok then (readyCmd s b e.1 opStreamStep).map fun c => (e.1, c) else none
  let missed (x : Nat × Cmd) : Bool := (stream s b x.1).missNow
  let byCid := fun (x y : Nat × Cmd) => decide (x.2.cid ≤ y.2.cid)
  (l.filter missed).mergeSort byCid ++ (l.filter fun x => !missed x).mergeSort byCid

/-- The slab count per layer of a stream's list. -/
def rowCount (s : State) (b strm : Nat) (butt : Bool) : Nat := (listRows s b strm butt).length

/-- The rows a step needs exist, or it ends KV_SPACE_EXHAUSTED (R168, R174), or stays while firmware has to compact first; a step at the limit ends STREAM_FULL. The streams
that may be sealed are collected. -/
def roomFor (b : Nat) : List (Nat × Cmd) → List (Nat × Cmd) → State → List (Nat × Cmd) × State
  | [], acc, s => (acc.reverse, s)
  | x :: xs, acc, s =>
    let k := stream s b x.1
    let butt := usesButtress s b k
    match streamVerdict s x.2, listModel s b k butt with
    | some code, _ => roomFor b xs acc (finish x.2.cid code 0 false s)
    | none, none => roomFor b xs acc s
    | none, some m =>
      if cacheShare s ≤ activeStreams s b + acc.length then (acc.reverse, s)
      else match ensureRows b x.1 butt m (k.position / 256 + 2) k.position s with
        | .fail => roomFor b xs acc (finish x.2.cid 0x42 0 false s)
        | .wait t => roomFor b xs acc t
        | .done t => roomFor b xs (x :: acc) t

/-- The queue priority of a command. -/
def queuePrio (s : State) (b q : Nat) : Nat :=
  match queue? s b q with
  | some x => x.prio
  | none => 0

/-- The member of the highest queue priority. -/
def topMember (s : State) (b : Nat) (l : List (Nat × Cmd)) : Cmd :=
  match l with
  | [] => { cid := 0, bay := b, queue := 0 }
  | x :: xs => (xs.foldl (fun m y => if queuePrio s b m.2.queue < queuePrio s b y.2.queue then y else m) x).2

/-- The draft of a batch step of some streams of one model and role. -/
def stepDraft (s : State) (b : Nat) (m : Model) (butt : Bool) (l : List (Nat × Cmd)) : Draft :=
  let top := topMember s b l
  { model := m.id, kind := .step, buttress := butt
    members := l.map fun x => { strm := x.1, pos := (stream s b x.1).position, step := some x.2.cid }
    maxSlabs := (l.map fun x => rowCount s b x.1 butt).foldl max 0, layerLimit := m.layers - 1
    queue := top.queue, pos := top.pos }

/-- Neighbours in batches of at most `n`. -/
def groupsOf {α : Type} (n : Nat) : Nat → List α → List (List α)
  | 0, _ => []
  | k + 1, l => if l.isEmpty || n = 0 then [] else l.take n :: groupsOf n k (l.drop n)

/-- The batch steps of one model and role from the streams taken, sorted by slab count (R175). -/
def sealSteps (b : Nat) (m : Model) (butt : Bool) (l : List (Nat × Cmd)) (s : State) : State :=
  let mine := l.filter fun x =>
    let k := stream s b x.1
    usesButtress s b k == butt && (if butt then k.buttressId else k.modelId) == m.id
  let sorted := mine.mergeSort fun x y => decide (rowCount s b x.1 butt ≤ rowCount s b y.1 butt)
  each (groupsOf (min m.maxBatch (cacheShare s)) sorted.length sorted) (fun g t => trySeal b (stepDraft t b m butt g) t) s

/-- The steps of a bay are gathered. -/
def gatherSteps (b : Nat) (s : State) : State :=
  let r := roomFor b (stepCands s b) [] s
  each ((bay r.2 b).strm.models.filter fun m => !m.loading && m.fmt == 2) (fun m t =>
    sealSteps b m true r.1 (sealSteps b m false r.1 t)) r.2

/-- A fill of one stream's list from position `p`, `n` positions, from the token log (R188, R191). -/
def logDraft (s : State) (b strm : Nat) (kind : BatchKind) (butt : Bool) (m : Model) (p n limit : Nat) (rebuild : List Nat)
    (q : Nat) : Draft :=
  { model := m.id, kind := kind, buttress := butt, members := [{ strm := strm, pos := p }]
    maxSlabs := max 1 (rowCount s b strm butt), layerLimit := limit, firstPos := p, count := n
    inputVa := (stream s b strm).logVa + 4 * p, rebuild := rebuild, queue := q }

/-- The STREAM_FILLs of a bay (R180). -/
def gatherFills (b : Nat) (s : State) : State :=
  (bay s b).strm.streams.foldl (fun t e =>
    let k := stream t b e.1
    let butt := usesButtress t b k
    match readyCmd t b e.1 opStreamFill, listModel t b k butt with
    | some c, some m =>
      let n := cf c 0x1C 4
      if k.hold || k.closing.isSome || k.state != .ready || cacheShare t ≤ activeStreams t b then t
      else match streamVerdict t c with
        | some code => finish c.cid code 0 false t
        | none =>
          if (if butt then k.bLen else k.mLen) != k.position then t
          else match ensureRows b e.1 butt m ((k.position + n) / 256 + 2) (k.position + n - 1) t with
            | .fail => finish c.cid 0x42 0 false t
            | .wait u => u
            | .done u => trySeal b
                { logDraft u b e.1 .fill butt m k.position n (m.layers - 1) [] c.queue with
                  members := [{ strm := e.1, pos := k.position, step := some c.cid }], inputVa := 0
                  inputs := mread c.stage 0 (4 * n), pos := c.pos } u
    | _, _ => t) s

/-- The catch-up fills of a bay: the list of the role in use lags the stream's position (R146, R191). -/
def gatherCatchups (b : Nat) (s : State) : State :=
  (bay s b).strm.streams.foldl (fun t e =>
    let k := stream t b e.1
    let butt := usesButtress t b k
    let len := if butt then k.bLen else k.mLen
    match listModel t b k butt with
    | none => t
    | some m =>
      let n := min 256 (k.position - len)
      if k.hold || k.closing.isSome || k.state != .ready || n = 0 || cacheShare t ≤ activeStreams t b then t
      else match ensureRows b e.1 butt m ((len + n) / 256 + 2) (len + n - 1) t with
        | .fail => t
        | .wait u => u
        | .done u =>
          let q := match streamCmds u b e.1 with
            | c :: _ => c.queue
            | [] => 0
          trySeal b (logDraft u b e.1 .catchup butt m len n (m.layers - 1) [] q) u) s

/-- The buttress fills that keep b_len near position, taken only where the bay has nothing READY (R191), from READY streams: R158 has
no way from IDLE to FILLING. -/
def gatherButtress (b : Nat) (s : State) : State :=
  if (bayCmds s b).any fun c => isEngineCmd c && c.st == .ready then s
  else (bay s b).strm.streams.foldl (fun t e =>
    let k := stream t b e.1
    match listModel t b k true with
    | none => t
    | some m =>
      let n := min 256 (k.position - k.bLen)
      if k.hold || k.closing.isSome || k.buttressActive || n = 0 || k.state != .ready ||
          cacheShare t ≤ activeStreams t b then t
      else match ensureRows b e.1 true m ((k.bLen + n) / 256 + 2) (k.bLen + n - 1) t with
        | .fail => t
        | .wait u => u
        | .done u => trySeal b (logDraft u b e.1 .fill true m k.bLen n (m.layers - 1) [] 0) u) s

/-- The lowest poisoned slab of a stream's list: its number and its poisoned layers. -/
def poisonedAt (s : State) (b strm : Nat) (butt : Bool) : Option (Nat × List Nat) :=
  match listModel s b (stream s b strm) butt with
  | none => none
  | some m =>
    let rows := listRows s b strm butt
    (List.range rows.length).findSome? fun i =>
      let ls := (List.range m.layers).filter fun l => (slab s b (rows.getD i 0 + l)).loc == .poisoned
      if ls.isEmpty then none else some (i, ls)

/-- Poisoned slabs of a row that holds no position yet have nothing to rebuild: they are VALID again. -/
def emptyRebuilt (b strm : Nat) (butt : Bool) (i : Nat) (s : State) : State :=
  match rowAt s b strm butt i, listModel s b (stream s b strm) butt with
  | some r, some m => cleanRegen b strm (recount b strm (each (List.range m.layers) (fun l =>
      modSlab b (r + l) fun e => if e.loc = .poisoned then { e with loc := .valid, cause := 0 } else e) s))
  | _, _ => s

/-- The regenerations of a bay, streams in the order they were poisoned, one pass of one slab number each (R188). Of a stream with
poison in both lists the main list is rebuilt first: the spec orders slabs within a list only (log entry 64). -/
def gatherRegens (b : Nat) (s : State) : State :=
  let l := ((bay s b).strm.streams.filter fun e => e.2.state == .regen && e.2.regen && e.2.closing.isNone).mergeSort
    fun x y => decide (x.2.regenSince ≤ y.2.regenSince)
  l.foldl (fun t e =>
    if (bay t b).strm.batches.any fun x => x.kind == .regen && x.members.any fun m => m.strm == e.1 then t
    else
      let pick := match poisonedAt t b e.1 false with
        | some r => some (false, r)
        | none => (poisonedAt t b e.1 true).map fun r => (true, r)
      match pick with
      | none => cleanRegen b e.1 t
      | some (butt, i, ls) =>
        let k := stream t b e.1
        match listModel t b k butt with
        | none => t
        | some m =>
          let n := min 256 ((if butt then k.bLen else k.mLen) - 256 * i)
          if n = 0 then emptyRebuilt b e.1 butt i t
          else trySeal b (logDraft t b e.1 .regen butt m (256 * i) n (ls.foldl max 0) ls 0) t) s

/-- Slabs move back from spill ranges into the pool (R172): streams by their most recent step, positions ascending, within the quota.
Of one slab number the main list's go first (log entry 64). -/
def gatherMoves (b : Nat) (s : State) : State :=
  let l := ((bay s b).strm.streams.filter fun e => e.2.spilled).mergeSort fun x y => decide (y.2.lastStep ≤ x.2.lastStep)
  l.foldl (fun t e =>
    let rows := [false, true].map fun butt => listRows t b e.1 butt
    (List.range (rows.foldl (fun n r => max n r.length) 0)).foldl (fun t p => [false, true].foldl (fun t butt =>
      match listModel t b (stream t b e.1) butt, (listRows t b e.1 butt)[p]? with
      | some m, some r => (List.range m.layers).foldl (fun t i =>
          let x := slab t b (r + i)
          let k := stream t b e.1
          if !x.spill || x.moving.isSome || x.loc != .valid || (k.quota != 0 && decide (k.quota ≤ k.hbmSlabs + movingIn t b e.1)) then t
          else match poolFrame t b (slabBytes m) with
            | none => t
            | some a => modSlab b (r + i) (fun y => { y with moving := some a }) t) t
      | _, _ => t) t) t) s

/-- The gatherer's work for one bay's plan. -/
def gatherBay (b : Nat) (s : State) : State :=
  let t := sweepBatches b s
  let t := each (bay t b).strm.batches (fun x t => gatherMore b x.id t) t
  gatherButtress b (gatherSteps b (gatherFills b (gatherCatchups b (gatherRegens b t))))

end Sys2Proof.Machine
end

