-- ==== Sys2Proof/Machine/Commit.lean ====
section
/-! DEFINITION. The commit sequence (R120 to R125, R128, R178), contexts replayed and switched (R140 to R142), and the event
commands (R251). -/
namespace Sys2Proof.Machine

/-! ## Ring slots (R123) -/

/-- Whether the completion ring of a queue has a slot nobody else will use. -/
def cqRoom (q : Queue) : Bool := decide (q.cqNext + q.owed.length + q.cqReserved < q.cqHead + 2 ^ q.log2Cq)

/-- Whether the completion entry of a command has a slot; body and batch commands post none (R176, R260). -/
def cqRoomFor (s : State) (c : Cmd) : Bool :=
  c.parent.isSome || c.batch.isSome || match queue? s c.bay c.queue with
    | some q => cqRoom q
    | none => true

/-- The ENQ records of an outbox for queue `q`. -/
def enqCount (ob : List OutRec) (q : Nat) : Nat := (ob.filter fun r => match r with
  | .enq k _ => k == q
  | _ => false).length

/-- The queues an outbox names. -/
def enqQueues (ob : List OutRec) : List Nat := dedup (ob.filterMap fun r => match r with
  | .enq k _ => some k
  | _ => none)

/-- Whether every device ring an outbox names has room (R123, R257). -/
def enqRoom (s : State) (c : Cmd) : Bool :=
  (enqQueues c.outbox).all fun q => match queue? s c.bay q with
    | none => true
    | some x => decide (x.wp + enqCount c.outbox q ≤ oldestPos s c.bay q x + 2 ^ x.log2Ring)

/-! ## What the commit point releases -/

/-- An ENQ entry in the next slot of its ring, as a doorbell would (R256); one for a queue that is gone is dropped (R257). -/
def enqOut (cid b q : Nat) (entry : List Byte) (s : State) : State :=
  match queue? s b q with
  | none => modCmd cid (fun c => { c with enqDropped := true }) s
  | some x =>
    let t := writeVa b (x.ringAddr + 64 * (x.wp % 2 ^ x.log2Ring)) (padTo 64 entry) s
    doorbellSeen b q (modQueue b q (fun x => { x with wp := x.wp + 1 }) t)

/-- The host writes of a range, page piece by page piece, in its staging copy. -/
def hostOut (c : Cmd) (va n : Nat) (s : State) : State :=
  (pagesOf va n).foldl (fun t p => match xlate t c.bay p.1 2 true with
    | .ok (.host iova) => hostPut c.bay iova (mread c.stage p.1 p.2) t
    | _ => t) s

/-- The WRITE requests of a range (R422). -/
def rangeTxns (s : State) (c : Cmd) (i va n : Nat) : List Txn :=
  (reqPieces va n).filterMap fun p => match xlate s c.bay p.1 2 true with
    | .ok (.remote ep w off) => some { kind := fkWrite, dst := ep, addr := globalAddr w off, len := p.2
                                       data := mread c.stage p.1 p.2, bay := c.bay, va := p.1, owner := .effect c.cid i }
    | _ => none

/-- The request of an ATOMIC or REDUCE record (R425). -/
def effTxn (s : State) (c : Cmd) (i kind va len : Nat) (data : List Byte) : List Txn :=
  match xlate s c.bay va 3 true with
  | .ok (.remote ep w off) => [{ kind := kind, dst := ep, addr := globalAddr w off, len := len, data := data, bay := c.bay
                                 va := va, owner := .effect c.cid i }]
  | _ => []

/-- The fabric requests of outbox record `i`; none for a record with no fabric effect. -/
def recTxns (s : State) (c : Cmd) (i : Nat) : OutRec → Option (List Txn)
  | .range va n (some _) => some (rangeTxns s c i va n)
  | .atomic op ty va a b => some (effTxn s c i fkAtomic va 8 (natLe 1 op ++ natLe 1 ty ++ natLe 6 0 ++ natLe 8 a ++ natLe 8 b))
  | .reduce op ty va src len =>
    some (effTxn s c i fkReduce va len (natLe 1 op ++ natLe 1 ty ++ natLe 6 0 ++ mread c.direct src len))
  | _ => none

/-- A record whose staged source is poisoned reaches no target and counts once as failed (R465). -/
def failRecord (cid code : Nat) : State → State :=
  modCmd cid fun c => { c with remoteFailed := c.remoteFailed + 1, code := if c.code = 0 then code else c.code }

/-- The fabric effects and host writes of record `i` start (R120, R124, R465). -/
def startRecord (cid i : Nat) (bad : Bool) (r : OutRec) (s : State) : State :=
  let c := cmdD s cid
  match r with
  | .range va n none => if bad then failRecord cid 0x32 s else hostOut c va n s
  | _ =>
    match recTxns s c i r with
    | none => s
    | some ts =>
      if bad then failRecord cid 0x32 s
      else if ts.isEmpty then failRecord cid 0x33 s
      else modCmd cid (fun c => { c with
        effs := tput i (ts.length, false) c.effs, effq := c.effq ++ ts, remoteLeft := c.remoteLeft + 1 }) s

/-- The local side effect of a record (R123). -/
def releaseRecord (c : Cmd) (r : OutRec) (s : State) : State :=
  match r with
  | .signal o v => signal c.bay o v s
  | .enq q e => enqOut c.cid c.bay q e s
  | .batch n => batchAdvance c.bay n s
  | _ => s

/-- STAGED outputs in device memory are copied to their ranges (R123 step 1). -/
def copyStaged (c : Cmd) (s : State) : State :=
  if !staged c then s
  else (stageRuns c).foldl (fun t r => (pagesOf r.1 r.2).foldl (fun t p => match xlate t c.bay p.1 2 true with
    | .ok (.hbm pa) => writePa pa (mread c.stage p.1 p.2) t
    | .ok (.win k) => writeWin k (mread c.stage p.1 p.2) t
    | _ => t) t) s

/-- The journal of a command's context is discarded (R140), and its ashlars are free. -/
def freePanel (c : Cmd) (s : State) : State :=
  let t := each (panelIds c) (fun a t => if (ash t a).cid = c.cid then modAsh a (fun x => { x with run := .idle, journal := [] }) t else t) s
  if ctxOf c = 0 then t
  else modSt c.bay (fun y => { y with ctxs := modFirst (fun x => x.handle == ctxOf c) (fun x => { x with pending := false }) y.ctxs }) t

/-- Whether a walked command has chunks left after this one (R182). -/
def moreChunks (c : Cmd) : Bool := match c.walk with
  | some w => decide (w.chunk + 1 < w.chunks)
  | none => false

/-- The next chunk of a walked command is READY (R182): chunk index and output ranges move on; its counts of overruns and detections
are the command's and stay (R132, R455). -/
def nextChunk (c : Cmd) (s : State) : State :=
  match c.walk with
  | none => s
  | some w =>
    modCmd c.cid (fun x => withChunk (w.chunk + 1) { x with
      st := .ready, placed := false, passed := 0, halted := [], outbox := [], outCount := 0, stage := [], stageAt := []
      copied := false, hostPages := [], transPages := [], redet := false, effBase := x.effBase + x.outbox.length
      desc := { x.desc with outs := x.desc.outs.map fun r => { r with va := r.va + w.outStride } }
      walk := some { w with chunk := w.chunk + 1, prod := [], pieces := [], ahead := [] } }) s

/-- Steps 1 and 2 of R123: the staged outputs are copied and the context's journal is discarded, once. -/
def copyOut (cid : Nat) (s : State) : State :=
  let c := cmdD s cid
  if c.copied then s
  else
    let t := modCmd cid (fun c => { c with copied := true }) (copyStaged c s)
    each (panelIds c) (fun a t => if (ash t a).cid = c.cid then modAsh a (fun x => { x with journal := [] }) t else t) t

/-- The records of an outbox with the numbers of their effects. -/
def numbered (c : Cmd) : List (Nat × OutRec) := List.zip ((List.range c.outbox.length).map (c.effBase + ·)) c.outbox

/-- The commit point of a command whose slots are reserved and whose abort flag is clear (R123 step 5, R124). -/
def commitNow (cid : Nat) (bad : List Nat) (s : State) : State :=
  let c := cmdD s cid
  let t := (numbered c).foldl (fun t r => startRecord cid r.1 (bad.contains (r.1 - c.effBase)) r.2 t) s
  let t := (numbered c).foldl (fun t r => releaseRecord c r.2 t) t
  let t := freePanel c (progress c.bay t)
  let t := { t with lift := { t.lift with plan := (t.lift.plan.filter fun p => p.cid != cid).map fun p =>
    { p with after := p.after.filter (· != cid) } } }
  let wake (u : State) : State := match c.batch with
    | some n => wakeBatch c.bay n u
    | none => u
  if moreChunks c then wake (pumpEffects cid (nextChunk (cmdD t cid) t))
  else
    let t := if flag c 5 then signal c.bay (cf c 4 2) (cf c 0x10 8) t else t
    let owed := c.outbox.any fun r => match r with
      | .range _ _ _ => true
      | _ => false
    let t := modCmd cid (fun c => { c with committed := true, copyOwed := owed }) t
    let t := if c.parent.isSome || c.batch.isSome then t
      else modQueue c.bay c.queue (fun q => { q with cqReserved := q.cqReserved + 1 }) t
    wake (finishOwed cid (pumpEffects cid t))

/-- Whether an outbox writes host memory. -/
def hostBound (c : Cmd) : Bool := c.outbox.any fun r => match r with
  | .range _ _ none => true
  | _ => false

/-- COMMIT_POINT (R123): the staging copy comes first, and one that meets an error is a detection; then a ring without a free slot makes
the command wait, and the abort flag is tested; `env.bad` names the outbox records whose staged source is poisoned. -/
def commitPoint (cid : Nat) (env : Env) (s : State) : State :=
  match cmd? s cid with
  | none => s
  | some c =>
    if c.st != .committing || c.committed then s
    else match env.det with
      | some cause => if staged c && !c.copied then detect cid cause none 4 0 s else s
      | none =>
        let t := copyOut cid s
        if !enqRoom t c || !cqRoomFor t c || (hostShut t c.bay && hostBound c) then t
        else if c.abort then killDone cid 0x10 false t
        else commitNow cid ((env.bad.filter fun e => !e.2).map (·.1)) t

/-- COMMIT_POINT (R123). -/
def execCommitPoint (cid : Nat) (env : Env) (s : State) : Host.Outcome State Fault Refusal :=
  run fpWork (commitPoint cid env) s

/-- The staging extent of a command is free, its frames zeroed (R129, R387). -/
def freeStage (cid : Nat) (s : State) : State :=
  let c := cmdD s cid
  modCmd cid (fun c => { c with stage := [], stageAt := [] }) (zeroFrames c.bay c.stageAt s)

/-- POST_COMMIT_COPY_DONE (R120): the staging extent is free. -/
def execPostCommitCopyDone (cid : Nat) (s : State) : Host.Outcome State Fault Refusal :=
  run fpWork (onlyIf (fun t => (cmdD t cid).committed && (cmdD t cid).copyOwed) fun t =>
    flushInval (cmdD t cid).bay
      (finishOwed cid (freeStage cid (modCmd cid (fun c => { c with copyOwed := false }) t)))) s

/-! ## Contexts -/

/-- Context `h` of bay `b` changed by `f`. -/
def modCtx (b h : Nat) (f : Ctx → Ctx) : State → State :=
  modSt b fun y => { y with ctxs := modFirst (fun x => x.handle == h) f y.ctxs }

/-- One journal record put back. -/
def undo (j : JItem) (x : Ashlar) : Ashlar :=
  match j with
  | .line a old => { x with spad := mputs a old x.spad }
  | .row r old => { x with acc := (old.foldl (fun (p : Nat × Tbl W32) w => (p.1 + 1, tput (32 * r + p.1) w p.2)) (0, x.acc)).2 }

/-- A journal replayed in reverse order of its writing: its newest record comes first (R140). -/
def replayAsh (x : Ashlar) : Ashlar := { x.journal.foldl (fun y j => undo j y) x with journal := [] }

/-- The ashlars of a resident context. -/
def ctxIds (x : Ctx) : List Nat := match x.resident with
  | some o => rectIds o.1 o.2 x.w x.h
  | none => []

/-- A pending journal is replayed into the panel (R140). -/
def replay (b h : Nat) (s : State) : State :=
  match ctx? s b h with
  | none => s
  | some x =>
    if !x.pending then s
    else modCtx b h (fun x => { x with pending := false }) (each (ctxIds x) (fun a t => modAsh a replayAsh t) s)

/-- Whether a command of a context is running, or holds its ashlars frozen (R66). -/
def ctxBusy (s : State) (b h : Nat) : Bool := (bayCmds s b).any fun c => ctxOf c == h && h != 0 &&
  (c.st == .running || c.st == .anchored || c.st == .committing || c.st == .frozen)

/-- Where in a context's home region an HBM block lies: the offset of its first byte, the save image of 576 KiB for each ashlar coming
first and the journal after it (R139, log entry 16). -/
def homeOff (s : State) (b : Nat) (x : Ctx) (blk : Nat) : Option Nat :=
  (x.home.findIdx? fun f => physOf s b f 0 / 2 ^ 21 == blk * 512 / 2 ^ 21).map fun i => i * 2 ^ 21 + blk * 512 % 2 ^ 21

/-- The bytes of a context's save image, and of its journal. -/
def imageBytes (x : Ctx) : Nat := x.w * x.h * 576 * 1024

/-- MAC failures a read of the bytes `[lo, hi)` of a context's home region meets (R460): a block whose second read failed is poisoned in
class 7, and the context is damaged (R457, R462). -/
def homeFailures (b h lo hi : Nat) (env : Env) (s : State) : State :=
  each env.bad (fun e t => match ctx? t b h with
    | none => t
    | some x => match homeOff t b x e.1 with
      | none => t
      | some o =>
        if !(decide (lo ≤ o) && decide (o < hi)) || (tget e.1 t.mem.poison).isSome then t
        else if e.2 then countTransient t
        else damageCtx b h (poisonBlock b e.1 7 t)) s

/-- The write of a save image ends the poison of its blocks (R461). -/
def imageWritten (b h : Nat) (s : State) : State :=
  match ctx? s b h with
  | none => s
  | some x => { s with mem := { s.mem with poison := s.mem.poison.filter fun e => match homeOff s b x e.1 with
      | some o => decide (imageBytes x ≤ o)
      | none => true } }

/-- The replay of a journal reads it in the home region first. -/
def replayRead (b h : Nat) (env : Env) (s : State) : State :=
  match ctx? s b h with
  | some x => if x.pending then replay b h (homeFailures b h (imageBytes x) (2 * imageBytes x) env s) else s
  | none => s

/-- JOURNAL_REPLAY_DONE (R140); `env.bad` lists the blocks of the journal that failed their MAC. -/
def execJournalReplayDone (b ctx : Nat) (s : State) (env : Env := {}) : Host.Outcome State Fault Refusal :=
  onUnit (decide (b < s.bays.count)) "bay"
    (run fpWork (onlyIf (fun t => !ctxBusy t b ctx) (replayRead b ctx env)) s)

/-- The save image of one ashlar: the argument window is not part of it (R139). -/
def saveImage (x : Ashlar) : CtxImage :=
  { spad := x.spad.filter fun e => !(decide (0x7FF00 ≤ e.1) && decide (e.1 < 0x80000)), acc := x.acc }

/-- A context's content goes into its save image, after any replay (R141). -/
def switchOut (b : Nat) (x : Ctx) (env : Env) (s : State) : State :=
  let t := imageWritten b x.handle (replayRead b x.handle env s)
  let ids := ctxIds x
  modCtx b x.handle (fun x => { x with
    resident := none, switch := .none, slot := false, blockedSince := none
    images := (List.zip (List.range ids.length) ids).map fun p => (p.1, saveImage (ash t p.2)) }) t

/-- The save image goes onto a panel (R141). -/
def switchIn (b : Nat) (x : Ctx) (x0 y0 : Nat) (env : Env) (s : State) : State :=
  let ids := rectIds x0 y0 x.w x.h
  let s := homeFailures b x.handle 0 (2 * imageBytes x) env s
  let t := (List.zip (List.range ids.length) ids).foldl (fun t p =>
    let i := tgetD p.1 x.images {}
    modAsh p.2 (fun y => { y with spad := i.spad, acc := i.acc, journal := i.journal }) t) s
  let t := modCtx b x.handle (fun x => { x with resident := some (x0, y0), switch := .none, slot := false }) t
  let t := { t with stat := { t.stat with swaps := satAdd 0xFFFF t.stat.swaps 1 } }
  modBay b (fun y => { y with swaps := satAdd 0xFFFF y.swaps 1 }) t

/-- CONTEXT_SWITCH_DONE (R141, R153). -/
def switchDone (b h : Nat) (env : Env) (s : State) : State :=
  match ctx? s b h with
  | none => s
  | some x =>
    match x.switch with
    | .none => s
    | .out => switchOut b x env s
    | .into x0 y0 =>
      if (bay s b).strm.ctxs.any fun y => y.handle != h && (ctxIds y).any ((rectIds x0 y0 x.w x.h).contains ·) then s
      else switchIn b x x0 y0 env s

/-- CONTEXT_SWITCH_DONE (R141); `env.bad` lists the blocks of the home region that failed their MAC as the switch read them. -/
def execContextSwitchDone (b ctx : Nat) (s : State) (env : Env := {}) : Host.Outcome State Fault Refusal :=
  onUnit (decide (b < s.bays.count)) "bay" (run fpWork (switchDone b ctx env) s)

/-! ## Events -/

/-- The final command of a batch's graph advances it when it is an event, which has no outbox (R178). -/
def eventAdvance (cid : Nat) (s : State) : State :=
  match cmd? s cid with
  | none => s
  | some c => match c.batch with
    | none => s
    | some n => match batch? s c.bay n with
      | some x => if c.bodyIdx = x.last ∧ x.code = 0 then batchAdvance c.bay n s else s
      | none => s

/-- An event command completes, and the commands of its batch behind it wake. -/
def eventDone (cid : Nat) (code : Nat) (er : Bool) (s : State) : State :=
  let c := cmdD s cid
  let t := ctlDone cid code 0 er (if code = 0 then eventAdvance cid s else s)
  match c.batch with
  | some n => wakeBatch c.bay n t
  | none => t

/-- EVENT with op 0: nothing beyond its wait and signal (R251). -/
def execEvent (cid : Nat) (s : State) : Host.Outcome State Fault Refusal :=
  ctlOp 0x16 0 cid (fun _ t => eventDone cid 0 false t) s

/-- EVENT with op 1, READ (R251). -/
def eventRead (hostErr : Option Nat) (c : Cmd) (s : State) : State :=
  if hostWaits s c.bay (cf c 0x20 8) (8 * cf c 0x1A 2) 2 then s
  else match readFails s c hostErr with
  | some a => eventDone c.cid 0x33 true (cmdError c 4 0x33 0 a none 0 s)
  | none =>
    let bs := (List.range (cf c 0x1A 2)).flatMap fun i => natLe 8 (syncVal s c.bay (cf c 0x18 2 + i))
    eventDone c.cid 0 false (postVa c.cid c.bay (cf c 0x20 8) bs s)

/-- EVENT_READ (R251); `hostErr` is the first I/O address whose write the host answers with an error. -/
def execEventRead (cid : Nat) (hostErr : Option Nat) (s : State) : Host.Outcome State Fault Refusal :=
  ctlOp 0x16 1 cid (eventRead hostErr) s

end Sys2Proof.Machine
end

