-- ==== Sys2Proof/Machine/Plan.lean ====
section
/-! DEFINITION. How firmware builds the plan of the next lift (R105, R112 to R118, R141, R143, R207, R208, R430, R434): the
order of the commands, their origins, their charges against ashlars and engine slices, chained commands, context switches,
and PLAN_SEAL. -/
namespace Sys2Proof.Machine

/-! ## Blocked commands (R487) -/

/-- The ashlars of a running panel that have not halted. -/
def liveAsh (s : State) (c : Cmd) : List Nat := (panelIds c).filter fun a => (ash s a).cid == c.cid && (ash s a).run == .running

/-- Whether a fetched command that is not DONE is blocked (R487). -/
def blockedCmd (s : State) (c : Cmd) : Bool :=
  match c.st with
  | .waiting => !waitMet s c || !orderClear s c || (opc c == 0x12 && (graph? s c.bay (cf c 0x18 4)).any pinsBefore)
  | .faulted => true
  | .frozen => true
  | .running => isLaunch c && !(liveAsh s c).isEmpty && (liveAsh s c).all fun a => (ash s a).stall == .credit || (ash s a).stall == .joint
  | .committing => !c.committed && (!enqRoom s c || !cqRoomFor s c)
  | .anchored => match colCtx s c.cid with
    | some x => (List.range (x.g.members + 1)).any (waitsFor x)
    | none => false
  | _ => false

/-! ## What a plan has given out -/

/-- The clock and budget of the planned lift, the ashlars no command may take, and what its commands take of the ashlars (their
planned end, in clocks after the opening window), of the quoin engines, the arch unit and the walker. -/
structure Load where
  clk : Nat
  budget : Nat
  period : Nat
  shut : List Nat
  held : List Nat := []
  ends : Tbl Nat := []
  quoin : Tbl Nat := []
  arch : Tbl Nat := []
  walker : Tbl Nat := []
  items : List PlanItem := []
  deriving DecidableEq, Repr, Inhabited

/-- The latest planned end on some ashlars. -/
def Load.endOn (l : Load) (ids : List Nat) : Nat := ids.foldl (fun m a => max m (tgetD a l.ends 0)) 0
/-- Ashlars taken until `e`. -/
def Load.take (l : Load) (ids : List Nat) (e : Nat) : Load := { l with ends := ids.foldl (fun t a => tput a e t) l.ends }
/-- The end of a planned command. -/
def Load.endOf (l : Load) (cid : Nat) : Nat :=
  match l.items.find? fun p => p.cid == cid with
  | some p => p.offset + p.charge
  | none => 0

/-- The lexicographic order of keys. -/
def lexLe : List Nat → List Nat → Bool
  | [], _ => true
  | _ :: _, [] => false
  | x :: xs, y :: ys => if x = y then lexLe xs ys else decide (x < y)

/-- The element of the least key. -/
def bestOf {α : Type} : List (List Nat × α) → Option (List Nat × α)
  | [] => none
  | x :: xs => match bestOf xs with
    | none => some x
    | some y => if lexLe x.1 y.1 then some x else some y

/-- A place in a plan: origin, offset, charge. -/
structure Site where
  x : Nat
  y : Nat
  offset : Nat
  charge : Nat
  deriving DecidableEq, Repr, Inhabited

/-- Whether an origin is not the one a hint prefers for the queue, in coordinates of the share (R209). -/
def notHinted (s : State) (c : Cmd) (o : Nat × Nat) : Bool :=
  match tget c.queue (bay s c.bay).mem.origins with
  | some (x, y, _) => !(o.1 == x && o.2 == courseBase s c.bay + y)
  | none => true

/-- The origins open to a panel command (R141, R207, R481): a context command runs where its context is resident, and a command
without one on no ashlar a resident context holds. -/
def openOrigins (s : State) (l : Load) (c : Cmd) : List (Nat × Nat) :=
  let os := (originsOf s c.bay c.queue (wOf c) (hOf c)).filter fun o => !(rectIds o.1 o.2 (wOf c) (hOf c)).any (l.shut.contains ·)
  if ctxOf c = 0 then os.filter fun o => !(rectIds o.1 o.2 (wOf c) (hOf c)).any (l.held.contains ·)
  else match ctx? s c.bay (ctxOf c) with
    | some x => if x.switch == .none then os.filter fun o => x.resident == some o else []
    | none => []

/-- The sites of a panel command that fit (R109, R114, R132), with the keys of R207: image not loaded, fresh ashlars used, planned
end, hint, y, x. `from_` is the earliest offset of a chained command. -/
def sitesOf (s : State) (l : Load) (c : Cmd) (solo : Bool) (from_ : Nat) : List (List Nat × Site) :=
  (openOrigins s l c).filterMap fun o =>
    let ids := rectIds o.1 o.2 (wOf c) (hOf c)
    let loaded := imageOn s c ids
    let fresh := (ids.filter fun a => (tget a l.ends).isNone).length
    let charge := if solo then l.budget else chargeOf s c loaded l.clk
    let offset := max from_ (l.endOn ids)
    if offset + charge ≤ l.budget && (!solo || offset == 0) then
      some ([b2n (!loaded), fresh, offset + charge, b2n (notHinted s c o), o.2, o.1], ⟨o.1, o.2, offset, charge⟩)
    else none

/-- Whether an earlier COLLECTIVE of the same group is not DONE (R430). -/
def colBehind (s : State) (c : Cmd) : Bool :=
  match c.col with
  | some k => s.cmds.all.any fun e => decide (e.1 < c.cid) && match e.2.col with
    | some j => j.grp == k.grp
    | none => false
  | none => false

/-- The 2 MiB extents of a command's staging extent (R128). -/
def stageNeed (s : State) (c : Cmd) : Nat := ceilDiv (stagedBytes s c) (2 ^ 21)

/-- A command is sealed into the plan (R113). -/
def sealed (c : Cmd) (i : PlanItem) (panel solo : Bool) (s : State) : State :=
  modCmd c.cid (fun x => { x with
    st := .planned, passed := 0, clockWait := 0, solo := solo, stageAt := stagingFrames s c.bay (stageNeed s c)
    placed := panel, x0 := i.x0, y0 := i.y0 }) s

/-- One command tried: the plan and state with it, or none where it does not fit (R115, R116, R129). -/
def tryPlan (c : Cmd) (solo : Bool) (after : List Nat) (l : Load) (s : State) : Option (Load × State) :=
  let from_ := (after.map l.endOf).foldl max 0
  let slice := unitSlice s l.period l.clk
  let pool := decide ((stagingFrames s c.bay (stageNeed s c)).length = stageNeed s c)
  if c.held || !pool || colBehind s c then none
  else if opc c = opQuoin then
    let p := wOf c
    let k := 4 * c.bay + p
    let q := qport s p
    let used := tgetD k l.quoin 0 + boundOf c
    if q.registered && !q.heldReset && !q.frozenBays.contains c.bay && decide (used ≤ quoinSlice s l.period p) then
      let i : PlanItem := { cid := c.cid, offset := from_, charge := if q.mhz = 0 then 0 else ceilDiv (boundOf c * l.clk) q.mhz, after := after }
      some ({ l with quoin := tput k used l.quoin, items := l.items ++ [i] }, sealed c i false solo s)
    else none
  else
    let arch := tgetD c.bay l.arch 0 + (if opc c = opCollective then boundOf c else 0)
    let walk := tgetD c.bay l.walker 0 + (match c.walk with
      | some w => w.bound
      | none => 0)
    if slice < arch || slice < walk then none
    else match bestOf (sitesOf s l c solo from_) with
      | none => none
      | some (_, t) =>
        let i : PlanItem := { cid := c.cid, x0 := t.x, y0 := t.y, offset := t.offset, charge := t.charge, after := after }
        let l := { l.take (rectIds t.x t.y (wOf c) (hOf c)) (t.offset + t.charge) with
          arch := tput c.bay arch l.arch, walker := tput c.bay walk l.walker, items := l.items ++ [i] }
        some (l, sealed c i true solo s)

/-- Commands tried in order; one that does not fit is skipped (R115). -/
def planAll (solo : Bool) (cs : List Cmd) (p : Load × State) : Load × State :=
  cs.foldl (fun p c => (tryPlan c solo [] p.1 p.2).getD p) p

/-! ## The order of R115 -/

/-- The bound an anchored collective has left at the next boundary (R115, R446): the whole budget once it is past its bound. -/
def leftOf (l : Load) (c : Cmd) : Nat :=
  if boundOf c ≤ l.budget * (c.passed + 1) then l.budget else min l.budget (boundOf c - l.budget * (c.passed + 1))

/-- An anchored collective is charged first. -/
def planAnchored (s : State) (c : Cmd) (l : Load) : Load :=
  let left := leftOf l c
  { l.take (panelIds c) left with
    arch := tput c.bay (if left = l.budget then unitSlice s l.period l.clk else tgetD c.bay l.arch 0 + left) l.arch }

/-- Whether a gathered command is part of a regeneration (R188), which goes ahead of the queues. -/
def isRegen (s : State) (c : Cmd) : Bool :=
  match c.batch.bind (batch? s c.bay) with
  | some x => x.kind == .regen
  | none => false
/-- Whether a gathered command is part of a buttress fill nobody waits for (R191), which goes last. -/
def isBackground (s : State) (c : Cmd) : Bool :=
  match c.batch.bind (batch? s c.bay) with
  | some x => x.kind == .fill && x.members.all fun m => m.step.isNone
  | none => false

/-- Lists taken one element of each in turn. -/
def takeTurns {α : Type} : Nat → List (List α) → List α
  | 0, _ => []
  | n + 1, ls => ls.filterMap (·.head?) ++ takeTurns n ((ls.map (·.drop 1)).filter fun l => !l.isEmpty)

/-- The commands of one priority: the queues in round robin after the one served first in the lift before (R115). -/
def turnsOf (s : State) (b p : Nat) (cs : List Cmd) : List Cmd :=
  let mine := cs.filter fun c => queuePrio s b c.queue == p
  let qs := dedup ((mine.map (·.queue)).mergeSort fun x y => decide (x ≤ y))
  let qs := match tget (8 * b + p) s.lift.rr with
    | some r => qs.filter (fun q => decide (r < q)) ++ qs.filter (fun q => decide (q ≤ r))
    | none => qs
  takeTurns mine.length (qs.map fun q => mine.filter fun c => c.queue == q)

/-- One priority of a bay planned, and its first queue served remembered. -/
def planPrio (b : Nat) (cs : List Cmd) (q : Load × State) (p : Nat) : Load × State :=
  let turns := turnsOf q.2 b p cs
  let r := planAll false turns q
  match turns.find? fun c => r.1.items.any fun i => i.cid == c.cid with
  | some c => (r.1, { r.2 with lift := { r.2.lift with rr := tput (8 * b + p) c.queue r.2.lift.rr } })
  | none => r

/-- The READY panel and shared-engine commands of a bay, in fetch order. -/
def readyCmds (s : State) (b : Nat) : List Cmd := (bayCmds s b).filter fun c => isEngineCmd c && c.st == .ready

/-- A bay's READY commands in the order of R115; those of buttress fills nobody waits for come after every other, whatever has
happened to them (R191). -/
def planReady (b : Nat) (p : Load × State) : Load × State :=
  let cs := readyCmds p.2 b
  let back := cs.filter (isBackground p.2)
  let cs := cs.filter fun c => !isBackground p.2 c
  let rerun := cs.filter (·.redet)
  let cs := cs.filter fun c => !c.redet
  let old := cs.filter fun c => decide (32 ≤ c.passed)
  let cs := cs.filter fun c => decide (c.passed < 32)
  let solo := cs.filter fun c => decide (3 ≤ c.overruns)
  let cs := cs.filter fun c => decide (c.overruns < 3)
  let regen := cs.filter (isRegen p.2)
  let cs := cs.filter fun c => !isRegen p.2 c
  let isSolo (c : Cmd) := decide (3 ≤ c.overruns)
  let p := (rerun ++ old).foldl (fun p c => (tryPlan c (isSolo c) [] p.1 p.2).getD p) p
  let p := planAll false regen (planAll true solo p)
  let p := [7, 6, 5, 4, 3, 2, 1, 0].foldl (planPrio b cs) p
  back.foldl (fun p c => (tryPlan c (isSolo c) [] p.1 p.2).getD p) p

/-! ## Chained commands (R117) -/

/-- The planned command whose header signal satisfies the header wait of `c`. -/
def producerOf (s : State) (l : Load) (c : Cmd) : Option Nat :=
  (l.items.find? fun i =>
    let d := cmdD s i.cid
    d.bay == c.bay && flag d 5 && cf d 4 2 == cf c 2 2 && decide (cf c 8 8 ≤ cf d 0x10 8)).map (·.cid)

/-- The state in which every planned command counts as committed, for the queue order of a chained one. -/
def asCommitted (l : Load) (s : State) : State := each l.items (fun i => modCmd i.cid fun c => { c with committed := true }) s

/-- The planned commands ahead of `c` in its queue order. -/
def aheadOf (s : State) (l : Load) (c : Cmd) : List Nat :=
  if flag c 0 then []
  else (l.items.filter fun i =>
    let d := cmdD s i.cid
    d.bay == c.bay && d.queue == c.queue && d.batch == c.batch && d.parent == c.parent && decide (d.cid < c.cid)).map (·.cid)

/-- One WAITING command chained, if an earlier command of the plan signals what it waits for. -/
def chainOne (p : Load × State) (c : Cmd) : Load × State :=
  if c.st != .waiting || waitMet p.2 c || !orderClear (asCommitted p.1 p.2) c || !fitsPeriod p.2 p.1.period c then p
  else match producerOf p.2 p.1 c with
    | none => p
    | some d =>
      let t := if isLaunch c then withSeed c.cid p.2 else p.2
      (tryPlan (cmdD t c.cid) false (dedup (d :: aheadOf p.2 p.1 c)) p.1 t).getD p

/-- The WAITING commands of a bay, in fetch order. -/
def planChained (b : Nat) (p : Load × State) : Load × State :=
  ((bayCmds p.2 b).filter fun c => isEngineCmd c && c.st == .waiting).foldl chainOne p

/-! ## Context switches (R141, R143) -/

/-- The ashlars a switch in progress involves. -/
def switchIds (x : Ctx) : List Nat :=
  match x.switch with
  | .none => []
  | .out => ctxIds x
  | .into x0 y0 => rectIds x0 y0 x.w x.h

/-- The ashlars no plan of the next lift may use: frozen ones (R481) and those of switches (R141). -/
def shutIds (s : State) : List Nat :=
  ((s.grid.ashlars.filter fun e => e.2.run == .frozen).map (·.1)) ++
    s.bays.all.flatMap fun e => e.2.strm.ctxs.flatMap switchIds

/-- The ashlars resident contexts hold. -/
def heldIds (s : State) : List Nat := s.bays.all.flatMap fun e => e.2.strm.ctxs.flatMap ctxIds

/-- The commands of a context. -/
def ctxCmds (s : State) (b h : Nat) : List Cmd := (bayCmds s b).filter fun c => ctxOf c == h
/-- Whether a context may be switched out: none of its commands is PLANNED, RUNNING, ANCHORED or COMMITTING (R141), or keeps its
ashlars frozen (R66). -/
def mayEvict (s : State) (b h : Nat) : Bool := !(ctxCmds s b h).any fun c =>
  c.st == .planned || c.st == .running || c.st == .anchored || c.st == .frozen || (c.st == .committing && !c.committed)
/-- Whether a resident context has no command that can go on, being blocked on an event, a joint credit, a queue or a page fault
(R143). -/
def ctxBlocked (s : State) (b : Nat) (x : Ctx) : Bool := (ctxCmds s b x.handle).all fun c =>
  c.committed || (c.st != .anchored && c.st != .frozen && blockedCmd s c)

/-- How long resident contexts have been blocked. -/
def noteBlocked (b : Nat) (s : State) : State :=
  modSt b (fun y => { y with ctxs := y.ctxs.map fun x =>
    if x.resident.isSome && ctxBlocked s b x then { x with blockedSince := some (x.blockedSince.getD s.lift.num) }
    else { x with blockedSince := none } }) s

/-- The resident contexts of a bay that may be switched out, longest blocked first: with the reserved slot, those whose commands run
or commit but are blocked, too (R143). -/
def victims (s : State) (b : Nat) (forced : Bool) : List Ctx :=
  ((bay s b).strm.ctxs.filter fun x => x.resident.isSome && x.switch == .none &&
      (mayEvict s b x.handle || (forced && ctxBlocked s b x))).mergeSort
    fun x y => decide (x.blockedSince.getD (2 ^ 64) ≤ y.blockedSince.getD (2 ^ 64))

/-- The key of an origin for a context that is not resident (R207): image not loaded, fresh ashlars used, planned end, hint, y, x. -/
def switchKey (s : State) (l : Load) (c : Cmd) (o : Nat × Nat) : List Nat :=
  let ids := rectIds o.1 o.2 (wOf c) (hOf c)
  [b2n (!imageOn s c ids), (ids.filter fun a => (tget a l.ends).isNone).length, l.endOn ids, b2n (notHinted s c o), o.2, o.1]

/-- The best origin a command could take if the ashlars `out` were free (R207): not shut, held by nobody else. -/
def originIf (s : State) (l : Load) (c : Cmd) (out : List Nat) : Option (Nat × Nat) :=
  let shut := shutIds s
  let held := (heldIds s).filter fun a => !out.contains a
  (bestOf ((originsOf s c.bay c.queue (wOf c) (hOf c)).filterMap fun o =>
    if (rectIds o.1 o.2 (wOf c) (hOf c)).any fun a => shut.contains a || held.contains a then none
    else some (switchKey s l c o, o))).map (·.2)

/-- The fewest contexts, longest blocked first, whose going frees an origin: them and the origin (R143). -/
def evictFor (s : State) (l : Load) (c : Cmd) : List Ctx → List Ctx → Option (List Ctx × (Nat × Nat))
  | acc, rest =>
    match originIf s l c (acc.flatMap ctxIds), rest with
    | some o, _ => some (acc, o)
    | none, [] => none
    | none, x :: xs => evictFor s l c (acc ++ [x]) xs
termination_by structural _ rest => rest

/-- The best origin of all for a switch-in, and the contexts that hold its ashlars and go out first (R141, R207). -/
def holdersAt (s : State) (l : Load) (c : Cmd) (vs : List Ctx) : Option (List Ctx × (Nat × Nat)) :=
  (originIf s l c (vs.flatMap ctxIds)).map fun o =>
    (vs.filter fun x => (ctxIds x).any ((rectIds o.1 o.2 (wOf c) (hOf c)).contains ·), o)

/-- A context starts to be switched out. Through the reserved slot it counts, and a command of it that runs is killed for it and waits
READY (R143; log entry 42). -/
def evict (b : Nat) (forced : Bool) (x : Ctx) (s : State) : State :=
  if !forced then modCtx b x.handle (fun x => { x with switch := .out }) s
  else
    let t := each ((ctxCmds s b x.handle).filter fun c => c.st == .running) (fun c t => killReady c.cid t) s
    let t := modCtx b x.handle (fun x => { x with switch := .out, slot := true }) t
    modBay b (fun y => { y with forcedEvict := satAdd 0xFFFF y.forcedEvict 1 })
      { t with stat := { t.stat with forcedEvict := satAdd 0xFFFF t.stat.forcedEvict 1 } }

/-- Whether the reserved slot of a bay is in use: it carries one switch-in and the switch-outs it waits for (R143). -/
def slotBusy (s : State) (b : Nat) : Bool := (bay s b).strm.ctxs.any fun x => x.slot && x.switch != .none

/-- The switches one READY command needs: its context into residence, or blocked holders of its ashlars out. -/
def switchFor (b : Nat) (l : Load) (forced : Bool) (s : State) (c : Cmd) : State :=
  if !onPanel c || (forced && slotBusy s b) then s
  else
    let h := ctxOf c
    match if h = 0 then none else ctx? s b h with
    | some x =>
      if x.switch != .none then s
      else match x.resident with
        | some o =>
          if (originsOf s b c.queue (wOf c) (hOf c)).contains o || !mayEvict s b h then s else evict b false x s
        | none =>
          let vs := (victims s b forced).filter fun y => y.handle != h
          match if forced then evictFor s l c [] vs else holdersAt s l c vs with
          | none => s
          | some (vs, o) => modCtx b h (fun x => { x with switch := .into o.1 o.2, slot := forced }) (each vs (evict b forced) s)
    | none =>
      if h != 0 || !forced then s
      else match evictFor s l c [] (victims s b true) with
        | none => s
        | some (vs, _) => each vs (evict b true) s

/-- The context switches a bay's READY commands need; every resident context blocked brings in the reserved slot. -/
def switchBay (l : Load) (b : Nat) (s : State) : State :=
  let forced := (bay s b).strm.ctxs.all fun x => x.resident.isNone || ctxBlocked s b x
  (readyCmds s b).foldl (switchFor b l forced) s

/-! ## Commands left READY -/

/-- Whether a command that fits at 1.25 GHz does not fit at the clock of the plan (R112). -/
def wantsClock (s : State) (l : Load) (c : Cmd) : Bool :=
  onPanel c && fitsPeriod s l.period c &&
    (originsOf s c.bay c.queue (wOf c) (hOf c)).all fun o =>
      decide (l.budget < chargeOf s c (imageOn s c (rectIds o.1 o.2 (wOf c) (hOf c))) l.clk)

/-- The lowest operating point at which a command fits the lift of a period (R112, R565), 0 where none does. -/
def clockFor (s : State) (period : Nat) (c : Cmd) : Nat :=
  (((List.range 10).map fun i => 800 + 50 * i).find? fun clk =>
    (originsOf s c.bay c.queue (wOf c) (hOf c)).any fun o =>
      decide (chargeOf s c (imageOn s c (rectIds o.1 o.2 (wOf c) (hOf c))) clk ≤ budgetAt period clk)).getD 0

/-- What the READY commands of the planned bays ask of the power manager (R112): the clock the most demanding of them needs. -/
def askClock (l : Load) (bs : List Nat) (s : State) : State :=
  let cs := bs.flatMap fun b => (readyCmds s b).filter (wantsClock s l)
  { s with pwr := { s.pwr with ask := (cs.map (clockFor s l.period)).foldl max 0 } }

/-- A command that stays READY: passed over once more, and CLOCK_WAIT after 64 lifts for want of clock (R112, R115). -/
def passOver (l : Load) (c : Cmd) (s : State) : State :=
  let n := if wantsClock s l c then c.clockWait + 1 else 0
  let t := modCmd c.cid (fun c => { c with passed := c.passed + 1, clockWait := n }) s
  if n = 64 then bayEvent c.bay 0x101 0 c.queue (slotOf s c) t else t

/-- Commands without an origin end PANEL_UNAVAILABLE (R208). -/
def dropUnplaceable (b : Nat) (s : State) : State :=
  (readyCmds s b).foldl (fun t c =>
    if onPanel c && (originsOf t b c.queue (wOf c) (hOf c)).isEmpty then finish c.cid 0x27 0 false t else t) s

/-! ## PLAN_SEAL -/

/-- The bays that are planned for. -/
def plannedBays (s : State) : List Nat := (List.range s.bays.count).filter fun b => (bay s b).st == .attached

/-- The clock of the next lift (R104, R563, R565): a request not yet switched to stands, unless a limit has fallen below it since (R567); a
higher clock waits for its voltage. -/
def nextClock (s : State) : Nat :=
  if s.pwr.req != s.lift.clk && s.pwr.req != 0 && decide (s.pwr.req ≤ max 800 s.pwr.allow) then s.pwr.req
  else match s.pwr.wantClk with
    | some w => if s.lift.clk < w && decide (s.pwr.volt < 30 + w / 25) then s.lift.clk else w
    | none => s.lift.clk

/-- The clock request of the next lift is driven (R563). -/
def requestClock (s : State) : State :=
  let n := nextClock s
  let t := { s with lift := { s.lift with nextClk := n } }
  if n = s.pwr.req ∨ s.pwr.trip then t else emit (.clkReq n) { t with pwr := { t.pwr with req := n, ack := false } }

/-- The plan of one bay. Slabs move where the walker's slice has time left after the walks planned (R172). -/
def planBay (p : Load × State) (b : Nat) : Load × State :=
  let t := noteBlocked b (dropUnplaceable b (gatherBay b p.2))
  let l := (bayCmds t b).foldl (fun l c => if c.st == .anchored then planAnchored t c l else l) p.1
  let r := planChained b (planReady b ({ l with shut := shutIds t, held := heldIds t }, t))
  if tgetD b r.1.walker 0 < unitSlice r.2 r.1.period r.1.clk then (r.1, gatherMoves b r.2) else r

/-- The plan of the next lift is built and sealed (R105, R114 to R117). -/
def sealPlan (s : State) : State :=
  let t := requestClock s
  let clk := t.lift.nextClk
  let l : Load := { clk := clk, budget := budgetAt t.lift.next clk, period := t.lift.next, shut := [] }
  let p := (plannedBays t).foldl planBay (l, t)
  let u := askClock p.1 (plannedBays t) p.2
  let u := each (plannedBays t) (fun b u => each (readyCmds u b) (passOver p.1) u) u
  let u := each (plannedBays t) (switchBay p.1) u
  { u with lift := { u.lift with sealed := some p.1.items } }

/-- PLAN_SEAL (R105): nothing while the block does not serve, is shored, or has sealed its plan. -/
def execPlanSeal (s : State) : Host.Outcome State Fault Refusal :=
  run (.pwr :: fpWork) (onlyIf (fun t => t.lift.serving && !t.rst.shored && t.lift.sealed.isNone) sealPlan) s

/-- PLAN_SEAL_DEADLINE (R105): the seal point passes; a plan not sealed by then is late and starts nothing. -/
def sealDeadline (s : State) : State :=
  let t := raise srcSealPoint s
  if t.lift.sealed.isSome || t.rst.shored then t
  else
    let u := { t with
      lift := { t.lift with sealed := some [] }
      stat := { t.stat with latePlan := satAdd 0xFF t.stat.latePlan 1 } }
    mgrEvent 0x100 0 0 0 u

/-- PLAN_SEAL_DEADLINE (R105). -/
def execPlanSealDeadline (s : State) : Host.Outcome State Fault Refusal :=
  run fpWork (onlyIf (fun t => t.lift.serving) sealDeadline) s

end Sys2Proof.Machine
end

