-- ==== Sys2Proof/Machine/Monitor.lean ====
section
/-! DEFINITION. What the block evaluates at each lift boundary: the deadline monitor (R144 to R147) and the plumb detector's
hangs (R486 to R490). -/
namespace Sys2Proof.Machine

/-! ## Deadlines -/

/-- Whether the deadline monitor looks at a stream (R144): one with a deadline and a token to commit. The spec does not say which streams
are active: the model takes those in READY, STEPPING, FILLING or REGEN whose pending is not 0, one that has only a STREAM_FILL pending
among them (log entry 63). -/
def monitored (k : Stream) : Bool :=
  k.deadline != 0 && k.pending != 0 && (k.state == .ready || k.state == .stepping || k.state == .filling || k.state == .regen)

/-- A projected miss of a stream (R145, R147). -/
def missStream (b strm : Nat) (k : Stream) (s : State) : State :=
  if (listModel s b k true).isSome then modStream b strm (fun k => { k with buttressActive := true, good := 0, missNow := true }) s
  else
    let t := modStream b strm (fun k => { k with missNow := true, misses := satAdd 0xFFFF k.misses 1, missPosted := some k.position }) s
    if k.missPosted == some k.position then t else bayEvent b 0x102 0 strm k.position t

/-- A projection that meets its deadline: four in a row at 90 % or less bring the main model back (R146). -/
def meetStream (b strm proj : Nat) (s : State) : State :=
  modStream b strm (fun k =>
    let good := if k.buttressActive && decide (10 * proj ≤ 9 * k.deadline) then k.good + 1 else 0
    let back := decide (4 ≤ good)
    { k with missNow := false, buttressActive := k.buttressActive && !back, good := if back then 0 else good }) s

/-- The runs a command still needs: one, or one for each chunk left (R182). -/
def runsLeft (c : Cmd) : Nat := match c.walk with
  | some w => w.chunks - w.chunk
  | none => 1

/-- The most runs of a graph of model `m` over a list of `n` slabs per layer: every command walked in chunks of one slab. -/
def graphRuns (s : State) (b g n : Nat) : Nat := match graph? s b g with
  | some x => x.body.length * max 1 n
  | none => 0

/-- The fills a list needs before its next step: 256 positions each (R146, R191). -/
def fillsDue (k : Stream) (butt : Bool) : Nat := ceilDiv (k.position - if butt then k.bLen else k.mLen) 256

/-- The fills the projection of a stream counts: the main list's, and the buttress list's once it is in use (R146, R191). -/
def dueFills (s : State) (b : Nat) (k : Stream) : Nat := fillsDue k false + if usesButtress s b k then fillsDue k true else 0

/-- Whether the next token of a stream is under way: it is a member of a batch step not yet committed. -/
def stepSealed (s : State) (b strm : Nat) : Bool :=
  (bay s b).strm.batches.any fun x => x.kind == .step && !x.committed && x.members.any fun m => m.strm == strm && !m.masked

/-- The fewest lifts the planner needs for a stream's next token (R144): none beyond the current one where its step is sealed, else the
next one; and one more for each fill, whose end the step awaits. -/
def needLeast (s : State) (b strm : Nat) : Nat := (if stepSealed s b strm then 0 else 1) + dueFills s b (stream s b strm)

/-- The most lifts it needs (R144): each run of the bay's fetched commands, of the step and of its fills in a lift of its own. -/
def needMost (s : State) (b strm : Nat) : Nat :=
  let k := stream s b strm
  let n := ceilDiv (k.position + 1) 256
  let held := (((bayCmds s b).filter fun c => isEngineCmd c && !c.committed).map runsLeft).foldl (· + ·) 0
  let own := match model? s b k.modelId with
    | some m => graphRuns s b m.stepG n + fillsDue k false * graphRuns s b m.fillG n
    | none => 0
  let butt := if usesButtress s b k then match model? s b k.buttressId with
      | some m => fillsDue k true * graphRuns s b m.fillG n
      | none => 0
    else 0
  needLeast s b strm + held + own + butt

/-- One stream evaluated (R144). The lifts the planner would need lie between the fewest and the most the queues and plans allow: which,
a free value tells (log entry 63). -/
def evalStream (b strm : Nat) (s : State) : State :=
  let k := stream s b strm
  if !monitored k then modStream b strm (fun k => { k with missNow := false }) s
  else
    let low := needLeast s b strm
    let need := low + (freeVal s).toNat % (needMost s b strm - low + 1)
    let proj := (lift32 s + 2 ^ 32 - k.lastCommit) % 2 ^ 32 + need
    let t := drewFree s
    if k.deadline < proj then missStream b strm k t else meetStream b strm proj t

/-- The deadline monitor (R144). -/
def evalDeadlines (s : State) : State :=
  each (List.range s.bays.count) (fun b t => each (tkeys (bay t b).strm.streams) (evalStream b) t) s

/-! ## Hangs -/

/-- The fetched commands of queue `q` that are not DONE. -/
def heldCmds (s : State) (b q : Nat) : List Cmd := (bayCmds s b).filter fun c => c.queue == q

/-- Whether a queue holds a fetched command that is not DONE (a command whose completion entry is owed is none that is DONE, R113) or unread
entries. -/
def nonIdle (s : State) (b : Nat) (e : Nat × Queue) : Bool :=
  !(heldCmds s b e.1).isEmpty || !e.2.owed.isEmpty || decide (e.2.fetch < e.2.wp)

/-- The queues of a bay that are not idle. -/
def nonIdleQueues (s : State) (b : Nat) : List (Nat × Queue) := (bay s b).eqi.queues.filter (nonIdle s b)

/-- Whether a non-idle queue is blocked (R487, R488): each of its commands is, one that is owed its completion entry never; or it holds
none and is frozen or its bay is at the fetch limit. -/
def queueBlocked (s : State) (b : Nat) (e : Nat × Queue) : Bool :=
  let cs := heldCmds s b e.1
  e.2.owed.isEmpty && if cs.isEmpty then e.2.frozen || decide (fetchLimit s ≤ heldCount s b) else cs.all (blockedCmd s)

/-- Conditions 1 and 2 of R489. -/
def bayStuck (s : State) (b : Nat) : Bool := !(nonIdleQueues s b).isEmpty && (nonIdleQueues s b).all (queueBlocked s b)

/-- The quiet count of a bay (R514), and the end of a declaration when its counter has advanced. -/
def noteQuiet (b : Nat) (s : State) : State :=
  let stuck := bayStuck s b
  modBay b (fun y =>
    if y.progress = y.lastProgress then { y with quiet := satAdd 0xFFFF y.quiet 1, blocked := stuck }
    else { y with quiet := 0, lastProgress := y.progress, declared := false, blocked := stuck }) s

/-- What the record of a blocked command says of its engines (R267). -/
def stuckState (c : Cmd) : Nat := if c.st = .frozen then 3 else if c.st = .running ∨ c.st = .anchored then 1 else 0

/-- A declaration (R490), which fires the source of the plumb detector (R519): the hang number, a HANG record for the oldest command of each queue, a BAY_HANG record. -/
def declareHang (b : Nat) (s : State) : State :=
  let n := (bay s b).hangs + 1
  let qs := nonIdleQueues s b
  let t := modBay b (fun y => { y with hangs := n, declared := true }) s
  let t := each qs (fun e t => match heldCmds t b e.1 with
    | c :: _ => cmdError c 0x07 0 n 0 none (stuckState c) t
    | [] => t) t
  let t := plumbRec { kind := 4, master := 0, bay := b, unit := n, detail := qs.length } t
  raise srcPlumb { t with plumb := { t.plumb with declared := satAdd 0xFFFF t.plumb.declared 1 } }

/-- Whether a hang of the bay is declared at this boundary (R489). -/
def hangs (s : State) (b : Nat) : Bool :=
  let y := bay s b
  y.blocked && !y.declared && decide (s.plumb.quietLifts ≤ y.quiet)

/-- The plumb detector at a boundary (R489, R490). -/
def detectHangs (s : State) : State :=
  let bs := (List.range s.bays.count).filter fun b => (bay s b).st != .absent
  let t := each bs noteQuiet s
  let hung := bs.filter (hangs t)
  let all := bs.all fun b => (nonIdleQueues t b).isEmpty || hung.contains b
  let n := (hung.map fun b => (nonIdleQueues t b).length).foldl (· + ·) 0
  let u := each hung declareHang t
  if !hung.isEmpty && all then
    let v := plumbRec { kind := 5, master := 0, bay := 0xFF, detail := n } u
    { v with plumb := { v.plumb with device := satAdd 0xFFFF v.plumb.device 1 } }
  else u

end Sys2Proof.Machine
end

