-- ==== Sys2Proof/Machine/Lifts.lean ====
section
/-! DEFINITION. The lift sequencer (R102 to R106, R111, R118, R130 to R132): the boundary, the windows, and the start of planned
commands. -/
namespace Sys2Proof.Machine

/-! ## LIFT_BOUNDARY -/

/-- A planned panel or shared-engine command that has not started leaves its plan: READY, or WAITING where it was chained on a
producer that has not committed (R117, R118). -/
def unstart (i : PlanItem) (s : State) : State :=
  modCmd i.cid (fun c =>
    if c.st = .planned ∧ isEngineCmd c then
      { c with st := if i.after.isEmpty then .ready else .waiting, placed := false, stageAt := [] }
    else c) s

/-- Commands that a shortened period leaves no room for end BOUND_TOO_LARGE (R111). -/
def sweepBounds (period : Nat) (s : State) : State :=
  each (s.cmds.all.map Prod.snd) (fun c t =>
    if isEngineCmd c && (c.st == .fetched || c.st == .waiting || c.st == .ready) && !fitsPeriod t period c then
      flushOwed (finish c.cid 0x25 c.result false t)
    else t) s

/-- The new period takes effect (R102). -/
def applyPeriod (s : State) : State :=
  if s.lift.pending then
    let t := { s with lift := { s.lift with period := s.lift.next, pending := false } }
    if s.lift.next < s.lift.period then sweepBounds s.lift.next t else t
  else s

/-- The clock of the new lift (R563): the strobe where a prepared request waits, with the lower voltage after it (R565). Whether
the lift runs at the clock its plan was made for. -/
def applyClock (s : State) : State × Bool :=
  let p := s.pwr
  if p.req = s.lift.clk ∨ p.req = 0 then (s, true)
  else if !p.ack then (s, false)
  else
    let t := emit .clkSwitch { s with lift := { s.lift with clk := p.req } }
    (if p.req < s.lift.clk then
      emit (.avsWrite (10 * pointVolt p.req)) { t with pwr := { t.pwr with volt := pointVolt p.req } } else t, true)

/-- The sealed plan is released; what no longer fits the lift's budget, or the whole of it where nothing may start, goes back
(R105, R106, R563). -/
def releasePlan (start : Bool) (s : State) : State :=
  let l := s.lift.sealed.getD []
  let ok := l.filter fun i => start && decide (i.offset + i.charge ≤ s.lift.budget)
  each (l.filter fun i => !ok.contains i) unstart { s with lift := { s.lift with plan := ok, sealed := none } }

/-- Anchored collectives carried into another lift: one past its bound is counted once (R446). -/
def carryAnchored (s : State) : State :=
  each ((s.cmds.all.map Prod.snd).filter (·.st == .anchored)) (fun c t =>
    let n := c.passed + 1
    let past := decide (boundOf c ≤ n * s.lift.budget)
    match c.col with
    | none => t
    | some k =>
      let t := modCmd c.cid (fun c => { c with passed := n, col := c.col.map fun k => { k with overBound := k.overBound || past } }) t
      if past && !k.overBound then { t with arch := { t.arch with overBound := satAdd 255 t.arch.overBound 1 } } else t) s

/-- Active queues no front serves have waited one more lift (R231). -/
def countUnbound (s : State) : State :=
  each (List.range s.bays.count) (fun b t =>
    modEqi b (fun e => { e with queues := tmap (fun q x => { x with unbound := if activeQ x && !boundQ s b q then x.unbound + 1 else 0 }) e.queues }) t) s

/-- T(n + 1) (R103 to R106): the plan of the lift that ends is over; period, clock and budget of the new one; its plan. What waited for
a request tag goes on. -/
def nextLift (s : State) : State :=
  let late := s.lift.sealed.isNone
  let t := each s.lift.plan unstart s
  let t := carryAnchored t
  let t := applyPeriod t
  let c := applyClock t
  let t := { c.1 with lift := { c.1.lift with
    num := (c.1.lift.num + 1) % 2 ^ 64, window := .opening, throttled := false, clkFixed := c.1.lift.clk
    budget := budgetAt c.1.lift.period c.1.lift.clk } }
  let t := if late && !t.rst.shored then sealDeadline t else t
  let t := compactWanted t
  let t := releasePlan (c.2 && !t.rst.shored) t
  let t := each (List.range t.bays.count) pumpBay t
  raise srcLiftBoundary (dvfsStep (detectHangs (evalDeadlines (countUnbound t))))

/-- LIFT_BOUNDARY (R106). -/
def execLiftBoundary (s : State) : Host.Outcome State Fault Refusal :=
  run (.pwr :: .plumb :: fpWork) (onlyIf (fun t => t.lift.serving) nextLift) s

/-- OPENING_WINDOW_END (R103). -/
def execOpeningWindowEnd (s : State) : Host.Outcome State Fault Refusal :=
  run [.lift] (onlyIf (fun t => t.lift.serving && t.lift.window == .opening) fun t => { t with lift := { t.lift with window := .run } }) s

/-! ## CLOSING_WINDOW_OPEN -/

/-- Whether a running command overruns at the closing window (R130): an ashlar of its panel has not halted, or its engine or the
arch unit has not ended it. -/
def overruns (s : State) (c : Cmd) : Bool :=
  c.st == .running && isEngineCmd c && !(isLaunch c && !c.loading && (panelIds c).all fun a =>
    c.halted.contains a || ((ash s a).cid == c.cid && (ash s a).run == .halted))

/-- A kill for overrun (R132): counted; a command in solo placement ends BOUND_EXCEEDED with its error record, whose clocks run
are a free value within the lift budget it had. -/
def killOverrun (c : Cmd) (s : State) : State :=
  let t := { s with stat := { s.stat with overrun := satAdd 0xFFFF s.stat.overrun 1 } }
  let t := modBay c.bay (fun y => { y with overrun := satAdd 0xFFFF y.overrun 1 }) t
  let t := modCmd c.cid (fun c => { c with overruns := c.overruns + 1 }) t
  if c.solo then
    let d := (freeVal t).toNat % (t.lift.budget + 1)
    finish c.cid 0x31 0 true (halt c.cid none (cmdError c 0x05 0x31 d 0 none 2 (drewFree t)))
  else killReady c.cid t

/-- The closing window opens (R103, R118, R130, R132). -/
def closeWindow (s : State) : State :=
  let t := each ((s.cmds.all.map Prod.snd).filter (overruns s)) killOverrun s
  let u := each s.lift.plan unstart t
  { u with lift := { u.lift with window := .closing } }

/-- CLOSING_WINDOW_OPEN (R130). -/
def execClosingWindowOpen (s : State) : Host.Outcome State Fault Refusal :=
  run fpWork (onlyIf (fun t => t.lift.serving && t.lift.window == .run) closeWindow) s

/-! ## COMMAND_START -/

/-- Whether an ashlar has drained its previous command (R118). -/
def ashFree (s : State) (a : Nat) : Bool :=
  match (ash s a).run with
  | .idle => true
  | .halted => (cmdD s (ash s a).cid).st != .running
  | _ => false

/-- Whether another running command holds an ashlar of a panel (R114). -/
def panelTaken (s : State) (c : Cmd) : Bool :=
  s.cmds.all.any fun e => e.1 != c.cid && (e.2.st == .running || e.2.st == .anchored) && onPanel e.2 &&
    (panelIds e.2).any ((panelIds c).contains ·)

/-- Whether the context of a command is resident on its panel with no pending journal (R118, R141). -/
def ctxReady (s : State) (c : Cmd) : Bool :=
  ctxOf c == 0 || match ctx? s c.bay (ctxOf c) with
    | some x => x.resident == some (c.x0, c.y0) && !x.pending && x.switch == .none && !ctxBusy s c.bay (ctxOf c)
    | none => false

/-- Whether the quoin engine a command names can take it (R559). -/
def quoinFree (s : State) (c : Cmd) : Bool :=
  let q := qport s (wOf c)
  q.ready && q.registered && !q.heldReset && !q.scrub && q.cid.isNone && q.killed.isNone && !q.frozenBays.contains c.bay

/-- The conditions of R118 and R117. -/
def mayStart (s : State) (c : Cmd) : Bool :=
  c.st == .planned && isEngineCmd c && s.lift.window == .run && !s.rst.shored &&
    (s.lift.plan.any fun i => i.cid == c.cid && i.after.isEmpty) && waitMet s c && orderClear s c &&
    (if opc c = opQuoin then quoinFree s c else (panelIds c).all (ashFree s) && !panelTaken s c && ctxReady s c)

/-- The pages of the declared output ranges that lie in host memory or a remote window: device page, and the host page (R395). -/
def outPages (s : State) (c : Cmd) : List (Nat × Option Nat) :=
  (c.desc.outs.flatMap fun r => pagesOf r.va r.len).filterMap fun p =>
    let page := p.1 / 4096 * 4096
    match c.hostPages.find? fun h => h.1 == page with
    | some h => some (page, some (h.2 / 4096))
    | none => match xlate s c.bay page 0 false with
      | .ok (.host iova) => some (page, some (iova / 4096))
      | .ok (.remote _ _ _) => some (page, none)
      | _ => none

/-- The first output page whose translation lacks write permission, with the fault's cause (R395); a host page resolved at the fetch is
checked for its permission alone. -/
def outFault (s : State) (c : Cmd) : Option (Nat × Nat) :=
  (outPages s c).findSome? fun p => match xlate s c.bay p.1 2 false with
    | .fault k => if k % 8 = 1 && c.hostPages.any fun h => h.1 == p.1 then none else some (p.1, k)
    | .ok _ => none

/-- In configuration H, the first page of the declared ranges that is not mapped and was not resolved at the fetch, with the fault's cause
(R392); a page mapped since then counts as mapped. -/
def declFault (s : State) (c : Cmd) : Option (Nat × Nat) :=
  if isF s then none
  else
    let first (rs : List Range) (need : Nat) : Option (Nat × Nat) :=
      (rs.flatMap fun r => pagesOf r.va r.len).findSome? fun p =>
        let page := p.1 / 4096 * 4096
        if c.hostPages.any fun h => h.1 == page then none
        else match xlate s c.bay page need false with
          | .fault k => if k % 8 = 1 then some (p.1, k) else none
          | .ok _ => none
    (first c.desc.ins 1).or (first c.desc.outs 2)

/-- A command's declared range that meets a physical block, cleared of poison (R464): before a re-run after detection, every
poisoned block of its output ranges is written as zeros. -/
def zeroPoisoned (c : Cmd) (s : State) : State :=
  if !c.redet then s
  else (c.desc.outs.flatMap fun r => pagesOf r.va r.len).foldl (fun t p => match xlate t c.bay p.1 0 false with
    | .ok (.hbm pa) => (poisonIn t pa p.2).foldl (fun t e => writePa (e.1 * 512) (List.replicate 512 0) t) t
    | _ => t) s

/-- The command record sent to a quoin engine, beat by beat (R559). The address of a staging extent is a free value. -/
def quoinBeats (c : Cmd) (stageVa : Nat) : List (List Byte) :=
  let rs := c.desc.ins ++ c.desc.outs
  let beats := 6 + ceilDiv rs.length 4
  let args := argBytes c
  let b1 := padTo 64 (natLe 1 c.bay ++ natLe 1 c.desc.ins.length ++ natLe 1 c.desc.outs.length ++ natLe 1 beats ++
    natLe 2 c.desc.argLen ++ natLe 1 (rerunsOf c) ++ natLe 1 (b2n (staged c)) ++
    natLe 8 (if c.stageAt = [] then 0 else stageVa) ++ natLe 8 (c.stageAt.length * 2 ^ 21) ++ natLe 4 (boundOf c))
  [padTo 64 c.entry, b1] ++ (List.range 4).map (fun i => (args.drop (64 * i)).take 64) ++
    (List.range (ceilDiv rs.length 4)).map fun i =>
      padTo 64 (((rs.drop (4 * i)).take 4).flatMap fun r => natLe 8 r.va ++ natLe 4 r.len ++ natLe 4 0)

/-- A quoin command goes to its engine. -/
def startQuoin (c : Cmd) (s : State) : State :=
  let v := (freeVal s).toNat
  emit (.quoinCmd (wOf c) (quoinBeats c v)) (modQp (wOf c) (fun q => { q with
    cid := some c.cid, doneOf := none, writes := [], stat := [] }) (modCmd c.cid (fun c => { c with stageVa := v }) (drewFree s)))

/-- A collective takes its panel: its writes will be journalled (R139, R434), and agreement begins (R435). -/
def startCol (c : Cmd) (s : State) : State :=
  colStart c.cid (each (panelIds c) (fun a t => modAsh a (fun x => { x with cid := c.cid, ctx := true, journal := [] }) t) s)

/-- A program starts: its image is loaded first where an ashlar of the panel does not hold it (R31, R106). -/
def startProgram (c : Cmd) (s : State) : State :=
  if imageOn s c (panelIds c) then startPanel c.cid s else modCmd c.cid (fun x => { x with loading := true }) s

/-- The final command of a batch's graph carries its batch-advance record from the start (R178), with its last chunk. -/
def withAdvance (c : Cmd) (s : State) : State :=
  match c.batch.bind (batch? s c.bay) with
  | some x => if c.bodyIdx = x.last ∧ x.code = 0 ∧ !moreChunks c then modCmd c.cid (fun c => { c with outbox := [.batch x.id], outCount := 1 }) s else s
  | none => s

/-- The command is RUNNING (R113) with its translations held (R395). -/
def startGo (c : Cmd) (s : State) : State :=
  let t := modCmd c.cid (fun x => { x with
    st := .running, halted := [], outbox := [], outCount := 0, transPages := (outPages s c).map (·.1) }) (zeroPoisoned c s)
  let t := withAdvance c t
  let c := cmdD t c.cid
  if opc c = opQuoin then startQuoin c t
  else if opc c = opCollective then startCol c t
  else startProgram c t

/-- COMMAND_START: the output pages are translated first (R392, R395); one that fails is a fault of the command, and one the host has
to translate makes it wait. -/
def commandStart (cid : Nat) (s : State) : State :=
  match cmd? s cid with
  | none => s
  | some c =>
    if !mayStart s c then s
    else match (declFault s c).or (outFault s c) with
      | some f => faultCmd cid f.1 f.2 6 s
      | none =>
        let host := (outPages s c).filterMap fun p => p.2.map fun h => (h, p.1)
        match atsMiss s c.bay host with
        | some p => atsAsk c.bay p.1 p.2 cid 2 6 s
        | none => match atsDenied s c.bay 2 host with
          | some p => fault4Now cid p.2 2 6 s
          | none => startGo c s

/-- COMMAND_START (R118). -/
def execCommandStart (cid : Nat) (s : State) : Host.Outcome State Fault Refusal := run fpWork (commandStart cid) s

end Sys2Proof.Machine
end

