-- ==== Sys2Proof/Machine/Moves.lean ====
section
/-! DEFINITION. Moves of extents (R200 to R206, R210, R212, R214): heat, what an epoch moves, the rounds of a copy, the switch
step, and the end of a backing window. -/
namespace Sys2Proof.Machine

/-! ## Starting moves -/

/-- Whether moves of a bay go on (R214, R322). -/
def mayMove (s : State) (b : Nat) : Bool := ((bay s b).st == .attached || (bay s b).st == .created) && !capBinds s

/-- Extents per direction a bay may move in one epoch (R205, R206): 1/8 of its share of the Kewick payload rate of 100 GB/s a
port. -/
def epochBudget (s : State) : Nat :=
  kwPorts s * 100000 / 8 / s.bays.count * (16 * s.lift.period) / 2 ^ 21

/-- Whether a home lies in a backing window. -/
def inWin : Home → Bool
  | .hbm _ => false
  | .win _ _ => true

/-- Whether a move of an extent may start (R204, R205, R214, R322): none of it is in progress or was abandoned in the last 16 epochs,
the bay's moves go on, and the epoch's budget of each direction it takes is not used up. -/
def mayStartMove (s : State) (b : Nat) (e : Nat × Extent) (dst : Home) : Bool :=
  let m := (bay s b).mem
  mayMove s b && e.2.move.isNone && decide (e.2.noMoveUntil ≤ epoch s) &&
    (!inWin e.2.home || decide (m.usedIn < epochBudget s)) && (!inWin dst || decide (m.usedOut < epochBudget s))

/-- The key of byte `off` of a frame in a backing window. -/
def winKey (b w f off : Nat) : Nat := (16 * b + w) * 2 ^ 44 + f * 2 ^ 21 + off

/-- The reads and writes a copy of `n` bytes from offset `off` of a home makes at the fabric (R202, R423). -/
def ownCopy (b : Nat) (src dst : Home) (off n : Nat) (s : State) : State :=
  let t := match src with
    | .win w f => askWin (winKey b w f off) n s
    | .hbm _ => s
  match dst with
  | .hbm _ => t
  | .win w f => match winFabric t (winKey b w f off) with
    | none => t
    | some p => ownJob { bay := b, wr := true, dst := p.1, addr := p.2, left := n
                         src := some (match src with
                           | .win v g => (true, winKey b v g off)
                           | .hbm g => (false, physOf t b g off)) } t

/-- A move starts: its destination frame is allocated (R202), and the epoch's budgets are drawn on (R205). -/
def startMove (b e : Nat) (dst : Home) (s : State) : State :=
  match extent? s b e with
  | none => s
  | some x => ownCopy b x.home dst 0 (2 ^ 21) (modBm b (fun m => { m with
      extents := tput e { x with move := some { dst := dst } } m.extents
      usedIn := m.usedIn + b2n (inWin x.home), usedOut := m.usedOut + b2n (inWin dst) }) s)

/-- The extents homed in a window, pinned ones first. -/
def evacList (s : State) (b w : Nat) : List (Nat × Extent) :=
  let l := (bay s b).mem.extents.filter fun e => match e.2.home with
    | .win v _ => v == w
    | .hbm _ => false
  l.filter (fun e => (pinOf (bay s b).mem e.1).isSome) ++ l.filter fun e => (pinOf (bay s b).mem e.1).isNone

/-- The free frames of the windows of a bay that are not being removed, but for window `w`. -/
def otherFrames (s : State) (b w : Nat) : Nat :=
  let m := (bay s b).mem
  ((m.windows.filter fun k => k.1 != w && k.2.removing.isNone).map fun k => k.2.len / 2 ^ 21 - (dedup (winUsed m k.1)).length).foldl (· + ·) 0

/-- Whether every extent of a window that has no move under way has room elsewhere (R212). -/
def evacRoom (s : State) (b w : Nat) : Bool :=
  decide (((evacList s b w).filter fun e => e.2.move.isNone).length ≤ freeFrames s b + otherFrames s b w)

/-- The extents of a window being removed start to move out, as far as moves may start (R212). -/
def evacStart (b w : Nat) (s : State) : State :=
  each (evacList s b w) (fun e t => match (freeHbm t b).orElse fun _ => freeWin t b with
    | some h => if mayStartMove t b e h then startMove b e.1 h t else t
    | none => t) s

/-- Whether an extent stays where it is: pinned at its home, or exported (R405). -/
def staysHome (s : State) (b : Nat) (e : Nat × Extent) : Bool :=
  (match pinOf (bay s b).mem e.1 with
   | some _ => true
   | none => false) || exportedExt s b e.1

/-- Whether an extent may be proposed for a move of R206. -/
def free206 (s : State) (b : Nat) (e : Nat × Extent) : Bool :=
  !staysHome s b e && e.2.move.isNone && decide (e.2.noMoveUntil ≤ epoch s) && match e.2.lastMove with
    | some n => decide (n + 8 ≤ epoch s)
    | none => true

/-- Whether a READY or planned command of a bay declares a range in an extent (R201). -/
def declaredHot (s : State) (b e : Nat) : Bool :=
  (bayCmds s b).any fun c => (c.st == .ready || c.st == .planned) &&
    (c.desc.ins ++ c.desc.outs).any fun r => overlaps r.va r.len (e * 2 ^ 21) (2 ^ 21)

/-- The heat of an extent in this epoch (R201). -/
def heatOf (e : Extent) : Nat := e.heat + e.boost
/-- The heat the planner uses. -/
def planHeat (e : Nat × Extent) : Nat := heatOf e.2

/-- The place of a hint in the order extents are moved in: LOCAL, none, REMOTE (R206, R209). -/
def hintRank (s : State) (b e : Nat) : Nat :=
  match hintOf (bay s b).mem e with
  | 1 => 0
  | 2 => 2
  | _ => 1

/-- Extents by descending heat; those within 25 % of a leader are ties, taken in the order of hints and then of addresses
(R206, R213). -/
def byHeat (s : State) (b : Nat) : Nat → List (Nat × Extent) → List (Nat × Extent)
  | 0, _ => []
  | n + 1, l =>
    match l.foldl (fun m e => max m (planHeat e)) 0, l with
    | _, [] => []
    | top, l =>
      let tie := l.filter fun e => decide (3 * top ≤ 4 * planHeat e)
      let rest := l.filter fun e => !decide (3 * top ≤ 4 * planHeat e)
      (tie.mergeSort fun x y => lexLe [hintRank s b x.1, x.1] [hintRank s b y.1, y.1]) ++ byHeat s b n rest

/-- The unpinned HBM-homed extent of least heat that may be displaced; `any` displaces whatever its last move (R206, R210). -/
def coldest (s : State) (b : Nat) (any : Bool) : Option (Nat × Extent) :=
  let l := (bay s b).mem.extents.filter fun e => (match e.2.home with
    | .hbm _ => true
    | .win _ _ => false) && (free206 s b e || (any && !staysHome s b e && e.2.move.isNone && decide (e.2.noMoveUntil ≤ epoch s)))
  match l with
  | [] => none
  | x :: xs =>
    let low := xs.foldl (fun m e => min m (planHeat e)) (planHeat x)
    (l.filter fun e => decide (3 * planHeat e ≤ 4 * low)).mergeSort (fun x y =>
      lexLe [2 - hintRank s b x.1, x.1] [2 - hintRank s b y.1, y.1]) |>.head?

/-! ## An epoch -/

/-- An extent moves into HBM: a free frame, or the frame of a colder one that moves out; whether the epoch's moves go on. -/
def moveIn (b : Nat) (x : Nat × Extent) (need : Nat → Bool) (any : Bool) (s : State) : Bool × State :=
  match freeHbm s b with
  | some h => if mayStartMove s b x h then (true, startMove b x.1 h s) else (false, s)
  | none =>
    match coldest s b any, freeWin s b with
    | some y, some w =>
      if need (planHeat y) && mayStartMove s b x y.2.home && mayStartMove s b y w then
        (true, startMove b x.1 y.2.home (startMove b y.1 w s))
      else (false, s)
    | _, _ => (false, s)

/-- An extent pinned to a full window takes the frame of the coldest unpinned extent there, which moves out (R210); a window being
removed takes none in (R212). -/
def displaceWin (b w : Nat) (e : Nat × Extent) (s : State) : State :=
  let l := ((bay s b).mem.extents.filter fun y => (match y.2.home with
    | .win v _ => v == w
    | .hbm _ => false) && !staysHome s b y && y.2.move.isNone).mergeSort fun x y => decide (planHeat x ≤ planHeat y)
  if (tget w (bay s b).mem.windows).any (·.removing.isSome) then s
  else match l, (freeHbm s b).orElse fun _ => freeWin s b with
    | y :: _, some h =>
      if mayStartMove s b y h && mayStartMove s b e y.2.home then startMove b e.1 y.2.home (startMove b y.1 h s) else s
    | _, _ => s

/-- Pinned extents not at their home move ahead of all others (R210), but those an enabled entry keeps in HBM (R405): of these two rules
the model lets R405 hold while the entry is enabled (log entry 65). -/
def movePinned (b : Nat) (s : State) : State :=
  (bay s b).mem.extents.foldl (fun s e =>
    match pinOf (bay s b).mem e.1 with
    | none => s
    | some k =>
      if atHome k e.2.home || e.2.move.isSome || exportedExt s b e.1 then s
      else match k.home with
        | none => (moveIn b e (fun _ => true) true s).2
        | some w => match freeWinOf s b w with
          | some h => if mayStartMove s b e h then startMove b e.1 h s else s
          | none => displaceWin b w e s) s

/-- The windows being removed go on emptying; one whose extents have no room any more ends its removal with DEVICE_MEMORY_EXHAUSTED
(R204, R212). -/
def retryEvac (b : Nat) (s : State) : State :=
  each (bay s b).mem.windows (fun k t => match k.2.removing with
    | none => t
    | some o =>
      if evacRoom t b k.1 then evacStart b k.1 t
      else opEnd o.1 o.2 0x34 (modBm b (fun m => { m with windows := tput k.1 { k.2 with removing := none } m.windows }) t)) s

/-- The moves of R206. -/
def moveHot (b : Nat) (s : State) : State :=
  let l := (bay s b).mem.extents.filter fun e => free206 s b e && inWin e.2.home
  ((byHeat s b l.length l).foldl (fun (p : Bool × State) x =>
    if !p.1 then p else moveIn b x (fun h => decide (4 * h + 2 ^ 20 ≤ planHeat x)) false p.2) (true, s)).2

/-- The counters of a bay are read and cleared, its heats updated, with 2 MiB more in this epoch for what a READY or planned command
declares (R201), and its budgets of moves begin anew (R205). -/
def coolBay (b : Nat) (s : State) : State :=
  modBm b (fun m => { m with
    usedIn := 0, usedOut := 0
    extents := tmap (fun i x => { x with
      heat := 64 * (x.rd + x.wr) + x.heat / 2, boost := if declaredHot s b i then 2 ^ 21 else 0, rd := 0, wr := 0 }) m.extents }) s

/-- One bay at an epoch boundary (R206). -/
def epochBay (b : Nat) (s : State) : State :=
  let t := pinConflicts b (coolBay b s)
  if !mayMove t b then t else moveHot b (movePinned b (retryEvac b t))

/-- EPOCH_BOUNDARY (R201): served once, at a boundary whose lift number is a multiple of 16. -/
def execEpochBoundary (s : State) : Host.Outcome State Fault Refusal :=
  run [.bays, .mem, .boxes, .dev, .kw, .irq, .out] (onlyIf (fun t => t.lift.serving && t.lift.num % 16 == 0 && t.mem.epochAt != some t.lift.num)
    fun t => each (List.range t.bays.count) epochBay { t with mem := { t.mem with epochAt := some t.lift.num } }) s

/-! ## Copying -/

/-- The pages recorded when a round ends (R202): of those it copied, the ones the command says were written after their copy; and every
other page written since the round before. -/
def recordedNow (v : Move) (dirty : List Nat) : List Nat :=
  dedup (dirty.map (· % 512) ++ if v.round = 0 then [] else v.written.filter fun p => !v.recorded.contains p)

/-- The pages whose writes no copy has yet followed. -/
def unsettled (v : Move) : List Nat := dedup (v.recorded ++ if v.round = 0 then [] else v.written)

/-- A copy or recopy ends (R202, R204): `dirty` are the pages written since it copied them. -/
def copyDone (b e : Nat) (dirty : List Nat) (err : Bool) (s : State) : State :=
  match (extent? s b e).bind (·.move) with
  | none => s
  | some v =>
    if !mayMove s b then s
    else if err then abandonMove b e s
    else
      let rec_ := recordedNow v dirty
      if 3 ≤ v.round ∧ 8 < rec_.length then abandonMove b e s
      else
        let t := modExtent b e (fun x => { x with move := some { v with round := v.round + 1, recorded := rec_, written := [] } }) s
        match extent? s b e with
        | none => t
        | some x => if 3 ≤ v.round then t else each rec_ (fun p t => ownCopy b x.home v.dst (p * 4096) 4096 t) t

/-- MOVE_COPY_DONE (R202): a move with nothing left to recopy, or past its third recopy, copies no more. -/
def execMoveCopyDone (b ext : Nat) (dirty : List Nat) (err : Bool) (s : State) : Host.Outcome State Fault Refusal :=
  onUnit (decide (b < s.bays.count)) "bay" (run [.bays, .mem, .kw, .irq, .out] (onlyIf (fun t => match (extent? t b ext).bind (·.move) with
    | some v => v.round == 0 || (decide (v.round ≤ 3) && !(unsettled v).isEmpty) || decide (8 < (unsettled v).length)
    | none => false) (copyDone b ext dirty err)) s)

/-! ## The switch step -/

/-- Whether the switch step may be performed (R202, R203). -/
def maySwitch (s : State) (b e : Nat) (x : Extent) (v : Move) : Bool :=
  s.lift.window == .closing && mayMove s b && decide (1 ≤ v.round) && decide ((unsettled v).length ≤ 8) &&
    !(bayCmds s b).any (fun c => c.st == .anchored &&
      (c.desc.ins ++ c.desc.outs).any fun r => overlaps r.va r.len (e * 2 ^ 21) (2 ^ 21)) &&
    !(bay s b).mem.extents.any fun y => y.1 != e && y.2.home == v.dst && x.home != v.dst

/-- The bytes of a home, moved to addresses from `base`. -/
def homeCells (s : State) (b : Nat) (h : Home) (base : Nat) : Mem :=
  match h with
  | .hbm f => mslice s.mem.hbm (physOf s b f 0) (2 ^ 21) base
  | .win w f => mslice s.mem.win ((16 * b + w) * 2 ^ 44 + f * 2 ^ 21) (2 ^ 21) base

/-- The contents of one home are those of another from now on. -/
def copyHome (b : Nat) (src dst : Home) (s : State) : State :=
  match dst with
  | .hbm f =>
    let pa := physOf s b f 0
    let bad : Tbl Nat := match src with
      | .hbm g => (poisonIn s (physOf s b g 0) (2 ^ 21)).map fun (e : Nat × Nat) => (e.1 + pa / 512 - physOf s b g 0 / 512, e.2)
      | .win _ _ => []
    { s with mem := { s.mem with
        hbm := mpaste pa (2 ^ 21) (homeCells s b src pa) s.mem.hbm
        poison := bad.foldl (fun t e => tput e.1 e.2 t) (s.mem.poison.filter fun e => !within pa (2 ^ 21) (e.1 * 512) 512)
        valid := if validMode s then (List.range 512).foldl (fun l i => sput (pa / 4096 + i) l) s.mem.valid else s.mem.valid } }
  | .win w f =>
    let k := (16 * b + w) * 2 ^ 44 + f * 2 ^ 21
    { s with mem := { s.mem with win := mpaste k (2 ^ 21) (homeCells s b src k) s.mem.win } }

/-- Whether a home holds poisoned blocks, which cannot be carried into a window. -/
def homePoisoned (s : State) (b : Nat) : Home → Bool
  | .hbm f => !(poisonIn s (physOf s b f 0) (2 ^ 21)).isEmpty
  | .win _ _ => false

/-- Whether an extent is homed in window `w`, or moving into it. -/
def inWindow (w : Nat) (e : Extent) : Bool :=
  (match e.home with
   | .win v _ => v == w
   | .hbm _ => false) || (match e.move with
   | some m => match m.dst with
     | .win v _ => v == w
     | .hbm _ => false
   | none => false)

/-- Pins that name a window being removed end when their last extent has left it (R212). -/
def endPins (b w : Nat) (s : State) : State :=
  each ((bay s b).mem.pins.filter fun p => p.home == some w) (fun p t =>
    if (bay t b).mem.extents.any fun e => pinHas e.1 p && inWindow w e.2 then t
    else pinEvent b p.byMgr 0x105 p.handle p.movedOut
      (modBm b (fun m => { m with pins := m.pins.filter fun q => !(q.handle == p.handle && q.byMgr == p.byMgr) }) t)) s

/-- A window being removed whose last extent has left goes, and its operation ends OK (R212). -/
def windowsEmptied (b : Nat) (s : State) : State :=
  (bay s b).mem.windows.foldl (fun t e =>
    match e.2.removing with
    | none => t
    | some o =>
      let t := endPins b e.1 t
      if (bay t b).mem.extents.any fun x => inWindow e.1 x.2 then t
      else opEnd o.1 o.2 0 (modBm b (fun m => { m with windows := tdrop e.1 m.windows }) t)) s

/-- Whether an extent is homed in a window being withdrawn that a pin names (R212). -/
def leavesWin (s : State) (b : Nat) (x : Extent) (p : Pin) : Bool :=
  match x.home with
  | .win w _ => p.home == some w && (tget w (bay s b).mem.windows).any (·.removing.isSome)
  | .hbm _ => false

/-- The switch step (R203): the contents are at the new home, the old frame is freed. -/
def switchStep (b e : Nat) (x : Extent) (v : Move) (s : State) : State :=
  let t := copyHome b x.home v.dst s
  let t := modExtent b e (fun x => { x with home := v.dst, move := none, lastMove := some (epoch s) }) t
  let t := modBm b (fun m => { m with pins := m.pins.map fun p => if pinHas e p && leavesWin s b x p then { p with movedOut := p.movedOut + 1 } else p }) t
  let t := { t with mem := { t.mem with moved := satAdd 0xFFFF t.mem.moved 1 } }
  let t := zeroHome b x.home t
  windowsEmptied b (settlePins b t)

/-- MOVE_SWITCH (R203); a poisoned extent is not carried into a window: its move is abandoned. -/
def execMoveSwitch (b ext : Nat) (s : State) : Host.Outcome State Fault Refusal :=
  onUnit (decide (b < s.bays.count)) "bay" (run [.bays, .mem, .boxes, .dev, .kw, .irq, .out] (fun t => match extent? t b ext with
    | none => t
    | some x => match x.move with
      | none => t
      | some v =>
        if !maySwitch t b ext x v then t
        else match v.dst with
          | .win _ _ => if homePoisoned t b x.home then abandonMove b ext t else switchStep b ext x v t
          | .hbm _ => switchStep b ext x v t) s)

end Sys2Proof.Machine
end

