-- ==== Sys2Proof/Machine/Bond.lean ====
section
/-! DEFINITION. The placement messages (R209 to R212). -/
namespace Sys2Proof.Machine

/-- The requester's next handle is taken (R293): the manager's own, or the bay's. -/
def takeHandle (b : Nat) (byMgr : Bool) (s : State) : Nat × State :=
  if byMgr then (s.pwr.nextHandle, { s with pwr := { s.pwr with nextHandle := s.pwr.nextHandle + 1 } })
  else ((bay s b).mem.nextHandle, modBm b (fun m => { m with nextHandle := m.nextHandle + 1 }) s)

/-- The extents that pins of one home name. -/
def pinnedTo (m : BayMem) (h : Option Nat) : List Nat :=
  dedup ((m.pins.filter fun p => p.home == h).flatMap fun p => (List.range p.exts).map (p.ext0 + ·))

/-- Whether an extent is pinned to another home than `h`. -/
def pinnedElse (m : BayMem) (h : Option Nat) (e n : Nat) : Bool :=
  m.pins.any fun p => p.home != h && overlaps p.ext0 p.exts e n

/-- The frames of a bay's share that placed memory may take (R199, R210): the share less its fixed-home regions and what is withheld. -/
def placeable (s : State) (b : Nat) : Nat :=
  let kept := dedup ((bay s b).mem.withheld ++ (withheldIn s b).filter fun f => decide (f < stagingBase s))
  shareExtents s - fixedFrames s b - (homeFrames (bay s b).strm).length - kept.length

/-- The refusal of a BOND_PIN (R210), or none. -/
def pinRefused (s : State) (b : Nat) (h : Option Nat) (e n : Nat) : Option Nat :=
  let m := (bay s b).mem
  let total := (dedup (pinnedTo m h ++ (List.range n).map (e + ·))).length
  if 2 ^ 48 < (e + n) * 2 ^ 21 then some 0x23
  else if pinnedElse m h e n then some 0x28
  else match h with
    | none => if placeable s b < total then some 0x34 else none
    | some w => match tget w m.windows with
      | none => some 0x23
      | some k => if k.removing.isSome then some 0x23 else if k.len / 2 ^ 21 < total then some 0x34 else none

/-- A pin is recorded (R204, R210): moves of its extents to another home are abandoned. -/
def pinGo (x : Nat) (r : Req) (s : State) : State :=
  let b := reqBay x r
  let e := fld r.p 0 8 / 2 ^ 21
  let n := fld r.p 8 8 / 2 ^ 21
  let h := if fld r.p 0x10 4 = 0 then none else some (fld r.p 0x14 4)
  match pinRefused s b h e n with
  | some code => reply x code s
  | none =>
    let k := takeHandle b (x == 0) s
    let p : Pin := { handle := k.1, byMgr := x == 0, ext0 := e, exts := n, home := h }
    let t := modBm b (fun m => { m with pins := m.pins ++ [p] }) k.2
    let t := each ((bay t b).mem.extents.filter fun y => pinHas y.1 p && (match y.2.move with
      | some v => !atHome p v.dst
      | none => false)) (fun y t => abandonMove b y.1 t) t
    settlePins b (respond x 0 (natLe 4 k.1) t)

/-- BOND_PIN (R210). -/
def execBondPin (box : Nat) (s : State) : Host.Outcome State Fault Refusal := boxRow [.bays, .mem, .pwr, .dev] 0x200 box (pinGo box) s

/-- BOND_UNPIN (R209). -/
def execBondUnpin (box : Nat) (s : State) : Host.Outcome State Fault Refusal :=
  boxRow [.bays] 0x201 box (fun r t =>
    let b := reqBay box r
    let h := fld r.p 0 4
    if (bay t b).mem.pins.any fun p => p.handle == h && p.byMgr == (box == 0) then
      reply box 0 (modBm b (fun m => { m with pins := m.pins.filter fun p => !(p.handle == h && p.byMgr == (box == 0)) }) t)
    else reply box 0x23 t) s

/-- The panel constraint of a request. -/
def conOf (x handle : Nat) (p : List Byte) : PanelCon :=
  { handle := handle, byMgr := x == 0, queue := fld p 0 2, mode := fld p 2 1, x := fld p 4 1, y := fld p 5 1, w := fld p 6 1, h := fld p 7 1 }

/-- Whether some 1 × 1 panel satisfies every constraint of a list (R211). -/
def someCell (s : State) (ks : List PanelCon) : Bool :=
  (List.range (shareCourses s)).any fun y => (List.range 32).any fun x => ks.all (conAdmits · x y 1 1)

/-- BOND_PANEL_SET (R211): the manager's always takes effect; a guest's is refused where no 1 × 1 panel would satisfy every constraint of the
queue. -/
def panelSetGo (x : Nat) (r : Req) (s : State) : State :=
  let b := reqBay x r
  let h := takeHandle b (x == 0) s
  let k := conOf x h.1 r.p
  let mine := (bay s b).mem.cons.filter fun c => c.queue == k.queue
  if queuesPerBay s ≤ k.queue then reply x 0x23 s
  else if x != 0 && !someCell s (mine ++ [k]) then reply x 0x23 s
  else respond x 0 (natLe 4 h.1) (modBm b (fun m => { m with cons := m.cons ++ [k] }) h.2)

/-- BOND_PANEL_SET (R211). -/
def execBondPanelSet (box : Nat) (s : State) : Host.Outcome State Fault Refusal := boxRow [.bays, .pwr] 0x202 box (panelSetGo box) s

/-- BOND_PANEL_CLEAR (R209, R211): the requester's own constraints on a queue go. -/
def execBondPanelClear (box : Nat) (s : State) : Host.Outcome State Fault Refusal :=
  boxRow [.bays] 0x203 box (fun r t =>
    let b := reqBay box r
    let q := fld r.p 0 2
    if queuesPerBay t ≤ q then reply box 0x23 t
    else reply box 0 (modBm b (fun m => { m with cons := m.cons.filter fun c => !(c.queue == q && c.byMgr == (box == 0)) }) t)) s

/-- BOND_HINT (R209, R213): a hint on extents, or a queue's preferred origin. -/
def execBondHint (box : Nat) (s : State) : Host.Outcome State Fault Refusal :=
  boxRow [.bays] 0x204 box (fun r t =>
    let b := reqBay box r
    if fld r.p 0 1 = 1 then
      reply box 0 (modBm b (fun m => { m with origins := tput (fld r.p 2 2) (fld r.p 4 1, fld r.p 5 1, box == 0) m.origins }) t)
    else
      let e := ceilDiv (fld r.p 8 8) (2 ^ 21)
      let n := (fld r.p 8 8 + fld r.p 0x10 8) / 2 ^ 21 - e
      reply box 0 (modBm b (fun m => { m with hints := (e, n, fld r.p 1 1, box == 0) :: m.hints }) t)) s

/-- The first columns of runs of whole columns: where `ok` holds, the length of the run that starts there. -/
def runLen (ok : Nat → Bool) (x : Nat) : Nat → Nat
  | 0 => 0
  | n + 1 => if ok x then 1 + runLen ok (x + 1) n else 0

/-- The largest rectangle of a share free of lost ashlars: x, y, w, h (R209). -/
def largestFree (s : State) (b : Nat) : Nat × Nat × Nat × Nat :=
  let c := shareCourses s
  if s.grid.lost.isEmpty then (0, 0, 32, c)
  else
    let base := courseBase s b
    (List.range c).foldl (fun best y => (List.range (c - y)).foldl (fun best k =>
      let h := k + 1
      let ok (x : Nat) := (List.range h).all fun j => !isLost s ((base + y + j) * 32 + x)
      (List.range 32).foldl (fun best x =>
        let w := runLen ok x (32 - x)
        if best.2.2.1 * best.2.2.2 < w * h then (x, y, w, h) else best) best) best) (0, 0, 0, 0)

/-- The record of an extent in BOND_QUERY; the home of an extent that is not placed is a free value. -/
def queryRec (s : State) (b e i : Nat) : List Byte :=
  let pinned := b2n (pinOf (bay s b).mem e).isSome
  match extent? s b e with
  | some x =>
    let h := match x.home with
      | .hbm _ => (0, 0)
      | .win w _ => (1, w)
    natLe 1 h.1 ++ natLe 1 h.2 ++ natLe 1 pinned ++ natLe 5 0 ++ natLe 8 (heatOf x)
  | none => natLe 1 (Config.free (s.out.free + i)).toNat ++ natLe 1 0 ++ natLe 1 pinned ++ natLe 5 0 ++ natLe 8 0

/-- The free frames of a bay's backing windows. -/
def freeWinFrames (s : State) (b : Nat) : Nat :=
  let m := (bay s b).mem
  (m.windows.map fun w => w.2.len / 2 ^ 21 - (dedup (winUsed m w.1)).length).foldl (· + ·) 0

/-- BOND_QUERY (R209, R292). -/
def execBondQuery (box : Nat) (s : State) : Host.Outcome State Fault Refusal :=
  boxRow [.out] 0x205 box (fun r t =>
    let b := reqBay box r
    let n := fld r.p 8 4
    let q := largestFree t b
    let recs := (List.range n).flatMap fun i => queryRec t b (fld r.p 0 8 / 2 ^ 21 + i) i
    let u := { t with out := { t.out with free := t.out.free + n } }
    respond box 0 (natLe 4 (freeFrames t b) ++ natLe 4 (freeWinFrames t b) ++
      natLe 1 q.1 ++ natLe 1 q.2.1 ++ natLe 1 q.2.2.1 ++ natLe 1 q.2.2.2 ++ natLe 20 0 ++ recs) u) s

/-- Whether a range of a remote window is granted already (R198). -/
def windowTaken (s : State) (ep win off len : Nat) : Bool :=
  s.bays.all.any fun e => e.2.mem.windows.any fun w => w.2.ep == ep && w.2.win == win && overlaps w.2.off w.2.len off len

/-- BOND_WINDOW_ADD (R198, R212). -/
def execBondWindowAdd (box : Nat) (s : State) : Host.Outcome State Fault Refusal :=
  boxRow [.bays] 0x206 box (fun r t =>
    let b := reqBay box r
    let k : BackWin := { ep := fld r.p 0 2, win := fld r.p 2 2, off := fld r.p 8 8, len := fld r.p 0x10 8
                         added := ((bay t b).mem.windows.map fun w => w.2.added + 1).foldl max 0 }
    if windowTaken t k.ep k.win k.off k.len then reply box 0x23 t
    else match (List.range 8).find? fun i => (tget i (bay t b).mem.windows).isNone with
      | none => reply box 0x34 t
      | some i => respond box 0 (natLe 4 i) (modBm b (fun m => { m with windows := tput i k m.windows }) t)) s

/-- BOND_WINDOW_REMOVE (R212). -/
def windowRemoveGo (x : Nat) (r : Req) (s : State) : State :=
  let b := reqBay x r
  let w := fld r.p 0 4
  match tget w (bay s b).mem.windows with
  | none => reply x 0x23 s
  | some k =>
    if k.removing.isSome then reply x 0x28 s
    else
      let bound := k.len / (kwPorts s * 100000000 / 8 / s.bays.count) + 1000
      accepted x (.windowRemove b w) bound (fun i t =>
        let u := modBm b (fun m => { m with windows := tput w { k with removing := some (x, i) } m.windows }) t
        let u := each ((bay u b).mem.extents.filter fun e => match e.2.move with
          | some v => (match v.dst with
            | .win q _ => q == w
            | .hbm _ => false)
          | none => false) (fun e u => abandonMove b e.1 u) u
        if evacRoom u b w then windowsEmptied b (evacStart b w u) else opEnd x i 0x34 t) s

/-- BOND_WINDOW_REMOVE (R212). -/
def execBondWindowRemove (box : Nat) (s : State) : Host.Outcome State Fault Refusal :=
  boxRow [.bays, .mem, .dev, .kw, .out] 0x207 box (windowRemoveGo box) s

end Sys2Proof.Machine
end

