-- ==== Sys2Proof/Machine/Boxes.lean ====
section
/-! DEFINITION. The general mailbox messages (R292 to R309): queries, attaching, the error ring, lift period, clock floor and power
cap, firmware images, and the footing store with its journal. -/
namespace Sys2Proof.Machine

/-! ## Identity and attaching -/

/-- The result of ABI_QUERY (R292, R294, R295): fw_version and fw_svn are 0 while no firmware runs (R300). -/
def abiResult (s : State) : List Byte :=
  let fw := if s.fw.running then s.fw.active.getD {} else {}
  natLe 2 0x0100 ++ natLe 2 0x0102 ++ natLe 4 fw.version ++ natLe 4 fw.svn ++ natLe 2 6 ++ natLe 2 6 ++
    natLe 1 (b2n (!isF s)) ++ natLe 1 s.bays.count

/-- ABI_QUERY (R292). -/
def execAbiQuery (box : Nat) (s : State) : Host.Outcome State Fault Refusal :=
  boxRow [] 1 box (fun _ t => respond box 0 (abiResult t) t) s

/-- Queue 0 as ATTACH describes it (R293): a kernel queue. -/
def attachQueue (p : List Byte) : Queue :=
  { prio := fld p 0 1, log2Ring := fld p 1 1, log2Cq := fld p 2 1, qflags := fld p 3 1, vector := fld p 4 1
    ringAddr := fld p 8 8, cqAddr := fld p 0x10 8 }

/-- The result of ATTACH (R292): the bay's share. -/
def attachResult (s : State) : List Byte :=
  natLe 2 (queuesPerBay s) ++ natLe 1 (frontsPerBay s) ++ natLe 1 (shareCourses s) ++ natLe 4 (syncPerBay s) ++
    natLe 8 (shareBytes s) ++ natLe 4 (streamsPerBay s) ++ natLe 4 (slabsPerBay s)

/-- ATTACH (R293, R320, R326). -/
def attachGo (x : Nat) (denied : List Nat) (r : Req) (s : State) : State :=
  let b := reqBay x r
  let y := bay s b
  if y.st == .resetting then reply x 0x28 s
  else if !y.eqi.negDone || y.st != .created || !ringsOk s b denied (attachQueue r.p) then reply x 0x23 s
  else respond x 0 (attachResult s) (modBay b (fun y => { y with st := .attached }) (putQueue b 0 (attachQueue r.p) s))

/-- ATTACH (R223, R293); `denied` are the host pages of its rings that the host does not translate. -/
def execAttach (box : Nat) (s : State) (denied : List Nat := []) : Host.Outcome State Fault Refusal := boxRow [.bays] 0x100 box (attachGo box denied) s

/-- ERROR_RING_SET (R266, R292): va 0 removes the ring. -/
def execErrorRingSet (box : Nat) (s : State) : Host.Outcome State Fault Refusal :=
  boxRow [.bays] 0x101 box (fun r t =>
    let va := fld r.p 0 8
    reply box 0 (modEqi (reqBay box r) (fun e => { e with
      errVa := va, errRecs := if va = 0 then 0 else fld r.p 8 4, errPos := 0 }) t)) s

/-! ## Lift period, clock floor, power cap -/

/-- The bound an anchored collective has left (R446): none once it is past it. -/
def boundLeft (s : State) (c : Cmd) : Nat := boundOf c - c.passed * s.lift.budget

/-- LIFT_PERIOD_SET (R102, R293): refused where an anchored collective's remaining bound would lie outside the budget. -/
def liftPeriodGo (x : Nat) (r : Req) (s : State) : State :=
  let p := fld r.p 0 2
  if s.cmds.all.any fun e => e.2.st == .anchored && decide (budgetAt p s.lift.clk < boundLeft s e.2) then reply x 0x23 s
  else reply x 0 { s with lift := { s.lift with next := p, pending := p != s.lift.period } }

/-- LIFT_PERIOD_SET (R102). -/
def execLiftPeriodSet (box : Nat) (s : State) : Host.Outcome State Fault Refusal := boxRow [.lift] 0x400 box (liftPeriodGo box) s

/-- CLOCK_FLOOR_SET (R213, R568): the conflict of the floor it replaces ends first. -/
def clockFloorGo (x : Nat) (r : Req) (s : State) : State :=
  let k := takeHandle 0 true s
  let t := refreshLimits { k.2 with pwr := { k.2.pwr with floor := 0 } }
  let t := refreshLoops { t with pwr := { t.pwr with floor := fld r.p 0 2, floorHandle := k.1 } }
  respond x 0 (natLe 4 k.1) t

/-- CLOCK_FLOOR_SET (R568). -/
def execClockFloorSet (box : Nat) (s : State) : Host.Outcome State Fault Refusal :=
  boxRow [.pwr, .mem, .dev, .ras, .bays] 0x401 box (clockFloorGo box) s

/-- POWER_CAP_SET (R568): the conflict of the cap it replaces ends first. -/
def powerCapGo (x : Nat) (r : Req) (s : State) : State :=
  let k := takeHandle 0 true s
  let t := refreshLimits { k.2 with pwr := { k.2.pwr with cap := 0 } }
  let t := refreshLoops { t with pwr := { t.pwr with cap := fld r.p 0 2, capHandle := k.1 } }
  respond x 0 (natLe 4 k.1) t

/-- POWER_CAP_SET (R568). -/
def execPowerCapSet (box : Nat) (s : State) : Host.Outcome State Fault Refusal :=
  boxRow [.pwr, .mem, .dev, .ras, .bays] 0x402 box (powerCapGo box) s

/-! ## The footing store -/

/-- The bytes of a record. -/
def recBytes (m : Mem) : List Byte := mread m 0 256

/-- A record with its crc (R303). -/
def withCrc (m : Mem) : Mem := mputs 0xFC (natLe 4 (crc32 (mread m 0 0xFC))) m

/-- Whether a record's crc is right (R306). -/
def crcOk (m : Mem) : Bool := leNat (mread m 0xFC 4) == crc32 (mread m 0 0xFC)

/-- The factory record of the configuration (R303): in H the entries of absent ports are 0. -/
def factoryOf (s : State) : Mem := if isF s then factoryRecord else withCrc (mzero 0x98 32 factoryRecord)

/-- The numbers of `n` from `k` on. -/
def from_ (k n : Nat) : List Nat := (List.range n).map (k + ·)

/-- The fields of a record (R303) as (offset, bytes, whether a value lies in the field's range); magic, layout, store_count and crc
may not be touched, and reserved bytes stay 0. -/
def recFields (s : State) : List (Nat × Nat × (Nat → Bool)) :=
  let fixed : Nat → Bool := fun _ => false
  let zero : Nat → Bool := fun v => v == 0
  let any : Nat → Bool := fun _ => true
  [(0, 4, fixed), (4, 2, fixed), (6, 2, zero), (8, 8, fixed), (0x10, 2, fun v => decide (25 ≤ v ∧ v ≤ 1000)),
   (0x12, 1, fun v => [1, 2, 4, 8].contains v || (isF s && v == 16)), (0x13, 1, fun v => decide (v ≤ 1)), (0x14, 4, any),
   (0x18, 1, fun v => v == 1 || v == 2), (0x19, 7, zero), (0x20, 2, any), (0x22, 2, fun v => v == 0 || decide (800 ≤ v ∧ v ≤ 1250)),
   (0x24, 4, zero), (0x28, 1, fun v => v != 0), (0x29, 1, fun v => v != 0), (0x2A, 2, fun v => decide (1 ≤ v ∧ v ≤ 8760)),
   (0x2C, 2, fun v => decide (1 ≤ v ∧ v ≤ 365)), (0x2E, 2, zero), (0x30, 4, any), (0x34, 4, zero), (0x38, 28, any), (0x54, 4, zero),
   (0x58, 32, any), (0xB8, 0x44, zero), (0xFC, 4, fixed)] ++
  (List.range 16).flatMap fun p =>
    if p < kwPorts s then
      [(0x78 + 4 * p, 1, fun v => decide (v ≤ 1)), (0x79 + 4 * p, 1, fun v => v == 2 || v == 3), (0x7A + 4 * p, 1, fun v => decide (v ≤ 10)),
       (0x7B + 4 * p, 1, zero)]
    else [(0x78 + 4 * p, 4, zero)]

/-- Whether every field a write touches stays in its range (R304). -/
def writeOk (s : State) (off n : Nat) (m : Mem) : Bool :=
  (recFields s).all fun f => !overlaps f.1 f.2.1 off n || f.2.2 (leNat (mread m f.1 f.2.1))

/-- CFG_READ (R292, R304). -/
def execCfgRead (box : Nat) (s : State) : Host.Outcome State Fault Refusal :=
  boxRow [] 0x602 box (fun r t => respond box 0 (recBytes (if fld r.p 0 1 = 0 then t.foot.staged else t.foot.record)) t) s

/-- CFG_WRITE (R304). -/
def cfgWriteGo (x : Nat) (r : Req) (s : State) : State :=
  let off := fld r.p 0 2
  let n := fld r.p 2 2
  let m := mputs off ((r.p.drop 8).take n) s.foot.staged
  if writeOk s off n m then reply x 0 { s with foot := { s.foot with staged := m } } else reply x 0x23 s

/-- CFG_WRITE (R304). -/
def execCfgWrite (box : Nat) (s : State) : Host.Outcome State Fault Refusal := boxRow [.foot] 0x603 box (cfgWriteGo box) s

/-- CFG_DISCARD (R304). -/
def execCfgDiscard (box : Nat) (s : State) : Host.Outcome State Fault Refusal :=
  boxRow [.foot] 0x604 box (fun _ t => reply box 0 { t with foot := { t.foot with staged := t.foot.record } }) s

/-- The record with store_count one above the stored value, and its crc (R305 step 1). -/
def nextCount (s : State) (m : Mem) : Mem := withCrc (mputs 8 (natLe 8 (leNat (mread s.foot.record 8 8) + 1)) m)

/-- STOREs that count under R307, within the preceding 24 h. -/
def storesCounted (s : State) : List Nat := s.foot.stores.filter fun t => decide (s.rst.time < t + 86400000000)

/-- STORE, steps 1 and 2 (R305): journal and marker are written; the rest happens at the end of its operation. One that is cut short
leaves its step 2 undone where a free value says so (`cutStore`). -/
def storeGo (x : Nat) (_ : Req) (s : State) : State :=
  if exclusiveBusy s || decide (32 ≤ (storesCounted s).length) then reply x 0x28 s
  else accepted x .store 200 (fun i t =>
    if t.foot.staged = t.foot.record then opEnd x i 0 t
    else
      let m := nextCount t t.foot.staged
      { t with foot := { t.foot with staged := m, journal := m, marker := some (leNat (mread m 8 8)) } }) s

/-- STORE (R305). -/
def execStore (box : Nat) (s : State) : Host.Outcome State Fault Refusal := boxRow [.foot] 0x605 box (storeGo box) s

/-- A STORE in progress is cut short by a reset or by the loss of power (R305, R306): before its marker was written, which leaves the old
record, or after it, which leaves the new one, as a free value says. -/
def cutStore (s : State) : State :=
  if (opOf s .store).isNone || s.foot.marker.isNone then s
  else
    let t := drewFree s
    if (freeVal s).toNat % 2 = 0 then t else { t with foot := { t.foot with marker := none } }

/-- One ended slot of a mailbox is freed (R286). -/
def freeOp (m : Mbx) (i : Nat) : Mbx :=
  if bit m.opDone i then { m with opDone := m.opDone - 2 ^ i, ops := tdrop i m.ops } else m

/-- A write of ones to MBX_STAT.op_done (R286, R290). -/
def clearOps (x mask : Nat) : State → State :=
  modMbx x fun m => (List.range 4).foldl (fun m i => if bit mask i then freeOp m i else m) m

/-- OP_DONE_CLEAR (R286). -/
def execOpDoneClear (box : Nat) (mask : BitVec 4) (s : State) : Host.Outcome State Fault Refusal :=
  onUnit (decide (box ≤ maxBays s)) "mailbox" (run [.boxes] (clearOps box mask.toNat) s)

/-! ## Firmware images -/

/-- The stored fw_min_svn (R299, R306): of a record whose crc is wrong the factory value counts. -/
def storedMinSvn (s : State) : Nat := if crcOk s.foot.record then leNat (mread s.foot.record 0x14 4) else 0

/-- Whether the image a request names by address and size passes R299; one the host does not answer for, or of another size, fails as one
whose signature does. -/
def imageOk (s : State) (r : Req) (img : FwImage) : Bool :=
  img.readable && img.iova == fld r.p 0 8 && img.bytes == fld r.p 8 4 && img.sigOk && decide (img.bytes ≤ 1572864) &&
    decide (storedMinSvn s ≤ img.svn)

/-- The enabled ports start to train (R412, R573). -/
def startPorts (s : State) : State :=
  each (List.range (kwPorts s)) (fun p t => if footFld t (0x78 + 4 * p) 1 = 1 then modKw p (fun x => { x with st := .training }) t else t) s

/-- FW_STAGE under the boot ROM (R300): an image that passes starts at once, and the mailbox is silent until firmware takes it. -/
def bootStage (x : Nat) (img : FwImage) (r : Req) (s : State) : State :=
  if !imageOk s r img then reply x 0x2B s
  else
    let t := respond x 0 (natLe 4 img.version ++ natLe 4 img.svn) s
    let t := modMbx x (fun m => { m with ready := false }) t
    startPorts { t with fw := { active := some img, staged := none, running := true }, start := { t.start with phase := 6 } }

/-- FW_STAGE (R299 to R301). `img` is the image the host holds. -/
def fwStageGo (x : Nat) (img : FwImage) (r : Req) (s : State) : State :=
  if (mbx s x).boot then bootStage x img r s
  else if imageOk s r img then
    respond x 0 (natLe 4 img.version ++ natLe 4 img.svn) { s with fw := { s.fw with staged := some img } }
  else reply x 0x2B { s with fw := { s.fw with staged := none } }

/-- FW_STAGE (R301). -/
def execFwStage (box : Nat) (img : FwImage) (s : State) : Host.Outcome State Fault Refusal :=
  boxRow [.fw, .start, .kw] 0x600 box (fwStageGo box img) s

/-- A new fw_min_svn in the staged and the stored record, with the steps of R305 (R301). -/
def raiseSvn (svn : Nat) (s : State) : State :=
  let set (m : Mem) := nextCount s (mputs 0x14 (natLe 4 svn) m)
  { s with foot := { s.foot with staged := set s.foot.staged, record := set s.foot.record, journal := set s.foot.record } }

/-- FW_ACTIVATE (R301): a full block reset that starts the staged image. -/
def fwActivateGo (x : Nat) (_ : Req) (s : State) : State :=
  match s.fw.staged with
  | none => reply x 0x23 s
  | some img =>
    if exclusiveBusy s then reply x 0x28 s
    else accepted x .fwActivate 10000 (fun _ t =>
      wantReset true 9 (if storedMinSvn t < img.svn then raiseSvn img.svn t else t)) s

/-- FW_ACTIVATE (R301). -/
def execFwActivate (box : Nat) (s : State) : Host.Outcome State Fault Refusal := boxRow [.foot, .rst] 0x601 box (fwActivateGo box) s

end Sys2Proof.Machine
end

