-- ==== Sys2Proof/Machine/Windows.lean ====
section
/-! DEFINITION. Windows on the block's memory (R404 to R408), the host's translation service (R392 to R396, R400), and the BAR2
apertures (R391, R351, R358). -/
namespace Sys2Proof.Machine

/-! ## Windows -/

/-- The extents of a window entry's range. -/
def winExts (s : State) (w : WinEnt) : List (Nat × Extent) :=
  (bay s w.bay).mem.extents.filter fun e => decide (w.base ≤ e.1) && decide (e.1 < w.base + (if w.len = 0 then 524288 else w.len))

/-- The extents of the range that are not at home in HBM. -/
def winAway (s : State) (w : WinEnt) : List (Nat × Extent) := (winExts s w).filter fun e => match e.2.home with
  | .hbm _ => false
  | .win _ _ => true

/-- The status of an enable (R406, R408): 4 field out of range, 3 enabled already, 1 bay absent or TDI locked, 2 no HBM room;
none where it may go on. -/
def enableStatus (s : State) (i : Nat) (w : WinEnt) : Option Nat :=
  if 524288 < w.len || decide (2 ^ 48 < w.base * 2 ^ 21 + winBytes w) then some 4
  else if (tgetD i s.mem.wins {}).enabled then some 3
  else if (bay s w.bay).st == .absent || s.bays.count ≤ w.bay || tdiHides s w.bay then some 1
  else if freeFrames s w.bay < (winAway s w).length then some 2
  else none

/-- An entry is written and, once every extent of its range is in HBM, enabled (R405): moves start for those that are not, as far as
moves may start. One pinned to a backing window is not moved away from there (R210, R216): the enable waits for the pin's end
(log entry 65). -/
def openWin (i : Nat) (w : WinEnt) (s : State) : State :=
  let away := winAway s w
  let pinned (e : Nat) : Bool := (pinOf (bay s w.bay).mem e).any fun p => p.home.isSome
  let t := each (away.filter fun e => !pinned e.1) (fun e t => match freeHbm t w.bay with
    | some h => if mayStartMove t w.bay e h then startMove w.bay e.1 h t else t
    | none => t) s
  { t with mem := { t.mem with wins := tput i { w with enabled := away.isEmpty, opening := !away.isEmpty } t.mem.wins } }

/-- The entry the registers hold. -/
def winRegs (s : State) (i : Nat) : WinEnt :=
  { bay := bits s.mem.winAttr 31 28, perm := bits s.mem.winAttr 27 24, reqId := bits s.mem.winAttr 23 12
    reqMask := bits s.mem.winAttr 11 0, base := s.mem.winBase, len := s.mem.winLen, frozen := (tgetD i s.mem.wins {}).frozen
    viol := (tgetD i s.mem.wins {}).viol }

/-- The status of the last window command. -/
def winStatus (k : Nat) (s : State) : State := { s with mem := { s.mem with winStatus := k } }

/-- A write of XLT_WIN_CTL with a command (R408): ignored while one is in progress. -/
def winCmd (k : Nat) (v : BitVec 32) (f : Nat → State → State) (s : State) : State :=
  let i := bits v.toNat 11 0
  if s.mem.winBusy || bits v.toNat 25 24 != k then s else f i { s with mem := { s.mem with winIndex := i } }

/-- Command 1: the entry is copied into the registers. -/
def winRead (i : Nat) (s : State) : State :=
  let w := tgetD i s.mem.wins {}
  { s with mem := { s.mem with
    winAttr := w.bay * 2 ^ 28 + w.perm * 2 ^ 24 + w.reqId * 2 ^ 12 + w.reqMask, winBase := w.base, winLen := w.len, winStatus := 0 } }

/-- XLT_WIN_READ (R408). -/
def execXltWinRead (v : BitVec 32) (s : State) : Host.Outcome State Fault Refusal := run [.mem] (winCmd 1 v winRead) s

/-- Command 2: busy until the moves end (R405). -/
def winEnable (i : Nat) (s : State) : State :=
  match enableStatus s i (winRegs s i) with
  | some k => winStatus k s
  | none =>
    let t := openWin i (winRegs s i) s
    { t with mem := { t.mem with winStatus := 0, winBusy := (tgetD i t.mem.wins {}).opening } }

/-- XLT_WIN_ENABLE (R408). -/
def execXltWinEnable (v : BitVec 32) (s : State) : Host.Outcome State Fault Refusal := run [.mem, .bays, .kw, .irq, .out] (winCmd 2 v winEnable) s

/-- Command 3: new requests match no more; the command ends when those accepted are answered (R407). -/
def winDisable (i : Nat) (s : State) : State :=
  { s with mem := { s.mem with
    wins := (match tget i s.mem.wins with
      | none => s.mem.wins
      | some w => tput i { w with enabled := false } s.mem.wins)
    winBusy := true, winStatus := 0, winDrain := some i } }

/-- XLT_WIN_DISABLE (R407). -/
def execXltWinDisable (v : BitVec 32) (s : State) : Host.Outcome State Fault Refusal := run [.mem] (winCmd 3 v winDisable) s

/-- One entry being enabled, whose last extent has reached HBM. -/
def winOpened (i : Nat) (s : State) : State :=
  match tget i s.mem.wins with
  | none => s
  | some w =>
    if !w.opening then s
    else
      let t := openWin i w s
      if s.mem.winIndex = i && s.mem.winDrain.isNone && !(tgetD i t.mem.wins {}).opening then { t with mem := { t.mem with winBusy := false } }
      else t

/-- WIN_ENABLE_MOVES_DONE (R405). -/
def execWinEnableMovesDone (s : State) : Host.Outcome State Fault Refusal :=
  run [.mem, .bays, .kw, .irq, .out] (fun t => each (tkeys t.mem.wins) winOpened t) s

/-- WIN_DISABLE_DRAINED (R407): requests are answered one at a time in this model, so none is left. -/
def execWinDisableDrained (s : State) : Host.Outcome State Fault Refusal :=
  run [.mem] (onlyIf (fun t => t.mem.winDrain.isSome) fun t => { t with mem := { t.mem with winBusy := false, winDrain := none } }) s

/-! ## The host's translations -/

/-- The host page a device page of a bay maps. -/
def hostPageOf (s : State) (b va : Nat) : Option Nat :=
  match xlate s b va 0 false with
  | .ok (.host iova) => some (iova / 4096)
  | _ => none

/-- A translation enters the cache; where the bay's partition is full, an entry a free value picks leaves it (R393). -/
def cacheHost (b page perm xl : Nat) (s : State) : State :=
  let a := (bay s b).mem.atc
  if (tget page a).isSome || a.length < 16384 / s.bays.count then modBm b (fun m => { m with atc := tput page (perm, xl) m.atc }) s
  else
    let k := (freeVal s).toNat % a.length
    modBm b (fun m => { m with atc := tput page (perm, xl) (m.atc.eraseIdx k) }) (drewFree s)

/-- What a Translation Completion does for one access that waited (R393, R394, R402): a ring's access freezes its queue where it is
denied, a completion ring then takes what is owed; a command's faults with cause 4 where it is denied. -/
def atsServed (b : Nat) (ok : Bool) (c dev need engine : Nat) (s : State) : State :=
  if engine = 7 ∨ engine = 8 then
    match queue? s b c with
    | none => s
    | some _ => if engine = 7 then (if ok then s else ringFail b c dev false s) else if ok then cqPost b c s else cqFail b c dev s
  else if ok then s
  else match cmd? s c with
    | some x => if x.st == .running || x.st == .planned then fault4Now c dev need engine s else s
    | none => s

/-- A Translation Completion (R393, R394): accesses it grants are performed again, those it does not fault with cause 4. -/
def atsDone (b page perm xl : Nat) (s : State) : State :=
  let w := (bay s b).mem.atsWait.filter fun x => x.1 == page
  if w.isEmpty then s
  else
    let t := modBm b (fun m => { m with atsWait := m.atsWait.filter fun x => x.1 != page }) s
    let t := if perm = 0 then t else cacheHost b page perm xl t
    each w (fun x t => atsServed b (perm / x.2.2.1 % 2 == 1) x.2.1 x.2.2.2.1 x.2.2.1 x.2.2.2.2 t) t

/-- ATS_TRANSLATION_COMPLETION (R393); `xl` is the translated page, the page itself where none is given. -/
def execAtsTranslationCompletion (b page perm : Nat) (s : State) (xl : Option Nat := none) : Host.Outcome State Fault Refusal :=
  onUnit (decide (b < s.bays.count)) "bay" (run fpWork (onlyIf isF (atsDone b page (perm % 4) (xl.getD page))) s)

/-- A fault of cause 4 is decided for the worse: its waiters complete XLT_FAULT (R394, R400). -/
def refuse4 (b i : Nat) (s : State) : State := retryFaults b (refuseFault b i s)

/-- A Page Request Group Response (R394); `perm` and `xl` are what the renewed translation grants, which it asks for. -/
def pageResponse (b i : Nat) (r : PrgResp) (perm : Nat) (xl : Option Nat) (s : State) : State :=
  match tget i (bay s b).mem.faults with
  | none => s
  | some f =>
    if f.cause != 4 || f.state != 2 then s
    else match r with
      | .success =>
        let s := match hostPageOf s b f.page with
          | some h => emit (.translationRequest (b + 1) h (reqT s (b + 1))) s
          | none => s
        if perm / max 1 f.need % 2 = 1 then
          resolveFault b i (match hostPageOf s b f.page with
            | some h => cacheHost b h perm (xl.getD h) s
            | none => s)
        else refuse4 b i s
      | .invalidRequest => refuse4 b i s
      | .responseFailure =>
        let t := modBm b (fun m => { m with priFailed := true }) s
        each ((bay t b).mem.faults.filter fun e => e.2.cause == 4) (fun e t => refuse4 b e.1 t) t

/-- PAGE_REQUEST_GROUP_RESPONSE (R394). -/
def execPageRequestGroupResponse (b idx : Nat) (r : PrgResp) (perm : Nat) (s : State) (xl : Option Nat := none) : Host.Outcome State Fault Refusal :=
  onUnit (decide (b < s.bays.count)) "bay" (run fpWork (onlyIf isF (pageResponse b idx r (perm % 4) xl)) s)

/-- The device pages of a bay that map host pages `[p, p + k)`: page and count. -/
def devicePages (s : State) (b p k : Nat) : List (Nat × Nat) :=
  (bay s b).mem.maps.filterMap fun m => match m.tgt with
    | .host iova =>
      let a := max p (iova / 4096)
      let e := min (p + k) (iova / 4096 + m.pages)
      if a < e then some (m.page + (a - iova / 4096), e - a) else none
    | .remote _ _ _ => none

/-- An ATS Invalidate Request (R395): cached translations go, holders that have not committed are killed, and it is answered when no
committed command holds one. -/
def atsInvalidate (b page pages : Nat) (s : State) : State :=
  let dev := devicePages s b page pages
  let t := modBm b (fun m => { m with
    atc := m.atc.filter fun e => !(decide (page ≤ e.1) && decide (e.1 < page + pages)), inval := m.inval ++ [(page, pages)] }) s
  let hit := (bayCmds t b).filter fun c => isEngineCmd c && !c.committed && (c.st == .running || c.st == .committing) &&
    (heldPages t c).any fun q => dev.any fun d => decide (d.1 ≤ q) && decide (q < d.1 + d.2)
  flushInval b (each (hit.map (·.cid)) killReady t)

/-- ATS_INVALIDATE_REQUEST (R395). -/
def execAtsInvalidateRequest (b page pages : Nat) (s : State) : Host.Outcome State Fault Refusal :=
  onUnit (decide (b < s.bays.count)) "bay" (run fpWork (onlyIf isF (atsInvalidate b page pages)) s)

/-- The device address a bay maps to a host address, 0 where none does. -/
def deviceOf (s : State) (b iova : Nat) : Nat :=
  ((bay s b).mem.maps.findSome? fun m => match m.tgt with
    | .host a => if a ≤ iova ∧ iova < a + 4096 * m.pages then some (4096 * m.page + (iova - a)) else none
    | .remote _ _ _ => none).getD 0

/-- A request of a running command that the host answers with Unsupported Request or Completer Abort ends it (R392). -/
def hostError (cid iova : Nat) (s : State) : State :=
  match cmd? s cid with
  | none => s
  | some c =>
    if c.st == .running && isEngineCmd c then
      killDone cid 0x33 true (cmdError c 4 0x33 0 (deviceOf s c.bay iova) none 2 s)
    else s

/-- HOST_REQUEST_ERROR (R392). -/
def execHostRequestError (cid iova : Nat) (s : State) : Host.Outcome State Fault Refusal := run fpWork (hostError cid iova) s

/-- A write of XLT_FLT_CTL (R400, R401): with refuse 1 it refuses the record it names, if that is open. -/
def faultCtl (b : Nat) (v : BitVec 32) (s : State) : State :=
  if bit v.toNat 31 && !s.sec.repointing && (tget (bits v.toNat 5 0) (bay s b).mem.faults).isSome then refuse4 b (bits v.toNat 5 0) s else s

/-- XLT_FLT_CTL_REFUSE (R400). -/
def execXltFltCtlRefuse (b : Nat) (v : BitVec 32) (s : State) (t : Option Nat := none) : Host.Outcome State Fault Refusal :=
  onUnit (decide (b < s.bays.count)) "bay" (run fpWork (onBar b t (faultCtl b v)) s)

/-! ## BAR2 -/

/-- The bytes of a function's aperture. -/
def apertureBytes (s : State) (fn : Nat) : Nat := if fn = 0 then 2 ^ 36 else 2 ^ 36 / s.bays.count

/-- Whether a physical page holds sealed weights of its bay (R351). -/
def physWeights (s : State) (pa : Nat) : Bool :=
  match bayOfPhys s pa with
  | none => false
  | some b => (bay s b).mem.extents.any fun e => match e.2.home with
    | .hbm f => physOf s b f 0 / 2 ^ 21 == pa / 2 ^ 21 && holdsWeights s b (e.1 * 2 ^ 21 + pa % 2 ^ 21)
    | .win _ _ => false

/-- The physical byte the manager's aperture reaches, none where it reads 0 (R351, R358, R391). -/
def mgrPhys (s : State) (off : Nat) : Option Nat :=
  let pa := s.mem.apBase * 2 ^ 30 + off
  if physReserved s pa || physWeights s pa then none
  else match bayOfPhys s pa with
    | some b => if tdiHides s b then none else some pa
    | none => none

/-- The place a function's aperture byte reaches, none where it reads 0 and ignores writes (R391). -/
def aperture (s : State) (fn off : Nat) (wr : Bool) : Option Place :=
  if s.sec.repointing || apertureBytes s fn ≤ off then none
  else if fn = 0 then (mgrPhys s off).map .hbm
  else if 2 ^ 48 ≤ off || holdsWeights s (fn - 1) off then none
  else match xlate s (fn - 1) off (if wr then 2 else 1) false with
    | .ok (.hbm pa) => some (.hbm pa)
    | .ok (.win k) => some (.win k)
    | _ => none

/-- The byte of an aperture. -/
def apertureByte (s : State) (fn off : Nat) : Byte :=
  match aperture s fn off false with
  | some (.hbm pa) => mget s.mem.hbm pa
  | some (.win k) => mget s.mem.win k
  | _ => 0

/-- The page pieces of an access that reach HBM: the bay's address (the aperture's where there is none), physical address, bytes. -/
def apertureHbm (s : State) (fn off n : Nat) (wr : Bool) : List (Nat × Nat × Nat) :=
  (pagesOf off n).filterMap fun p => match aperture s fn p.1 wr with
    | some (.hbm pa) => some (p.1, pa, p.2)
    | _ => none

/-- An access to the aperture meets the MACs of the blocks it reads: a write, of those it covers in part (R363, R460). -/
def apertureMac (fn off n : Nat) (wr : Bool) (env : Env) (s : State) : State :=
  each (apertureHbm s fn off n wr) (fun q t => (if wr then mergeFailures else macFailures) (if fn = 0 then (bayOfPhys s q.2.1).getD 0xFF else fn - 1) q.1 q.2.1 q.2.2 env t) s

/-- Accesses through a bay's aperture that reach placed memory count (R200); what the aperture refuses does not. -/
def countAperture (fn off n : Nat) (wr : Bool) (s : State) : State :=
  if fn = 0 then s
  else if (pagesOf off n).all fun p => (aperture s fn p.1 wr).isSome then countRange (fn - 1) off n wr s
  else each ((pagesOf off n).filter fun p => (aperture s fn p.1 wr).isSome) (fun p => countRange (fn - 1) p.1 p.2 wr) s

/-- The reads of other endpoints of an aperture access: of extents homed in a backing window alone, since pages of host memory and of remote
windows read zero (R391, R423). -/
def askAperture (fn off n : Nat) (s : State) : State :=
  if fn = 0 then s else each ((pagesOf off n).filter fun p => (aperture s fn p.1 false).isSome) (fun p => askVa (fn - 1) p.1 p.2) s

/-- A read of BAR2 (R391, R461): poison is answered with the EP bit and zeros. -/
def bar2Read (fn off n : Nat) (env : Env) (s : State) : State :=
  let t := apertureMac fn off n false env s
  if (apertureHbm t fn off n false).any fun q => !(poisonIn t q.2.1 q.2.2).isEmpty then
    emit (.reply (List.replicate n 0) true) t
  else
    let t := askAperture fn off n (countAperture fn off n false t)
    emit (.reply ((List.range n).map fun i => apertureByte t fn (off + i)) false) t

/-- A request to a function's BARs. -/
def onFn (fn : Nat) (t : Option Nat) (f : State → State) (s : State) : State := if fn = 0 then onPf f s else onBar (fn - 1) t f s

/-- BAR2_READ (R391). -/
def execBar2Read (fn off len : Nat) (env : Env) (s : State) (t : Option Nat := none) : Host.Outcome State Fault Refusal :=
  onUnit (decide (fn ≤ s.bays.count)) "function" (run [.out, .mem, .ras, .irq, .bays, .kw] (onFn fn t (bar2Read fn off len env)) s)

/-- One page piece of a write of BAR2 (R391, R461). -/
def bar2Piece (fn off : Nat) (bs : List Byte) (s : State) : State :=
  match aperture s fn off true with
  | some (.hbm pa) => writePa pa bs s
  | some (.win k) => writeWin k bs s
  | _ => s

/-- A write of BAR2: less than whole blocks are merged (R363). -/
def bar2Write (fn off : Nat) (d : List Byte) (env : Env) (s : State) : State :=
  let t := countAperture fn off d.length true (apertureMac fn off d.length true env s)
  (pagesOf off d.length).foldl (fun t p => bar2Piece fn p.1 ((d.drop (p.1 - off)).take p.2) t) t

/-- BAR2_WRITE (R391). -/
def execBar2Write (fn off : Nat) (d : List Byte) (env : Env) (s : State) (t : Option Nat := none) : Host.Outcome State Fault Refusal :=
  onUnit (decide (fn ≤ s.bays.count)) "function" (run [.out, .mem, .ras, .irq, .bays, .kw] (onFn fn t (bar2Write fn off d env)) s)

end Sys2Proof.Machine
end

