-- ==== Sys2Proof/Machine/Bays.lean ====
section
/-! DEFINITION. The life of a bay (R310, R311, R318 to R327), the release of frozen masters (R482, R483), and configuration writes
of the host (R355). -/
namespace Sys2Proof.Machine

/-! ## Frozen masters -/

/-- Whether the master of a FROZEN command is still frozen: an ashlar that a compute-part reset freed is not (R483). -/
def stillFrozen (c : Cmd) : Bool := c.st == .frozen && match c.viol with
  | some v => v.master != 2 || v.ashlar.isSome
  | none => false

/-- A record for every frozen master of a bay: kind 2 RELEASED, 3 ENDED (R482 to R484). -/
def masterRecs (kind b : Nat) (s : State) : State :=
  let t := each ((bay s b).eqi.queues.filter (·.2.frozen)) (fun e t =>
    plumbRec { kind := kind, master := 1, bay := b, reason := e.2.viol.1, queue := e.1, slot := e.2.viol.2.1, detail := e.2.viol.2.2 } t) s
  let t := each ((bayCmds s b).filter stillFrozen) (fun c t =>
    let v := c.viol.getD { master := 2, reason := 0 }
    plumbRec { kind := kind, master := v.master, bay := b, reason := v.reason, queue := c.queue, slot := slotOf t c
               ashlar := v.ashlar.getD 0xFFFF, unit := v.unit, address := v.address, detail := v.detail } t) t
  each (s.mem.wins.filter fun e => e.2.frozen && e.2.bay == b) (fun e t =>
    plumbRec { kind := kind, master := 5, bay := b, reason := 0x40, unit := e.1, address := e.2.viol.1, detail := e.2.viol.2 } t) t

/-- The quoin slices and streams a bay froze open again. -/
def openSlices (b : Nat) (s : State) : State :=
  { s with quoin := tmap (fun _ q => { q with
      frozenBays := sdrop b q.frozenBays, frozenStreams := q.frozenStreams.filter fun e => e.1 != b }) s.quoin }

/-- A queue that was frozen is served again, and what it owes is written (R482). -/
def thawQueue (b q : Nat) (s : State) : State :=
  cqPost b q (modQueue b q (fun x => { x with frozen := false, ringFailed := false, idle := false }) s)

/-- A FROZEN command completes PROGRAM_VIOLATION, and its ashlar is free (R482). -/
def thawCmd (c : Cmd) (s : State) : State :=
  let t := match c.viol.bind (·.ashlar) with
    | some a => modAsh a stopAsh s
    | none => s
  finish c.cid 0x30 0 true t

/-- A frozen window entry is enabled again as command 2 would; a status other than 0 leaves it disabled (R482). -/
def thawWin (i : Nat) (w : WinEnt) (s : State) : State :=
  let u := { w with frozen := false }
  let t := { s with mem := { s.mem with wins := tput i u s.mem.wins } }
  if (enableStatus t i u).isNone then openWin i u t else t

/-- Every frozen master of a bay is released (R482). -/
def releaseMasters (b : Nat) (s : State) : State :=
  let t := masterRecs 2 b s
  let t := each ((bay s b).eqi.queues.filter (·.2.frozen)) (fun e t => thawQueue b e.1 t) t
  let t := each ((bayCmds s b).filter (·.st == .frozen)) thawCmd t
  let t := openSlices b t
  each (s.mem.wins.filter fun e => e.2.frozen && e.2.bay == b) (fun e t => thawWin e.1 e.2 t) t

/-! ## The reset work (R323) -/

/-- A command is discarded without a completion entry; an anchored collective ends for the other members (R135, R438). -/
def discardCmd (c : Cmd) (s : State) : State :=
  let t := match c.col with
    | some k => if c.st = .anchored then countCol 0x51 (abandonAll k.grp k.seq 0x51 s) else owesHs c s
    | none => s
  dropCmd c.cid (unplan c.cid (halt c.cid none t))

/-- Every command of a bay is killed and discarded, and its queues are gone. -/
def discardAll (b : Nat) (s : State) : State :=
  let t := masterRecs 3 b s
  let t := each (bayCmds t b) discardCmd t
  let t := { t with
    dev := { t.dev with fronts := t.dev.fronts.filter fun e => e.2.bay != b }
    mem := { t.mem with wins := tmap (fun _ w => if w.bay = b then { w with frozen := false } else w) t.mem.wins } }
  flushOwed (openSlices b (modBay b (fun y => { y with eqi := {} }) t))

/-- The bay's memory side after its reset work: backing windows and what the manager set stay (R323). -/
def clearedMem (m : BayMem) : BayMem :=
  { windows := m.windows, pins := m.pins.filter (·.byMgr), cons := m.cons.filter (·.byMgr)
    hints := m.hints.filter (·.2.2.2), origins := m.origins.filter fun e => e.2.2.2
    atsEnable := m.atsEnable, priEnable := m.priEnable, priFailed := m.priFailed }

/-- The bay's stream side after its reset work; `keys` keeps the key store (R501). -/
def clearedStream (keys : Bool) (y : BayStream) : BayStream := if keys then { keys := y.keys, nextKey := y.nextKey } else {}

/-- The ashlars of a bay are stopped, their scratchpads and accumulators zero. -/
def clearGrid (b : Nat) (s : State) : State :=
  let ids := shareIds s b
  { s with grid := { s.grid with ashlars := tmap (fun a x =>
      if ids.contains a then { stopAsh x with spad := [], acc := [], ctx := false, journal := [], tlb := [] } else x) s.grid.ashlars } }

/-- The bytes of a bay's share, of its backing windows and of its block region are zero. -/
def clearBytes (b : Nat) (s : State) : State :=
  let lo := b * shareBytes s
  let n := shareBytes s
  { s with mem := { s.mem with
      hbm := mzero lo n s.mem.hbm
      win := mzero (16 * b * 2 ^ 44) (16 * 2 ^ 44) s.mem.win
      poison := s.mem.poison.filter fun e => !within lo n (e.1 * 512) 512
      valid := s.mem.valid.filter fun p => !within lo n (p * 4096) 4096 } }

/-- The work of R323. -/
def clearBay (keys : Bool) (b : Nat) (s : State) : State :=
  let t := discardAll b s
  let t := each ((bay t b).mem.extents.filter fun e => e.2.move.isSome) (fun e t => abandonMove b e.1 t) t
  let t := clearBytes b (clearGrid b t)
  let t := modBay b (fun y => { y with
    mem := clearedMem y.mem, strm := clearedStream keys y.strm, ev := {}, throttleKill := 0, overrun := 0, forcedEvict := 0, swaps := 0
    buttress := 0, quiet := 0, lastProgress := y.progress, declared := false }) t
  windowsEmptied b t

/-- A TDI in CONFIG_LOCKED or RUN moves to ERROR (R355). -/
def tdiError (b : Nat) (s : State) : State :=
  modTdi b (fun x => if x.st = .locked ∨ x.st = .run then { x with st := .error } else x) s

/-- Every BAY_QUIESCE in progress for a bay ends with a code (R321). -/
def endQuiesces (b code : Nat) (s : State) : State :=
  modBay b (fun y => { y with quiesceOps := [] }) (each (bay s b).quiesceOps (fun i t => opEnd 0 i code t) s)

/-- The mailbox of a bay that is gone serves nothing; a request in it is dropped. -/
def shutBox (x : Nat) (s : State) : State :=
  let t := modMbx x (fun m => { m with ready := false, busy := false }) s
  { t with boxes := { t.boxes with order := t.boxes.order.filter (· != x) } }

/-- The reset work begins: commands and queues are gone, and the bay is RESETTING. -/
def beginReset (b : Nat) (s : State) : State :=
  modBay b (fun y => { y with st := .resetting, toAbsent := false, removeBox := false, resetOp := none }) (tdiError b (discardAll b s))

/-- A bay is removed under R311, its work done at once; one in reset work becomes ABSENT at its end. -/
def removeByVf (b : Nat) (s : State) : State :=
  let t := tdiError b (modBay b (fun y => { y with forced := true }) s)
  match (bay s b).st with
  | .absent => s
  | .resetting => modBay b (fun y => { y with toAbsent := true }) t
  | _ => shutBox (b + 1) (modBay b (fun y => { y with st := .absent }) (clearBay false b (endQuiesces b 0x2A t)))

/-- The host lowers NumVFs or clears VF Enable: every bay from `k` on is removed (R311). -/
def removeFrom (k : Nat) (s : State) : State := each ((List.range s.bays.count).filter fun b => decide (k ≤ b)) removeByVf s

/-- What bay life can reach. -/
def fpBay : List Grp := [.boxes, .pwr, .plumb] ++ fpWork

/-! ## Messages -/

/-- BAY_CREATE (R320). -/
def bayCreateGo (x : Nat) (r : Req) (s : State) : State :=
  let b := reqBay x r
  if (bay s b).st != .absent || !s.bays.vfEnable || s.bays.numVfs ≤ b then reply x 0x23 s
  else
    let t := modBay b (fun y => { y with st := .created, eqi := {}, strm := {}, ev := {}, hangs := 0 }) s
    reply x 0 (modMbx (b + 1) (fun m => { m with ready := true }) t)

/-- BAY_CREATE (R320). -/
def execBayCreate (box : Nat) (s : State) : Host.Outcome State Fault Refusal := boxRow [.bays] 0x300 box (bayCreateGo box) s

/-- Whether a command goes back to READY when its bay quiesces (R321): it runs and is not anchored, or it is planned. -/
def preempted (c : Cmd) : Bool := isEngineCmd c && (c.st == .running || c.st == .planned)

/-- A bay starts to quiesce: no front serves it, and running and planned commands are READY (R321). -/
def startQuiesce (b i : Nat) (s : State) : State :=
  let t := modBay b (fun y => { y with st := .quiescing, quiesceOps := y.quiesceOps ++ [i] }) s
  let t := { t with dev := { t.dev with fronts := t.dev.fronts.filter fun e => e.2.bay != b } }
  each ((bayCmds t b).filter preempted) (fun c t => killReady c.cid (unplan c.cid t)) t

/-- The bound BAY_QUIESCE names: 2 s and what the bay's anchored collectives have left, in ms. -/
def quiesceBound (s : State) (b : Nat) : Nat :=
  let left := ((bayCmds s b).filter (·.st == .anchored)).foldl (fun m c => max m (boundLeft s c)) 0
  2000 + ceilDiv left (1000 * max 1 s.lift.clk)

/-- BAY_QUIESCE (R321). -/
def bayQuiesceGo (x : Nat) (r : Req) (s : State) : State :=
  let b := reqBay x r
  match (bay s b).st with
  | .attached => accepted x (.quiesce b) (quiesceBound s b) (startQuiesce b) s
  | .quiescing => accepted x (.quiesce b) (quiesceBound s b) (fun i => modBay b fun y => { y with quiesceOps := y.quiesceOps ++ [i] }) s
  | .created => accepted x (.quiesce b) 2000 (fun i => opEnd x i 0) s
  | .quiesced => accepted x (.quiesce b) 2000 (fun i => opEnd x i 0) s
  | .resetting => reply x 0x28 s
  | .absent => reply x 0x23 s

/-- BAY_QUIESCE (R321). -/
def execBayQuiesce (box : Nat) (s : State) : Host.Outcome State Fault Refusal := boxRow fpBay 0x301 box (bayQuiesceGo box) s

/-- Whether a command keeps its bay QUIESCING (R321). -/
def holdsQuiesce (s : State) (c : Cmd) : Bool :=
  (c.st == .running && isEngineCmd c) || c.st == .anchored || c.st == .committing || c.committed || begun s c

/-- Whether nothing of R321's list remains: commands, post-commit appends, requests without an answer, context switches. -/
def bayDrained (s : State) (b : Nat) : Bool :=
  !(bayCmds s b).any (holdsQuiesce s) && !(s.kw.txns.any fun e => e.2.bay == b) &&
    !((bay s b).strm.batches.any fun x => x.committed && x.members.any fun m => !m.masked && !m.appended) &&
    (bay s b).strm.ctxs.all fun x => x.switch == .none

/-- BAY_QUIESCED (R321). -/
def execBayQuiesced (b : Nat) (s : State) : Host.Outcome State Fault Refusal :=
  onUnit (decide (b < s.bays.count)) "bay" (run [.bays, .boxes, .irq] (onlyIf (fun t => (bay t b).st == .quiescing && bayDrained t b)
    fun t => endQuiesces b 0 (modBay b (fun y => { y with st := .quiesced }) t)) s)

/-- BAY_RESET (R324, R325). -/
def bayResetGo (x : Nat) (r : Req) (s : State) : State :=
  let b := reqBay x r
  let st := (bay s b).st
  if st == .resetting then reply x 0x28 s
  else if st != .created && st != .quiesced then reply x 0x2A s
  else accepted x (.bayReset b) 1000 (fun i t => modBay b (fun y => { y with resetOp := some i }) (beginReset b t)) s

/-- BAY_RESET (R324). -/
def execBayReset (box : Nat) (s : State) : Host.Outcome State Fault Refusal := boxRow fpBay 0x302 box (bayResetGo box) s

/-- BAY_REMOVE (R324, R325): the request is answered when the work ends; until then this row changes nothing more. -/
def bayRemoveGo (x : Nat) (r : Req) (s : State) : State :=
  let b := reqBay x r
  let st := (bay s b).st
  if (bay s b).removeBox then s
  else if st == .resetting then reply x 0x28 s
  else if st != .created && st != .quiesced then reply x 0x2A s
  else modBay b (fun y => { y with toAbsent := true, removeBox := true }) (beginReset b s)

/-- BAY_REMOVE (R324). -/
def execBayRemove (box : Nat) (s : State) : Host.Outcome State Fault Refusal := boxRow fpBay 0x303 box (bayRemoveGo box) s

/-- BAY_RELEASE (R322, R482). -/
def bayReleaseGo (x : Nat) (r : Req) (s : State) : State :=
  let b := reqBay x r
  if (bay s b).st == .resetting then reply x 0x28 s
  else
    let t := if (bay s b).st == .quiesced then modBay b (fun y => { y with st := .attached }) s else s
    reply x 0 (flushOwed (releaseMasters b t))

/-- BAY_RELEASE (R482). -/
def execBayRelease (box : Nat) (s : State) : Host.Outcome State Fault Refusal := boxRow fpBay 0x304 box (bayReleaseGo box) s

/-! ## The end of the work, and the host -/

/-- The reset work of a bay ends (R319, R323, R324). -/
def resetDone (b : Nat) (s : State) : State :=
  let y := bay s b
  let t := clearBay false b s
  let t := modBay b (fun y => { y with
    st := if y.toAbsent then .absent else .created, toAbsent := false, removeBox := false, resetOp := none }) t
  let t := modTdi b (fun x => if x.stopping then { x with st := .unlocked, stream := 7 } else x) t
  let t := if y.toAbsent then shutBox (b + 1) t else t
  let t := match y.resetOp with
    | some i => opEnd 0 i 0 t
    | none => t
  if y.removeBox then reply 0 0 t else t

/-- BAY_RESET_WORK_DONE (R323). -/
def execBayResetWorkDone (b : Nat) (s : State) : Host.Outcome State Fault Refusal :=
  onUnit (decide (b < s.bays.count)) "bay" (run fpBay (onlyIf (fun t => (bay t b).st == .resetting) (resetDone b)) s)

/-- NUMVFS_WRITE (R311): a value above TotalVFs is ignored. -/
def execNumvfsWrite (v : Nat) (s : State) : Host.Outcome State Fault Refusal :=
  run fpBay (onlyIf (fun t => decide (v ≤ t.bays.count)) fun t => removeFrom v { t with bays := { t.bays with numVfs := v } }) s

/-- VF Enable is cleared (R311). -/
def clearVfEnable (s : State) : State := removeFrom 0 { s with bays := { s.bays with vfEnable := false } }

/-- VF_ENABLE_CLEAR (R311). -/
def execVfEnableClear (s : State) : Host.Outcome State Fault Refusal := run fpBay clearVfEnable s

/-- The PCIe state of a function is reset. -/
def resetFunction (b : Nat) (s : State) : State :=
  let t := modBay b (fun y => { y with
    memSpace := false, d3 := false, bar := 0, bar2 := 0, mem := { y.mem with atsEnable := false, priEnable := false, priFailed := false, atc := [], inval := [] } }) s
  { t with irq := { t.irq with msix := tdrop (b + 1) t.irq.msix } }

/-- What an FLR does to the bay (R326): its commands are killed and its reset work begins; work in progress goes on. -/
def flrBay (b : Nat) (s : State) : State :=
  match (bay s b).st with
  | .absent => s
  | .resetting => tdiError b (modBay b (fun y => { y with forced := true }) s)
  | _ => modBay b (fun y => { y with forced := true }) (beginReset b (endQuiesces b 0x2A s))

/-- FLR (R326). -/
def execFlr (b : Nat) (s : State) : Host.Outcome State Fault Refusal :=
  onUnit (decide (b < s.bays.count)) "bay" (run fpBay (fun t => resetFunction b (flrBay b t)) s)

/-! ## Configuration writes -/

/-- An interrupt that was masked is sent now (R526). -/
def sendPending (fn : Nat) (s : State) : State :=
  let m := tgetD fn s.irq.msix {}
  if !m.enable || m.fmask then s
  else
    let go := m.pba.filter fun v => m.unmasked.contains v
    let t := { s with irq := { s.irq with msix := tput fn { m with pba := m.pba.filter fun v => !m.unmasked.contains v } s.irq.msix } }
    each go (fun v t => emit (.msix fn v (reqT t fn)) t) t

/-- The MSI-X state of a function changed by `f`. -/
def modMsix (fn : Nat) (f : Msix → Msix) (s : State) : State :=
  { s with irq := { s.irq with msix := tmod fn {} f s.irq.msix } }

/-- The effect of a configuration write (R311, R355, R394, R526); those of a function's BARs, memory space and MSI-X capability are
locked by the interface report. -/
def cfgEffect (fn : Nat) (w : CfgWrite) (s : State) : State :=
  match w with
  | .vfEnable => if fn = 0 then { s with bays := { s.bays with vfEnable := true } } else s
  | .msixEnable on => sendPending fn (modMsix fn (fun m => { m with enable := on }) s)
  | .functionMask on => sendPending fn (modMsix fn (fun m => { m with fmask := on }) s)
  | .vectorMask vec => modMsix fn (fun m => { m with unmasked := sdrop vec m.unmasked }) s
  | .memorySpace on => if fn = 0 then s else modBay (fn - 1) (fun y => { y with memSpace := on }) s
  | .bar v => if fn = 0 then s else modBay (fn - 1) (fun y => { y with bar := v }) s
  | .bar2 v => if fn = 0 then s else modBay (fn - 1) (fun y => { y with bar2 := v }) s
  | .priEnable on => if fn = 0 then s else modBm (fn - 1) (fun m => { m with priEnable := on }) s
  | .priClearFailure => if fn = 0 then s else modBm (fn - 1) (fun m => { m with priFailed := false }) s
  | .dState d3 => if fn = 0 then { s with start := { s.start with d3 := d3 } } else modBay (fn - 1) (fun y => { y with d3 := d3 }) s
  | .atsEnable on => if fn = 0 then s else modBm (fn - 1) (fun m => { m with atsEnable := on, atc := if on then m.atc else [] }) s

/-- The registers of function `fn` the interface report locks: its BARs, memory space enable, the MSI-X capability (R355). -/
def lockedRegs (s : State) (fn : Nat) : Nat × Nat × Bool × Bool × Bool :=
  let y := bay s (fn - 1)
  let m := tgetD fn s.irq.msix {}
  (y.bar, y.bar2, y.memSpace, m.enable, m.fmask)

/-- HOST_CONFIG_WRITE (R355): the write takes effect, and one that changes a locked register sends the interface to ERROR. -/
def execHostConfigWrite (fn : Nat) (w : CfgWrite) (s : State) : Host.Outcome State Fault Refusal :=
  onUnit (decide (fn ≤ s.bays.count)) "function" (run [.bays, .irq, .sec, .out, .start] (fun t =>
    let u := cfgEffect fn w t
    if fn != 0 && lockedRegs u fn != lockedRegs t fn then tdiError (fn - 1) u else u) s)

end Sys2Proof.Machine
end

