-- ==== Sys2Proof/Machine/Security.lean ====
section
/-! DEFINITION. Tenancy and attestation (R335 to R358): key import, key provisioning, the SPDM responder and its measurements,
IDE key management and TDISP. SPDM, IDE_KM and TDISP codes are those of their standards (log entry 17). -/
namespace Sys2Proof.Machine

/-! ## Keys -/

/-- The code of the first check of R348 a blob fails before its tag; `none` where all pass. -/
def blobRefusal (s : State) (b : Nat) (x : List Byte) : Option Nat :=
  if fld x 0 2 != 0x4B42 || fld x 2 1 != 1 || fld x 0x5C 4 != 0 then some 0x20
  else if fld x 3 1 != b || fld x 8 8 != s.sec.epoch then some 0x23
  else match tget (fld x 4 4) s.sec.sessions with
    | none => some 0x23
    | some k =>
      if !(k.finished && k.measured) then some 0x23
      else if 16 ≤ (bay s b).strm.keys.length then some 0x28
      else none

/-- The wrapping key of a session and a bay (R347). -/
def wrapKey (secret : BitVec 384) (b : Nat) : BitVec 256 :=
  BitVec.ofNat 256 (leNat (hkdfExpand (digestBytes secret) (ascii "FX2 KEY WRAP" ++ natLe 1 b) 32))

/-- The key a blob carries, if its tag verifies (R347). -/
def blobKey (s : State) (b : Nat) (x : List Byte) : Option (List Byte) :=
  match tget (fld x 4 4) s.sec.sessions with
  | none => none
  | some k => Config.gcmOpen (wrapKey k.secret b) (BitVec.ofNat 96 (fld x 0x20 12)) (x.take 32) ((x.drop 0x2C).take 32)
      (BitVec.ofNat 128 (fld x 0x4C 16))

/-- A handle no key of the bay holds, from the next of its count on (R349): the bay holds fewer than 16. -/
def freshHandle (y : BayStream) : Nat :=
  let cands := (List.range 16).map fun i => (y.nextKey + i - 1) % (2 ^ 32 - 1) + 1
  (cands.find? fun h => !(y.keys.any fun k => k.1 == h)).getD y.nextKey

/-- KEY_IMPORT of a blob that was read (R348, R349). -/
def importBlob (x b : Nat) (blob : List Byte) (s : State) : State :=
  match blobRefusal s b blob, blobKey s b blob with
  | some code, _ => reply x code s
  | none, none => reply x 0x2B s
  | none, some k =>
    let h := freshHandle (bay s b).strm
    respond x 0 (natLe 4 h) (modSt b (fun y => { y with
      keys := y.keys ++ [(h, BitVec.ofNat 128 (fld blob 0x10 16), BitVec.ofNat 256 (leNat k))]
      nextKey := if h + 1 = 2 ^ 32 then 1 else h + 1 }) s)

/-- KEY_IMPORT (R348). A blob that cannot be read is an INVALID_ARGUMENT. -/
def keyImportGo (env : Env) (x : Nat) (r : Req) (s : State) : State :=
  let b := reqBay x r
  if fld r.p 8 4 != 96 then reply x 0x20 s
  else match readVa s b env false (fld r.p 0 8) 96 with
    | none => reply x 0x23 s
    | some blob => if (poisonVa s b (fld r.p 0 8) 96).isSome then reply x 0x23 s else importBlob x b blob (askVa b (fld r.p 0 8) 96 s)

/-- KEY_IMPORT (R348). -/
def execKeyImport (box : Nat) (env : Env) (s : State) : Host.Outcome State Fault Refusal :=
  boxRow [.bays, .kw, .out] 0x102 box (keyImportGo env box) s

/-- KEY_DISCARD (R349). -/
def keyDiscardGo (x : Nat) (r : Req) (s : State) : State :=
  let b := reqBay x r
  let h := fld r.p 0 4
  if (bay s b).strm.keys.any fun k => k.1 == h then
    reply x 0 (modSt b (fun y => { y with keys := y.keys.filter fun k => k.1 != h }) s)
  else reply x 0x23 s

/-- KEY_DISCARD (R349). -/
def execKeyDiscard (box : Nat) (s : State) : Host.Outcome State Fault Refusal := boxRow [.bays] 0x103 box (keyDiscardGo box) s

/-! ## The provisioning port (R339, R572) -/

/-- A command of the port: served while kp_en is 1, from the moment the boot ROM enters boot mode; a refusal changes nothing. -/
def kpRow (ok : State → Bool) (f : State → State) (s : State) : Host.Outcome State Fault Refusal :=
  run [.ident, .out] (onlyIf (fun t => t.hw.kpEn && t.start.powered && decide (4 ≤ t.start.phase)) fun t =>
    if ok t then f t else emit (.kp 1 []) t) s

/-- GENERATE (R339). -/
def execGenerate (s : State) : Host.Outcome State Fault Refusal :=
  kpRow (fun t => t.ident.uds.isNone && !t.ident.locked) (fun t =>
    emit (.kp 0 []) (drewRandom { t with ident := { t.ident with uds := some (randVal t) } })) s

/-- READ_PUBLIC (R339). -/
def execReadPublic (s : State) : Host.Outcome State Fault Refusal :=
  kpRow (fun t => t.ident.uds.isSome) (fun t => emit (.kp 0 (publicKey (dik (t.ident.uds.getD 0)))) t) s

/-- WRITE_CHAIN (R338, R339). -/
def execWriteChain (d : List Byte) (s : State) : Host.Outcome State Fault Refusal :=
  kpRow (fun t => t.ident.uds.isSome && !t.ident.locked && decide (d.length ≤ 1024) &&
      decide (t.ident.chain.length + d.length ≤ 12288))
    (fun t => emit (.kp 0 []) { t with ident := { t.ident with chain := t.ident.chain ++ d } }) s

/-- Whether LOCK finds the chain right (R339). -/
def chainOk (t : State) : Bool := match t.ident.uds with
  | some u => Config.chainLastKey t.ident.chain == some (publicKey (dik u))
  | none => false

/-- LOCK (R339). -/
def execLock (s : State) : Host.Outcome State Fault Refusal :=
  kpRow (fun t => !t.ident.chain.isEmpty && !t.ident.locked && chainOk t)
    (fun t => emit (.kp 0 []) { t with ident := { t.ident with locked := true } }) s

/-- STATUS (R339, R572). -/
def execKpStatus (s : State) : Host.Outcome State Fault Refusal :=
  kpRow (fun _ => true) (fun t =>
    emit (.kp 0 (natLe 1 (b2n t.ident.uds.isSome) ++ natLe 2 t.ident.chain.length ++ natLe 1 (b2n t.ident.locked))) t) s

/-! ## Measurements (R344) -/

/-- The code of a bay state (R319). -/
def bayCode : BayState → Nat
  | .absent => 0
  | .created => 1
  | .attached => 2
  | .quiescing => 3
  | .quiesced => 4
  | .resetting => 5

/-- The code of a TDI state (R375). -/
def tdiCode : TdiState → Nat
  | .unlocked => 0
  | .locked => 1
  | .run => 2
  | .error => 3

/-- The code of a link key state (R374). -/
def keyCode : KeyState → Nat
  | .none => 0
  | .keyed => 1
  | .rekeying => 2
  | .failed => 3

/-- The chain value, entry count and overflow byte of a log. -/
def logBlock (l : MLog) : List Byte := natLe 48 l.chain.toNat ++ natLe 4 l.count ++ natLe 1 (b2n (decide (1000 < l.count)))

/-- Measurement block `i`. -/
def measBlock (s : State) (i : Nat) : List Byte :=
  match i with
  | 1 => natLe 48 Config.bootRomDigest.toNat
  | 2 => natLe 48 (fwNow s).digest.toNat
  | 3 => natLe 4 (fwNow s).version ++ natLe 4 (fwNow s).svn ++ natLe 4 (footFld s 0x14 4)
  | 4 => natLe 1 (b2n (!isF s)) ++ natLe 2 (installedGib s) ++ (List.range 32).flatMap (fun n => natLe 4 (tgetD n s.grid.lost 0)) ++
      (List.range (quoinPorts s)).flatMap fun p => natLe 1 (b2n (qport s p).registered) ++ padTo 32 (qport s p).identity
  | 5 => natLe 48 (Config.sha384 (mread s.foot.inForce 0 256)).toNat
  | 6 => natLe 8 s.sec.epoch ++ natLe 1 s.bays.count ++ natLe 1 s.bays.numVfs ++
      (List.range s.bays.count).flatMap fun b => natLe 1 (bayCode (bay s b).st) ++ natLe 1 (tdiCode (tdi s b).st)
  | 7 => logBlock s.sec.progLog
  | 8 => logBlock s.sec.wtLog
  | 9 => (List.range (kwPorts s)).flatMap fun p =>
      let x := kport s p
      natLe 1 (footFld s (0x78 + 4 * p) 1) ++ natLe 1 x.rev ++ natLe 1 (keyCode x.key) ++ natLe 48 x.peer.toNat
  | 10 => s.sec.progLog.entries.flatten
  | 11 => s.sec.wtLog.entries.flatten
  | _ => []

/-- The DMTF value type of block `i`: digests of the boot ROM, the firmware and its configuration; the other blocks are raw bit streams
(bit 7): firmware version, hardware configuration, and manifests (log entry 17). -/
def measType (i : Nat) : Nat := match i with
  | 1 => 0x00
  | 2 => 0x01
  | 3 => 0x87
  | 4 => 0x82
  | 5 => 0x03
  | _ => 0x84

/-- Block `i` in the DMTF measurement value format: index, specification 1, size; then value type, value size, value. -/
def measFormat (i : Nat) (v : List Byte) : List Byte :=
  natLe 1 i ++ natLe 1 1 ++ natLe 2 (v.length + 3) ++ natLe 1 (measType i) ++ natLe 2 v.length ++ v

/-- The blocks index `idx` of GET_MEASUREMENTS asks for. -/
def measBlocks (idx : Nat) : List Nat := if idx = 0xFF then (List.range 11).map (· + 1) else [idx]

/-- The measurements of a response: the number of blocks, the length of the record, the record. Index 0 asks for the number alone. -/
def measRecord (s : State) (idx : Nat) : List Byte :=
  if idx = 0 then natLe 1 11 ++ natLe 3 0
  else
    let r := (measBlocks idx).flatMap fun i => measFormat i (measBlock s i)
    natLe 1 (measBlocks idx).length ++ natLe 3 r.length ++ r

/-! ## The SPDM responder (R341 to R343) -/

def spdmUnsupported : Nat := 0x07
def spdmInvalid : Nat := 0x01
def spdmBadSession : Nat := 0x02
def spdmUnexpected : Nat := 0x04

/-- ResponseNotReady, with RDTExponent 20 and RDTM 1 (R342). -/
def notReady : State → State := emit (.spdmNotReady 20 1)

/-- A request that reaches the responder: firmware runs, and the host link is up. It fires the source of DOE requests (R519). -/
def spdmRow (fp : List Grp) (f : State → State) (s : State) : Host.Outcome State Fault Refusal :=
  run ([.out, .irq] ++ fp) (onlyIf (fun t => t.fw.running && !t.start.perst) fun t => f (raise (srcSec 0) t)) s

/-- A request within session `k`: one that is not open is refused. -/
def inSession (k : Nat) (f : State → State) (s : State) : State :=
  match tget k s.sec.sessions with
  | some x => if x.finished then f s else emit (.spdmError spdmBadSession) s
  | none => emit (.spdmError spdmBadSession) s

/-- A request outside every session needs a negotiated connection; within one, the session. -/
def onLink (sess : Option Nat) (f : State → State) (s : State) : State :=
  match sess with
  | some k => inSession k f s
  | none => if s.sec.version && s.sec.algs then f s else emit (.spdmError spdmUnexpected) s

/-- A request that needs a signature (R341): UnsupportedRequest while there is none; else, with `ok`, the response and a signature over
the transcript. -/
def signed (code : Nat) (ok : Bool) (resp trans : List Byte) (f : State → State) (s : State) : State :=
  match sign s trans with
  | none => emit (.spdmError spdmUnsupported) s
  | some g => if ok then emit (.spdm code (resp ++ g)) (f s) else emit (.spdmError spdmInvalid) s

/-- GET_VERSION (R342, R343). -/
def execGetVersion (s : State) : Host.Outcome State Fault Refusal :=
  spdmRow [.sec] (fun t => emit (.spdm 0x04 (natLe 2 0x1200 ++ natLe 2 0x1300))
    { t with sec := { t.sec with version := true, algs := false } }) s

/-- GET_CAPABILITIES (R342): CTExponent, the flags of the capabilities listed, DataTransferSize and MaxSPDMmsgSize. -/
def execGetCapabilities (s : State) : Host.Outcome State Fault Refusal :=
  spdmRow [] (fun t =>
    if t.sec.version then emit (.spdm 0x61 (natLe 1 18 ++ natLe 4 0x262F6 ++ natLe 4 4096 ++ natLe 4 131072)) t
    else emit (.spdmError spdmUnexpected) t) s

/-- Whether an offer has every algorithm the block supports: ECDSA P-384, SHA-384, secp384r1, AES-256-GCM (R342). -/
def algsOk (o : AlgOffer) : Bool := bit o.asym 7 && bit o.hash 1 && bit o.dhe 4 && bit o.aead 1

/-- The selection: DMTF measurements hashed with SHA-384, and the algorithms of `algsOk`. -/
def algsChosen : List Byte := natLe 1 1 ++ natLe 4 0x4 ++ natLe 4 0x80 ++ natLe 4 0x2 ++ natLe 2 0x10 ++ natLe 2 0x2

/-- NEGOTIATE_ALGORITHMS (R342). -/
def execNegotiateAlgorithms (offer : AlgOffer) (s : State) : Host.Outcome State Fault Refusal :=
  spdmRow [.sec] (fun t =>
    if !t.sec.version then emit (.spdmError spdmUnexpected) t
    else if algsOk offer then emit (.spdm 0x63 algsChosen) { t with sec := { t.sec with algs := true } }
    else emit (.spdmError spdmInvalid) t) s

/-- GET_DIGESTS (R341): the mask of provisioned slots and their digests. -/
def execGetDigests (sess : Option Nat) (s : State) : Host.Outcome State Fault Refusal :=
  spdmRow [] (onLink sess fun t =>
    emit (.spdm 0x01 (if t.ident.locked then natLe 1 1 ++ natLe 48 (Config.sha384 (slot0 t)).toNat else natLe 1 0)) t) s

/-- GET_CERTIFICATE (R341): a portion of slot 0 and how much remains. -/
def execGetCertificate (slot off len : Nat) (s : State) : Host.Outcome State Fault Refusal :=
  spdmRow [] (onLink none fun t =>
    if slot != 0 || !t.ident.locked || decide ((slot0 t).length ≤ off) then emit (.spdmError spdmInvalid) t
    else
      let p := ((slot0 t).drop off).take len
      emit (.spdm 0x02 (natLe 2 p.length ++ natLe 2 ((slot0 t).length - off - p.length) ++ p)) t) s

/-- CHALLENGE (R341, R342): the digest of the chain and a nonce, signed with the request's nonce. -/
def execChallenge (slot : Nat) (nonce : List Byte) (s : State) : Host.Outcome State Fault Refusal :=
  spdmRow [] (onLink none fun t =>
    let m := digestBytes (Config.sha384 (slot0 t)) ++ natLe 32 (randVal t).toNat
    signed 0x03 (slot == 0) m (nonce ++ m) drewRandom t) s

/-- A signed response for index 0xFF within a session opens it to KEY_IMPORT (R348). -/
def noteMeasured (sess : Option Nat) (idx : Nat) (s : State) : State :=
  match sess with
  | some k => if idx = 0xFF then { s with sec := { s.sec with
      sessions := tmod k {} (fun x => { x with measured := true }) s.sec.sessions } } else s
  | none => s

/-- GET_MEASUREMENTS (R344): one snapshot of every block asked for, and a nonce. -/
def execGetMeasurements (sess : Option Nat) (idx : Nat) (signedResp : Bool) (nonce : List Byte) (s : State) :
    Host.Outcome State Fault Refusal :=
  spdmRow [.sec] (onLink sess fun t =>
    let ok := idx == 0xFF || decide (idx ≤ 11)
    let m := measRecord t idx ++ natLe 32 (randVal t).toNat
    if signedResp then signed 0x60 ok m (nonce ++ m) (fun u => noteMeasured sess idx (drewRandom u)) t
    else if ok then emit (.spdm 0x60 m) (drewRandom t)
    else emit (.spdmError spdmInvalid) t) s

/-- The lowest free session number, 1 to 4. -/
def freeSession (s : State) : Option Nat := [1, 2, 3, 4].find? fun k => (tget k s.sec.sessions).isNone

/-- KEY_EXCHANGE (R341, R342): a fifth session is refused. The response has the session, HeartbeatPeriod 60, a nonce and the block's
ephemeral key; the requester's key is the first 97 bytes of the request. -/
def keyExchangeGo (req : List Byte) (s : State) : State :=
  let r := drawP384 s
  let m := natLe 4 ((freeSession s).getD 0) ++ natLe 1 60 ++ natLe 32 (randVal r.2).toNat ++ publicKey r.1
  match freeSession s, sign s (req ++ m) with
  | _, none => emit (.spdmError spdmUnsupported) s
  | none, _ => emit (.spdmError 0x0A) s
  | some k, some g =>
    let t := drewRandom r.2
    emit (.spdm 0x64 (m ++ g)) { t with sec := { t.sec with
      sessions := tput k { secret := Config.spdmExport (Config.p384Ecdh r.1 (req.take 97)) (req ++ m) } t.sec.sessions } }

/-- KEY_EXCHANGE (R342). -/
def execKeyExchange (req : List Byte) (s : State) : Host.Outcome State Fault Refusal :=
  spdmRow [.sec] (onLink none (keyExchangeGo req)) s

/-- A session changed by `f`. -/
def modSession (k : Nat) (f : Session → Session) (s : State) : State :=
  { s with sec := { s.sec with sessions := tmod k {} f s.sec.sessions } }
/-- A session ends. -/
def dropSession (k : Nat) (s : State) : State := { s with sec := { s.sec with sessions := tdrop k s.sec.sessions } }

/-- FINISH (R342): a wrong verification ends the handshake. -/
def execFinish (sess : Nat) (ok : Bool) (s : State) : Host.Outcome State Fault Refusal :=
  spdmRow [.sec] (fun t => match tget sess t.sec.sessions with
    | none => emit (.spdmError spdmBadSession) t
    | some x =>
      if x.finished then emit (.spdmError spdmUnexpected) t
      else if ok then emit (.spdm 0x65 []) (modSession sess (fun x => { x with finished := true }) t)
      else emit (.spdmError 0x06) (dropSession sess t)) s

/-- HEARTBEAT (R342). -/
def execHeartbeat (sess : Nat) (s : State) : Host.Outcome State Fault Refusal :=
  spdmRow [] (inSession sess fun t => emit (.spdm 0x68 []) t) s

/-- KEY_UPDATE (R342). -/
def execKeyUpdate (sess : Nat) (s : State) : Host.Outcome State Fault Refusal :=
  spdmRow [.sec] (inSession sess fun t => emit (.spdm 0x69 []) (modSession sess (fun x => { x with keyGen := x.keyGen + 1 }) t)) s

/-- END_SESSION (R342). -/
def execEndSession (sess : Nat) (s : State) : Host.Outcome State Fault Refusal :=
  spdmRow [.sec] (inSession sess fun t => emit (.spdm 0x6C []) (dropSession sess t)) s

/-- SPDM_SESSION_TIMEOUT (R342): 180 s without a message. -/
def execSpdmSessionTimeout (sess : Nat) (s : State) : Host.Outcome State Fault Refusal := run [.sec] (dropSession sess) s

/-- UNSUPPORTED_SPDM_REQUEST (R342). -/
def execUnsupportedSpdmRequest (_code : Nat) (s : State) : Host.Outcome State Fault Refusal :=
  spdmRow [] (fun t => emit (.spdmError spdmUnsupported) t) s

/-! ## IDE key management (R352) -/

/-- A response of IDE_KM, carried as a vendor-defined SPDM response. -/
def ideReply (obj : Nat) (data : List Byte) : State → State := emit (.spdm 0x7E (natLe 1 obj ++ data))

/-- A stream goes Insecure, which fires its source (R519), and its keys are erased; the interfaces whose traffic it carries move to ERROR (R352, R355). -/
def ideInsecure (k : Nat) (s : State) : State :=
  let t := modIde k (fun x => { x with secure := false, keys := [], active := [] }) s
  let t := if (ide s k).secure then raise (srcSec 1) t else t
  each ((List.range s.bays.count).filter fun b => (tdi s b).stream == k) tdiError t

/-- The place of sub-stream `sub`, 0 posted, 1 non-posted, 2 completion, in direction `tx` of a stream (R352). -/
def ideSlot (sub : Nat) (tx : Bool) : Nat := 2 * sub + b2n tx
/-- Whether a key set is in force for every sub-stream and direction. -/
def ideAll (x : Ide) : Bool := (List.range 6).all fun i => (tget i x.active).isSome

/-- QUERY (R352): the streams supported and their state. -/
def execQuery (sess : Nat) (s : State) : Host.Outcome State Fault Refusal :=
  spdmRow [] (inSession sess fun t =>
    ideReply 1 (natLe 1 4 ++ (List.range 4).flatMap fun k => natLe 1 (b2n (ide t k).secure) ++ natLe 1 (ide t k).streamId) t) s

/-- KEY_PROG (R352): the key of one sub-stream and direction in a key set. During repointing no stream takes a key (R367). -/
def keyProgGo (strm id keySet sub : Nat) (tx pcrc : Bool) (key : Nat) (s : State) : State :=
  if 4 ≤ strm ∨ 2 ≤ keySet then ideReply 3 (natLe 1 3) s
  else if s.sec.repointing then ideReply 3 (natLe 1 4) s
  else ideReply 3 (natLe 1 0) (modIde strm (fun x => { x with
    streamId := id % 256, pcrc := pcrc, keys := tput (6 * keySet + ideSlot sub tx) key x.keys }) s)

/-- KEY_PROG (R352). -/
def execKeyProg (sess strm id keySet key : Nat) (s : State) (sub : Nat := 0) (tx pcrc : Bool := false) : Host.Outcome State Fault Refusal :=
  spdmRow [.sec] (inSession sess (keyProgGo strm id keySet sub tx pcrc key)) s

/-- K_SET_GO (R352): the key set is in force for a sub-stream and direction that has a key in it; the stream is Secure once every
sub-stream has one in both. -/
def execKSetGo (sess strm keySet : Nat) (s : State) (sub : Nat := 0) (tx : Bool := false) : Host.Outcome State Fault Refusal :=
  spdmRow [.sec] (inSession sess fun t =>
    let i := ideSlot sub tx
    let u := if strm < 4 ∧ (tget (6 * keySet + i) (ide t strm).keys).isSome ∧ t.sec.repointing = false then
      modIde strm (fun x =>
        let y := { x with active := tput i keySet x.active }
        { y with secure := ideAll y }) t else t
    ideReply 6 [] (if (ide u strm).secure == (ide t strm).secure then u else raise (srcSec 1) u)) s

/-- K_SET_STOP (R352). -/
def execKSetStop (sess strm : Nat) (s : State) : Host.Outcome State Fault Refusal :=
  spdmRow [.sec] (inSession sess fun t => ideReply 6 [] (if strm < 4 then ideInsecure strm t else t)) s

/-- IDE_INTEGRITY_FAIL (R352, R376). -/
def execIdeIntegrityFail (strm : Nat) (s : State) : Host.Outcome State Fault Refusal :=
  onUnit (decide (strm < 4)) "IDE stream" (run [.sec, .irq] (onlyIf (fun t => (ide t strm).secure) fun t =>
    ideInsecure strm (modIde strm (fun x => { x with fail := satAdd 0xFF x.fail 1 }) t)) s)

/-! ## TDISP (R353, R354, R357) -/

/-- A TDISP request for the interface of bay `b`, within a session; it fires its own source too (R519). -/
def tdispRow (fp : List Grp) (sess b : Nat) (f : State → State) (s : State) : Host.Outcome State Fault Refusal :=
  onUnit (decide (b < s.bays.count)) "interface" (spdmRow fp (fun t => inSession sess f (raise (srcSec 2) t)) s)

/-- The TDISP error InvalidInterfaceState. -/
def badInterface : State → State := emit (.tdisp 0x7F (natLe 4 4))

/-- GET_TDISP_VERSION (R353): TDISP 1.0. -/
def execGetTdispVersion (sess b : Nat) (s : State) : Host.Outcome State Fault Refusal :=
  tdispRow [] sess b (fun t => emit (.tdisp 0x01 (natLe 1 1 ++ natLe 1 0x10)) t) s

/-- GET_TDISP_CAPABILITIES (R353): the requests supported, one bit each. -/
def execGetTdispCapabilities (sess b : Nat) (s : State) : Host.Outcome State Fault Refusal :=
  tdispRow [] sess b (fun t => emit (.tdisp 0x02 (natLe 1 0xFE)) t) s

/-- Whether LOCK_INTERFACE_REQUEST is accepted (R353, R367). -/
def lockable (s : State) (b strm : Nat) : Bool :=
  let y := bay s b
  !s.sec.repointing && (tdi s b).st == .unlocked && (y.st == .created || y.st == .attached || y.st == .quiesced) && y.memSpace && decide (strm < 4) &&
    (ide s strm).secure

/-- LOCK_INTERFACE_REQUEST (R353, R354). -/
def lockInterface (b strm : Nat) (s : State) : State :=
  if lockable s b strm then
    emit (.tdisp 0x03 (natLe 32 (randVal s).toNat)) (drewRandom
      (modTdi b (fun x => { x with st := .locked, stream := strm, stopping := false }) s))
  else badInterface s

/-- LOCK_INTERFACE_REQUEST (R353). -/
def execLockInterfaceRequest (sess b strm : Nat) (s : State) : Host.Outcome State Fault Refusal :=
  tdispRow [.sec] sess b (lockInterface b strm) s

/-- GET_DEVICE_INTERFACE_REPORT (R353): the BAR0 window and the BAR2 aperture, each its base and bytes, and the MSI-X table within the
window (R582). -/
def execGetDeviceInterfaceReport (sess b : Nat) (s : State) : Host.Outcome State Fault Refusal :=
  tdispRow [] sess b (fun t =>
    if (tdi t b).st == .locked || (tdi t b).st == .run then
      emit (.tdisp 0x04 (natLe 8 (bay t b).bar ++ natLe 8 (2 ^ 20) ++ natLe 8 (bay t b).bar2 ++ natLe 8 (apertureBytes t (b + 1)) ++
        natLe 4 0xC000)) t
    else badInterface t) s

/-- GET_DEVICE_INTERFACE_STATE (R353). -/
def execGetDeviceInterfaceState (sess b : Nat) (s : State) : Host.Outcome State Fault Refusal :=
  tdispRow [] sess b (fun t => emit (.tdisp 0x05 (natLe 1 (tdiCode (tdi t b).st))) t) s

/-- START_INTERFACE_REQUEST (R354): what the bay's queues owe at the host link is written now. -/
def startInterface (b : Nat) (s : State) : State :=
  if (tdi s b).st == .locked then
    let t := modTdi b (fun x => { x with st := .run }) s
    emit (.tdisp 0x06 []) (each (tkeys (bay t b).eqi.queues) (cqPost b) t)
  else badInterface s

/-- START_INTERFACE_REQUEST (R354). -/
def execStartInterfaceRequest (sess b : Nat) (s : State) : Host.Outcome State Fault Refusal :=
  tdispRow fpWork sess b (startInterface b) s

/-- STOP_INTERFACE_REQUEST (R357): the bay's work of an FLR begins, the interface keeping its state until that work ends. -/
def stopInterface (b : Nat) (s : State) : State :=
  let x := tdi s b
  if x.st = .unlocked then badInterface s
  else
    let t := modTdi b (fun y => { y with st := x.st, stopping := true }) (flrBay b s)
    if (bay t b).st = .resetting then notReady t
    else emit (.tdisp 0x07 []) (modTdi b (fun y => { y with st := .unlocked, stream := 7, stopping := false }) t)

/-- STOP_INTERFACE_REQUEST (R357). -/
def execStopInterfaceRequest (sess b : Nat) (s : State) : Host.Outcome State Fault Refusal :=
  tdispRow fpBay sess b (stopInterface b) s

/-- RESPOND_IF_READY (R342, R357). -/
def respondIfReady (b : Nat) (s : State) : State :=
  let x := tdi s b
  if !x.stopping then emit (.spdmError spdmUnexpected) s
  else if (bay s b).st = .resetting then notReady s
  else emit (.tdisp 0x07 []) (modTdi b (fun y => { y with stopping := false }) s)

/-- RESPOND_IF_READY (R357). -/
def execRespondIfReady (b : Nat) (s : State) : Host.Outcome State Fault Refusal :=
  onUnit (decide (b < s.bays.count)) "interface" (spdmRow [.sec] (respondIfReady b) s)

end Sys2Proof.Machine
end

