-- ==== Sys2Proof/Machine/Repoint.lean ====
section
/-! DEFINITION. Repointing (R365 to R370): the fence, the phases after it, and the scrub of the quoin engines. -/
namespace Sys2Proof.Machine

/-- What repointing and resets can reach. -/
def fpReset : List Grp := [.dump, .fw, .foot, .start] ++ fpBay

/-- The bays that exist. -/
def liveBays (s : State) : List Nat := (List.range s.bays.count).filter fun b => (bay s b).st != .absent

/-- Every SPDM session ends, and the state outside sessions is reset (R343). -/
def endSpdm (s : State) : State := { s with sec := { s.sec with sessions := [], version := false, algs := false } }

/-- A link key exchange starts on every trained link; the links that have to finish it are pending (R360, R365, R373). -/
def rekeyLinks (s : State) : State :=
  let ps := (List.range (kwPorts s)).filter fun p => (kport s p).st == .up || (kport s p).st == .keying
  let t := each ps (fun p t => startKeyx p (modKw p (fun x => { x with key := if x.key = .keyed then .rekeying else x.key }) t)) s
  { t with sec := { t.sec with linksPending := (ps.map (2 ^ ·)).foldl (· + ·) 0 } }

/-- Each quoin engine is asked to scrub (R365, R366). -/
def askScrub (s : State) : State :=
  each ((List.range (quoinPorts s)).filter fun p => (qport s p).registered && !(qport s p).heldReset) (fun p t =>
    emit (.quoinScrub p) (modQp p (fun q => { q with scrub := true }) t)) s

/-- The window table empty, no command of it in progress. -/
def clearWindows (s : State) : State :=
  { s with mem := { s.mem with wins := [], winBusy := false, winDrain := none } }

/-- The fence phase (R365, R447, R483): frozen masters, commands and queues are discarded with it, and no request is left to send. -/
def fence (s : State) : State :=
  let t := each (liveBays s) discardAll { s with arch := { s.arch with groups := [], owed := [] } }
  let t := endSpdm { t with sec := { t.sec with
    repointing := true, phase := 1
    ide := tmap (fun _ x => { x with secure := false, keys := [], active := [] }) t.sec.ide
    tdi := tmap (fun _ x => { x with st := .unlocked, stream := 7, stopping := false }) t.sec.tdi } }
  let t := clearWindows { t with kw := { t.kw with
    txns := [], own := [], waiting := t.kw.waiting.filter fun e => e.2.frame.vc == 1 || e.2.frame.vc == 3
    ports := tmap (fun _ x => { x with outq := x.outq.filter fun e => e.frame.vc == 1 || e.frame.vc == 3 }) t.kw.ports } }
  drawKeys (askScrub (rekeyLinks t))

/-- REPOINT (R365, R286, R474). -/
def repointGo (x : Nat) (_ : Req) (s : State) : State :=
  if (List.range s.bays.count).any fun b =>
      !((bay s b).st == .absent || (bay s b).st == .created || (bay s b).st == .quiesced) then reply x 0x2A s
  else if exclusiveBusy s || s.ras.pass.isSome || s.sec.repointing then reply x 0x28 s
  else accepted x .repoint 2000 (fun _ t => fence t) s

/-- REPOINT (R365). -/
def execRepoint (box : Nat) (s : State) : Host.Outcome State Fault Refusal := boxRow fpReset 0x502 box (repointGo box) s

/-- An ashlar with its memories zero. -/
def zeroAsh (x : Ashlar) : Ashlar :=
  { stopAsh x with spad := [], acc := [], imem := [], imgLen := 0, img := none, ctx := false, journal := [], tlb := [] }

/-- Every memory of the block reads zero (R365, R383). -/
def zeroAll (s : State) : State :=
  { s with
    mem := { s.mem with hbm := [], win := [], poison := [], valid := [] }
    grid := { s.grid with ashlars := tmap (fun _ x => zeroAsh x) s.grid.ashlars }
    dump := { s.dump with present := false, head := {}, secs := [] } }

/-- Whether repointing is in phase `k`. -/
def inPhase (k : Nat) (s : State) : Bool := s.sec.repointing && s.sec.phase == k

/-- The next phase. -/
def toPhase (k : Nat) (s : State) : State := { s with sec := { s.sec with phase := k } }

/-- REPOINT_OVERWRITE (R365): every bay's contents, keys included, and every memory. -/
def execRepointOverwrite (s : State) : Host.Outcome State Fault Refusal :=
  run fpReset (onlyIf (inPhase 1) fun t => toPhase 2 (zeroAll (each (liveBays t) (clearBay false) t))) s

/-- A block that fails twice: its extent is withheld until power-on, and the manager learns of it (R365, R476). -/
def withholdBlock (blk : Nat) (s : State) : State :=
  rasRec 10 5 0xFF 0 0 (blk * 512) 0 { s with mem := { s.mem with withheld := sput (blk * 512 / 2 ^ 21) s.mem.withheld } }

/-- REPOINT_VERIFY (R365): `bad` lists the blocks that failed and whether each failed again. -/
def execRepointVerify (bad : List (Nat × Bool)) (s : State) : Host.Outcome State Fault Refusal :=
  run fpReset (onlyIf (inPhase 2) fun t => toPhase 3 (each (bad.filter (·.2)) (fun e => withholdBlock e.1) t)) s

/-- REPOINT_ATTEST (R336, R346, R365): the epoch advances and the logs are empty. -/
def execRepointAttest (s : State) : Host.Outcome State Fault Refusal :=
  run [.sec] (onlyIf (inPhase 3) fun t => toPhase 4 { t with sec := { t.sec with
    epoch := (t.sec.epoch + 1) % 2 ^ 64, progLog := {}, wtLog := {} } }) s

/-- The links whose exchange has not ended are marked failed (R365). -/
def failLinks (s : State) : State :=
  each ((List.range (kwPorts s)).filter fun p => bit s.sec.linksPending p) (fun p => modKw p fun x => { x with key := .failed }) s

/-- REPOINT_HOLD (R365): the phase begins at 900 ms; at 1,900 ms `late` is told and unkeyed links are failed. -/
def execRepointHold (late : Bool) (s : State) : Host.Outcome State Fault Refusal :=
  run [.sec, .kw] (onlyIf (fun t => inPhase 4 t || inPhase 5 t) fun t => toPhase 5 (if late then failLinks t else t)) s

/-- REPOINT_COMPLETE (R327, R365): the bays that existed are CREATED; a compute-part trigger that waited is acted on (R500). -/
def repointDone (s : State) : State :=
  let t := each (liveBays s) (fun b => modBay b fun y => { y with st := .created, hangs := 0 }) s
  let t := toPhase 0 { t with sec := { t.sec with repointing := false } }
  let t := endKind .repoint 0 t
  match t.rst.after with
  | some k => wantReset false k { t with rst := { t.rst with after := none } }
  | none => t

/-- REPOINT_COMPLETE (R365). -/
def execRepointComplete (s : State) : Host.Outcome State Fault Refusal := run fpReset (onlyIf (inPhase 5) repointDone) s

/-- QUOIN_SCRUB_TIMEOUT (R366): the engine is held in reset until the next full block reset, its port with no engine. -/
def scrubTimeout (p : Nat) (s : State) : State :=
  if (qport s p).scrub then
    emit (.quoinReset p true) (modQp p (fun q => { q with
      scrub := false, registered := false, heldReset := true, identity := [], words := [], mhz := 0 }) s)
  else s

/-- QUOIN_SCRUB_TIMEOUT (R366). -/
def execQuoinScrubTimeout (p : Nat) (s : State) : Host.Outcome State Fault Refusal :=
  onUnit (decide (p < quoinPorts s)) "quoin port" (run [.quoin, .out] (scrubTimeout p) s)

end Sys2Proof.Machine
end

