-- ==== Sys2Proof/Machine/Scrub.lean ====
section
/-! DEFINITION. Scrubbing, refetching and control memories (R463, R468 to R475). -/
namespace Sys2Proof.Machine

/-! ## SCRUB_RANGE and SCRUB_RATE_SET -/

/-- The bound of a pass, in ms: its length at the rate in force, plus 1 s. Scratchpads are read side by side. -/
def scrubBound (s : State) (spad : Bool) (len : Nat) : Nat :=
  if spad then ceilDiv (min len 0x80000) (1000 * max 1 s.lift.clk) + 1000
  else ceilDiv (len / 64 * 1000) (max 1 (rateInForce s * 1024)) + 1000

/-- SCRUB_RANGE (R471, R474), its range as R471 wants it. -/
def scrubRangeGo (x : Nat) (r : Req) (s : State) : State :=
  let start := fld r.p 0 8
  let len := fld r.p 8 8
  let spad := fld r.p 0x18 1 == 1
  if s.ras.pass.isSome || s.sec.repointing then reply x 0x28 s
  else accepted x .scrub (scrubBound s spad len) (fun i t =>
    refreshScrub { t with ras := { t.ras with
      pass := some { start := start, len := len, summaryVa := fld r.p 0x10 8, spad := spad, slot := i } } }) s

/-- SCRUB_RANGE (R471). -/
def execScrubRange (box : Nat) (s : State) : Host.Outcome State Fault Refusal :=
  boxRow [.ras, .mem, .dev] 0x403 box (scrubRangeGo box) s

/-- SCRUB_RATE_SET (R472): the conflict of the rate it replaces ends first. -/
def scrubRateGo (x : Nat) (r : Req) (s : State) : State :=
  let rate := fld r.p 0 4
  if rateTooHigh s rate then reply x 0x23 s
  else
    let k := takeHandle 0 true s
    let t := refreshScrub { k.2 with ras := { k.2.ras with required := some 0 } }
    let t := refreshScrub { t with ras := { t.ras with required := some rate, reqHandle := k.1 } }
    respond x 0 (natLe 4 k.1) t

/-- SCRUB_RATE_SET (R472). -/
def execScrubRateSet (box : Nat) (s : State) : Host.Outcome State Fault Refusal :=
  boxRow [.ras, .mem, .dev, .pwr] 0x404 box (scrubRateGo box) s

/-! ## The end of a pass (R473, R474) -/

/-- Whether the range of a pass overlaps the share of a bay whose interface hides it (R358). -/
def scrubHidden (s : State) (p : Scrub) : Bool :=
  (List.range s.bays.count).any fun b => tdiHides s b &&
    if p.spad then overlaps p.start p.len (courseBase s b * 32 * 0x80000) (shareCourses s * 32 * 0x80000)
    else overlaps p.start p.len (b * shareBytes s) (shareBytes s)

/-- What a pass found. -/
structure ScrubFound where
  detections : Nat := 0
  poisoned : Nat := 0
  skipped : Nat := 0
  first : Option Nat := none
  last : Nat := 0
  deriving DecidableEq, Repr, Inhabited

/-- A failing address noted. -/
def ScrubFound.note (f : ScrubFound) (addr : Nat) (new : Bool) : ScrubFound :=
  { f with detections := f.detections + 1, poisoned := f.poisoned + b2n new
           first := some (min addr (f.first.getD addr)), last := max addr f.last }

/-- The summary of a pass (R474). -/
def summary (s : State) (p : Scrub) (f : ScrubFound) (checked us flags : Nat) : List Byte :=
  let hid := scrubHidden s p
  let addr (d : Nat) := if hid then 0 else if f.first.isNone then 2 ^ 64 - 1 else d
  natLe 8 p.start ++ natLe 8 p.len ++ natLe 8 checked ++ natLe 4 f.detections ++ natLe 4 f.poisoned ++
    natLe 8 (addr (f.first.getD 0)) ++ natLe 8 (addr f.last) ++ natLe 8 us ++ natLe 4 f.skipped ++ natLe 1 (b2n p.spad) ++
    natLe 1 (flags + 4 * b2n hid) ++ natLe 2 0

/-- A pass ends with its summary, its record and OK in its slot (R474, R476). -/
def endPass (p : Scrub) (f : ScrubFound) (checked us flags : Nat) (s : State) : State :=
  let t := emit (.hostWrite 0 p.summaryVa (summary s p f checked us flags)) s
  let t := refreshScrub { t with ras := { t.ras with pass := none } }
  opEnd 0 p.slot 0 (raise srcScrubEnd (rasRec 9 0 0xFF 0 (b2n p.spad) (if scrubHidden s { p with len := 1 } then 0 else p.start) f.detections t))

/-- Where the dump region begins (R381). -/
def dumpBase (s : State) : Nat := physTop s - reservedBytes s + (if isF s then 4240 else 2120) * 2 ^ 20
/-- Its bytes. -/
def dumpBytesMax (s : State) : Nat := (if isF s then 1024 else 512) * 2 ^ 20

/-- The device address of bay `b` that maps a byte of its share, if one does: a placed extent's, the KV pool's or the batch area's. -/
def vaOfPhys (s : State) (b pa : Nat) : Option Nat :=
  let at_ (f : Nat) : Bool := physOf s b f 0 / 2 ^ 21 == pa / 2 ^ 21
  let run (base : Nat) (l : List Nat) : Option Nat := (l.findIdx? at_).map fun i => base + i * 2 ^ 21 + pa % 2 ^ 21
  ((bay s b).mem.extents.findSome? fun e => match e.2.home with
    | .hbm f => if at_ f then some (e.1 * 2 ^ 21 + pa % 2 ^ 21) else none
    | .win _ _ => none).or ((run kvBase (bay s b).strm.pool).or (run batchBase (bay s b).strm.area))

/-- The slab whose frame holds an address of the KV pool. -/
def slabAt (s : State) (b a : Nat) : Option Nat :=
  ((bay s b).strm.slabs.find? fun e => e.2.loc != .free && !e.2.spill && within (e.2.vaPage * 4096) (frameBytes s b e.2) a 1).map (·.1)

/-- The class of a reserved byte by its region (R381, R462). -/
def reservedClass (s : State) (pa : Nat) : Nat :=
  let off := (pa - (physTop s - reservedBytes s)) / 2 ^ 20 * (if isF s then 1 else 2)
  if off < 64 then 4 else if off < 128 then 5 else if off < 4224 then 6
  else if dumpBase s ≤ pa ∧ pa < dumpBase s + dumpBytesMax s then 13 else 12

/-- The context whose home region holds a byte of the share of bay `b`. -/
def homeOf (s : State) (b pa : Nat) : Option Ctx := (bay s b).strm.ctxs.find? fun x => (homeOff s b x (pa / 512)).isSome

/-- Whether a byte of the share of bay `b` lies in the staging extent of `c`. -/
def stagedBy (s : State) (b pa : Nat) (c : Cmd) : Bool := c.stageAt.any fun f => physOf s b f 0 / 2 ^ 21 == pa / 2 ^ 21

/-- The class of a byte of a bay's share that no device address maps: a context's home region (7); the staging pool (8), where no
committed command has it still to copy; or else other data of the bay (R462). -/
def unmappedClass (s : State) (b pa : Nat) : Nat :=
  if (homeOf s b pa).isSome then 7
  else if physOf s b (stagingBase s) 0 ≤ pa ∧ ((bayCmds s b).any fun c => c.committed && stagedBy s b pa c) = false then 8
  else 11

/-- The bay and class of an HBM block (R462). -/
def blockClass (s : State) (pa : Nat) : Nat × Nat :=
  if physReserved s pa then (0xFF, reservedClass s pa)
  else match bayOfPhys s pa with
    | none => (0xFF, 11)
    | some b => (b, match vaOfPhys s b pa with
      | some va => dataClass s b va
      | none => unmappedClass s b pa)

/-- Whether a pass reads a block: in valid-bit mode, only one of a valid page (R384); home regions and staging extents, which the block
writes on its own, are taken as valid (log entry 52). -/
def blockRead (s : State) (pa : Nat) : Bool :=
  pageValid s pa || (bayOfPhys s pa).any fun b => (homeOf s b pa).isSome || (bayCmds s b).any (stagedBy s b pa)

/-! ## Reserved regions (R462, R466)

What a block of the stream table or the slab map holds follows from R155 and R165. Which entries a block of the translation tables
holds, and whether a block of firmware work holds a lift plan are free values. -/

/-- The first byte of the reserved regions (R381). -/
def reservedBase (s : State) : Nat := physTop s - reservedBytes s

/-- The recoveries counted (R478). -/
def countRecov (good : Bool) (n : Nat) (s : State) : State :=
  { s with ras := { s.ras with
      recovered := if good then satAdd 0xFFFF s.ras.recovered n else s.ras.recovered
      failed := if good then s.ras.failed else satAdd 0xFFFF s.ras.failed n } }

/-- A poisoned block was recovered (R462, R476). -/
def recoveredBlock (b blk cls : Nat) (s : State) : State :=
  rasRec 6 5 b cls 0 (blk * 512) 0 (countRecov true 1 { s with mem := { s.mem with poison := tdrop blk s.mem.poison } })

/-- The eight streams whose descriptors a block of the stream table holds are LOST (R155, R190). -/
def loseDescriptors (off : Nat) (s : State) : State :=
  each (List.range 8) (fun i t => loseDescriptor ((off / 64 + i) / streamsPerBay t) ((off / 64 + i) % streamsPerBay t) t) s

/-- A block of the slab map (R466): rewritten from the slab-map cache where that holds all its entries, or else every stream one of whose
lists reaches an entry of it is LOST and its entries are FREE. -/
def slabMapBlock (off blk : Nat) (s : State) : State :=
  let per := slabsPerBay s
  let b := off / 16 / per
  let es := (List.range 32).map fun i => off / 16 % per + i
  if es.all fun i => (bay s b).strm.mapCache.contains i then recoveredBlock b blk 5 s
  else
    let reached (k : Nat) : Bool := [false, true].any fun butt => match listModel s b (stream s b k) butt with
      | some m => (listRows s b k butt).any fun r => es.any fun i => decide (r ≤ i ∧ i < r + m.layers)
      | none => false
    let owners := (tkeys (bay s b).strm.streams).filter reached
    recoveredBlock b blk 5 (each es (fun i => modSlab b i fun _ => {}) (each owners (loseStream b) s))

/-- One entry of the translation tables is written as unmapped (R466): its frame is withheld until the bay's reset work. -/
def loseEntry (b page : Nat) (s : State) : State :=
  match extent? s b (page / 512) with
  | some _ =>
    let t := abandonMove b (page / 512) s
    match extent? t b (page / 512) with
    | none => t
    | some x => modBm b (fun m => { m with
        extents := tdrop (page / 512) m.extents
        withheld := match x.home with
          | .hbm f => sput f m.withheld
          | .win _ _ => m.withheld }) t
  | none => modBm b (fun m => { m with maps := m.maps.flatMap (mapOutside page 1) }) s

/-- A block of the translation tables (R466): its record names the bay and the first address concerned. -/
def tableBlock (off blk : Nat) (s : State) : State :=
  let b := off / ((if isF s then 4 else 2) * 2 ^ 30 / s.bays.count)
  let pages := (List.range 64).map fun i => (Config.free (s.out.free + i)).toNat % 2 ^ 36
  let first := (pages.foldl (fun m p => min m p) (2 ^ 36)) * 4096
  let t := raise srcPoison (rasRec 5 5 b 6 4 first 0 { s with out := { s.out with free := s.out.free + 64 } })
  recoveredBlock b blk 6 (each pages (loseEntry b) t)

/-- A block of firmware work (R466): rebuilt; a poisoned lift plan makes its lift run as one with no plan (R105). -/
def firmwareBlock (blk : Nat) (s : State) : State :=
  let t := drewFree s
  let t := if bit (freeVal s).toNat 0 then
      each (t.lift.sealed.getD []) unstart { t with lift := { t.lift with sealed := none } }
    else t
  recoveredBlock 0xFF blk 12 t

/-- What follows when a block of a reserved region is poisoned (R462, R466). -/
def poisonReserved (blk : Nat) (s : State) : State :=
  let off := blk * 512 - reservedBase s
  let unit := (if isF s then 64 else 32) * 2 ^ 20
  match reservedClass s (blk * 512) with
  | 4 => loseDescriptors off (poisonBlock 0xFF blk 4 s)
  | 5 => slabMapBlock (off - unit) blk (poisonBlock 0xFF blk 5 s)
  | 6 => tableBlock (off - 2 * unit) blk s
  | 12 => firmwareBlock blk (poisonBlock 0xFF blk 12 s)
  | k => poisonBlock 0xFF blk k s

/-- What follows when a pass poisons a block of a bay's share (R462): the slab it holds is poisoned (R186), the context whose home it
lies in is damaged (R457), or a block of the staging pool is zeroed and the command that has staged there runs again (R455). -/
def poisonShare (b cls blk : Nat) (s : State) : State :=
  let t := poisonBlock b blk cls s
  match cls with
  | 2 => match (vaOfPhys t b (blk * 512)).bind (slabAt t b) with
    | some i => poisonSlab b i 1 t
    | none => t
  | 7 => match homeOf t b (blk * 512) with
    | some x => damageCtx b x.handle t
    | none => t
  | 8 =>
    let u := recoveredBlock b blk 8 t
    match (bayCmds u b).find? fun c => stagedBy u b (blk * 512) c && (c.st == .running || c.st == .committing) with
    | some c => detect c.cid 5 none 0 (blk * 512) u
    | none => u
  | _ => t

/-- One block whose MAC failed (R460, R473). -/
def scrubBlock (p : Scrub) (e : Nat × Bool) (q : ScrubFound × State) : ScrubFound × State :=
  let pa := e.1 * 512
  if !within p.start p.len pa 512 || !blockRead q.2 pa || (tget e.1 q.2.mem.poison).isSome then q
  else if e.2 then (q.1, countTransient q.2)
  else
    let c := blockClass q.2 pa
    (q.1.note pa true, if physReserved q.2 pa then poisonReserved e.1 q.2 else poisonShare c.1 c.2 e.1 q.2)

/-- The contexts whose content an ashlar holds. -/
def ctxOn (s : State) (a : Nat) : Option (Nat × Ctx) :=
  s.bays.all.findSome? fun b => (b.2.strm.ctxs.find? fun x => (ctxIds x).contains a).map fun x => (b.1, x)

/-- One scratchpad line that failed its code (R473): one of an ashlar that no running command, context or idle ashlar holds, such as a
frozen one, is noted alone. -/
def scrubLine (p : Scrub) (line : Nat) (q : ScrubFound × State) : ScrubFound × State :=
  let addr := line * 64
  let a := addr / 0x80000
  let s := q.2
  if !within p.start p.len addr 64 || isLost s a then q
  else
    let c := cmdD s (ash s a).cid
    if (panelIds c).contains a && (c.st == .running || c.st == .anchored) then (q.1.note addr false, lineDetect a (addr % 0x80000) s)
    else match ctxOn s a with
      | some x => (q.1.note addr false, damageCtx x.1 x.2.handle s)
      | none =>
        if (ash s a).run == .idle then (q.1.note addr true, modAsh a (fun y => { y with spad := mzero (addr % 0x80000) 64 y.spad }) s)
        else (q.1.note addr false, s)

/-- The lines of lost ashlars in a range. -/
def lostLines (s : State) (p : Scrub) : Nat :=
  ((List.range (ashlars s)).filter (isLost s)).foldl (fun n a =>
    n + (min (p.start + p.len) ((a + 1) * 0x80000) - max p.start (a * 0x80000)) / 64) 0

/-- A pass has read its range: `bad` lists the blocks (HBM) or 64-byte lines (scratchpad) that failed their code, with
whether the second read passed. -/
def passEnd (bad : List (Nat × Bool)) (us : Nat) (p : Scrub) (s : State) : State :=
  if p.spad then
    let q := bad.foldl (fun q e => scrubLine p e.1 q) ({}, s)
    let lost := lostLines q.2 p
    endPass p { q.1 with skipped := lost } (p.len / 64 - lost) us 1 q.2
  else
    let old := (poisonIn s p.start p.len).foldl (fun (f : ScrubFound) e => f.note (e.1 * 512) false) {}
    let q := bad.foldl (fun q e => scrubBlock p e q) (old, s)
    endPass p q.1 (p.len / 64) us 1 q.2

/-- SCRUB_PASS_END (R474). -/
def execScrubPassEnd (bad : List (Nat × Bool)) (us : Nat) (s : State) : Host.Outcome State Fault Refusal :=
  run fpReset (fun t => match t.ras.pass with
    | some p => passEnd bad us p t
    | none => t) s

/-! ## Weight refetch (R463) -/

/-- The blocks of class 1 that hold bytes of a segment of a model: device address and block. -/
def segPoison (s : State) (b : Nat) (m : Model) (seg : Nat) : List (Nat × Nat) :=
  m.weights.flatMap fun w =>
    let lo := max w.2.2 (seg * 2 ^ 20)
    let hi := min (w.2.2 + w.2.1) ((seg + 1) * 2 ^ 20)
    if hi ≤ lo then []
    else (physRanges s b (w.1 + (lo - w.2.2)) (hi - lo) 1).flatMap fun q =>
      (poisonIn s q.2.1 q.2.2).map fun e => (q.1 + (e.1 * 512 - q.2.1), e.1)

/-- The reads of a segment's sealed image go out (R392, R423). -/
def askSegment (b : Nat) (m : Model) (seg : Nat) (env : Env) (s : State) : State :=
  match (readVa s b env false m.imageVa 256).bind fun h => sealHead h m.imageBytes with
  | some hd =>
    let at_ := 256 + hd.manifest + 16 + seg * (2 ^ 20 + 16)
    askVa b (m.imageVa + at_) (min (2 ^ 20 + 16) (m.imageBytes - at_)) (askVa b m.imageVa 256 s)
  | none => askVa b m.imageVa 256 s

/-- The plaintext of a segment, re-read from the sealed image; none when it cannot be read or its tag fails. -/
def refetch (s : State) (b : Nat) (m : Model) (seg : Nat) (env : Env) : Option (List Byte) :=
  match (bay s b).strm.keys.find? (fun k => k.1 == m.key), readVa s b env false m.imageVa 256 with
  | some key, some h =>
    match sealHead h m.imageBytes with
    | none => none
    | some hd =>
      let at_ := 256 + hd.manifest + 16 + seg * (2 ^ 20 + 16)
      match readVa s b env false (m.imageVa + at_) (min (2 ^ 20 + 16) (m.imageBytes - at_)) with
      | none => none
      | some ct => openSeg key.2.2 hd (seg + 1) ct
  | _, _ => none

/-- The weight bytes of a segment are rewritten (R463). -/
def rewriteSeg (b : Nat) (m : Model) (seg : Nat) (bs : List Byte) (s : State) : State :=
  each m.weights (fun w t =>
    let lo := max w.2.2 (seg * 2 ^ 20)
    let hi := min (w.2.2 + w.2.1) ((seg + 1) * 2 ^ 20)
    if hi ≤ lo then t else sealWrite b (w.1 + (lo - w.2.2)) ((bs.drop (lo - seg * 2 ^ 20)).take (hi - lo)) t) s

/-- The first poisoned weight block a command's inputs hold. -/
def weightPoison (s : State) (c : Cmd) : Option (Nat × Nat) :=
  c.desc.ins.findSome? fun r => (physRanges s c.bay r.va r.len 1).findSome? fun q =>
    (poisonIn s q.2.1 q.2.2).findSome? fun e => if e.2 = 1 then some (q.1 + (e.1 * 512 - q.2.1), e.1) else none

/-- Readers that were held go on, or end where their segment cannot be recovered (R462). -/
def releaseReaders (b : Nat) (s : State) : State :=
  each ((bayCmds s b).filter (·.held)) (fun c t =>
    match weightPoison t c with
    | none => modCmd c.cid (fun x => { x with held := false }) t
    | some p => if refetchFailed t b p.1 then exhaust c.cid 10 p.1 none (unplan c.cid t) else t) s

/-- The refetch of a segment ends (R463). -/
def refetchDone (b id seg : Nat) (env : Env) (s : State) : State :=
  match model? s b id with
  | none => s
  | some m =>
    let ps := segPoison s b m seg
    if ps.isEmpty || m.failedSegs.contains seg then s
    else
      let s := askSegment b m seg env s
      match refetch s b m seg env with
      | some bs =>
        let t := rewriteSeg b m seg bs s
        let blks := ps.map (·.2)
        let t := { t with mem := { t.mem with poison := t.mem.poison.filter fun e => !blks.contains e.1 } }
        releaseReaders b (each ps (fun p => rasRec 6 5 b 1 0 (p.2 * 512) 0) (countRecov true ps.length t))
      | none =>
        let fail (x : Model) : Model := { x with failedSegs := seg :: x.failedSegs }
        let t := modSt b (fun y => { y with models := modFirst (fun x => x.id == id && !x.loading) fail y.models }) s
        releaseReaders b (countRecov false ps.length t)

/-- WEIGHT_REFETCH_DONE (R463). -/
def execWeightRefetchDone (b model seg : Nat) (env : Env) (s : State) : Host.Outcome State Fault Refusal :=
  onUnit (decide (b < s.bays.count)) "bay" (run fpReset (refetchDone b model seg env) s)

/-! ## Control memories and laps -/

/-- BUCKET_LEAK_TICK (R469): the leak period of the class has passed. -/
def execBucketLeakTick (k : Nat) (s : State) : Host.Outcome State Fault Refusal :=
  onUnit (decide (k < 7)) "control memory class" (run [.ras] (onlyIf (fun t => footFld t (0x3A + 4 * k) 2 != 0) fun t =>
    { t with ras := { t.ras with ceLevel := tmod k 0 (· - 1) t.ras.ceLevel } }) s)

/-- Whether an uncorrectable error of a class resets the whole block (R468). -/
def ueFull (k : Nat) (fullDomain : Bool) : Bool := k == 0 || k == 1 || k == 2 || k == 6 || (k == 4 && fullDomain)

/-- UNCORRECTABLE_ERROR (R470): `fullDomain` tells the memories of class 4 apart; `hit` names the stream whose descriptor the word held,
which is lost if it held changes not yet written back. -/
def uncorrectable (k : Nat) (fullDomain : Bool) (word : Nat) (hit : Option (Nat × Nat)) (s : State) : State :=
  let t := raise srcUe (rasRec 8 0 0xFF k 3 word 0 s)
  let t := match hit with
    | some h => if k = 2 && tget h.2 (bay t h.1).strm.cache == some true then loseDescriptor h.1 h.2 t else t
    | none => t
  wantReset (ueFull k fullDomain) (if ueFull k fullDomain then 3 else 2) t

/-- UNCORRECTABLE_ERROR (R470). -/
def execUncorrectableError (k : Nat) (fullDomain : Bool) (word : Nat) (hit : Option (Nat × Nat)) (s : State) :
    Host.Outcome State Fault Refusal :=
  onUnit (decide (k < 7)) "control memory class" (run fpReset (uncorrectable k fullDomain word hit) s)

/-- LAP_OVERDUE (R475): one record for a lap. -/
def execLapOverdue (k : Nat) (s : State) : Host.Outcome State Fault Refusal :=
  onUnit (decide (k < 4)) "scrubbed memory" (run [.ras, .irq] (onlyIf (fun t => !t.ras.overdue.contains k) fun t =>
    raise srcLap (rasRec 11 0 0xFF k 0 0 0 { t with ras := { t.ras with overdue := sput k t.ras.overdue } })) s)

/-- What a lap of memory `k` found: corrected words of firmware SRAM and the sync objects (R469), or blocks of the stream table and the
slab map whose MAC failed, with whether the second read passed (R460, R462). -/
def lapFound (k : Nat) (e : Nat × Bool) (s : State) : State :=
  if k < 2 then ceCorrect k s
  else if !physReserved s (e.1 * 512) || reservedClass s (e.1 * 512) != k + 2 || (tget e.1 s.mem.poison).isSome then s
  else if e.2 then countTransient s else poisonReserved e.1 s

/-- A lap ends (R479). -/
def lapEnd (k ms : Nat) (s : State) : State :=
  { s with ras := { s.ras with
    lapMs := tput k (min ms 0xFFFF) s.ras.lapMs, laps := tmod k 0 (fun n => satAdd 0xFFFF n 1) s.ras.laps
    overdue := sdrop k s.ras.overdue } }

/-- SCRUB_LAP_END (R475, R479); `bad` lists what the lap found. -/
def execScrubLapEnd (k ms : Nat) (s : State) (bad : List (Nat × Bool) := []) : Host.Outcome State Fault Refusal :=
  onUnit (decide (k < 4)) "scrubbed memory" (run fpWork (fun t => lapEnd k ms (each bad (lapFound k) t)) s)

end Sys2Proof.Machine
end

