-- ==== Sys2Proof/Machine/Flags.lean ====
section
/-! DEFINITION. The registers as they read (the field maps of the chapters, indexed in R593 to R603), and the areas of the two
windows (R333, R399, R516, R580, R582, R585). A register's fields are packed from the state that holds them; there is no second
copy. -/
namespace Sys2Proof.Machine

/-- Fields packed at their lowest bits. -/
def pack (fs : List (Nat × Nat)) : Nat := fs.foldl (fun n f => n + f.2 * 2 ^ f.1) 0

/-- The index of `off` in an array of `n` registers at `base`, every `step` bytes. -/
def regIx (base step n off : Nat) : Option Nat :=
  if base ≤ off ∧ off < base + step * n ∧ (off - base) % step = 0 then some ((off - base) / step) else none

/-- The value of an array register, 0 where `off` names none. -/
def regArr (base step n off : Nat) (f : Nat → Nat) : Nat := ((regIx base step n off).map f).getD 0

/-! ## Identity, mailboxes, footing store -/

/-- BLK_ registers (R588 to R592). -/
def blkReg (s : State) (off : Nat) : Nat :=
  match off with
  | 0x00 => 0xDA1AF2B0
  | 0x04 => 0x100
  | 0x08 => if isF s then 0x08848400 else 0x84424200
  | 0x0C => (fwNow s).version % 2 ^ 32
  | 0x10 => (fwNow s).svn % 2 ^ 32
  | 0x14 => if s.fw.running then 0x01020100 else 0x01000100
  | 0x40 => s.dev.mgrEv.prod
  | 0x44 => s.dev.mgrEv.cons
  | 0x48 => s.dev.mgrEv.lost
  | _ => 0

/-- MBX_ control registers of mailbox `x` (R289 to R291). -/
def mbxReg (s : State) (x off : Nat) : Nat :=
  let m := mbx s x
  match off with
  | 0 => b2n m.busy
  | 4 => pack [(31, b2n m.ready), (30, b2n m.boot), (29, b2n s.rst.oos), (16, m.opDone), (8, m.ignored), (1, b2n m.busy), (0, b2n m.done)]
  | _ => regArr 0x10 4 4 off fun i => match tget i m.ops with
    | some o => pack [(30, if o.running then 1 else 2), (16, o.opId), (0, if o.running then 0 else o.code)]
    | none => 0

/-- FTG_ registers (R308, R309). -/
def ftgReg (s : State) (off : Nat) : Nat :=
  match off with
  | 0 => pack [(31, b2n s.foot.defaults), (30, b2n s.foot.rolled), (29, b2n (s.foot.staged != s.foot.record)),
               (0, min 32 (storesCounted s).length)]
  | 4 => footFld s 8 4
  | _ => 0

/-! ## Interrupt controller (R533 to R538) -/

/-- Whether a source is relayed to the host: slots 0 to 4 of a bay's group, slots 8 to 12 of group 0 (R520). -/
def relaySrc (n : Nat) : Bool := decide (n % 32 < 5) || decide (8 ≤ n ∧ n ≤ 12)

/-- The priority of a source. -/
def irqPrio (s : State) (n : Nat) : Nat := tgetD n s.irq.prio 0x80
/-- The target of a source: a core, or 4 for the relay. -/
def irqDest (s : State) (n : Nat) : Nat := tgetD n s.irq.dest (if relaySrc n then 4 else 0)
/-- The vector of a relayed source; the completion source's vectors are in its owed-vector map (R525). -/
def irqVec (s : State) (n : Nat) : Nat :=
  tgetD n s.irq.vec (if 8 ≤ n ∧ n ≤ 12 then n - 8 else if n % 32 = 0 then 0 else if n % 32 < 5 then 59 + n % 32 else 0)
/-- The function of a source: 0 the physical one, b + 1 bay b's. -/
def irqFunc (n : Nat) : Nat := if n % 32 < 5 then n / 32 + 1 else 0

/-- Bits of the sources of group `g` in a set. -/
def groupBits (s : State) (l : List Nat) (g : Nat) : Nat :=
  pack ((List.range 32).map fun k => (k, b2n (l.contains (32 * g + k) && !srcReserved s (32 * g + k))))

/-- The hold-off of group `g`: the value written, or the record's (R528, R537). -/
def holdOf (s : State) (g : Nat) : Nat := tgetD g s.irq.hold (footFld s (0x58 + 2 * g) 2)

/-- External line `k`. -/
def extLine (s : State) (k : Nat) : Ext := tgetD k s.irq.ext {}

/-- IRQ_ registers. -/
def irqReg (s : State) (off : Nat) : Nat :=
  if off = 0 then pack [(31, b2n s.irq.lock), (0, s.irq.bpoint)]
  else if off < 0x2000 then regArr 0x1000 4 128 off fun n => pack ((List.range 4).map fun i =>
    (8 * i, if srcReserved s (4 * n + i) then 0 else irqPrio s (4 * n + i)))
  else if off < 0x3000 then regArr 0x2000 4 512 off fun n => if srcReserved s n then 0
    else pack [(16, irqFunc n), (8, irqDest s n), (0, irqVec s n)]
  else if off < 0x3040 then regArr 0x3000 4 16 off (groupBits s s.irq.en)
  else if off < 0x3080 then regArr 0x3040 4 16 off (groupBits s s.irq.pend)
  else if off < 0x30C0 then regArr 0x3080 4 16 off (groupBits s s.irq.pend)
  else if off < 0x4000 then regArr 0x30C0 4 16 off (groupBits s s.irq.act)
  else if off < 0x5000 then regArr 0x4000 4 16 off fun g => if s.bays.count ≤ g then 0 else pack [(16, tgetD g s.irq.timer 0), (0, holdOf s g)]
  else regArr 0x5000 4 32 off fun k =>
    let e := extLine s k
    pack [(31, b2n e.raw), (30, b2n e.filtered), (9, b2n e.polarity), (8, b2n e.level), (0, e.filter)]

/-! ## Errors, hangs, resets, dump -/

/-- RAS_, SCRB_ and PLMB_ registers (R478, R479, R514). -/
def rasReg (s : State) (off : Nat) : Nat :=
  match off with
  | 0x00 => s.ras.log.prod
  | 0x04 => s.ras.log.cons
  | 0x08 => s.ras.log.lost
  | 0x80 => pack [(16, s.ras.transient), (0, min 0xFFFF s.mem.poison.length)]
  | 0x84 => pack [(16, s.ras.recovered), (0, s.ras.failed)]
  | 0x1000 => if s.ras.pass.isNone then pack [(30, b2n (requiredRate s != 0)), (29, b2n s.ras.conflict)]
      else pack [(31, 1), (30, b2n (requiredRate s != 0)), (29, b2n s.ras.conflict), (0, (freeVal s).toNat % 2 ^ 29)]
  | 0x1004 => s.ras.rate
  | 0x6000 => s.plumb.quietLifts
  | 0x6004 => pack [(16, s.plumb.declared), (0, s.plumb.device)]
  | 0x6008 => s.plumb.log.prod
  | 0x600C => s.plumb.log.cons
  | 0x6010 => s.plumb.log.lost
  | _ =>
    if off < 0x60 then regArr 0x20 4 10 off fun i => tgetD (i + 1) s.ras.det 0
    else if off < 0x80 then regArr 0x60 4 7 off fun k => pack [(16, tgetD k s.ras.ceTotal 0), (0, tgetD k s.ras.ceLevel 0)]
    else if off < 0x2000 then regArr 0x1010 4 4 off fun k => pack [(16, tgetD k s.ras.lapMs 0), (0, tgetD k s.ras.laps 0)]
    else match regIx 0x6100 4 32 off with
      | none => 0
      | some i =>
        let b := i / 2
        let y := bay s b
        if s.bays.count ≤ b then 0
        else if i % 2 = 0 then y.progress
        else pack [(31, b2n y.blocked), (16, y.hangs % 2 ^ 15), (0, y.quiet)]

/-- The domain of the reset in progress (R515). -/
def rstDomain (s : State) : Nat :=
  match s.rst.now with
  | some r => if r.full then 3 else 2
  | none => if s.rst.engines.isEmpty then 0 else 1

/-- Whether a full (compute-part) reset runs. -/
def runsReset (s : State) (full : Bool) : Bool := s.rst.now.any fun r => r.full == full

/-- RST_ and DUMP_ registers (R515, R518). -/
def rstReg (s : State) (off : Nat) : Nat :=
  match off with
  | 0x00 => pack [(1, b2n (s.rst.ctlFull || runsReset s true)), (0, b2n (s.rst.ctlCompute || runsReset s false))]
  | 0x04 => pack [(31, b2n s.rst.oos), (28, rstDomain s), (27, b2n s.rst.shored)]
  | 0x08 => pack [(24, min 255 (escFull s)), (16, min 255 (escCompute s))]
  | 0x10 => s.rst.time % 2 ^ 32
  | 0x14 => s.rst.timeLatch
  | 0x20 => s.rst.log.prod
  | 0x24 => s.rst.log.cons
  | 0x28 => s.rst.log.lost
  | 0x8000 => pack [(31, b2n s.dump.present), (30, b2n s.dump.writing), (29, b2n s.dump.failed),
                    (16, if s.dump.present then s.dump.head.format else 0), (8, s.dump.skipped), (0, s.dump.poisoned)]
  | _ => 0

/-! ## Power, lifts, grid -/

/-- PWR_ and CLK_ registers (R577 to R579). -/
def pwrReg (s : State) (off : Nat) : Nat :=
  let p := s.pwr
  match off with
  | 0x00 => pack [(31, b2n p.pmbFail), (30, b2n p.throttle.isSome), (29, b2n p.trip), (27, p.limit), (0, capInForce s)]
  | 0x04 => pack [(16, p.pin), (0, p.vin)]
  | 0x08 => pack [(16, p.pinMax), (0, s.hw.pmbusAddr % 128)]
  | 0x0C => pack [(24, p.stackC), (8, p.sensor), (0, p.dieC)]
  | 0x10 => pack [(31, b2n s.start.ready), (8, s.start.phase), (0, s.start.fail)]
  | 0x100 => pack [(11, p.allow), (0, p.floor)]
  | _ => 0

/-- LIFT_ and GRID_ registers (R26 to R28, R148 to R154). -/
def liftReg (s : State) (off : Nat) : Nat :=
  match off with
  | 0x00 => pack [(31, b2n s.lift.pending), (16, s.lift.next), (0, s.lift.period)]
  | 0x08 => lift32 s
  | 0x0C => s.lift.latch
  | 0x10 => pack [(31, b2n s.lift.throttled), (0, s.lift.budget)]
  | 0x14 => s.lift.clkFixed
  | 0x20 => pack [(24, s.stat.latePlan), (16, s.stat.throttleKill), (0, s.stat.overrun)]
  | 0x24 => pack [(16, s.stat.forcedEvict), (0, s.stat.swaps)]
  | 0x28 => s.stat.buttress
  | 0x8000 => pack [(8, courses s), (0, 32)]
  | 0x8200 => pack [(16, s.grid.seqErr), (0, s.grid.crcErr)]
  | _ => regArr 0x8100 4 32 off fun n => if n < courses s then tgetD n s.grid.lost 0 else 0

/-! ## Bays and security -/

/-- BAY_ registers of the manager (R334). -/
def bayCfgReg (s : State) (off : Nat) : Nat :=
  if off = 0 then pack [(24, b2n s.bays.vfEnable), (16, s.bays.numVfs), (0, s.bays.count)]
  else regArr 0x100 4 16 off fun b => if s.bays.count ≤ b then 0 else pack [(8, b2n (bay s b).forced), (0, bayCode (bay s b).st)]

/-- SEC_ registers (R371 to R377). -/
def secReg (s : State) (off : Nat) : Nat :=
  match off with
  | 0x00 => pack [(31, b2n s.ident.locked), (30, b2n s.ident.uds.isSome), (29, b2n s.sec.repointing), (16, s.sec.sessions.length),
                  (8, (s.sec.ide.filter fun e => e.2.secure).length), (1, b2n (decide (1000 < s.sec.wtLog.count))),
                  (0, b2n (decide (1000 < s.sec.progLog.count)))]
  | 0x08 => s.sec.epoch % 2 ^ 32
  | 0x0C => s.sec.epochLatch
  | 0x10 => pack [(24, s.sec.phase), (0, s.sec.linksPending)]
  | 0x400 => min 0xFFFF s.sec.keyGeneration
  | _ =>
    if off < 0x200 then regArr 0x100 4 16 off fun p => if kwPorts s ≤ p then 0 else
      let x := kport s p
      let n := max (x.sTx - x.sK) (x.sRx - x.sKRx)
      pack [(30, keyCode x.key), (16, x.rekeys), (8, if x.key = .none ∨ n = 0 then 0 else Nat.log2 n), (0, x.tagFail)]
    else if off < 0x300 then regArr 0x200 4 16 off fun b => if s.bays.count ≤ b then 0
      else pack [(8, (tdi s b).stream), (0, tdiCode (tdi s b).st)]
    else regArr 0x300 4 4 off fun k => pack [(31, b2n (ide s k).secure), (16, (ide s k).streamId), (0, (ide s k).fail)]

/-! ## Memory, fabric, collectives -/

/-- MEM_ and XLT_ registers (R408). -/
def memReg (s : State) (off : Nat) : Nat :=
  let m := s.mem
  match off with
  | 0x00 => pack [(24, s.hw.pinRate), (16, s.hw.stackGib.headD 0), (8, hbmPorts s), (0, b2n (validMode s))]
  | 0x04 => pack [(31, b2n m.fillDone), (16, b2n m.bitmap), (0, m.fillMs)]
  | 0x08 => m.apBase
  | 0x100 => pack [(16, m.faults), (0, m.denied)]
  | 0x200 => pack [(31, b2n m.winBusy), (28, m.winStatus), (0, m.winIndex)]
  | 0x204 => m.winAttr
  | 0x208 => m.winBase
  | 0x20C => m.winLen
  | _ => 0

/-- The number of a port's state (R449). -/
def portCode : PortState → Nat
  | .disabled => 0
  | .training => 1
  | .keying => 2
  | .up => 3
  | .retrying => 4
  | .mismatch => 5

/-- The shared packet buffers free (R419); received frames are drained within a step. -/
def sharedFree (s : State) : Nat := ((List.range s.bays.count).map (quotaFree s)).foldl (· + ·) 0

/-- KW_ registers (R448 to R450). -/
def kwReg (s : State) (off : Nat) : Nat :=
  match off with
  | 0x00 => pack [(31, b2n s.kw.epValid), (16, s.kw.dom), (0, s.kw.ep)]
  | 0x200 => pack [(16, sharedFree s), (0, if isF s then 16384 else 8192)]
  | 0x204 => pack [(16, s.kw.stale), (0, s.kw.timeout)]
  | 0x208 => s.kw.mark
  | 0x20C => s.kw.txns.length
  | _ => regArr 0x100 4 16 off fun p => if kwPorts s ≤ p then 0 else
      let x := kport s p
      pack [(29, portCode x.st), (24, x.rev), (16, footFld s (0x7A + 4 * p) 1), (8, x.retrains), (0, x.naks)]

/-- ARCH_ registers (R451, R452). -/
def archReg (s : State) (off : Nat) : Nat :=
  let a := s.arch
  match off with
  | 0x00 => pack [(28, a.status), (0, a.index)]
  | 0x04 => a.gid
  | 0x08 => a.attr
  | 0x0C => a.tree
  | 0x10 => tgetD a.mbrIdx a.staging 0
  | 0x14 => a.mbrIdx
  | 0x100 => pack [(24, a.mismatch), (16, a.lost), (8, a.exhausted), (0, a.overBound)]
  | 0x104 => a.retries
  | 0x108 => a.groups.length
  | _ => 0

/-! ## Streams, slabs, placement, fronts -/

/-- The slab-map entries of a bay that satisfy a condition. -/
def slabsWith (s : State) (b : Nat) (p : Slab → Bool) : Nat := ((bay s b).strm.slabs.filter fun e => p e.2).length

/-- SLAB_HBM, SLAB_FAB, SLAB_POIS and SLAB_FREE of a bay (R195). -/
def slabReg (s : State) (b k : Nat) : Nat :=
  match k with
  | 0 => slabsWith s b fun x => x.loc == .valid && !x.spill
  | 1 => slabsWith s b fun x => x.loc == .valid && x.spill
  | 2 => slabsWith s b fun x => x.loc == .poisoned
  | _ => slabsPerBay s - slabsWith s b fun x => x.loc != .free

/-- BOND_HBM, BOND_WIN, BOND_PIN and BOND_FREE of a bay (R219). -/
def bondReg (s : State) (b k : Nat) : Nat :=
  let m := (bay s b).mem
  let inHbm := (m.extents.filter fun e => match e.2.home with
    | .hbm _ => true
    | .win _ _ => false).length
  match k with
  | 0 => inHbm
  | 1 => m.extents.length - inHbm
  | 2 => (m.extents.filter fun e => (pinOf m e.1).isSome).length
  | _ => freeFrames s b

/-- The constraints now in conflict (R218). -/
def activeConflicts (s : State) : Nat :=
  (s.bays.all.map fun e => (e.2.mem.pins.filter (·.conflict)).length).foldl (· + ·) 0 + b2n s.pwr.floorConflict +
    b2n s.pwr.capConflict + b2n s.ras.conflict

/-- STRM_, SLAB_ and BOND_ registers (R192 to R195, R217 to R219). -/
def strmReg (s : State) (off : Nat) : Nat :=
  match off with
  | 0x00 => streamsPerBay s
  | 0x04 => pack [(16, s.mem.cacheMiss), (0, s.mem.cacheWb)]
  | 0x100 => slabsPerBay s
  | 0x104 => pack [(16, s.mem.slabRebuilt), (0, s.mem.streamsLost)]
  | 0x400 => pack [(16, s.mem.moved), (0, s.mem.abandoned)]
  | 0x404 => pack [(16, s.mem.conflRaised), (0, min 255 (activeConflicts s))]
  | _ =>
    if off < 0x400 then regArr 0x200 4 64 off fun i => if s.bays.count ≤ i / 4 then 0 else slabReg s (i / 4) (i % 4)
    else regArr 0x500 4 64 off fun i => if s.bays.count ≤ i / 4 then 0 else bondReg s (i / 4) (i % 4)

/-- The frozen queues of a bay. -/
def frozenIn (s : State) (b : Nat) : Nat := ((bay s b).eqi.queues.filter (·.2.frozen)).length

/-- EQI_ registers of the manager (R274 to R276). -/
def frontReg (s : State) (off : Nat) : Nat :=
  match off with
  | 0x100 => pack [(16, s.dev.ignoredDb), (0, s.dev.wastedFetch)]
  | 0x104 => pack [(16, s.dev.errDiscarded), (0, ((List.range s.bays.count).map (frozenIn s)).foldl (· + ·) 0)]
  | _ => regArr 0x00 4 64 off fun n => match tget n s.dev.fronts with
    | some f => pack [(31, 1), (22, f.bay), (12, f.queue), (0, f.fetched)]
    | none => 0

/-! ## The windows -/

/-- The register of the manager window at `off`, 0 where there is none (R16, R580). -/
def mgrReg (s : State) (off : Nat) : Nat :=
  let o := off % 2 ^ 20
  match off / 2 ^ 20 with
  | 0x0 => blkReg s o
  | 0x1 => if o < 0x20 then mbxReg s 0 o else if 0x8000 ≤ o then ftgReg s (o - 0x8000) else 0
  | 0x2 => irqReg s o
  | 0x3 => rasReg s o
  | 0x4 => rstReg s o
  | 0x5 => pwrReg s o
  | 0x6 => liftReg s o
  | 0x7 => bayCfgReg s o
  | 0x8 => secReg s o
  | 0x9 => memReg s o
  | 0xA => kwReg s o
  | 0xB => archReg s o
  | 0xC => strmReg s o
  | 0xD => frontReg s o
  | _ => 0

/-- The register of bay `b`'s window at `off` (R272, R273, R331, R332, R401, R582). -/
def bayReg (s : State) (b off : Nat) : Nat :=
  let y := bay s b
  match off with
  | 0x00 => pack [(31, b2n !(isF s)), (16, s.bays.count), (8, shareCourses s), (0, b)]
  | 0x10 => 0x03040022
  | 0x14 => pack [(31, b2n y.eqi.negDone), (30, b2n y.eqi.negRefused), (8, y.eqi.major), (0, y.eqi.minor)]
  | 0x80000 => pack [(31, b2n s.rst.oos), (16, frozenIn s b), (0, bayCode y.st)]
  | 0x80004 => pack [(31, b2n s.lift.throttled), (0, s.lift.clk)]
  | 0x80008 => s.lift.period
  | 0x8000C => lift32 s
  | 0x80010 => y.liftLatch
  | 0x80020 => pack [(16, y.throttleKill), (0, y.overrun)]
  | 0x80024 => pack [(16, y.forcedEvict), (0, y.swaps)]
  | 0x80028 => y.buttress
  | 0x80030 => slabReg s b 0
  | 0x80034 => slabReg s b 1
  | 0x80038 => slabReg s b 2
  | 0x8003C => slabReg s b 3
  | 0x80040 => y.ev.prod
  | 0x80044 => y.ev.cons
  | 0x80048 => y.ev.lost
  | 0x80050 => pack [(16, min 0xFFFF ((bayCmds s b).filter (·.st == .faulted)).length), (0, y.mem.faults.length)]
  | _ => if 0x20 ≤ off ∧ off < 0x40 then mbxReg s (b + 1) (off - 0x20) else 0

/-- A byte of a ring of records of `n` bytes. -/
def ringByte (g : Ring) (n o : Nat) : Byte := (tgetD (o / n) g.recs []).getD (o % n) 0

/-- A fault record (R399). -/
def faultBytes (s : State) (b i : Nat) : List Byte :=
  match tget i (bay s b).mem.faults with
  | none => List.replicate 32 0
  | some r => natLe 8 r.page ++ natLe 8 r.firstByte ++ natLe 1 (min 2 r.state) ++ natLe 1 r.cause ++
      natLe 2 (min 0xFFFF r.waiters.length) ++ natLe 2 r.queue ++ natLe 2 r.slot ++ natLe 1 r.engine ++ natLe 3 0 ++ natLe 4 r.lift

/-- A byte of a function's MSI-X table: bit 0 of an entry's byte 12 is its Mask bit (R585). -/
def msixByte (s : State) (fn o : Nat) : Byte :=
  let m := tgetD fn s.irq.msix {}
  if o % 16 = 12 then BitVec.ofNat 8 (((mget m.table o).toNat / 2 * 2) + b2n !(m.unmasked.contains (o / 16))) else mget m.table o

/-- A byte of a function's Pending Bit Array. -/
def pbaByte (s : State) (fn o : Nat) : Byte :=
  BitVec.ofNat 8 (pack ((List.range 8).map fun i => (i, b2n ((tgetD fn s.irq.msix {}).pba.contains (8 * o + i)))))

/-- A byte of an area of the manager window that takes accesses of any size (R581); none elsewhere. -/
def mgrArea (s : State) (off : Nat) : Option Byte :=
  if 0x1000 ≤ off ∧ off < 0x2000 then some (ringByte s.dev.mgrEv 16 (off - 0x1000))
  else if 0x101000 ≤ off ∧ off < 0x102000 then some (mget (mbx s 0).area (off - 0x101000))
  else if 0x302000 ≤ off ∧ off < 0x304000 then some (ringByte s.ras.log 32 (off - 0x302000))
  else if 0x304000 ≤ off ∧ off < 0x306000 then some (ringByte s.plumb.log 32 (off - 0x304000))
  else if 0x401000 ≤ off ∧ off < 0x401800 then some (ringByte s.rst.log 32 (off - 0x401000))
  else none

/-- A byte of a doorbell slot: the last accepted sq_wp or cq_head (R226, R227). -/
def doorByte (s : State) (b o : Nat) : Byte :=
  let q := o / 0x1000 * 16 + o % 0x1000 / 256
  let k := o % 256
  match queue? s b q with
  | none => 0
  | some x => if k < 8 then (natLe 8 x.wp).getD k 0 else if k < 16 then (natLe 8 x.cqHead).getD (k - 8) 0 else 0

/-- The same of bay `b`'s window, its doorbell slots among them. -/
def bayArea (s : State) (b off : Nat) : Option Byte :=
  if 0x1000 ≤ off ∧ off < 0x2000 then some (mget (mbx s (b + 1)).area (off - 0x1000))
  else if 0x81000 ≤ off ∧ off < 0x82000 then some (ringByte (bay s b).ev 16 (off - 0x81000))
  else if 0x10000 ≤ off ∧ off < 0x50000 then some (doorByte s b (off - 0x10000))
  else none

/-- A 32-bit word of the manager window: a register, or a word of the MSI-X table or its PBA. -/
def mgrWord (s : State) (off : Nat) : Nat :=
  let word (f : Nat → Byte) (o : Nat) : Nat := leNat ((List.range 4).map fun i => f (o + i))
  if 0xC000 ≤ off ∧ off < 0xC080 then word (msixByte s 0) (off - 0xC000)
  else if 0xD000 ≤ off ∧ off < 0xD008 then word (pbaByte s 0) (off - 0xD000)
  else mgrReg s off

/-- A 32-bit word of bay `b`'s window: a register, or a word of its MSI-X table, PBA or fault records. -/
def bayWord (s : State) (b off : Nat) : Nat :=
  let word (f : Nat → Byte) (o : Nat) : Nat := leNat ((List.range 4).map fun i => f (o + i))
  if 0xC000 ≤ off ∧ off < 0xC400 then word (msixByte s (b + 1)) (off - 0xC000)
  else if 0xD000 ≤ off ∧ off < 0xD008 then word (pbaByte s (b + 1)) (off - 0xD000)
  else if 0x82000 ≤ off ∧ off < 0x82800 then fld (faultBytes s b ((off - 0x82000) / 32)) ((off - 0x82000) % 32) 4
  else bayReg s b off

/-- Whether bay `b`'s window serves an offset in the bay's state and during repointing (R367, R583). -/
def bayServes (s : State) (b off : Nat) : Bool :=
  let core := decide (off < 4) || (decide (0x10 ≤ off) && decide (off < 0x14)) || (decide (0x80000 ≤ off) && decide (off < 0x80004)) ||
    (decide (0x20 ≤ off) && decide (off < 0x40))
  if s.sec.repointing then core || (decide (0x1000 ≤ off) && decide (off < 0x2000))
  else if (bay s b).st == .absent then core || (decide (0xC000 ≤ off) && decide (off < 0xD008))
  else true

/-- The object of a word of the sync-object view: bay and object; none where the word reads 0 (R586). -/
def syncView (s : State) (off : Nat) : Option (Nat × Nat) :=
  if off < 0x1000000 ∨ 0x1080000 ≤ off then none
  else
    let i := (off - 0x1000000) / 8
    let b := i / syncPerBay s
    if s.bays.count ≤ b ∨ (bay s b).st = .absent ∨ tdiHides s b ∨ s.sec.repointing then none else some (b, i % syncPerBay s)

end Sys2Proof.Machine
end

