-- ==== Sys2Proof/Machine/Scalar.lean ====
section
/-! DEFINITION. The scalar instructions: classes 0x0, 0x1 and 0x2 (R33, R41). -/
namespace Sys2Proof.Machine

/-- Operand 2 of format S: the immediate or g[rs2] (R36). -/
def op2 (w : W64) (x : Ashlar) : W64 := if sI w then sImm w else gr x (sRs2 w)

/-- rd ← f rs1 operand2, then the next instruction (R41). -/
def aluStep (f : W64 → W64 → W64) (w : W64) (x : Ashlar) : Ashlar :=
  retire (setG (sRd w) (f (gr x (sRs1 w)) (op2 w x)) x)

/-- The shift amount: bits [5:0] of operand 2 (R41). -/
def shAmt (y : W64) : Nat := y.toNat % 64

/-- A special word by index (R33), but for sw_cycle. -/
def special (x : Ashlar) : Nat → W64
  | 0x00 => BitVec.ofNat 64 x.px
  | 0x01 => BitVec.ofNat 64 x.py
  | 0x02 => BitVec.ofNat 64 x.pw
  | 0x03 => BitVec.ofNat 64 x.ph
  | 0x04 => BitVec.ofNat 64 x.cycle
  | 0x05 => BitVec.ofNat 64 x.bound
  | 0x06 => 0x7FF00
  | 0x07 => BitVec.ofNat 64 x.rerun
  | 0x08 => x.seedLo
  | 0x09 => BitVec.ofNat 64 x.grefused
  | _ => 0

/-- GETS on the state: a read of sw_cycle first counts the clocks of any waits since (log entry 10); a read of
sw_grefused clears it. -/
def getsStep (a : Nat) (w : W64) (x : Ashlar) (s : State) : State :=
  let i := bits (sImm w).toNat 7 0
  if i = 4 then
    let y := { x with cycle := x.cycle + (freeVal s).toNat }
    drewFree (modAsh a (fun _ => retire (setG (sRd w) (special y 4) y)) s)
  else
    let y := setG (sRd w) (special x i) x
    modAsh a (fun _ => retire (if i = 9 then { y with grefused := 0 } else y)) s

/-- A branch of format B to its target where the comparison of rs1 and rs2 holds (R41). -/
def branchStep (cond : W64 → W64 → Bool) (w : W64) (x : Ashlar) : Ashlar :=
  if cond (gr x (bRs1 w)) (gr x (bRs2 w)) then jump (bTarget w) x else retire x

/-- The address of format L (R36). -/
def lAddr (w : W64) (x : Ashlar) : Nat := (gr x (lBase w) + lOff w).toNat

/-- Whether an access of `n` bytes is naturally aligned and in range (R36, R66). -/
def spadOk (addr n : Nat) : Bool := addr % n == 0 && decide (addr + n ≤ 0x80000)

/-- A load of `n` bytes, zero-extended (R41), unless the line's code shows an error (R97). -/
def loadStep (n a : Nat) (det : Bool) (w : W64) (x : Ashlar) (s : State) : State :=
  let addr := lAddr w x
  if !spadOk addr n then illegal a s
  else if det then lineDetect a addr s
  else
    let bs := ldBytes x s.out.free addr n
    drewN n (modAsh a (fun y => retire (setG (lRt w) (BitVec.ofNat 64 (leNat bs)) y)) s)

/-- A store of the low `n` bytes of rt (R41); one into a configured joint region is a violation (R58). -/
def storeStep (n a : Nat) (w : W64) (x : Ashlar) (s : State) : State :=
  let addr := lAddr w x
  if !spadOk addr n then illegal a s
  else if inJoint x addr n then violation a 0x12 0 0 s
  else modAsh a (fun y => retire (spadWr 0 addr (natLe n (gr x (lRt w)).toNat) y)) s

/-- ADD (R41). -/
def execAdd (a : Nat) (s : State) : Host.Outcome State Fault Refusal :=
  issueAsh 0x000 a (aluStep (fun p q => p + q)) s

/-- SUB (R41). -/
def execSub (a : Nat) (s : State) : Host.Outcome State Fault Refusal :=
  issueAsh 0x001 a (aluStep (fun p q => p - q)) s

/-- AND (R41). -/
def execAnd (a : Nat) (s : State) : Host.Outcome State Fault Refusal :=
  issueAsh 0x002 a (aluStep (fun p q => p &&& q)) s

/-- OR (R41). -/
def execOr (a : Nat) (s : State) : Host.Outcome State Fault Refusal :=
  issueAsh 0x003 a (aluStep (fun p q => p ||| q)) s

/-- XOR (R41). -/
def execXor (a : Nat) (s : State) : Host.Outcome State Fault Refusal :=
  issueAsh 0x004 a (aluStep (fun p q => p ^^^ q)) s

/-- SHL (R41). -/
def execShl (a : Nat) (s : State) : Host.Outcome State Fault Refusal :=
  issueAsh 0x005 a (aluStep (fun p q => p <<< shAmt q)) s

/-- SHR: zeros enter (R41). -/
def execShr (a : Nat) (s : State) : Host.Outcome State Fault Refusal :=
  issueAsh 0x006 a (aluStep (fun p q => p >>> shAmt q)) s

/-- SRA: the sign enters (R41). -/
def execSra (a : Nat) (s : State) : Host.Outcome State Fault Refusal :=
  issueAsh 0x007 a (aluStep (fun p q => p.sshiftRight (shAmt q))) s

/-- MUL: the low 64 bits (R41). -/
def execMul (a : Nat) (s : State) : Host.Outcome State Fault Refusal :=
  issueAsh 0x008 a (aluStep (fun p q => p * q)) s

/-- SLT: signed (R41). -/
def execSlt (a : Nat) (s : State) : Host.Outcome State Fault Refusal :=
  issueAsh 0x009 a (aluStep (fun p q => if p.slt q then 1 else 0)) s

/-- SLTU: unsigned (R41). -/
def execSltu (a : Nat) (s : State) : Host.Outcome State Fault Refusal :=
  issueAsh 0x00A a (aluStep (fun p q => if p.ult q then 1 else 0)) s

/-- GETS (R33). -/
def execGets (a : Nat) (s : State) : Host.Outcome State Fault Refusal := issue 0x010 a (getsStep a) s

/-- BEQ (R41). -/
def execBeq (a : Nat) (s : State) : Host.Outcome State Fault Refusal :=
  issueAsh 0x100 a (branchStep (fun p q => p == q)) s

/-- BNE (R41). -/
def execBne (a : Nat) (s : State) : Host.Outcome State Fault Refusal :=
  issueAsh 0x101 a (branchStep (fun p q => p != q)) s

/-- BLT (R41). -/
def execBlt (a : Nat) (s : State) : Host.Outcome State Fault Refusal :=
  issueAsh 0x102 a (branchStep (fun p q => p.slt q)) s

/-- BGE (R41). -/
def execBge (a : Nat) (s : State) : Host.Outcome State Fault Refusal :=
  issueAsh 0x103 a (branchStep (fun p q => !p.slt q)) s

/-- BLTU (R41). -/
def execBltu (a : Nat) (s : State) : Host.Outcome State Fault Refusal :=
  issueAsh 0x104 a (branchStep (fun p q => p.ult q)) s

/-- JAL: rd ← PC + 1, then go to target (R41). -/
def execJal (a : Nat) (s : State) : Host.Outcome State Fault Refusal :=
  issueAsh 0x105 a (fun w x => jump (bTarget w) (setG (bRd w) (BitVec.ofNat 64 (x.pc + 1)) x)) s

/-- JR: go to g[rs1][12:0] (R41). -/
def execJr (a : Nat) (s : State) : Host.Outcome State Fault Refusal :=
  issueAsh 0x106 a (fun w x => jump (bits (gr x (bRs1 w)).toNat 12 0) x) s

/-- LD8 (R41). -/
def execLd8 (a : Nat) (s : State) (det : Bool := false) : Host.Outcome State Fault Refusal := issue 0x200 a (loadStep 1 a det) s

/-- LD16 (R41). -/
def execLd16 (a : Nat) (s : State) (det : Bool := false) : Host.Outcome State Fault Refusal := issue 0x201 a (loadStep 2 a det) s

/-- LD32 (R41). -/
def execLd32 (a : Nat) (s : State) (det : Bool := false) : Host.Outcome State Fault Refusal := issue 0x202 a (loadStep 4 a det) s

/-- LD64 (R41). -/
def execLd64 (a : Nat) (s : State) (det : Bool := false) : Host.Outcome State Fault Refusal := issue 0x203 a (loadStep 8 a det) s

/-- ST8 (R41). -/
def execSt8 (a : Nat) (s : State) : Host.Outcome State Fault Refusal := issue 0x204 a (storeStep 1 a) s

/-- ST16 (R41). -/
def execSt16 (a : Nat) (s : State) : Host.Outcome State Fault Refusal := issue 0x205 a (storeStep 2 a) s

/-- ST32 (R41). -/
def execSt32 (a : Nat) (s : State) : Host.Outcome State Fault Refusal := issue 0x206 a (storeStep 4 a) s

/-- ST64 (R41). -/
def execSt64 (a : Nat) (s : State) : Host.Outcome State Fault Refusal := issue 0x207 a (storeStep 8 a) s

end Sys2Proof.Machine
end

