-- ==== Sys2Proof/Machine/DumpOps.lean ====
section
/-! DEFINITION. The rubble dump (R508 to R513): what it collects, its bytes as the manager reads them, and the commands on it. The
layout inside a unit that the spec does not give byte by byte is the model's (log entry 20). -/
namespace Sys2Proof.Machine

/-! ## What is collected (R509 to R512) -/

/-- The bytes of a run as a unit's data. -/
def unitOf (n : Nat) (bs : List Byte) : DumpUnit := { unit := n, len := bs.length, data := mputs 0 bs [] }

/-- A unit with no data, WITHHELD (R510). -/
def withheldUnit (n : Nat) : DumpUnit := { unit := n, status := 3 }

/-- The bytes of a ring of `n` records of `w` bytes. -/
def ringBytes (g : Ring) (n w : Nat) : List Byte := (List.range n).flatMap fun i => padTo w (tgetD i g.recs [])

/-- An item of a plan. -/
def planBytes (i : PlanItem) : List Byte := natLe 4 i.cid ++ natLe 1 i.x0 ++ natLe 1 i.y0 ++ natLe 2 0 ++ natLe 4 i.offset ++ natLe 4 i.charge

/-- The number of a command's state: its place in the list of R113. -/
def cmdCode : CmdState → Nat
  | .fetched => 0
  | .waiting => 1
  | .ready => 2
  | .planned => 3
  | .running => 4
  | .anchored => 5
  | .faulted => 6
  | .committing => 7
  | .frozen => 8

/-- Type 3: one queue, then each command of it that is not DONE. -/
def queueUnit (s : State) (b q : Nat) (x : Queue) : DumpUnit :=
  if tdiHides s b then withheldUnit (b * 65536 + q)
  else
    unitOf (b * 65536 + q) (natLe 1 (b2n x.user) ++ natLe 1 x.prio ++ natLe 1 x.qflags ++
      natLe 1 (pack [(0, b2n x.frozen), (1, b2n x.idle)]) ++ natLe 4 (x.wp % 2 ^ 32) ++ natLe 4 (x.fetch % 2 ^ 32) ++
      natLe 4 (x.cqHead % 2 ^ 32) ++ natLe 4 (x.cqNext % 2 ^ 32) ++
      (heldCmds s b q).flatMap fun c => natLe 8 (cmdCode c.st) ++ padTo 64 c.entry)

/-- Type 4: the sync objects of a bay. -/
def syncUnit (s : State) (b : Nat) : DumpUnit :=
  if tdiHides s b then withheldUnit b
  else { unit := b, len := 8 * syncPerBay s
         data := (bay s b).eqi.sync.foldl (fun m e => mputs (8 * e.1) (natLe 8 e.2) m) [] }

/-- Type 5: the state of one ashlar; the registers of a hidden bay are left 0. -/
def ashUnit (s : State) (a : Nat) : DumpUnit :=
  let x := ash s a
  let hid := tdiHides s (bayOfAsh s a)
  let regs := if hid then [] else
    mputs 0 ((List.range 32).flatMap fun r => natLe 8 (gr x r).toNat) (x.v.foldl (fun m e => mputs (0x100 + 4 * e.1) (natLe 4 e.2.toNat) m) [])
  let tail := (List.range 10).flatMap (fun i => natLe 8 (special x i).toNat) ++ natLe 8 x.pc ++
    natLe 4 x.mq.length ++ (x.mq.flatMap fun o => natLe 8 o.word.toNat) ++
    natLe 4 x.vq.length ++ (x.vq.flatMap fun o => natLe 8 o.word.toNat ++ natLe 8 o.base.toNat) ++
    natLe 4 x.tags.length ++ (x.tags.flatMap fun t => natLe 4 t.1 ++ natLe 8 t.2.d.vaddr) ++
    natLe 4 x.joints.length ++ (x.joints.flatMap fun j => natLe 4 j.1 ++ natLe 4 j.2.base ++ natLe 4 j.2.size ++ natLe 4 j.2.head) ++
    natLe 4 x.credits.length ++ x.credits.flatMap fun c => natLe 1 c.dx ++ natLe 1 c.dy ++ natLe 2 c.joint ++ natLe 4 c.count ++ natLe 4 c.limit
  { unit := a, len := 8192, data := mputs 0x1100 (tail.take (8192 - 0x1100)) regs }

/-- Type 6 and type 7: scratchpad and accumulators of one ashlar. -/
def spadUnit (s : State) (a : Nat) : DumpUnit :=
  if tdiHides s (bayOfAsh s a) then withheldUnit a else { unit := a, len := 0x80000, data := (ash s a).spad }
def accUnit (s : State) (a : Nat) : DumpUnit :=
  if tdiHides s (bayOfAsh s a) then withheldUnit a
  else { unit := a, len := 0x10000, data := (ash s a).acc.foldl (fun m e => mputs (4 * e.1) (natLe 4 e.2.toNat) m) [] }

/-- The sample of one ashlar (R509): line 0 of each 4 KiB of its scratchpad, with the bitmap of the lines returned; which lines are is
a free value, as long as 128 bits. -/
def sampleBytes (s : State) (a : Nat) (f : BitVec 64) (g : BitVec 64) : List Byte :=
  let got (i : Nat) : Bool := bit (if i < 64 then f.toNat else g.toNat) (i % 64)
  natLe 16 (pack ((List.range 128).map fun i => (i, b2n (got i)))) ++
    (List.range 128).flatMap fun i => if got i && !tdiHides s (bayOfAsh s a) then mread (ash s a).spad (4096 * i) 64 else List.replicate 64 0

/-- The sample of several ashlars, one after the other, with the free values it takes. -/
def sampleAll (s : State) (as : List Nat) : List Byte :=
  (List.zip (List.range as.length) as).flatMap fun p =>
    sampleBytes s p.2 (Config.free (s.out.free + 2 * p.1)) (Config.free (s.out.free + 2 * p.1 + 1))

/-- A unit that does not answer: the sample of the ashlars given, or none (R509, R511). -/
def unreadUnit (s : State) (n : Nat) (as : List Nat) : DumpUnit :=
  if as.isEmpty then { unit := n, status := 2 } else { unitOf n (sampleAll s as) with status := 1 }

/-- The number by which a unit that does not answer is named: an ashlar's ID for types 5 to 7, or else its type and its number there. -/
def unitNo (type unit : Nat) : Nat := if 5 ≤ type ∧ type ≤ 7 then unit else type * 2 ^ 32 + unit

/-- The units of the grid of one type: those of unreadable ashlars give their sample. -/
def gridUnits (s : State) (bad : Nat → Bool) (f : State → Nat → DumpUnit) : List DumpUnit :=
  (List.range (ashlars s)).map fun a => if bad a then unreadUnit s a [a] else f s a

/-- Type 8: front, lift sequencer, walker, arch unit datapath, switch engine, migration engine. -/
def engineUnits (s : State) : List DumpUnit :=
  let cmds := s.cmds.all.map Prod.snd
  [ unitOf 0 (s.dev.fronts.flatMap fun f => natLe 2 f.1 ++ natLe 2 f.2.bay ++ natLe 2 f.2.queue ++ natLe 2 f.2.fetched)
  , unitOf 1 (natLe 8 s.lift.num ++ natLe 4 s.lift.budget ++ natLe 4 s.lift.clk)
  , unitOf 2 ((cmds.filter (·.walk.isSome)).flatMap fun c => natLe 8 c.cid)
  , unitOf 3 ((cmds.filter (·.col.isSome)).flatMap fun c => natLe 8 c.cid)
  , unitOf 4 (s.bays.all.flatMap fun b => (b.2.strm.ctxs.filter fun x => x.switch != .none).flatMap fun x => natLe 4 b.1 ++ natLe 4 x.handle)
  , unitOf 5 (s.bays.all.flatMap fun b => (b.2.mem.extents.filter fun e => e.2.move.isSome).flatMap fun e => natLe 4 b.1 ++ natLe 8 e.1) ]

/-- Type 9: the stream cache and the slab-map cache with their tags: bay, modified mark and index, then the descriptor or entry. -/
def cacheUnits (s : State) : List DumpUnit :=
  let tag (b i : Nat) (m : Bool) : List Byte := natLe 1 b ++ natLe 1 (b2n m) ++ natLe 2 0 ++ natLe 4 i
  [ unitOf 0 (s.bays.all.flatMap fun b => b.2.strm.cache.flatMap fun e => tag b.1 e.1 e.2 ++ streamBytes (stream s b.1 e.1))
  , unitOf 1 (s.bays.all.flatMap fun b => b.2.strm.mapCache.flatMap fun i => tag b.1 i false ++ slabBytesOf (slab s b.1 i)) ]

/-- Type 11: the KW_ registers and the outstanding tags of a port. -/
def kwUnit (s : State) (p : Nat) : DumpUnit :=
  unitOf p (natLe 4 (kwReg s (0x100 + 4 * p)) ++ natLe 4 (kwReg s 0) ++ natLe 4 (kwReg s 0x204) ++
    (s.kw.txns.filter fun t => portFor s t.2.dst t.2.addr == some p).flatMap fun t => natLe 2 t.1)

/-- Type 12: a quoin port and its engine's status words. -/
def quoinUnit (s : State) (p : Nat) : DumpUnit :=
  let q := qport s p
  unitOf p (natLe 4 (pack [(0, b2n q.ready), (1, b2n q.registered), (2, b2n q.heldReset), (3, b2n q.killed.isSome)]) ++ natLe 4 q.mhz ++
    q.stat.flatMap fun w => natLe 8 w.toNat)

/-- Type 13: a group entry in use. -/
def groupUnit (e : Nat × Group) : DumpUnit :=
  let g := e.2
  unitOf e.1 (natLe 4 g.gid ++ natLe 1 g.bay ++ natLe 1 g.weight ++ natLe 2 g.members ++ natLe 2 g.rank ++
    natLe 2 (if g.treeValid then g.tree + 0x8000 else 0) ++ natLe 4 g.nextSeq ++ g.eps.flatMap fun e => natLe 2 e)

/-- A section of a type outside the grid, with the samples of its unreadable units. -/
def maskSec (s : State) (bad : Nat → Bool) (served : Nat → List Nat) (d : DumpSec) : DumpSec :=
  { d with units := d.units.map fun u => if bad (unitNo d.type u.unit) then unreadUnit s u.unit (served u.unit) else u }

/-- The ashlars of every panel that a unit was serving in the state before shoring (R509): the lift sequencer every running panel, a
queue, the walker and the arch unit those of their commands, the others none (log entry 20). -/
def servedBy (s : State) (type unit : Nat) : List Nat :=
  let on (f : Cmd → Bool) : List Nat :=
    ((s.cmds.all.map Prod.snd).filter fun c => (c.st == .running || c.st == .anchored) && onPanel c && f c).flatMap panelIds
  if type = 2 ∨ (type = 8 ∧ unit = 1) then on fun _ => true
  else if type = 3 then on fun c => c.bay * 65536 + c.queue == unit
  else if type = 8 ∧ unit = 2 then on fun c => c.walk.isSome
  else if type = 8 ∧ unit = 3 then on fun c => c.col.isSome
  else []

/-- The sections of a dump in their order (R512): `bad` tells the units that do not answer, `s0` is the state before shoring. -/
def dumpSecs (s0 s : State) (fmt : Nat) (bad : Nat → Bool) : List DumpSec :=
  let bays := List.range s.bays.count
  let all : List DumpSec :=
    [ { type := 1, units := [unitOf 0 (ringBytes s.rst.log 64 32 ++ ringBytes s.plumb.log 256 32 ++ ringBytes s.ras.log 256 32)] }
    , { type := 2, units := [unitOf 0 ([0, 8, 0xC, 0x10, 0x14, 0x20, 0x24, 0x28].flatMap (fun o => natLe 4 (liftReg s o)) ++
          natLe 4 s0.lift.plan.length ++ s0.lift.plan.flatMap planBytes ++ (s0.lift.sealed.getD []).flatMap planBytes)] }
    , { type := 3, units := bays.flatMap fun b => (bay s b).eqi.queues.map fun q => queueUnit s b q.1 q.2 }
    , { type := 4, units := bays.map (syncUnit s) }
    , { type := 5, units := gridUnits s bad ashUnit }
    , { type := 6, units := gridUnits s bad spadUnit }
    , { type := 7, units := gridUnits s bad accUnit }
    , { type := 8, units := engineUnits s }
    , { type := 9, units := cacheUnits s }
    , { type := 10, units := bays.map fun b => unitOf b ((List.range 64).flatMap (faultBytes s b)) }
    , { type := 11, units := (List.range (kwPorts s)).map (kwUnit s) }
    , { type := 12, units := (List.range (quoinPorts s)).map (quoinUnit s) }
    , { type := 13, units := s.arch.groups.map groupUnit } ]
  let all := all.map fun d => if 5 ≤ d.type ∧ d.type ≤ 7 then d else maskSec s bad (servedBy s0 d.type) d
  if fmt = 1 then all.filter fun d => d.type < 12 else all

/-- The bytes of a section. -/
def secBytes (d : DumpSec) : Nat := (d.units.map fun u => 16 + u.len).foldl (· + ·) 0
/-- The bytes of a dump. -/
def dumpSize (d : Dump) : Nat := 64 + 32 * d.secs.length + (d.secs.map secBytes).foldl (· + ·) 0

/-- The blocks of the dump region that the dump fills whole are written anew, so their poison ends (R461). -/
def dumpWrites (s : State) : State :=
  { s with mem := { s.mem with poison := s.mem.poison.filter fun e => !within (dumpBase s) (dumpSize s.dump) (e.1 * 512) 512 } }

/-- The reset in progress changed by `f`. -/
def modNow (f : ResetNow → ResetNow) (s : State) : State := { s with rst := { s.rst with now := s.rst.now.map f } }

/-- The collection step writes, skips or abandons the dump (R508); FW_ACTIVATE's reset has none. Whether the region can be written is a
free value. -/
def writeDump (s0 : State) (bad : Nat → Bool) (s : State) : State :=
  match s.rst.now with
  | none => s
  | some r =>
    if r.trigger = 9 then s
    else if s.dump.present then
      modNow (fun r => { r with dumpSkipped := true }) { s with dump := { s.dump with skipped := satAdd 255 s.dump.skipped 1 } }
    else
      let ok := bit (freeVal s).toNat 0
      let t := drewFree s
      if !ok then modNow (fun r => { r with dumpFailed := true }) { t with dump := { t.dump with failed := true } }
      else
        let boot := decide (r.trigger = 6)
        let fmt := footFld t 0x18 1
        let secs := dumpSecs s0 t fmt bad
        let head : DumpHead := { format := fmt, domain := if r.full then 3 else 2, trigger := r.trigger, collector := b2n boot
                                 lift := r.lift, time := r.time, mark := t.kw.mark
                                 fwVersion := if boot then 0 else (s0.fw.active.getD {}).version, resetSeq := t.rst.log.seq + 1 }
        modNow (fun r => { r with dumpWritten := true })
          (dumpWrites { t with
            dump := { t.dump with writing := true, head := head, secs := secs }
            out := { t.out with free := t.out.free + 2 * ashlars t } })

/-- The dump being written is complete (R508); its header names the reset record written with it (R511). -/
def dumpDone (s : State) : State :=
  if s.dump.writing then raise srcDump { s with dump := { s.dump with
      writing := false, present := true, head := { s.dump.head with resetSeq := s.rst.log.seq + 1 } } } else s

/-! ## Its bytes (R511) -/

/-- A unit record at `at_` of the image: header, then data. -/
def putUnit (p : Nat × Mem) (u : DumpUnit) : Nat × Mem :=
  let h := natLe 4 u.unit ++ natLe 1 u.status ++ natLe 3 0 ++ natLe 4 u.len ++ natLe 4 (crc32 (mread u.data 0 u.len))
  (p.1 + 16 + u.len, mputs p.1 h (mpaste (p.1 + 16) u.len (mslice u.data 0 u.len (p.1 + 16)) p.2))

/-- The directory entry and the units of section `i`. -/
def putSec (p : Nat × Nat × Mem) (d : DumpSec) : Nat × Nat × Mem :=
  let e := natLe 2 d.type ++ natLe 2 0 ++ natLe 4 d.units.length ++ natLe 8 p.2.1 ++ natLe 8 (secBytes d) ++ natLe 8 0
  let q := d.units.foldl putUnit (p.2.1, mputs (64 + 32 * p.1) e p.2.2)
  (p.1 + 1, q.1, q.2)

/-- The header (R511). -/
def headBytes (s : State) : List Byte :=
  let h := s.dump.head
  natLe 4 0x44554D50 ++ natLe 1 h.format ++ natLe 1 h.domain ++ natLe 1 h.trigger ++ natLe 1 h.collector ++ natLe 8 (dumpSize s.dump) ++
    natLe 8 h.lift ++ natLe 8 h.time ++ natLe 1 (if isF s then 0 else 1) ++ natLe 1 s.bays.count ++ natLe 1 h.mark ++ natLe 1 0 ++
    natLe 4 s.dump.secs.length ++ natLe 4 h.fwVersion ++ natLe 4 h.resetSeq ++ natLe 16 0

/-- The whole image. -/
def dumpImage (s : State) : Mem :=
  (s.dump.secs.foldl putSec (0, 64 + 32 * s.dump.secs.length, mputs 0 (headBytes s) [])).2.2

/-! ## DUMP_INFO, DUMP_READ, DUMP_CLEAR (R513) -/

/-- DUMP_INFO (R513). -/
def execDumpInfo (box : Nat) (s : State) : Host.Outcome State Fault Refusal :=
  boxRow [] 0x504 box (fun _ t =>
    let d := t.dump
    respond box 0 (if d.present then natLe 1 1 ++ natLe 1 d.head.format ++ natLe 6 0 ++ natLe 8 (dumpSize d) ++ natLe 8 d.head.lift
      else natLe 24 0) t) s

/-- The poisoned blocks of the dump region that a run of the dump reads, as offsets in the dump. -/
def dumpPoison (s : State) (off n : Nat) : List Nat :=
  (poisonIn s (dumpBase s + off) n).map fun e => e.1 * 512 - dumpBase s

/-- DUMP_READ: poisoned blocks are copied as zeros and counted. -/
def dumpReadGo (x : Nat) (r : Req) (s : State) : State :=
  let off := fld r.p 0 8
  let n := fld r.p 8 4
  if s.dump.writing then reply x 0x28 s
  else if !s.dump.present || decide (dumpSize s.dump < off + n) then reply x 0x23 s
  else
    let bad := dumpPoison s off n
    let m := bad.foldl (fun m o => mzero o 512 m) (dumpImage s)
    let t := { s with dump := { s.dump with poisoned := satAdd 255 s.dump.poisoned bad.length } }
    reply x 0 (emit (.hostWrite 0 (fld r.p 0x10 8) (mread m off n)) t)

/-- DUMP_READ (R513). -/
def execDumpRead (box : Nat) (s : State) : Host.Outcome State Fault Refusal := boxRow [.dump, .out] 0x505 box (dumpReadGo box) s

/-- DUMP_CLEAR (R513, R518). -/
def execDumpClear (box : Nat) (s : State) : Host.Outcome State Fault Refusal :=
  boxRow [.dump] 0x506 box (fun _ t => reply box 0 { t with dump := { t.dump with present := false, failed := false } }) s

end Sys2Proof.Machine
end

