-- ==== Sys2Proof/Machine/Resets.lean ====
section
/-! DEFINITION. Engine resets, the compute-part reset, and what asks for them (R119, R492 to R500, R502, R515). -/
namespace Sys2Proof.Machine

/-! ## Engine resets (R494, R495) -/

/-- The code of an engine. -/
def engineCode : Engine → Nat
  | .panel _ => 1
  | .front => 2
  | .walker => 3
  | .arch => 4
  | .quoin p => 8 + p

/-- The running commands a condition holds for go back to READY (R130). -/
def killWhere (p : Cmd → Bool) (s : State) : State :=
  each ((s.cmds.all.map Prod.snd).filter fun c => c.st == .running && p c) (fun c t => killReady c.cid t) s

/-- A quoin engine and its port are reset: the engine has to register again (R494, R558). -/
def resetQuoin (p : Nat) (s : State) : State :=
  let t := emit (.quoinReset p false) (emit (.quoinReset p true) s)
  modQp p (fun q => { q with
    ready := false, words := [], registered := false, cid := none, killed := none, doneOf := none, writes := [], stat := [] }) t

/-- What an engine reset does to the commands and the engine, whose translation cache is empty (R389). -/
def engineEffect (e : Engine) (s : State) : State :=
  match e with
  | .panel cid => killWhere (fun c => c.cid == cid) s
  | .front => tlbClear 2 { s with dev := { s.dev with fronts := [] } }
  | .walker => tlbClear 1 (killWhere (fun c => c.walk.isSome) s)
  | .arch => killWhere (fun c => c.col.isSome) s
  | .quoin p => tlbClear (3 + p) <| resetQuoin p (killWhere (fun c => opc c == opQuoin && wOf c == p) s)

/-- Whether a collective is anchored. -/
def anyAnchored (s : State) : Bool := s.cmds.all.any fun c => c.2.st == .anchored

/-- An engine reset starts; one during a reset of a larger domain is absorbed into it and only logged (R500). -/
def engineReset (e : Engine) (s : State) : State :=
  if s.rst.now.isSome then resetRec 1 0 0 (engineCode e) s.rst.time s.lift.num 0 s
  else if e = .arch && anyAnchored s then wantReset false 4 s
  else if s.rst.engines.any fun r => r.engine == e then s
  else engineEffect e { s with rst := { s.rst with
    engines := { engine := e, time := s.rst.time, lift := s.lift.num } :: s.rst.engines } }

/-- Whether the engine is one of the block. -/
def engineOk (s : State) : Engine → Bool
  | .quoin p => decide (p < quoinPorts s)
  | _ => true

/-- ENGINE_RESET (R494). -/
def execEngineReset (e : Engine) (s : State) : Host.Outcome State Fault Refusal :=
  onUnit (engineOk s e) "quoin port" (run (.boxes :: fpWork) (engineReset e) s)

/-- QUOIN_STOP_TIMEOUT (R119): the engine has not stopped 5 µs after kill. -/
def execQuoinStopTimeout (p : Nat) (s : State) : Host.Outcome State Fault Refusal :=
  onUnit (decide (p < quoinPorts s)) "quoin port"
    (run (.boxes :: fpWork) (onlyIf (fun t => (qport t p).killed.isSome) (engineReset (.quoin p))) s)

/-- An engine is back within its bound: a quoin engine when it reports ready. -/
def engineBack (s : State) : Engine → Bool
  | .quoin p => (qport s p).ready
  | _ => true

/-- An engine reset ends with its record (R516, R517). -/
def engineResetEnd (e : Engine) (s : State) : State :=
  match s.rst.engines.find? fun r => r.engine == e with
  | none => s
  | some r =>
    if s.rst.now.isSome || !engineBack s e then s
    else
      let t := { s with rst := { s.rst with engines := s.rst.engines.filter fun r => r.engine != e } }
      resetRec 1 0 0 (engineCode e) r.time r.lift (s.rst.time - r.time) (raise srcEngReset t)

/-- ENGINE_RESET_END (R516). -/
def execEngineResetEnd (e : Engine) (s : State) : Host.Outcome State Fault Refusal :=
  onUnit (engineOk s e) "quoin port" (run [.rst, .irq] (engineResetEnd e) s)

/-- A quoin engine that did not become ready after the port reset of a full block reset is held in reset until the next (R495). -/
def holdQuoin (p : Nat) (s : State) : State :=
  emit (.quoinReset p true) (modQp p (fun q => { q with
    ready := false, words := [], registered := false, heldReset := true, identity := [], mhz := 0 }) s)

/-- An engine reset misses its bound: a compute-part reset, or, within one, a full block reset (R495). -/
def engineMiss (e : Engine) (s : State) : State :=
  if s.rst.engines.any fun r => r.engine == e then wantReset (runsReset s false) 4 s
  else match e with
    | .quoin p => if s.rst.now.isNone && !(qport s p).ready && !(qport s p).heldReset then holdQuoin p s else s
    | _ => s

/-- ENGINE_RESET_BOUND_MISS (R495). -/
def execEngineResetBoundMiss (e : Engine) (s : State) : Host.Outcome State Fault Refusal :=
  onUnit (engineOk s e) "quoin port" (run [.rst, .irq, .quoin, .out] (engineMiss e) s)

/-! ## Shoring (R496, R497) -/

/-- Whether a compute-part reset kills a command: it runs on the compute part, or waits in its plan or before its commit point. -/
def shoredCmd (c : Cmd) : Bool :=
  isEngineCmd c && (c.st == .running || c.st == .planned || (c.st == .committing && !c.committed))

/-- Running commands are killed; an anchored collective ends COLL_MEMBER_LOST, and its members are told when shoring lifts (R135, R445,
R496, R498). -/
def shoreCmd (c : Cmd) (s : State) : State :=
  if c.st = .anchored then
    match c.col with
    | some k => colEnd c.cid 0x51 { s with arch := { s.arch with owed := s.arch.owed ++ [(k.grp, k.seq)] } }
    | none => s
  else if shoredCmd c then killReady c.cid (unplan c.cid s)
  else s

/-- The outbound requests without an answer: a READ is abandoned and its tag freed, an effect counts as answered
ENDPOINT_UNAVAILABLE (R496). -/
def shoreTxn (e : Nat × Txn) (s : State) : State :=
  let t := dropTxn e.1 s
  match e.2.owner with
  | .dma _ _ _ => { t with kw := { t.kw with cooling := tput e.1 t.rst.time t.kw.cooling } }
  | .effect _ _ => ownerAnswered e.2 2 [] t
  | .own => { t with kw := { t.kw with cooling := tput e.1 t.rst.time t.kw.cooling } }

/-- A frozen ashlar is freed, its ENDED record written; its command stays FROZEN (R483). -/
def freeFrozen (c : Cmd) (s : State) : State :=
  match c.viol with
  | none => s
  | some v =>
    match v.ashlar with
    | none => s
    | some a =>
      let t := plumbRec { kind := 3, master := v.master, bay := c.bay, reason := v.reason, queue := c.queue, slot := slotOf s c
                          ashlar := a, unit := v.unit, address := v.address, detail := v.detail } s
      modCmd c.cid (fun x => { x with viol := some { v with ashlar := none }, placed := false }) (modAsh a stopAsh t)

/-- A context is saved as a switch-out would save it; one on an ashlar that does not answer is damaged (R457, R497). -/
def saveCtx (bad : Nat → Bool) (b : Nat) (x : Ctx) (s : State) : State :=
  match x.resident with
  | none => modCtx b x.handle (fun x => { x with switch := .none }) s
  | some _ =>
    if (ctxIds x).any bad then
      damageCtx b x.handle (modCtx b x.handle (fun x => { x with resident := none, switch := .none, pending := false }) s)
    else switchOut b x {} s

/-- Every resident context is saved. -/
def saveCtxs (bad : Nat → Bool) (s : State) : State :=
  each s.bays.all (fun b t => each b.2.strm.ctxs (fun x t => saveCtx bad b.1 x t) t) s

/-- Every move that has not reached its switch step is abandoned (R204, R498). -/
def abandonMoves (s : State) : State :=
  each s.bays.all (fun b t => each (b.2.mem.extents.filter fun e => e.2.move.isSome) (fun e t => abandonMove b.1 e.1 t) t) s

/-- A scratchpad pass ends with its summary marked as ended by a reset (R474); how much it had checked is a free value. -/
def endSpadPass (s : State) : State :=
  match s.ras.pass with
  | some p => if p.spad then endPass p {} ((freeVal s).toNat % (p.len / 64 + 1)) 0 2 (drewFree s) else s
  | none => s

/-- The quoin ports after shoring: each engine has stopped. -/
def stopQuoins (s : State) : State :=
  { s with quoin := tmap (fun _ q => { q with cid := none, killed := none, doneOf := none, writes := [] }) s.quoin }

/-- The compute-part units are reset (R492, R498), the slab-map cache and the translation caches among
their memories (classes 3 and 4 of R468). -/
def resetUnits (s : State) : State :=
  { s with
    grid := { s.grid with ashlars := [], net := [], ctl := [] }
    lift := { s.lift with plan := [], sealed := none }
    dev := { s.dev with fronts := [] }
    bays := { s.bays with all := tmap (fun _ y => { y with strm := { y.strm with mapCache := [] }, mem := { y.mem with tlbs := [] } }) s.bays.all } }

/-- Everything of the compute part stops at the edge (R496). -/
def shore (s : State) : State :=
  let t := raise srcShoring { s with rst := { s.rst with shored := true } }
  let t := each (t.cmds.all.map Prod.snd) shoreCmd t
  each t.kw.txns shoreTxn { t with kw := { t.kw with again := [] } }

/-- The frozen ashlars are freed once the dump holds their state (R483). -/
def freeAllFrozen (s : State) : State :=
  each ((s.cmds.all.map Prod.snd).filter (·.st == .frozen)) freeFrozen s

/-! ## The compute-part reset -/

/-- A counted compute-part reset that reaches the threshold becomes a full block reset (R506). -/
def escalate (r : ResetNow) (s : State) : State :=
  setWant true 5 (resetRec 2 r.trigger 3 0xFF r.time r.lift 0 { s with rst := { s.rst with want := none } })

/-- Shoring, collection, saves and the reset of the units (R496 to R499). -/
def computeGo (bad : Nat → Bool) (r : ResetNow) (s : State) : State :=
  let t := shore { s with rst := { s.rst with now := some r, want := none } }
  let t := freeAllFrozen (writeDump s bad t)
  let t := abandonMoves (saveCtxs bad t)
  stopQuoins (resetUnits (endSpadPass t))

/-- COMPUTE_RESET_BEGIN: `bad` tells which units do not answer the collection, by their numbers of `unitNo` (R509). -/
def computeBegin (bad : Nat → Bool) (s : State) : State :=
  match s.rst.now, s.rst.want with
  | none, some r =>
    if r.full then s
    else if s.sec.repointing then { s with rst := { s.rst with want := none, after := some r.trigger } }
    else
      let t := countCompute r.trigger s
      if r.counted && escalates t then escalate r t else computeGo bad r t
  | _, _ => s

/-- COMPUTE_RESET_BEGIN (R496): `unreadable` lists the units that do not answer the collection. -/
def execComputeResetBegin (unreadable : List Nat) (s : State) : Host.Outcome State Fault Refusal :=
  run fpReset (computeBegin unreadable.contains) s

/-! ## Shoring lifts (R428, R445, R467, R496, R516) -/

/-- Whether the self-test marks an ashlar lost (R467): it failed, or three hard faults have named it. -/
def becomesLost (failed : List Nat) (s : State) (a : Nat) : Bool :=
  !isLost s a && (failed.contains a || decide (3 ≤ tgetD a s.grid.named 0))

/-- An ashlar is marked lost (R27, R476). -/
def markLost (a : Nat) (s : State) : State :=
  let v := tgetD (a / 32) s.grid.lost 0
  rasRec 4 0 (bayOfAsh s a) 0 1 (a * 0x80000) a { s with grid := { s.grid with lost := tput (a / 32) (v + 2 ^ (a % 32)) s.grid.lost } }

/-- The self-test of the ashlars a hard fault named. -/
def selfTest (failed : List Nat) (s : State) : State :=
  let as := dedup s.rst.named
  { (each (as.filter (becomesLost failed s)) markLost s) with rst := { s.rst with named := [] } }

/-- The dump flags of a reset record (R517). -/
def dumpFlags (r : ResetNow) : Nat := pack [(3, b2n r.dumpWritten), (4, b2n r.dumpSkipped), (5, b2n r.dumpFailed)]

/-- Whether the mason's mark may advance: its last change is 1 ms ago (R428, R496). -/
def markFree (s : State) : Bool := s.kw.markAt.all fun at_ => decide (at_ + 1000 ≤ s.rst.time)

/-- The mason's mark advances (R428). -/
def nextMark (s : State) : State := { s with kw := { s.kw with mark := (s.kw.mark + 1) % 16, markAt := some s.rst.time } }

/-- The members of collectives lost to the reset are told (R445). -/
def sendOwedAbandons (s : State) : State :=
  let t := each s.arch.owed (fun e => abandonAll e.1 e.2 0x51) s
  { t with arch := { t.arch with owed := [] } }

/-- A compute-part reset ends; a quoin engine whose reset had missed its bound and that is not back leads to a full block
reset (R495). -/
def liftShoring (failed : List Nat) (r : ResetNow) (s : State) : State :=
  let t := nextMark (selfTest failed s)
  let t := raise srcShoring (dumpDone { t with rst := { t.rst with now := none, shored := false, ctlCompute := false } })
  let t := resetRec 2 r.trigger (b2n r.counted + dumpFlags r) 0xFF r.time r.lift (s.rst.time - r.time) t
  let t := endKind .resetCompute 0 t
  let out := t.rst.engines.any fun e => !engineBack t e.engine
  let t := sendOwedAbandons { t with rst := { t.rst with engines := [] } }
  let t := each (t.cmds.all.map Prod.snd) (fun c t => if c.committed then pumpEffects c.cid t else t) t
  flushOwed (if out then wantReset true 4 t else t)

/-- SHORING_LIFT (R496): `failed` lists the ashlars that failed the self-test. Within 1 ms of the mark's last change shoring stays. -/
def execShoringLift (failed : List Nat) (s : State) : Host.Outcome State Fault Refusal :=
  run fpReset (fun t => match t.rst.now with
    | some r => if r.full || (t.rst.want.any (·.full)) || !markFree t then t else liftShoring failed r t
    | none => t) s

/-! ## What asks for a reset -/

/-- WATCHDOG_EXPIRE (R502): the control processor is reset alone; the boot ROM collects and the block follows. -/
def execWatchdogExpire (s : State) : Host.Outcome State Fault Refusal :=
  run [.rst, .irq, .fw] (onlyIf (fun t => t.fw.running && !runsReset t true) fun t =>
    wantReset true 6 { t with fw := { t.fw with running := false } }) s

/-- RESET_COMPUTE_BOUND_MISS (R495). -/
def execResetComputeBoundMiss (s : State) : Host.Outcome State Fault Refusal :=
  run [.rst, .irq] (onlyIf (fun t => runsReset t false) (wantReset true 4)) s

/-- Whether a write of RST_CTL carries its key (R515). -/
def ctlKey (v : BitVec 32) : Bool := bits v.toNat 31 16 == 0x5AFE

/-- RST_CTL_FULL (R515). -/
def execRstCtlFull (v : BitVec 32) (s : State) : Host.Outcome State Fault Refusal :=
  run [.rst, .irq] (onlyIf (fun _ => ctlKey v && v.getLsbD 1) fun t => wantReset true 8 { t with rst := { t.rst with ctlFull := true } }) s

/-- RST_CTL_COMPUTE (R515). -/
def execRstCtlCompute (v : BitVec 32) (s : State) : Host.Outcome State Fault Refusal :=
  run [.rst, .irq] (onlyIf (fun _ => ctlKey v && v.getLsbD 0) fun t =>
    wantReset false 8 { t with rst := { t.rst with ctlCompute := true } }) s

/-- OPERATION_SLOT_END (R286): the operations with no event of their own end here, which is STORE with its steps 3 and 4 (R305); a word
whose read-back differs after three writes is an uncorrectable error of class 6 (R470). -/
def slotEnd (x i : Nat) (bad : Option Nat) (s : State) : State :=
  match tget i (mbx s x).ops with
  | none => s
  | some o =>
    if o.running && o.kind == .store && s.foot.marker.isSome then
      match bad with
      | some w => uncorrectable 6 true w none s
      | none => opEnd x i 0 { s with foot := { s.foot with
          record := s.foot.journal, marker := none, stores := s.rst.time :: storesCounted s } }
    else s

/-- OPERATION_SLOT_END (R286, R305); `bad` is the word that could not be stored, if any. -/
def execOperationSlotEnd (box slot : Nat) (s : State) (bad : Option Nat := none) : Host.Outcome State Fault Refusal :=
  onUnit (decide (box ≤ maxBays s) && decide (slot < 4)) "mailbox" (run [.boxes, .foot, .irq, .ras, .rst] (slotEnd box slot bad) s)

/-- A start-up that failed begins anew (R574): no firmware runs, no mailbox serves and no port trains (log entry 24). -/
def startAgain (s : State) : State :=
  { s with
    start := { s.start with phase := 1, fail := 0 }, fw := { s.fw with running := false }
    boxes := { all := [(0, { boot := true })] }, kw := {} }

/-- WARM_RESET (R571): as RST_CTL.full, but not while a power-on start-up is in progress. A start-up that failed is started again by
it (R574). -/
def execWarmReset (s : State) : Host.Outcome State Fault Refusal :=
  run [.rst, .irq, .start, .fw, .boxes, .kw] (fun t =>
    if t.start.fail != 0 then startAgain t
    else if t.start.ready then wantReset true 8 { t with rst := { t.rst with ctlFull := true } }
    else t) s

/-- RESET_COMPUTE (R286, R493, R500): one that finds a compute-part reset running ends with it. -/
def execResetCompute (box : Nat) (s : State) : Host.Outcome State Fault Refusal :=
  boxRow [.rst] 0x500 box (fun _ t =>
    if exclusiveBusy t then reply box 0x28 t
    else accepted box .resetCompute 500 (fun _ t =>
      if runsReset t false || (t.rst.want.any fun r => !r.full) then t else wantReset false 7 t) t) s

/-- RESET_FULL (R286, R493). -/
def execResetFull (box : Nat) (s : State) : Host.Outcome State Fault Refusal :=
  boxRow [.rst] 0x501 box (fun _ t =>
    if exclusiveBusy t then reply box 0x28 t else accepted box .resetFull 8000 (fun _ t => wantReset true 7 t) t) s

end Sys2Proof.Machine
end

