-- ==== Sys2Proof/Machine/Walker.lean ====
section
/-! DEFINITION. The slab walker: appends after a commit point (R178), pieces into walk rings (R182 to R187), slab moves (R172),
and streams that memory errors lose (R190). -/
namespace Sys2Proof.Machine

/-! ## APPEND_COPY_DONE -/

/-- The record of layer `l` of append slot `i` (R177). -/
def appendRec (s : State) (b : Nat) (x : Batch) (m : Model) (i l : Nat) : List Byte :=
  areaRead s b (x.appendVa + (i * m.layers + l) * kvTok m) (kvTok m)

/-- Whether a record of the append area is poisoned (R462 class 9). -/
def recPoisoned (s : State) (b : Nat) (x : Batch) (m : Model) (i l : Nat) : Bool :=
  (poisonVa s b (x.appendVa + (i * m.layers + l) * kvTok m) (kvTok m)).isSome

/-- One record copied into its slab: the K rows of the heads, then their V rows (R164, R177). -/
def copyRecord (b : Nat) (m : Model) (entry p : Nat) (bs : List Byte) (s : State) : State :=
  let e := slab s b entry
  let w := m.d * kvElem m.kvFmt
  (List.range (2 * m.hkv)).foldl (fun t j =>
    frameWrite b (e.vaPage * 4096 + slabOff m (j / m.hkv) (j % m.hkv) (p % 256)) ((bs.drop (j * w)).take w) t) s

/-- Position `p` is appended from slot `i`: each layer's record is copied, or its slab poisoned with cause 3, and the entry
holds the position (R178, R186). A regeneration copies the layers it rebuilds alone (R188). -/
def appendPos (b : Nat) (x : Batch) (m : Model) (bad : List Nat) (strm p i : Nat) (s : State) : State :=
  match rowAt s b strm x.buttress (p / 256) with
  | none => s
  | some r => (List.range m.layers).foldl (fun t l =>
      if x.kind = .regen ∧ !(x.rebuild.contains l) then t
      else
        let t := if bad.contains l || recPoisoned t b x m i l then poisonSlab b (r + l) 3 t else copyRecord b m (r + l) p (appendRec t b x m i l) t
        if x.kind = .regen then t
        else modSlab b (r + l) (fun e => { e with fill := max e.fill (p % 256 + 1) }) t) s

/-- A poisoned slab whose home cannot be written takes a new frame (R171, R188). -/
def reframe (b i : Nat) (s : State) : State :=
  let e := slab s b i
  match (if e.loc = .poisoned then frameFor s b e.stream (frameBytes s b e) else none) with
  | none => s
  | some f => recount b e.stream (modSlab b i (fun e => { e with spill := f.2.isSome, spillNo := f.2.getD 0, vaPage := f.1 / 4096, moving := none }) s)

/-- The layers a regeneration has rebuilt are VALID (R188); the stream leaves REGEN when none is poisoned (R158). -/
def rebuilt (b : Nat) (x : Batch) (bad : List Nat) (strm : Nat) (s : State) : State :=
  match rowAt s b strm x.buttress (x.firstPos / 256) with
  | none => s
  | some r =>
    let done := x.rebuild.filter fun l => !(bad.contains l) && (slab s b (r + l)).loc == .poisoned
    let t := each done (fun l t =>
      let t := modSlab b (r + l) (fun e => { e with loc := .valid, cause := 0 }) t
      { t with mem := { t.mem with slabRebuilt := satAdd 0xFFFF t.mem.slabRebuilt 1 } }) s
    let t := recount b strm t
    cleanRegen b strm (each (x.rebuild.filter bad.contains) (fun l t => reframe b (r + l) t) t)

/-- The positions a member of a batch appends, with their append slots. R177 numbers records by member only: the record of the `j`-th
position of a fill or a regeneration, which has one member, lies in slot `j` (log entry 64). -/
def memberPositions (x : Batch) (i : Nat) (m : Member) : List (Nat × Nat) :=
  if x.kind = .step then [(m.pos, i)] else (List.range x.count).map fun j => (x.firstPos + j, j)

/-- The lengths and the state of a stream whose appends are complete (R178, R191). -/
def appendedLen (x : Batch) (n : Nat) (k : Stream) : Stream :=
  if x.kind = .regen then k
  else if x.buttress then { k with bLen := max k.bLen n } else { k with mLen := max k.mLen n }

/-- The copies of one member are complete (R178). -/
def appendMember (b : Nat) (x : Batch) (m : Model) (bad : List Nat) (i : Nat) (k : Member) (s : State) : State :=
  let ps := memberPositions x i k
  let t := ps.foldl (fun t p => appendPos b x m bad k.strm p.1 p.2 t) s
  let t := modBatch b x.id (fun y => { y with members := y.members.modify i fun m => { m with appended := true } }) t
  let t := modStream b k.strm (appendedLen x (ps.foldl (fun n p => max n (p.1 + 1)) 0)) t
  if x.kind = .regen then rebuilt b x bad k.strm t else leaveBatch b k.strm t

/-- The appends of a stream end: those of its oldest committed batch that has not been appended. Appends of a LOST stream are
discarded (R158). -/
def appendDone (b strm : Nat) (bad : List Nat) (s : State) : State :=
  let open_ (m : Member) : Bool := m.strm == strm && !m.masked && !m.appended
  match (bay s b).strm.batches.find? fun x => x.committed && x.members.any open_ with
  | none => s
  | some x =>
    match x.members.findIdx? open_, model? s b x.model with
    | some i, some m =>
      (match x.members[i]? with
       | none => s
       | some k =>
         if (stream s b strm).state = .lost then
           modBatch b x.id (fun y => { y with members := y.members.modify i fun m => { m with appended := true } }) s
         else appendMember b x m bad i k s)
    | _, _ => s

/-- APPEND_COPY_DONE (R178). -/
def execAppendCopyDone (b strm : Nat) (bad : List Nat) (s : State) : Host.Outcome State Fault Refusal :=
  onUnit (decide (b < s.bays.count)) "bay" (run [.bays, .mem, .kw, .irq, .out] (appendDone b strm bad) s)

/-! ## WALK_PIECE_DELIVER -/

/-- The pieces of chunk `w.chunk` for panel index `q`, in order (R182, R183). -/
def walkPieces (s : State) (b : Nat) (x : Batch) (w : Walk) (q : Nat) : List Piece :=
  let g := q / max 1 w.ways
  let j := q % max 1 w.ways
  (List.range x.members.length).flatMap fun i =>
    match x.members[i]? with
    | none => []
    | some m =>
      if m.masked then []
      else
        let rows := listRows s b m.strm x.buttress
        ((List.range w.chunkSlabs).map (· + w.chunk * w.chunkSlabs)).flatMap fun n =>
          if rows.length ≤ n ∨ n % max 1 w.ways ≠ j ∨ (slab s b (rows.getD n 0 + w.layer)).loc != .valid then []
          else (List.range w.hpa).flatMap fun h => (List.range w.parts).map fun k =>
            ({ entry := i, s := n, head := g * w.hpa + h, part := k, slab := rows.getD n 0 + w.layer } : Piece)

/-- The rows of one plane of a part, positions beyond the fill zero (R181, R183). -/
def planeBytes (s : State) (b : Nat) (m : Model) (w : Walk) (p : Piece) (plane : Nat) : List Byte :=
  let n := 256 / max 1 w.parts
  let e := slab s b p.slab
  let row := m.d * kvElem m.kvFmt
  (List.range n).flatMap fun i =>
    let pos := n * p.part + i
    if pos < e.fill then frameRead s b (e.vaPage * 4096 + slabOff m plane p.head pos) row else List.replicate row 0

/-- The reads of a piece whose slab is spilled go out (R181, R423). -/
def askPiece (b model : Nat) (w : Walk) (p : Piece) (s : State) : State :=
  match model? s b model with
  | none => s
  | some m =>
    let n := 256 / max 1 w.parts
    let e := slab s b p.slab
    [0, 1].foldl (fun t plane => askFrame b (e.vaPage * 4096 + slabOff m plane p.head (n * p.part)) (n * (m.d * kvElem m.kvFmt)) t) s

/-- The pages a piece is read from, whose translations the walker caches (R389). -/
def piecePages (s : State) (b : Nat) (m : Model) (w : Walk) (p : Piece) : List Nat :=
  let n := 256 / max 1 w.parts
  let at_ (plane : Nat) : Nat := (slab s b p.slab).vaPage * 4096 + slabOff m plane p.head (n * p.part)
  dedup ([0, 1].flatMap fun plane => (pagesOf (at_ plane) (n * (m.d * kvElem m.kvFmt))).map fun q => q.1 / 4096)

/-- A slot's bytes: its header line, then the part (R184). -/
def pieceSlot (s : State) (b : Nat) (m : Model) (w : Walk) (p : Piece) : List Byte :=
  padTo 64 (natLe 4 p.entry ++ natLe 4 p.s ++ natLe 2 (slab s b p.slab).fill ++ natLe 1 p.head ++ natLe 1 p.part) ++
    planeBytes s b m w p 0 ++ planeBytes s b m w p 1

/-- A piece lands in its slot, and prod moves on; total is written before prod first changes (R184). -/
def deliver (w : Walk) (prod total : Nat) (bs : List Byte) (x : Ashlar) : Ashlar :=
  let y := spadWr 3 (w.ring + 64 + prod % max 1 w.slots * w.slotLines * 64) bs x
  let y := if prod = 0 then spadWr 3 (w.ring + 16) (natLe 8 total) y else y
  spadWr 3 w.ring (natLe 8 (prod + 1)) y

/-- The pieces an ashlar of the panel receives in this chunk: those its walk found before it delivered the first (R184). -/
def chunkPieces (s : State) (b : Nat) (x : Batch) (w : Walk) (q a : Nat) : List Piece :=
  match tget a w.pieces with
  | some ps => ps
  | none => walkPieces s b x w q

/-- The walk of a chunk meets a slab of stream `strm` that cannot be read: the slab is poisoned, the stream masked and put into REGEN, and
the chunk killed to run again (R186, R187). -/
def walkPoison (cid b strm cause : Nat) (p : Piece) (s : State) : State :=
  killReady cid (leaveBatch b strm (passStream b strm (maskStream b strm (poisonSlab b p.slab cause s))))

/-- The bytes of a bay's portion of the prefetch buffer (R185, R312). -/
def prefetchShare (s : State) : Nat := 2 ^ 24 / s.bays.count
/-- The bytes of a piece of delivery (R181). -/
def partBytes (m : Model) (w : Walk) : Nat := pieceBytes m / max 1 w.parts
/-- The bytes a bay's walks hold in the prefetch buffer. -/
def prefetched (s : State) (b : Nat) : Nat :=
  ((bayCmds s b).map fun c => match c.walk with
    | some w => (match (batch? s b w.batch).bind fun x => model? s b x.model with
      | some m => (w.ahead.map Prod.snd).foldl (· + ·) 0 * partBytes m w
      | none => 0)
    | none => 0).foldl (· + ·) 0
/-- How many of the pieces behind piece `prod` the walker may have read ahead: at most 8 in flight, within the bay's portion (R185),
up to the first whose slab is not VALID. -/
def aheadMost (s : State) (b : Nat) (m : Model) (w : Walk) (a prod : Nat) (ps : List Piece) : Nat :=
  let mine := tgetD a w.ahead 0 * partBytes m w
  let room := (prefetchShare s - (prefetched s b - mine)) / max 1 (partBytes m w)
  (((ps.drop prod).take (min 8 room)).takeWhile fun p => (slab s b p.slab).loc == .valid).length
/-- The walker reads ahead (R185): how far is a free value, and what is in flight stays. -/
def readAhead (s : State) (b : Nat) (m : Model) (w : Walk) (a prod : Nat) (ps : List Piece) : Nat :=
  let has := tgetD a w.ahead 0
  has + (freeVal s).toNat % (aheadMost s b m w a prod ps - has + 1)

/-- The walker delivers the next piece to panel index `q` of a chunk (R184): one in flight as it was read, or else one it reads now, which
its slab's poison or a failed read keeps it from (R186). -/
def walkDeliver (cid q : Nat) (cause : Option Nat) (s : State) : State :=
  match cmd? s cid with
  | none => s
  | some c =>
    match c.walk, (panelIds c)[q]? with
    | some w, some a =>
      let x := ash s a
      if c.st != .running || x.cid != cid || x.run != .running then s
      else match batch? s c.bay w.batch, (batch? s c.bay w.batch).bind fun y => model? s c.bay y.model with
        | some y, some m =>
          let ps := chunkPieces s c.bay y w q a
          let prod := tgetD a w.prod 0
          let cons := leNat (mread x.spad (w.ring + 8) 8)
          if inJoint x w.ring (64 + w.slots * w.slotLines * 64) then violation a 0x16 0 0 s
          else (match ps[prod]? with
            | none => s
            | some p =>
              if prod < cons + w.slots then
                let has := tgetD a w.ahead 0
                match (if has != 0 then none else if (slab s c.bay p.slab).loc = .valid then cause else some 1), y.members[p.entry]? with
                | some k, some m => walkPoison cid c.bay m.strm k p s
                | _, _ =>
                  let u := { w with ahead := tput a (has - 1) w.ahead }
                  let n := readAhead s c.bay m u a (prod + 1) ps
                  modAsh a (deliver w prod ps.length (pieceSlot s c.bay m w p))
                    (modCmd cid (fun c => { c with walk := some { w with
                      prod := tput a (prod + 1) w.prod, pieces := tput a ps w.pieces, ahead := tput a n w.ahead } })
                    (tlbFill c.bay 1 (piecePages s c.bay m w p) (touchSlabs c.bay [p.slab] (drewFree (askPiece c.bay y.model w p s)))))
              else s)
        | _, _ => s
    | _, _ => s

/-- WALK_PIECE_DELIVER (R184). -/
def execWalkPieceDeliver (cid q : Nat) (cause : Option Nat) (s : State) : Host.Outcome State Fault Refusal :=
  run fpWork (walkDeliver cid q cause) s

/-! ## SLAB_MOVE_DONE and STREAM_LOST -/

/-- The spill range an address lies in. -/
def spillAt (s : State) (b a : Nat) : Nat :=
  match (bay s b).strm.spills.find? fun e => decide (e.2.va ≤ a ∧ a < e.2.va + e.2.size) with
  | some e => e.1
  | none => 0

/-- A move of a slab ends: its copy is intact and its entry is rewritten in one write (R172), or its frame could not be
read and it is POISONED with the cause of its location (R186), or the write of its copy into a spill range failed and it stays at its old
frame (R423): which of these two a free value tells. -/
def slabMoved (b i : Nat) (intact : Bool) (s : State) : State :=
  let e := slab s b i
  match e.moving with
  | none => s
  | some a =>
    if e.loc = .free then s
    else if !intact && decide (a < kvBase) && bit (freeVal s).toNat 0 then
      drewFree (modSlab b i (fun e => { e with moving := none }) s)
    else if !intact then
      poisonSlab b i (if e.spill then 2 else 1) (modSlab b i (fun e => { e with moving := none }) s)
    else
      let t := frameWrite b a (frameRead s b (e.vaPage * 4096) (frameBytes s b e)) (askFrame b (e.vaPage * 4096) (frameBytes s b e) s)
      let pool := decide (kvBase ≤ a)
      recount b e.stream (modSlab b i (fun e => { e with
        spill := !pool, spillNo := if pool then 0 else spillAt s b a, vaPage := a / 4096, moving := none }) t)

/-- SLAB_MOVE_DONE (R172). -/
def execSlabMoveDone (b slab : Nat) (intact : Bool) (s : State) : Host.Outcome State Fault Refusal :=
  onUnit (decide (b < s.bays.count)) "bay" (run [.bays, .mem, .kw, .irq, .out] (slabMoved b slab intact) s)

/-- A memory error loses a stream (R190). Whether it was the descriptor itself, which is then rewritten with every other
field 0, the command does not tell: a free value decides it. -/
def memLost (b strm : Nat) (s : State) : State :=
  let k := stream s b strm
  if k.state = .free ∨ k.state = .lost then s
  else if bit (freeVal s).toNat 0 then loseDescriptor b strm (drewFree s)
  else loseStream b strm (drewFree s)

/-- STREAM_LOST (R190). -/
def execStreamLost (b strm : Nat) (s : State) : Host.Outcome State Fault Refusal :=
  onUnit (decide (b < s.bays.count) && decide (strm < streamsPerBay s)) "stream" (run fpWork (memLost b strm) s)

end Sys2Proof.Machine
end

