-- ==== Sys2Proof/Machine/FullReset.lean ====
section
/-! DEFINITION. The full block reset (R288, R300, R306, R369, R370, R385, R501 to R507, R575), and the parts of start-up it shares
with a power-on (R528, R532, R573). -/
namespace Sys2Proof.Machine

/-! ## Parts of a start-up -/

/-- The boot ROM reads the footing store (R304, R306): a complete journal is applied, and the record, or the factory values where its crc
is wrong, are in force and staged. -/
def bootFoot (s : State) : State :=
  let f := s.foot
  let roll := f.marker.isSome && crcOk f.journal
  let m := if roll then f.journal else f.record
  let u := if crcOk m then m else factoryOf s
  { s with foot := { f with record := m, marker := none, rolled := roll, defaults := !crcOk m, inForce := u, staged := u } }

/-- An external line whose settings are reset: the raw line itself stays as it is (R529). -/
def resetExt (e : Ext) : Ext := { raw := e.raw != e.polarity, filtered := e.filtered != e.polarity }

/-- Every source that is not reserved. -/
def allSources (s : State) : List Nat := (List.range 512).filter fun n => !srcReserved s n

/-- The interrupt controller after its reset (R532). -/
def resetIrq (s : State) : State :=
  { s with irq := { ext := tmap (fun _ e => resetExt e) s.irq.ext, msix := s.irq.msix } }

/-- Firmware programs the controller and locks it (R532): every source is enabled, the rest it leaves at its reset value (log
entry 21). -/
def programIrq (s : State) : State := { s with irq := { s.irq with lock := true, en := allSources s } }

/-- The boot ROM serves the manager mailbox (R300, R573), and enables its source alone (R532). -/
def bootMode (s : State) : State :=
  modMbx 0 (fun m => { m with boot := true, ready := true })
    { s with fw := { s.fw with running := false }, start := { s.start with phase := 4, ready := false }
             irq := { s.irq with lock := false, en := [8] } }

/-- The running values the record in force gives (R102, R213, R303, R568). -/
def fromRecord (s : State) : State :=
  let p := footFld s 0x10 2
  { s with
    lift := { s.lift with period := p, next := p, pending := false }
    pwr := { s.pwr with cap := footFld s 0x20 2, floor := footFld s 0x22 2, capHandle := 0, floorHandle := 0 } }

/-- Lift 0 begins (R149, R573), at the lowest operating point (log entry 22); after a thermal trip the ashlar clock stays stopped until
power-on (R567). -/
def startLifts (s : State) : State :=
  let t := { s with
    lift := { serving := true, period := s.lift.period, next := s.lift.next, clk := 800, clkFixed := 800, budget := budgetAt s.lift.period 800 } }
  if s.pwr.trip then t
  else emit (.clkReq 800) { t with pwr := { t.pwr with req := 800, ack := true, volt := pointVolt 800, wantClk := none } }

/-- The mailboxes that serve: the manager's and those of the bays that exist. -/
def readyBoxes (s : State) : State :=
  each (liveBays s) (fun b => modMbx (b + 1) fun m => { m with ready := true }) (modMbx 0 (fun m => { m with ready := true, boot := false }) s)

/-- Firmware is up (R573 step 7): interrupts locked, lift 0, mailboxes ready. -/
def firmwareUp (s : State) : State :=
  let t := readyBoxes (startLifts (programIrq s))
  refreshLoops (deriveAlias { t with
    fw := { t.fw with running := true }
    start := { t.start with phase := 7, ready := true } })

/-! ## FULL_RESET_BEGIN -/

/-- The kind of operation that causes a trigger. -/
def causeKind (trigger : Nat) : Option OpKind := if trigger = 7 then some .resetFull else if trigger = 9 then some .fwActivate else none

/-- A request in progress is answered (R288): a BAY_REMOVE whose work the reset completes with OK, every other with RESOURCE_BUSY. -/
def answerBox (x : Nat) (s : State) : State :=
  let r := reqOf s x
  respondWith x (if x = 0 && r.msg == 0x303 && (bay s r.target).removeBox then 0 else 0x28) 0xFF 0 0 [] s

/-- A mailbox while the block resets: not ready, its slots free but the causing one. -/
def closeMbx (cause : Option OpKind) (m : Mbx) : Mbx :=
  { m with ready := false, boot := false, busy := false, opDone := 0
           ops := m.ops.filter fun o => o.2.running && some o.2.kind == cause }

/-- The mailboxes at a full block reset (R288); firmware that the watchdog found dead answers nothing. -/
def closeBoxes (trigger : Nat) (s : State) : State :=
  let t := if trigger = 6 then s else each s.boxes.order answerBox s
  { t with boxes := { all := tmap (fun _ m => closeMbx (causeKind trigger) m) t.boxes.all, order := [] } }

/-- A command at a full block reset: a collective ends with no completion entry (R447), what runs on the compute part is killed. -/
def resetCmd (c : Cmd) (s : State) : State :=
  if c.col.isSome && !c.committed then dropCmd c.cid (unplan c.cid (halt c.cid none s))
  else if shoredCmd c then killReady c.cid (unplan c.cid s)
  else s

/-- The block is shored (R501 step 1). -/
def shoreAll (s : State) : State :=
  let t := { s with rst := { s.rst with shored := true, want := none, after := none, engines := [] }
                    arch := { s.arch with owed := [] } }
  let t := each (t.cmds.all.map Prod.snd) resetCmd t
  each t.kw.txns shoreTxn { t with kw := { t.kw with again := [] } }

/-- What a committed command still owes (R125, R501 step 3): its copy is made, and the effects not yet sent count as failed. -/
def finishDuties (c : Cmd) (s : State) : State :=
  if !c.committed then s
  else
    let t := freeStage c.cid (modCmd c.cid (fun x => { x with effq := [], copyOwed := false }) s)
    finishOwed c.cid (each c.effq (fun x t => ownerAnswered x 2 [] t) t)

/-- The appends of every committed batch are finished (R178, R501 step 3). -/
def finishAppends (s : State) : State :=
  each s.bays.all (fun b t => each b.2.strm.batches (fun x t =>
    if x.committed then each (x.members.filter fun m => !m.masked && !m.appended) (fun m t => appendDone b.1 m.strm [] t) t else t) t) s

/-- Every unit is reset (R370, R492, R501 step 4): SPDM, IDE and TDI state end, counters and logs are at their reset values; the RAS log
stays where its own record is the cause. -/
def resetBlock (trigger : Nat) (s : State) : State :=
  let t := each (List.range 4) ideInsecure (endSpdm s)
  let t := each (List.range t.bays.count) tdiError t
  let t := each ((List.range (quoinPorts t))) (fun p t => emit (.quoinReset p false) (emit (.quoinReset p true) t)) t
  { t with
    fw := { t.fw with running := false, staged := if trigger = 9 then t.fw.staged else none }
    lift := { serving := false, period := t.lift.period, next := t.lift.next }
    stat := {}, grid := {}, dev := {}, quoin := [], plumb := {}
    kw := { mark := t.kw.mark, markAt := t.kw.markAt }
    arch := {}
    ras := { log := if trigger = 3 then t.ras.log else {} }
    mem := { hbm := t.mem.hbm, win := t.mem.win, poison := t.mem.poison, valid := t.mem.valid, withheld := t.mem.withheld
             wins := t.mem.wins, fillDone := t.mem.fillDone, fillMs := t.mem.fillMs }
    pwr := { pinMax := t.pwr.pinMax, vinMin := t.pwr.vinMin, trip := t.pwr.trip, nextHandle := t.pwr.nextHandle, volt := t.pwr.volt }
    sec := { t.sec with epochLatch := t.sec.epoch / 2 ^ 32, linksPending := 0, ide := [], aliasKey := none, aliasCert := []
                        tdi := tmap (fun _ x => { x with stopping := false }) t.sec.tdi }
    start := { t.start with ready := false, phase := 4 } }

/-- FULL_RESET_BEGIN (R501 steps 1 to 5); the dump of a compute-part reset that it abandons stays (R500, R508). Which units do not answer the collection is a free value. -/
def fullBegin (s : State) : State :=
  match s.rst.want with
  | none => s
  | some r =>
    if !r.full || runsReset s true then s
    else
      let t := dumpDone (cutStore s)
      let t := { t with rst := { t.rst with
        now := some r, histC := [], histF := if r.counted then histPut s.rst.time s.rst.histF else s.rst.histF } }
      let t := shoreAll (closeBoxes r.trigger (raise srcShoring t))
      let base := t.out.free
      let t := writeDump s (fun n => bit (Config.free (base + n)).toNat 0) { t with out := { t.out with free := base + unitNo 14 0 } }
      let t := finishAppends (each (t.cmds.all.map Prod.snd) finishDuties t)
      startPorts (fromRecord (resetIrq (bootFoot (resetBlock r.trigger t))))

/-- FULL_RESET_BEGIN (R501). -/
def execFullResetBegin (s : State) : Host.Outcome State Fault Refusal := run fpReset fullBegin s

/-! ## FULL_RESET_SERVING -/

/-- A bay after the reset (R501 step 6): one on its way to ABSENT is ABSENT, every other that was not is cleared, its keys kept, and
CREATED. The manager's panel constraints and the backing windows stay. -/
def renewBay (b : Nat) (s : State) : State :=
  let y := bay s b
  match y.st with
  | .absent => s
  | st =>
    let gone := st == .resetting && y.toAbsent
    let t := clearBay (!gone) b s
    modBay b (fun y => { y with
      st := if gone then .absent else .created, toAbsent := false, removeBox := false, resetOp := none, quiesceOps := [], hangs := 0
      progress := 0, lastProgress := 0, liftLatch := 0, blocked := false, mem := { y.mem with pins := [], hints := [], origins := [] } }) t

/-- The pages of the shares read zero by their valid bits (R385). -/
def clearValid (s : State) : State :=
  if validMode s then { s with mem := { s.mem with
    hbm := s.mem.hbm.filter fun e => physReserved s e.1
    poison := s.mem.poison.filter fun e => physReserved s (e.1 * 512), valid := [], bitmap := true } }
  else s

/-- The staged image of FW_ACTIVATE is the active one (R301), if it is still there; an active image whose digest the boot ROM finds wrong
is none (R300). -/
def activate (trigger : Nat) (digestOk : Bool) (s : State) : State :=
  let t := if trigger = 9 then { s with fw := { s.fw with active := s.fw.staged.orElse fun _ => s.fw.active, staged := none } } else s
  if digestOk then t else { t with fw := { t.fw with active := none } }

/-- The final code of the operation that caused a full block reset (R288): no image to activate is INVALID_ARGUMENT, an image whose digest
is wrong SEAL_INVALID (log entry 25). -/
def causeCode (trigger : Nat) (staged digestOk : Bool) : Nat :=
  if trigger = 9 ∧ staged = false then 0x23 else if digestOk then 0 else 0x2B

/-- The last step: mailboxes, escalation, the reset record, and the causing operation (R286, R288, R507, R516). Firmware is up, or without an
active image the boot ROM serves (R300). -/
def fullServe (r : ResetNow) (code : Nat) (s : State) : State :=
  let reached := r.counted && decide (footFld s 0x29 1 ≤ escFull s)
  let t := if s.fw.active.isNone then bootMode s else firmwareUp s
  let t := dumpDone (nextMark { t with rst := { t.rst with
    now := none, shored := false, ctlFull := false, ctlCompute := false, named := [], oos := t.rst.oos || reached } })
  let t := resetRec 3 r.trigger (b2n r.counted + 4 * b2n (reached && !s.rst.oos) + dumpFlags r) 0xFF r.time r.lift (s.rst.time - r.time) t
  match causeKind r.trigger with
  | some k => endKind k code t
  | none => t

/-- FULL_RESET_SERVING (R501 steps 6 and 7): the bays are renewed and serving begins. A repointing that the reset cut short runs again
from its fence (R369). Shoring lifts here too, no earlier than 1 ms after the mark's last change (R428, R496). -/
def fullServing (digestOk : Bool) (s : State) : State :=
  match s.rst.now with
  | none => s
  | some r =>
    if !r.full || !markFree s then s
    else
      let t := activate r.trigger digestOk s
      let t := each (List.range t.bays.count) renewBay (clearValid t)
      let t := fullServe r (causeCode r.trigger s.fw.staged.isSome digestOk) { t with cmds := { t.cmds with all := [] } }
      if t.sec.repointing then fence t else t

/-- FULL_RESET_SERVING (R501); `digestOk` tells what the boot ROM's check of the active image found (R300). -/
def execFullResetServing (s : State) (digestOk : Bool := true) : Host.Outcome State Fault Refusal := run fpReset (fullServing digestOk) s

/-- RETURN_TO_SERVICE (R507): serving resumes with both histories empty. -/
def execReturnToService (box : Nat) (s : State) : Host.Outcome State Fault Refusal :=
  boxRow [.rst] 0x503 box (fun _ t => reply box 0 { t with rst := { t.rst with oos := false, histC := [], histF := [] } }) s

/-! ## Power-on (R383, R571 to R574) -/

/-- POWER_ON_RESET_ASSERT (R370, R504, R571): nothing is left but the hardened figures, the identity store and the footing store, and
the levels of the external lines. -/
def powerOff (s : State) : State :=
  let s := cutStore s
  { State.reset with
    hw := s.hw, ident := s.ident, pending := s.pending, out := s.out
    foot := { record := s.foot.record, journal := s.foot.journal, marker := s.foot.marker, staged := s.foot.staged, inForce := s.foot.inForce }
    bays := { count := s.bays.count }
    irq := { ext := tmap (fun _ e => resetExt e) s.irq.ext }
    lift := { State.reset.lift with period := footFld (bootFoot s) 0x10 2, next := footFld (bootFoot s) 0x10 2 }
    start := { powered := false } }

/-- POWER_ON_RESET_ASSERT (R571). -/
def execPowerOnResetAssert (s : State) : Host.Outcome State Fault Refusal := run fpReset powerOff s

/-- POWER_ON_RESET_RELEASE (R571): start-up begins. -/
def execPowerOnResetRelease (s : State) : Host.Outcome State Fault Refusal :=
  .next (if s.start.powered then s else { s with start := {} })

/-- The initial training ends (R555): all ports with a stack of one capacity trained, or start-up stops in step 2 with code 1. A random
source that failed its health tests stopped start-up in step 1 with code 2 (R574). The epoch and the first HBM keys are drawn, once from
power-on (R336, R364). -/
def hbmTrained (ok : List Bool) (health : Bool) (s : State) : State :=
  let caps := s.hw.stackGib.take (hbmPorts s)
  let good := caps.all (fun c => [16, 24, 32, 48, 64].contains c && some c == caps.head?) && caps.length == hbmPorts s &&
    ok.length == hbmPorts s && ok.all id
  if !health then { s with start := { s.start with phase := 1, fail := 2 } }
  else if good then
    let e := (randVal s).toNat % 2 ^ 63
    let t := { s with start := { s.start with phase := 3 } }
    if s.sec.drawn then t else drawKeys (drewRandom { t with sec := { t.sec with epoch := e, epochLatch := e / 2 ^ 32 } })
  else { s with start := { s.start with phase := 2, fail := 1 } }

/-- HBM_TRAINING_DONE (R555, R573 steps 1 and 2): `ok` tells for each port whether it trained, `health` whether the random source passed
its health tests. -/
def execHbmTrainingDone (ok : List Bool) (health : Bool) (s : State) : Host.Outcome State Fault Refusal :=
  run [.start, .sec, .out, .irq] (onlyIf (fun t => decide (t.start.phase ≤ 2) && t.start.fail == 0) (fun t =>
    if health then each (List.range (hbmPorts t)) (fun p => raise (srcHbm p)) (hbmTrained ok health t) else hbmTrained ok health t)) s

/-- The fill of R383 (and of R384, under which every page reads as zeros): HBM, scratchpads, accumulators and instruction memories. -/
def fillMemories (ms : Nat) (s : State) : State :=
  { s with
    mem := { s.mem with hbm := [], poison := [], valid := [], fillDone := true, bitmap := validMode s, fillMs := min ms 0xFFFF }
    grid := { s.grid with ashlars := tmap (fun _ a => { a with spad := [], acc := [], imem := [] }) s.grid.ashlars } }

/-- MEMORY_FILL_DONE (R300, R306, R383, R384, R574): every memory reads zero, and the boot ROM serves; one that fails its own check stops
start-up in step 4 with code 3 before its mailbox is ready (log entry 24). -/
def memoryFilled (ms : Nat) (romOk : Bool) (s : State) : State :=
  if romOk then
    let t := bootFoot s
    bootMode (fromRecord { fillMemories ms t with bays := { t.bays with count := footFld t 0x12 1 } })
  else
    let t := fillMemories ms s
    { t with start := { t.start with phase := 4, fail := 3 } }

/-- MEMORY_FILL_DONE (R383): `romOk` tells whether the boot ROM passes its self-check. -/
def execMemoryFillDone (ms : Nat) (romOk : Bool) (s : State) : Host.Outcome State Fault Refusal :=
  run fpReset (onlyIf (fun t => t.start.phase == 3) (memoryFilled ms romOk)) s

/-- FIRMWARE_INIT_DONE (R566, R573 step 6, R574): the converter's limits have been read; a rail that AVSBus reports out of range stops
start-up with code 4. -/
def execFirmwareInitDone (pinMax vinMin : Nat) (rails : Bool) (s : State) : Host.Outcome State Fault Refusal :=
  run [.start, .pwr] (onlyIf (fun t => t.start.phase == 6 && t.start.fail == 0) fun t =>
    if rails then
      { t with start := { t.start with phase := 7 }, pwr := { t.pwr with pinMax := min pinMax 0xFFFF, vinMin := vinMin } }
    else { t with start := { t.start with fail := 4 } }) s

/-- EQI_READY (R573 step 7). -/
def execEqiReady (s : State) : Host.Outcome State Fault Refusal :=
  run fpReset (onlyIf (fun t => t.start.phase == 7 && !t.start.ready) firmwareUp) s

end Sys2Proof.Machine
end

