-- ==== Sys2Proof/Machine/ArchGroups.lean ====
section
/-! DEFINITION. The group table as the manager writes it (R429, R430, R451). -/
namespace Sys2Proof.Machine

/-- The status of the last group command. -/
def archStatus (k : Nat) (s : State) : State := { s with arch := { s.arch with status := k } }

/-- A write of ARCH_GRP_CTL with command `k`: it names the entry. A command ends with its write, so busy reads 0. -/
def archCmd (k : Nat) (v : BitVec 32) (f : Nat → State → State) (s : State) : State :=
  if bits v.toNat 25 24 != k then s
  else
    let i := bits v.toNat 7 0
    f i { s with arch := { s.arch with index := i } }

/-- Command 1: the entry and its member list are copied into the registers and the staging list; a free entry reads 0. -/
def archRead (i : Nat) (s : State) : State :=
  match group? s i with
  | none => { s with arch := { s.arch with gid := 0, attr := 0, tree := 0, staging := [], status := 0 } }
  | some g => { s with arch := { s.arch with
      gid := g.gid, attr := pack [(28, g.bay), (24, g.weight), (13, g.members), (0, g.rank)]
      tree := pack [(31, b2n g.treeValid), (0, g.tree)]
      staging := (List.zip (List.range g.eps.length) g.eps).filter fun e => e.2 != 0, status := 0 } }

/-- ARCH_GRP_READ (R451). -/
def execArchGrpRead (v : BitVec 32) (s : State) : Host.Outcome State Fault Refusal := run [.arch] (archCmd 1 v archRead) s

/-- The entry the registers describe (R451): a weight of 0 is taken as 1. -/
def stagedGroup (a : Arch) : Group :=
  let m := bits a.attr 23 13
  { gid := a.gid, bay := bits a.attr 31 28, weight := max 1 (bits a.attr 27 24), members := m, rank := bits a.attr 9 0
    eps := (List.range m).map fun r => tgetD r a.staging 0, treeValid := bit a.tree 31, tree := bits a.tree 11 0 }

/-- Whether no value stands twice in a list. -/
def distinct (l : List Nat) : Bool := (dedup l).length == l.length

/-- The status of a create (R451): 4 a field out of range, 3 bay absent, 1 entry in use or group ID present, 2 member list invalid. -/
def createStatus (s : State) (i : Nat) (g : Group) : Nat :=
  if g.members < 2 ∨ 1024 < g.members ∨ g.members ≤ g.rank ∨ s.bays.count ≤ g.bay then 4
  else if (bay s g.bay).st = .absent then 3
  else if (group? s i).isSome ∨ (groupById s g.gid).isSome then 1
  else if !distinct g.eps ∨ !s.kw.epValid ∨ epOf g g.rank ≠ s.kw.ep then 2
  else 0

/-- Command 2. -/
def archCreate (i : Nat) (s : State) : State :=
  let g := stagedGroup s.arch
  let k := createStatus s i g
  archStatus k (if k = 0 then { s with arch := { s.arch with groups := tput i g s.arch.groups } } else s)

/-- ARCH_GRP_CREATE (R451). -/
def execArchGrpCreate (v : BitVec 32) (s : State) : Host.Outcome State Fault Refusal := run [.arch] (archCmd 2 v archCreate) s

/-- Whether a COLLECTIVE that names an entry is not DONE. -/
def groupBusy (s : State) (i : Nat) : Bool := s.cmds.all.any fun c => c.2.col.any fun k => k.grp == i

/-- Command 3. -/
def archDestroy (i : Nat) (s : State) : State :=
  if groupBusy s i then archStatus 5 s
  else archStatus 0 { s with arch := { s.arch with groups := tdrop i s.arch.groups } }

/-- ARCH_GRP_DESTROY (R451). -/
def execArchGrpDestroy (v : BitVec 32) (s : State) : Host.Outcome State Fault Refusal := run [.arch] (archCmd 3 v archDestroy) s

/-- ARCH_MBR_WRITE (R451): the staging entry is written and the index moves on. -/
def execArchMbrWrite (v : BitVec 32) (s : State) : Host.Outcome State Fault Refusal :=
  run [.arch] (fun t => { t with arch := { t.arch with
    staging := tput t.arch.mbrIdx (bits v.toNat 11 0) t.arch.staging, mbrIdx := (t.arch.mbrIdx + 1) % 1024 } }) s

end Sys2Proof.Machine
end

