-- ==== Sys2Proof/Machine/Irqs.lean ====
section
/-! DEFINITION. The interrupt controller (R519 to R538): delivery to cores and to the host, hold-off, external lines, and its
write-to-act registers. -/
namespace Sys2Proof.Machine

/-! ## Cores (R521, R522) -/

/-- The group priority of a priority at binary point `b` (R521). -/
def groupPrio (b p : Nat) : Nat := p / 2 ^ (b + 1)

/-- The more urgent of two sources: the lower priority value, then the lower number. -/
def moreUrgent (s : State) (a b : Nat) : Bool :=
  decide (irqPrio s a < irqPrio s b) || (irqPrio s a == irqPrio s b && decide (a ≤ b))

/-- The most urgent source of a list. -/
def mostUrgent (s : State) (l : List Nat) : Option Nat :=
  l.foldl (fun o n => match o with
    | none => some n
    | some m => if moreUrgent s m n then some m else some n) none

/-- The sources eligible at a core (R522). -/
def eligible (s : State) (core : Nat) : List Nat :=
  s.irq.pend.filter fun n => s.irq.en.contains n && !s.irq.act.contains n && irqDest s n == core && !srcReserved s n

/-- Level-mode lines whose filtered level is 1 are pending in every clock (R530). -/
def levelPend (s : State) : State :=
  each (List.range 32) (fun k t => if (extLine t k).level && (extLine t k).filtered then raise (srcExt k) t else t) s

/-- Whether a core takes a source: it runs no handler, or one of a strictly less urgent group with fewer than eight nested. -/
def mayTake (s : State) (core n : Nat) : Bool :=
  match tgetD core s.irq.cores [] with
  | [] => true
  | h :: t => decide (t.length < 7) && decide (groupPrio s.irq.bpoint (irqPrio s n) < groupPrio s.irq.bpoint (irqPrio s h))

/-- A core takes a source. -/
def takeSrc (core n : Nat) (s : State) : State :=
  levelPend (emit (.handler core n) { s with irq := { s.irq with
    pend := sdrop n s.irq.pend, act := sput n s.irq.act, cores := tmod core [] (n :: ·) s.irq.cores } })

/-- INTERRUPT_TAKE (R522). -/
def execInterruptTake (core : Nat) (s : State) : Host.Outcome State Fault Refusal :=
  onUnit (decide (core < 4)) "core" (run [.irq, .out] (fun t => match mostUrgent t (eligible t core) with
    | none => t
    | some n => if mayTake t core n then takeSrc core n t else t) s)

/-- HANDLER_END (R522, R530). -/
def execHandlerEnd (core : Nat) (s : State) : Host.Outcome State Fault Refusal :=
  onUnit (decide (core < 4)) "core" (run [.irq] (fun t => match tgetD core t.irq.cores [] with
    | [] => t
    | n :: rest => levelPend { t with irq := { t.irq with
        act := sdrop n t.irq.act, cores := tput core rest t.irq.cores } }) s)

/-! ## The host relay (R524 to R527) -/

/-- Whether the relay discards a function's deliveries (R526). -/
def discardsFn (s : State) (fn : Nat) : Bool :=
  !(tgetD fn s.irq.msix {}).enable || (decide (0 < fn) && ((bay s (fn - 1)).st == .absent || (tdi s (fn - 1)).st == .error))

/-- One MSI-X message: a masked vector only sets its pending bit. -/
def sendMsix (fn v : Nat) (s : State) : State :=
  let m := tgetD fn s.irq.msix {}
  if discardsFn s fn then s
  else if m.fmask || !m.unmasked.contains v then modMsix fn (fun m => { m with pba := sput v m.pba }) s
  else emit (.msix fn v (reqT s fn)) s

/-- The bay of a bay source. -/
def srcBay (n : Nat) : Option Nat := if n % 32 < 5 then some (n / 32) else none

/-- A source is delivered: its pending bit clears, its messages go out, and a bay source loads its group's timer. -/
def deliverIrq (n : Nat) (s : State) : State :=
  let t := { s with irq := { s.irq with pend := sdrop n s.irq.pend } }
  match srcBay n with
  | none => sendMsix 0 (irqVec t n) t
  | some b =>
    let t := { t with irq := { t.irq with timer := tput b (holdOf t b) t.irq.timer } }
    if n % 32 = 0 then
      each (tgetD b t.irq.owed []) (sendMsix (b + 1)) { t with irq := { t.irq with owed := tdrop b t.irq.owed } }
    else sendMsix (b + 1) (irqVec t n) t

/-- Whether a source is held off (R527). -/
def heldOff (s : State) (n : Nat) : Bool := match srcBay n with
  | some b => tgetD b s.irq.timer 0 != 0
  | none => false

/-- The sources the relay may deliverIrq; during repointing only the manager mailbox's (R367). -/
def relayReady (s : State) : List Nat :=
  s.irq.pend.filter fun n => s.irq.en.contains n && irqDest s n == 4 && !srcReserved s n && !heldOff s n && (!s.sec.repointing || n == 8)

/-- RELAY_DELIVER (R526): the most urgent source that is ready. -/
def execRelayDeliver (s : State) : Host.Outcome State Fault Refusal :=
  run [.irq, .out] (fun t => match mostUrgent t (relayReady t) with
    | none => t
    | some n => deliverIrq n t) s

/-- Every ready source of a group in order, most urgent first. -/
def deliverGroup (g : Nat) : Nat → State → State
  | 0, s => s
  | k + 1, s =>
    match mostUrgent s ((relayReady { s with irq := { s.irq with timer := tdrop g s.irq.timer } }).filter fun n => srcBay n == some g) with
    | none => s
    | some n => deliverGroup g k (deliverIrq n s)

/-- HOLDOFF_EXPIRE (R527): the timer is 0, and everything the group holds is delivered. -/
def execHoldoffExpire (g : Nat) (s : State) : Host.Outcome State Fault Refusal :=
  onUnit (decide (g < 16)) "interrupt group"
    (run [.irq, .out] (fun t => deliverGroup g 5 { t with irq := { t.irq with timer := tdrop g t.irq.timer } }) s)

/-- MSIX_UNMASK (R526). -/
def execMsixUnmask (fn vec : Nat) (s : State) : Host.Outcome State Fault Refusal :=
  onUnit (decide (fn ≤ s.bays.count) && decide (vec < if fn = 0 then 8 else 64)) "MSI-X vector"
    (run [.irq, .out] (fun t => sendPending fn (modMsix fn (fun m => { m with unmasked := sput vec m.unmasked }) t)) s)

/-! ## External lines (R529, R530) -/

/-- The filtered level of a line changes with its raw level, after polarity. -/
def lineChange (k : Nat) (raw : Bool) (s : State) : State :=
  let e := extLine s k
  let v := raw != e.polarity
  let t := { s with irq := { s.irq with ext := tput k { e with raw := v, filtered := v } s.irq.ext } }
  if v && (e.level || !e.filtered) then raise (srcExt k) t else t

/-- EXT_LINE_CHANGE (R530): `raw` is the level the filter has seen for long enough. -/
def execExtLineChange (k : Nat) (raw : Bool) (s : State) : Host.Outcome State Fault Refusal :=
  onUnit (decide (k < 32)) "external line" (run [.irq] (lineChange k raw) s)

/-! ## Registers that act -/

/-- The sources of register `n` that a manager's write of ones names: slots 8 to 12 of group 0 (R531). -/
def mgrSources (n : Nat) (v : BitVec 32) : List Nat := if n = 0 then [8, 9, 10, 11, 12].filter fun k => v.getLsbD k else []

/-- IRQ_PEND_CLEAR (R536). -/
def execIrqPendClear (n : Nat) (v : BitVec 32) (s : State) : Host.Outcome State Fault Refusal :=
  onUnit (decide (n < 16)) "interrupt register" (run [.irq] (fun t => { t with irq := { t.irq with
    pend := t.irq.pend.filter fun k => !(mgrSources n v).contains k } }) s)

/-- IRQ_SET (R531). -/
def execIrqSet (n : Nat) (v : BitVec 32) (s : State) : Host.Outcome State Fault Refusal :=
  onUnit (decide (n < 16)) "interrupt register" (run [.irq] (each (mgrSources n v) raise) s)

/-- IRQ_LOCK (R532, R533). -/
def execIrqLock (s : State) : Host.Outcome State Fault Refusal :=
  run [.irq] (fun t => { t with irq := { t.irq with lock := true } }) s

end Sys2Proof.Machine
end

