-- ==== Sys2Proof/Machine/Power.lean ====
section
/-! DEFINITION. The surroundings (R553 to R555, R563 to R567): the PCIe reset, the clock generator and the regulator, the readings of
the power manager, the emergency throttle and the thermal trip. -/
namespace Sys2Proof.Machine

/-! ## pcie_perst_n (R553) -/

/-- The PCIe layers and every configuration space are reset; every IDE stream is Insecure, VF Enable clears, the rest goes on. -/
def perstAssert (s : State) : State :=
  let t := each (List.range 4) ideInsecure { s with start := { s.start with perst := true, d3 := false } }
  let t := clearVfEnable (each (List.range t.bays.count) resetFunction t)
  { t with
    bays := { t.bays with numVfs := 0 }
    irq := { t.irq with msix := tdrop 0 t.irq.msix } }

/-- PERST_ASSERT (R553). -/
def execPerstAssert (s : State) : Host.Outcome State Fault Refusal :=
  run (.start :: fpBay) (onlyIf (fun t => !t.start.perst) perstAssert) s

/-- PERST_DEASSERT (R553). -/
def execPerstDeassert (s : State) : Host.Outcome State Fault Refusal :=
  run [.start] (fun t => { t with start := { t.start with perst := false } }) s

/-! ## Clock and voltage (R563, R565) -/

/-- CLK_ASH_ACK (R563): a request that is not 0 is ready to switch to. -/
def execClkAshAck (s : State) : Host.Outcome State Fault Refusal :=
  run [.pwr] (onlyIf (fun t => t.pwr.req != 0) fun t => { t with pwr := { t.pwr with ack := true } }) s

/-- AVS_VOLTAGE_IN_RANGE (R565): the voltage of the higher clock that waits for it is there. -/
def execAvsVoltageInRange (s : State) : Host.Outcome State Fault Refusal :=
  run [.pwr, .irq] (fun t => match t.pwr.wantClk with
    | some w => raise srcAvs { t with pwr := { t.pwr with volt := max t.pwr.volt (pointVolt w) } }
    | none => raise srcAvs t) s

/-! ## The power manager (R555, R566) -/

/-- What a change of a limit can reach. -/
def fpPower : List Grp := [.pwr, .mem, .dev, .bays, .ras, .irq, .out]

/-- A poll of READ_PIN and READ_VIN: three failures in a row set pmb_fail, ten good reads clear it (R566). -/
def polled (r : Option (Nat × Nat)) (p : Pwr) : Pwr :=
  match r with
  | some (pin, vin) =>
    { p with
      pin := pin % 2 ^ 16, vin := vin % 2 ^ 16, window := (pin % 2 ^ 16 :: p.window).take 10
      fails := 0, oks := min 10 (p.oks + 1), pmbFail := p.pmbFail && decide (p.oks + 1 < 10) }
  | none => { p with fails := min 3 (p.fails + 1), oks := 0, pmbFail := p.pmbFail || decide (3 ≤ p.fails + 1) }

/-- PMBUS_POLL (R566). -/
def execPmbusPoll (r : Option (Nat × Nat)) (s : State) : Host.Outcome State Fault Refusal :=
  run fpPower (fun t =>
    let u := refreshLoops { t with pwr := polled r t.pwr }
    if u.pwr.vin < u.pwr.vinMin then raise srcElectrical u else u) s

/-- Whether STATUS_WORD reports an input fault or warning: bits 13 and 3 of PMBus's STATUS_WORD. -/
def inputWarning (status : Nat) : Bool := bit status 13 || bit status 3

/-- PM_ALERT (R566): the limits and the status are read again. -/
def execPmAlert (status pinMax vinMin : Nat) (s : State) : Host.Outcome State Fault Refusal :=
  run fpPower (fun t =>
    let u := raise srcPmbus { t with pwr := { t.pwr with pinMax := pinMax % 2 ^ 16, vinMin := vinMin % 2 ^ 16 } }
    refreshLoops (if inputWarning status then raise srcElectrical u else u)) s

/-- The hottest die sensor is read with the stacks: its index and reading are free values, below what an emergency throttle or, under
one, the thermal trip would have answered (R567, log entry 55). -/
def readDie (s : State) : State :=
  let v := (freeVal s).toNat
  let top := if s.pwr.throttle = some .thermal then 120 else 110
  if s.pwr.trip then s
  else drewFree { s with pwr := { s.pwr with dieC := v % top, sensor := v / 256 % 64 } }

/-- STACK_TEMP_READ (R555, R567): the highest of the stacks' temperatures, and the die's. -/
def stackTemp (temps : List Nat) (s : State) : State :=
  let m := min 255 ((temps.take (hbmPorts s)).foldl max 0)
  let t := readDie s
  let u := refreshLoops { t with pwr := { t.pwr with stackC := m } }
  if thermalLimit u then raise srcThermal u else u

/-- STACK_TEMP_READ (R555). -/
def execStackTempRead (temps : List Nat) (s : State) : Host.Outcome State Fault Refusal := run fpPower (stackTemp temps) s

/-! ## Emergencies (R104, R133, R567) -/

/-- A kill by emergency throttle, counted for the block and the bay (R133). -/
def throttleKill (c : Cmd) (s : State) : State :=
  let t := { s with stat := { s.stat with throttleKill := satAdd 0xFF s.stat.throttleKill 1 } }
  killReady c.cid (modBay c.bay (fun y => { y with throttleKill := satAdd 0xFF y.throttleKill 1 }) t)

/-- The clock drops to 800 MHz inside the lift: which running commands no longer fit before the closing window is a free value for each,
since the clocks a command has run are not part of the state. -/
def dropClock (s : State) : State :=
  let base := s.out.free
  let run := (s.cmds.all.map Prod.snd).filter fun c => c.st == .running && isEngineCmd c
  let hit := run.filter fun c => bit (Config.free (base + c.cid)).toNat 0
  let t := each hit throttleKill { s with out := { s.out with free := base + s.cmds.next } }
  emit (.avsWrite (10 * pointVolt 800)) (emit .clkSwitch (emit (.clkReq 800) { t with
    lift := { t.lift with clk := 800, throttled := true }
    pwr := { t.pwr with req := 800, ack := false, volt := pointVolt 800, wantClk := none } }))

/-- At 800 MHz already: a request for more gives way to one for 800 MHz (R563). -/
def holdLow (s : State) : State :=
  let t := { s with pwr := { s.pwr with wantClk := none } }
  if s.pwr.req ≤ 800 then t else emit (.clkReq 800) { t with pwr := { t.pwr with req := 800, ack := false } }

/-- An emergency throttle is held: its cause, and for a thermal one the hottest sensor, whose reading and index are free values from
110 °C. -/
def holdThrottle (c : ThrottleCause) (s : State) : State :=
  match c with
  | .electrical => raise srcElectrical { s with pwr := { s.pwr with throttle := some c } }
  | .thermal =>
    let v := (freeVal s).toNat
    raise srcThermal (drewFree { s with pwr := { s.pwr with throttle := some c, dieC := 110 + v % 10, sensor := v / 16 % 64 } })

/-- EMERGENCY_THROTTLE: one at a time is held. -/
def emergency (c : ThrottleCause) (s : State) : State :=
  if s.pwr.throttle.isSome || s.pwr.trip then s
  else
    let t := raise srcThrottle (holdThrottle c s)
    refreshLoops (if 800 < t.lift.clk then dropClock t else holdLow t)

/-- EMERGENCY_THROTTLE (R567). -/
def execEmergencyThrottle (c : ThrottleCause) (s : State) : Host.Outcome State Fault Refusal := run (.pwr :: fpWork) (emergency c) s

/-- THROTTLE_RELEASE: the condition has been clear for 100 ms; an input below MFR_VIN_MIN is not clear. The hottest sensor is below
100 °C then, its reading a free value. -/
def releaseThrottle (s : State) : State :=
  match s.pwr.throttle with
  | none => s
  | some .electrical =>
    if s.pwr.vin < s.pwr.vinMin then s else refreshLoops { s with pwr := { s.pwr with throttle := none } }
  | some .thermal =>
    refreshLoops (drewFree { s with pwr := { s.pwr with throttle := none, dieC := (freeVal s).toNat % 100 } })

/-- THROTTLE_RELEASE (R567). -/
def execThrottleRelease (s : State) : Host.Outcome State Fault Refusal := run fpPower releaseThrottle s

/-- The thermal trip: the ashlar clock stops by request 0 until power-on. -/
def thermalTrip (sensor degC : Nat) (s : State) : State :=
  if degC < 120 ∨ s.pwr.trip then s
  else emit (.clkReq 0) (emit (.thermtrip true) (raise srcThermal { s with pwr := { s.pwr with
    trip := true, dieC := min 255 degC, sensor := sensor, req := 0, ack := false, wantClk := none } }))

/-- THERMAL_TRIP (R567). -/
def execThermalTrip (sensor degC : Nat) (s : State) : Host.Outcome State Fault Refusal :=
  onUnit (decide (sensor < 64)) "die sensor" (run [.pwr, .irq, .out] (thermalTrip sensor degC) s)

/-! ## The PHYs (R554) -/

/-- HBM_PHY_UPDATE_REQUEST (R554): the update window is granted between slot rounds. -/
def execHbmPhyUpdateRequest (p : Nat) (s : State) : Host.Outcome State Fault Refusal :=
  onUnit (decide (p < hbmPorts s)) "memory port" (run [.out] (emit (.phyAck p)) s)

end Sys2Proof.Machine
end

