-- ==== Sys2Proof/Machine/Quoin.lean ====
section
/-! DEFINITION. The quoin ports (R119, R366, R458, R480, R557 to R561): registration, the end of a command, memory requests, write
data and outbox records of an engine, and breaches of the port protocol. -/
namespace Sys2Proof.Machine

/-- An effect at a quoin port. -/
def onQuoin (p : Nat) (f : State → State) (s : State) : Host.Outcome State Fault Refusal :=
  onUnit (decide (p < quoinPorts s)) "quoin port" (run (.boxes :: fpWork) f s)

/-! ## Registration (R558) -/

/-- An engine drops ready: an engine reset that has missed its bound (R495, R558). -/
def readyFalls (p : Nat) (s : State) : State :=
  let t := modQp p (fun q => { q with ready := false, words := [], registered := false }) s
  let t := if t.rst.now.isSome then engineEffect (.quoin p) t else engineReset (.quoin p) t
  wantReset (runsReset t false) 4 t

/-- QUOIN_READY: an engine held in reset drives nothing. -/
def quoinReady (p : Nat) (rise : Bool) (s : State) : State :=
  let q := qport s p
  if q.heldReset || q.ready == rise then s
  else if rise then raise (srcQuoin p 0) (modQp p (fun q => { q with ready := true, words := [], registered := false }) s)
  else readyFalls p s

/-- QUOIN_READY (R558). -/
def execQuoinReady (p : Nat) (rise : Bool) (s : State) : Host.Outcome State Fault Refusal := onQuoin p (quoinReady p rise) s

/-- Whether registration word `i` is in its range. -/
def regWordOk (i : Nat) (w : W64) : Bool :=
  if i < 4 then true else if i = 4 then decide (1 ≤ w.toNat ∧ w.toNat ≤ 1250) else w == 0

/-- A port with all eight registration words. -/
def registered (q : QPort) : QPort :=
  if q.words.length < 8 then q
  else { q with
    registered := true, identity := (q.words.take 4).flatMap fun w => natLe 8 w.toNat, mhz := (q.words.getD 4 0).toNat }

/-- QUOIN_REG_WORD: a word out of range leaves the engine held in reset. -/
def quoinRegWord (p : Nat) (w : W64) (s : State) : State :=
  let q := qport s p
  if q.heldReset || !q.ready || q.registered then s
  else if regWordOk q.words.length w then modQp p (fun q => registered { q with words := q.words ++ [w] }) s
  else holdQuoin p s

/-- QUOIN_REG_WORD (R558). -/
def execQuoinRegWord (p : Nat) (w : W64) (s : State) : Host.Outcome State Fault Refusal := onQuoin p (quoinRegWord p w) s

/-! ## Breaches (R560) -/

/-- A breach of the port protocol: the command concerned violates, if one is in flight and not committed; the manager learns of it in
any case (R480, R484, R485). -/
def breach (p : Nat) (c : Option Nat) (s : State) : State :=
  let t := raise (srcQuoin p 3) s
  match c.bind (cmd? t) with
  | some x => if x.committed || x.st == .frozen then bare t else quoinViolation p 0 3 0x22 0 x.cid t
  | none => bare t
where
  /-- The record of a breach that concerns no command. -/
  bare (t : State) : State := plumbRec { kind := 1, master := 3, reason := 0x22, unit := p * 4096 } t

/-- A signal of the engine that presupposes a command: while a kill is pending it is discarded, with no command held it is a breach. -/
def withHeld (p : Nat) (f : Cmd → State → State) (s : State) : State :=
  let q := qport s p
  if q.heldReset then s
  else match q.cid with
    | some c => f (cmdD s c) s
    | none => if q.killed.isSome then s else breach p q.doneOf s

/-- An engine whose command is exhausted is reset as an engine (R458). -/
def resetIfExhausted (p : Nat) (c : Cmd) (s : State) : State :=
  if (cmd? s c.cid).isNone && !c.abort then engineReset (.quoin p) s else s

/-! ## The end of a command (R559) -/

/-- A done word: OK, a detection with cause 7, or an engine error. -/
def doneWord (p : Nat) (w : W64) (c : Cmd) (s : State) : State :=
  let t := modQp p (fun q => { q with cid := none, doneOf := some c.cid, writes := [] }) s
  let st := bits w.toNat 7 0
  if st = 0 then modCmd c.cid (fun x => { x with st := .committing, result := bits w.toNat 63 32 }) t
  else if st = 1 then resetIfExhausted p c (detect c.cid 7 none 4 0 (raise (srcQuoin p 2) t))
  else killDone c.cid 0x30 false t

/-- QUOIN_DONE (R559). -/
def execQuoinDone (p : Nat) (w : W64) (s : State) : Host.Outcome State Fault Refusal := onQuoin p (withHeld p (doneWord p w)) s

/-- The engine has stopped after a kill and its status words are read (R119, R559). -/
def quoinStopped (p : Nat) (stat : List W64) (s : State) : State :=
  let q := qport s p
  if q.heldReset then s
  else if q.killed.isSome then raise (srcQuoin p 1) (modQp p (fun q => { q with killed := none, stat := stat.take 8 }) s)
  else breach p (q.cid <|> q.doneOf) s

/-- QUOIN_STOPPED (R559). -/
def execQuoinStopped (p : Nat) (stat : List W64) (s : State) : Host.Outcome State Fault Refusal := onQuoin p (quoinStopped p stat) s

/-- The scrub acknowledgement (R366). -/
def scrubAck (p : Nat) (s : State) : State :=
  let q := qport s p
  if q.heldReset then s
  else if q.scrub then modQp p (fun q => { q with scrub := false }) s
  else breach p (q.cid <|> q.doneOf) s

/-- QUOIN_SCRUB_ACK (R366). -/
def execQuoinScrubAck (p : Nat) (s : State) : Host.Outcome State Fault Refusal := onQuoin p (scrubAck p) s

/-! ## Memory requests (R557, R561) -/

/-- Whether a run of bytes lies in the staging extent as the engine addresses it. -/
def inStaging (c : Cmd) (va n : Nat) : Bool := !c.stageAt.isEmpty && within c.stageVa (c.stageAt.length * 2 ^ 21) va n

/-- The access of one request as a transfer of one row. -/
def reqDesc (va n : Nat) (wr : Bool) : DmaDesc := { vaddr := va, rowBytes := n, toMem := wr }

/-- Whether a port finds a page in the bay's partition of its cache (R388, R389), or the command holds the page's host address (R392). -/
def portHit (s : State) (p : Nat) (c : Cmd) (page : Nat) : Bool := tlbHit s c.bay (3 + p) page || c.hostPages.any fun h => h.1 / 4096 == page

/-- A port's translations of a request (R389, R390): what is found enters its cache. -/
def portXlate (p : Nat) (c : Cmd) (d : DmaDesc) (s : State) : State :=
  tlbFill c.bay (3 + p) (foundPages s c.bay (memRows d) (if d.toMem then 2 else 1) (portHit s p c)) s

/-- What happens to a request before it is served (R390, R393, R394): it faults, or waits for a host translation, or is served by `k`.
A request the block cannot issue yet is not accepted. -/
def translated (p : Nat) (c : Cmd) (d : DmaDesc) (k : State → State) (s : State) : State :=
  let stale := portHit s p c
  let s1 := portXlate p c d s
  let need := if d.toMem then 2 else 1
  match dmaFault c.batch.isSome s c.bay d stale with
  | some f => faultCmd c.cid f.1 f.2 (2 + p) s1
  | none =>
    let hp := hostPagesOf s c.bay (memRows d) need stale
    if hostShut s c.bay then s1
    else match atsMiss s c.bay hp with
      | some h => atsAsk c.bay h.1 h.2 c.cid need (2 + p) s1
      | none => match atsDenied s c.bay need hp with
        | some h => fault4Now c.cid h.2 need (2 + p) s1
        | none => k s1

/-- A read whose bytes did not come: an unanswered remote page ends the command with that answer's code, host memory with XLT_FAULT (R392,
R403). -/
def readFailed (c : Cmd) (env : Env) (va n : Nat) (s : State) : State :=
  let far := (pagesOf va n).find? fun q => match xlate s c.bay q.1 1 true with
    | .ok (.remote _ _ _) => true
    | _ => false
  match far with
  | some q => remoteReadFailed c.cid none q.1 2 s
  | none => killDone c.cid 0x33 true (cmdError c 0x04 0x33 0 (badByte s c.bay env true va n) none 2 s)

/-- A read is served: poison and failing codes are detections, the bytes go to the engine. -/
def serveRead (p strm va n : Nat) (env : Env) (c : Cmd) (s : State) : State :=
  let s := match env.ce with
    | some k => ceCorrect k s
    | none => s
  let s1 := (physRanges s c.bay va n 1).foldl (fun u q => macFailures c.bay q.1 q.2.1 q.2.2 env u) s
  match env.det, poisonVa s1 c.bay va n with
  | some cause, _ => resetIfExhausted p c (detect c.cid cause none 4 va s1)
  | none, some e => resetIfExhausted p c (poisonReader none c.cid e s1)
  | none, none => match readVa s1 c.bay env true va n with
    | none => readFailed c env va n s1
    | some bs => emit (.quoinRdata p strm 0 bs) (askVa c.bay va n (countRange c.bay va n false s1))

/-- A write request is accepted: its data follows. Host and remote ranges take their outbox records now (R122). -/
def acceptWrite (p va n : Nat) (c : Cmd) (s : State) : State :=
  let ob := recordWrites s c.bay (reqDesc va n true) c.outbox
  let more := outboxGrowth c.outbox ob
  if 512 < c.outCount + more then quoinViolation p 0 3 0x21 va c.cid s
  else
    let t := modCmd c.cid (fun x => { x with outbox := ob, outCount := x.outCount + more }) s
    countRange c.bay va n true (modQp p (fun q => { q with writes := q.writes ++ [{ va := va, left := n }] }) t)

/-- A request of an engine: bit 0 tells a write (R557). -/
def quoinReq (p : Nat) (r : BitVec 128) (env : Env) (c : Cmd) (s : State) : State :=
  let w := r.toNat
  let strm := bits w 4 1
  let n := bits w 17 5
  let va := bits w 81 30
  let wr := bit w 0
  if n < 64 ∨ 4096 < n ∨ n % 64 ≠ 0 then breach p (some c.cid) s
  else if (qport s p).frozenStreams.contains (c.bay, strm) then s
  else if wr then
    if inStaging c va n then modQp p (fun q => { q with writes := q.writes ++ [{ va := va, left := n }] }) s
    else match outsideOutputs c (reqDesc va n true) with
      | some a => quoinViolation p strm 3 0x20 a c.cid s
      | none => translated p c (reqDesc va n true) (fun t => acceptWrite p va n c (mergeRows c (reqDesc va n true) env t)) s
  else
    let rs := c.desc.ins ++ c.desc.outs
    match uncovered rs (rs.length + 1) va n with
    | some a => quoinViolation p strm 4 0x30 a c.cid s
    | none => translated p c (reqDesc va n false) (serveRead p strm va n env c) s

/-- QUOIN_REQ (R561). -/
def execQuoinReq (p : Nat) (r : BitVec 128) (env : Env) (s : State) : Host.Outcome State Fault Refusal :=
  onQuoin p (withHeld p (quoinReq p r env)) s

/-- A run of write data lands where the oldest open request points (R120, R121, R128). -/
def landData (c : Cmd) (va : Nat) (d : List Byte) (s : State) : State :=
  if inStaging c va d.length then modCmd c.cid (fun x => { x with direct := mputs (va - c.stageVa) d x.direct }) s
  else writeRow c va d (each (cutLines va d.length) (fun p t =>
    noteLanded c.bay (if inPlace s c p.1 then none else some c.cid) (p.1 / 64) t) s)

/-- Write data of an engine: beyond the bytes asked for it is a breach (R560). -/
def quoinWdata (p : Nat) (d : List Byte) (c : Cmd) (s : State) : State :=
  match (qport s p).writes with
  | [] => breach p (some c.cid) s
  | w :: ws =>
    if w.left < d.length then breach p (some c.cid) s
    else
      let rest := if w.left = d.length then ws else { va := w.va + d.length, left := w.left - d.length } :: ws
      landData c w.va d (modQp p (fun q => { q with writes := rest }) s)

/-- QUOIN_WDATA (R561). -/
def execQuoinWdata (p : Nat) (d : List Byte) (s : State) : Host.Outcome State Fault Refusal := onQuoin p (withHeld p (quoinWdata p d)) s

/-! ## Outbox records (R561) -/

/-- The outbox record of 64 bytes, none where it is malformed. -/
def obxRecord (s : State) (c : Cmd) (d : List Byte) : Option OutRec :=
  let op := fld d 1 1
  let ty := fld d 2 1
  let va := fld d 8 8
  match fld d 0 1 with
  | 1 => if va % 65536 < syncPerBay s then some (.signal (va % 65536) (fld d 0x10 8)) else none
  | 2 => if atomicOk op ty && va % 8 == 0 then some (.atomic op ty va (fld d 0x10 8) (fld d 0x18 8)) else none
  | 3 =>
    let e := reduceBytes ty
    let n := fld d 0x28 4
    let src := fld d 0x20 8
    if op ≤ 2 ∧ ty ≤ 3 ∧ va % e = 0 ∧ 8 ≤ n ∧ n ≤ 2040 ∧ n % e = 0 ∧ inStaging c src n = true then
      some (.reduce op ty va (src - c.stageVa) n)
    else none
  | _ => none

/-- An outbox record: malformed, or beyond the limit of R122, it is an engine violation. -/
def quoinObx (p : Nat) (d : List Byte) (c : Cmd) (s : State) : State :=
  match obxRecord s c d with
  | none => quoinViolation p 0 3 0x21 0 c.cid s
  | some r =>
    if 512 ≤ c.outCount then quoinViolation p 0 3 0x21 0 c.cid s
    else modCmd c.cid (fun x => { x with outbox := x.outbox ++ [r], outCount := x.outCount + 1 }) s

/-- QUOIN_OBX (R561). -/
def execQuoinObx (p : Nat) (d : List Byte) (s : State) : Host.Outcome State Fault Refusal := onQuoin p (withHeld p (quoinObx p d)) s

end Sys2Proof.Machine
end

