-- ==== Sys2Proof/Machine/Regs.lean ====
section
/-! DEFINITION. Accesses to the register windows (R16 to R18, R149, R333, R581 to R588): reads with their side effects, writes under
their access codes, and the sync-object view. -/
namespace Sys2Proof.Machine

/-! ## What a read of one register changes: latches and RC fields -/

/-- The RC fields of the log and counter registers of the manager window are 0 after the read (R17), and a _LO register latches its
high half (R149, R372, R515). -/
def mgrReadEffect (off : Nat) (s : State) : State :=
  match off with
  | 0x000048 => { s with dev := { s.dev with mgrEv := { s.dev.mgrEv with lost := 0 } } }
  | 0x100004 => modMbx 0 (fun m => { m with ignored := 0 }) s
  | 0x300008 => { s with ras := { s.ras with log := { s.ras.log with lost := 0 } } }
  | 0x300080 => { s with ras := { s.ras with transient := 0 } }
  | 0x300084 => { s with ras := { s.ras with recovered := 0, failed := 0 } }
  | 0x301000 => if s.ras.pass.isSome then drewFree s else s
  | 0x306004 => { s with plumb := { s.plumb with declared := 0, device := 0 } }
  | 0x306010 => { s with plumb := { s.plumb with log := { s.plumb.log with lost := 0 } } }
  | 0x400010 => { s with rst := { s.rst with timeLatch := s.rst.time / 2 ^ 32 } }
  | 0x400028 => { s with rst := { s.rst with log := { s.rst.log with lost := 0 } } }
  | 0x408000 => { s with dump := { s.dump with skipped := 0, poisoned := 0 } }
  | 0x600008 => { s with lift := { s.lift with latch := s.lift.num / 2 ^ 32 } }
  | 0x600020 => { s with stat := { s.stat with latePlan := 0, throttleKill := 0, overrun := 0 } }
  | 0x600024 => { s with stat := { s.stat with forcedEvict := 0, swaps := 0 } }
  | 0x600028 => { s with stat := { s.stat with buttress := 0 } }
  | 0x608200 => { s with grid := { s.grid with seqErr := 0, crcErr := 0 } }
  | 0x800008 => { s with sec := { s.sec with epochLatch := s.sec.epoch / 2 ^ 32 } }
  | 0x900100 => { s with mem := { s.mem with faults := 0, denied := 0 } }
  | 0xA00204 => { s with kw := { s.kw with stale := 0, timeout := 0 } }
  | 0xB00100 => { s with arch := { s.arch with mismatch := 0, lost := 0, exhausted := 0, overBound := 0 } }
  | 0xB00104 => { s with arch := { s.arch with retries := 0 } }
  | 0xC00004 => { s with mem := { s.mem with cacheMiss := 0, cacheWb := 0 } }
  | 0xC00104 => { s with mem := { s.mem with slabRebuilt := 0, streamsLost := 0 } }
  | 0xC00400 => { s with mem := { s.mem with moved := 0, abandoned := 0 } }
  | 0xC00404 => { s with mem := { s.mem with conflRaised := 0 } }
  | 0xD00100 => { s with dev := { s.dev with ignoredDb := 0, wastedFetch := 0 } }
  | 0xD00104 => { s with dev := { s.dev with errDiscarded := 0 } }
  | _ => s

/-- The RC fields of the array registers of the manager window. -/
def mgrReadArrays (off : Nat) (s : State) : State :=
  match regIx 0x300020 4 10 off, regIx 0x300060 4 7 off, regIx 0x800100 4 16 off, regIx 0x800300 4 4 off, regIx 0xA00100 4 16 off with
  | some i, _, _, _, _ => { s with ras := { s.ras with det := tdrop (i + 1) s.ras.det } }
  | _, some k, _, _, _ => { s with ras := { s.ras with ceTotal := tdrop k s.ras.ceTotal } }
  | _, _, some p, _, _ => if p < kwPorts s then modKw p (fun x => { x with tagFail := 0 }) s else s
  | _, _, _, some k, _ => modIde k (fun x => { x with fail := 0 }) s
  | _, _, _, _, some p => if p < kwPorts s then modKw p (fun x => { x with retrains := 0, naks := 0 }) s else s
  | _, _, _, _, _ => s

/-- The same of bay `b`'s window (R332). -/
def bayReadEffect (b off : Nat) (s : State) : State :=
  match off with
  | 0x00024 => modMbx (b + 1) (fun m => { m with ignored := 0 }) s
  | 0x8000C => modBay b (fun y => { y with liftLatch := s.lift.num / 2 ^ 32 }) s
  | 0x80020 => modBay b (fun y => { y with throttleKill := 0, overrun := 0 }) s
  | 0x80024 => modBay b (fun y => { y with forcedEvict := 0, swaps := 0 }) s
  | 0x80028 => modBay b (fun y => { y with buttress := 0 }) s
  | 0x80048 => modBay b (fun y => { y with ev := { y.ev with lost := 0 } }) s
  | _ => s

/-! ## Reads -/

/-- One 32-bit read: value and state after. -/
def wordRead (w : WinId) (off : Nat) (s : State) : Nat × State :=
  match w with
  | .manager => (mgrWord s off, mgrReadArrays off (mgrReadEffect off s))
  | .bay b _ => if bayServes s b off then (bayWord s b off, bayReadEffect b off s) else (0, s)

/-- Successive 32-bit reads of `n` words, in ascending order (R581). -/
def wordsRead (w : WinId) : Nat → Nat → State → List Byte × State
  | 0, _, s => ([], s)
  | n + 1, off, s =>
    let r := wordRead w off s
    let t := wordsRead w n (off + 4) r.2
    (natLe 4 r.1 ++ t.1, t.2)

/-- A read of register space (R581): one that is not aligned to its size reads 0 and does nothing; a narrow one has the side effects of
the whole register. -/
def regRead (w : WinId) (off size : Nat) (s : State) : List Byte × State :=
  if size = 0 ∨ off % size ≠ 0 then (List.replicate size 0, s)
  else
    let r := wordsRead w (ceilDiv size 4) (off / 4 * 4) s
    ((r.1.drop (off % 4)).take size, r.2)

/-- Whether an access lies in an area that takes any size, and its bytes. -/
def areaBytes (w : WinId) (off size : Nat) (s : State) : Option (List Byte) :=
  match w with
  | .manager => (mgrArea s off).map fun _ => (List.range size).map fun i => (mgrArea s (off + i)).getD 0
  | .bay b _ =>
    if !bayServes s b off then none
    else (bayArea s b off).map fun _ => (List.range size).map fun i => (bayArea s b (off + i)).getD 0

/-- A read of the sync-object view (R587): 8 bytes give the value; the low 4 latch the high half for the next read of it. -/
def viewRead (off size : Nat) (s : State) : List Byte × State :=
  match syncView s off with
  | none => (List.replicate size 0, s)
  | some o =>
    let v := syncVal s o.1 o.2
    if off % size ≠ 0 then (List.replicate size 0, s)
    else if size = 4 ∧ off % 8 = 0 then (natLe 4 v, modEqi o.1 (fun e => { e with syncLatch := tput o.2 (v / 2 ^ 32) e.syncLatch }) s)
    else if size = 4 then
      (match tget o.2 (bay s o.1).eqi.syncLatch with
       | some h => (natLe 4 h, modEqi o.1 (fun e => { e with syncLatch := tdrop o.2 e.syncLatch }) s)
       | none => (natLe 4 (v / 2 ^ 32), s))
    else ((List.range size).map fun i => match syncView s (off + i) with
      | some p => (natLe 8 (syncVal s p.1 p.2)).getD ((off + i) % 8) 0
      | none => 0, s)

/-- A read of a window. -/
def windowRead (w : WinId) (off size : Nat) (s : State) : State :=
  let r := match w, areaBytes w off size s with
    | _, some bs => (bs, s)
    | .manager, none => if 0x1000000 ≤ off then viewRead off size s else regRead w off size s
    | .bay _ _, none => regRead w off size s
  emit (.reply r.1 false) r.2

/-- An access to the window of a function. -/
def onWin (w : WinId) (f : State → State) (s : State) : State := match w with
  | .manager => onPf f s
  | .bay b t => onBar b t f s

/-- Whether the block has the window. -/
def winOk (s : State) : WinId → Bool
  | .manager => true
  | .bay b _ => decide (b < s.bays.count)

/-- What accesses to the windows reach. -/
def fpRegs : List Grp := [.boxes, .start, .dump] ++ fpBay

/-- RC_READ (R17, R581): a read of any register, or of an area of the window; RC fields return their value and clear. -/
def execRcRead (win : WinId) (off size : Nat) (s : State) : Host.Outcome State Fault Refusal :=
  onUnit (winOk s win) "bay" (run fpRegs (onWin win (windowRead win off size)) s)

/-- Whether `off` holds a register whose 4-byte read latches a high half. -/
def latches : WinId → Nat → Bool
  | .manager, off => [0x400010, 0x600008, 0x800008].contains off || (decide (0x1000000 ≤ off) && off % 8 == 0)
  | .bay _ _, off => off == 0x8000C

/-- LATCHING_LO_READ (R149, R372, R515, R587). -/
def execLatchingLoRead (win : WinId) (off : Nat) (s : State) : Host.Outcome State Fault Refusal :=
  onUnit (winOk s win) "bay" (run fpRegs (onlyIf (fun _ => latches win off) (onWin win (windowRead win off 4))) s)

/-! ## Writes -/

/-- go is written (R283, R288): a request is accepted, or the write is ignored and counted. -/
def mbxGo (x : Nat) (s : State) : State :=
  let m := mbx s x
  if !m.ready || m.busy then modMbx x (fun m => { m with ignored := satAdd 255 m.ignored 1 }) s
  else
    let t := raise (srcGo x) (modMbx x (fun m => { m with busy := true }) s)
    let t := { t with boxes := { t.boxes with order := t.boxes.order ++ [x] } }
    flushBoxes t.boxes.order.length t

/-- MBX_ registers of mailbox `x` (R289, R290). -/
def mbxWrite (x off v : Nat) (s : State) : State :=
  match off with
  | 0 => if bit v 0 then mbxGo x s else s
  | 4 => clearOps x (bits v 19 16) (if bit v 0 then modMbx x (fun m => { m with done := false }) s else s)
  | _ => s

/-- The settings of the interrupt controller change while it is not locked (R533 to R538). -/
def unlocked (f : Irq → Irq) (s : State) : State := if s.irq.lock then s else { s with irq := f s.irq }

/-- IRQ_PRIO_n (R534). -/
def prioWrite (n v : Nat) (s : State) : State :=
  unlocked (fun i => { i with prio := (List.range 4).foldl (fun t k =>
    if srcReserved s (4 * n + k) then t else tput (4 * n + k) (bits v (8 * k + 7) (8 * k)) t) i.prio }) s

/-- IRQ_TGT_s (R520, R535): read-only for bay sources; a reserved dest, or a vector above 7, leaves its field. -/
def tgtWrite (n v : Nat) (s : State) : State :=
  if n % 32 < 5 || srcReserved s n then s
  else unlocked (fun i => { i with
    dest := if bits v 10 8 ≤ 4 then tput n (bits v 10 8) i.dest else i.dest
    vec := if bits v 5 0 ≤ 7 then tput n (bits v 5 0) i.vec else i.vec }) s

/-- IRQ_EN_n (R536). -/
def enWrite (n v : Nat) (s : State) : State :=
  unlocked (fun i => { i with en := (List.range 32).foldl (fun l k =>
    if srcReserved s (32 * n + k) then l else if bit v k then sput (32 * n + k) l else sdrop (32 * n + k) l) i.en }) s

/-- IRQ_EXT_k (R529, R530, R538): a filter of 0 is taken as 1; a change of polarity turns the levels over, and a filtered level that rises
with it is an event. -/
def extWrite (k v : Nat) (s : State) : State :=
  let e := extLine s k
  let flip := bit v 9 != e.polarity
  let s := if !s.irq.lock && flip && !e.filtered then raise (srcExt k) s else s
  unlocked (fun i => { i with ext := tput k { raw := e.raw != flip, filtered := e.filtered != flip, polarity := bit v 9, level := bit v 8
                                              filter := max 1 (bits v 7 0) } i.ext }) s

/-- IRQ_ registers besides those with a row of their own. -/
def irqWrite (off v : Nat) (s : State) : State :=
  if off = 0 then
    let t := unlocked (fun i => { i with bpoint := bits v 2 0 }) s
    if bit v 31 then { t with irq := { t.irq with lock := true } } else t
  else match regIx 0x1000 4 128 off, regIx 0x2000 4 512 off, regIx 0x3000 4 16 off, regIx 0x4000 4 16 off, regIx 0x5000 4 32 off with
    | some n, _, _, _, _ => prioWrite n v s
    | _, some n, _, _, _ => tgtWrite n v s
    | _, _, some n, _, _ => enWrite n v s
    | _, _, _, some g, _ => if g < s.bays.count then { s with irq := { s.irq with hold := tput g (bits v 15 0) s.irq.hold } } else s
    | _, _, _, _, some k => levelPend (extWrite k v s)
    | _, _, _, _, _ => s

/-- XLT_WIN_ registers while no command is in progress (R408); a write of the control register with no command names the entry. -/
def xltWrite (off v : Nat) (s : State) : State :=
  if s.mem.winBusy then s
  else match off with
    | 0x200 => if bits v 25 24 = 0 then { s with mem := { s.mem with winIndex := bits v 11 0 } } else s
    | 0x204 => { s with mem := { s.mem with winAttr := v } }
    | 0x208 => { s with mem := { s.mem with winBase := bits v 26 0 } }
    | 0x20C => { s with mem := { s.mem with winLen := bits v 19 0 } }
    | _ => s

/-- ARCH_ registers (R451). -/
def archWrite (off v : Nat) (s : State) : State :=
  match off with
  | 0x00 => if bits v 25 24 = 0 then { s with arch := { s.arch with index := bits v 7 0 } } else s
  | 0x04 => { s with arch := { s.arch with gid := v } }
  | 0x08 => { s with arch := { s.arch with attr := pack [(13, bits v 31 13), (0, bits v 9 0)] } }
  | 0x0C => { s with arch := { s.arch with tree := pack [(31, bits v 31 31), (0, bits v 11 0)] } }
  | 0x14 => { s with arch := { s.arch with mbrIdx := bits v 9 0 } }
  | _ => s

/-- A vector-control word of an MSI-X table: unmasking sends what is pending (R526). -/
def vecCtl (fn vec v : Nat) (s : State) : State :=
  if bit v 0 then modMsix fn (fun m => { m with unmasked := sdrop vec m.unmasked }) s
  else sendPending fn (modMsix fn (fun m => { m with unmasked := sput vec m.unmasked }) s)

/-- A word of an MSI-X table (R585). -/
def msixWrite (fn o v : Nat) (s : State) : State :=
  if o % 16 = 12 then vecCtl fn (o / 16) v s
  else modMsix fn (fun m => { m with table := mputs o (natLe 4 v) m.table }) s

/-- A 32-bit write of the manager window; registers with a row of their own are left to it. -/
def mgrWrite (off v : Nat) (s : State) : State :=
  let o := off % 2 ^ 20
  match off / 2 ^ 20 with
  | 0x0 =>
    if o = 0x44 then { s with dev := { s.dev with mgrEv := ringCons v s.dev.mgrEv } }
    else if 0xC000 ≤ o ∧ o < 0xC080 then msixWrite 0 (o - 0xC000) v s else s
  | 0x1 => if o < 0x20 then mbxWrite 0 o v s else s
  | 0x2 => irqWrite o v s
  | 0x3 =>
    if o = 0x0004 then { s with ras := { s.ras with log := ringCons v s.ras.log } }
    else if o = 0x6000 then { s with plumb := { s.plumb with quietLifts := max 1 (bits v 15 0) } }
    else if o = 0x600C then { s with plumb := { s.plumb with log := ringCons v s.plumb.log } }
    else s
  | 0x4 => if o = 0x24 then { s with rst := { s.rst with log := ringCons v s.rst.log } } else s
  | 0x7 => match regIx 0x100 4 16 o with
    | some b => if b < s.bays.count ∧ bit v 8 then modBay b (fun y => { y with forced := false }) s else s
    | none => s
  | 0x9 => if o = 8 then { s with mem := { s.mem with apBase := bits v 8 0 } } else xltWrite o v s
  | 0xB => archWrite o v s
  | _ => s

/-- A 32-bit write of bay `b`'s window. -/
def bayWrite (b off v : Nat) (s : State) : State :=
  if !bayServes s b off then s
  else if 0x20 ≤ off ∧ off < 0x40 then mbxWrite (b + 1) (off - 0x20) v s
  else if off = 0x80044 then modBay b (fun y => { y with ev := ringCons v y.ev }) s
  else if 0xC000 ≤ off ∧ off < 0xC400 then msixWrite (b + 1) (off - 0xC000) v s
  else s

/-- One 32-bit write. -/
def wordWrite (w : WinId) (off v : Nat) : State → State := match w with
  | .manager => mgrWrite off v
  | .bay b _ => bayWrite b off v

/-- A byte of a record changed by a write to its ring (R581). -/
def ringPoke (n o : Nat) (v : Byte) (g : Ring) : Ring :=
  { g with recs := tmod (o / n) [] (fun r => (padTo n r).set (o % n) v) g.recs }

/-- A byte of a message area: the request half is not written while a request is in progress (R283). -/
def boxPoke (x o : Nat) (v : Byte) (s : State) : State :=
  if (mbx s x).busy && decide (o < 0x800) then s else modMbx x (fun m => { m with area := mput o v m.area }) s

/-- A byte written into an area of a window. -/
def areaPoke (w : WinId) (off : Nat) (v : Byte) (s : State) : State :=
  match w with
  | .manager =>
    if 0x1000 ≤ off ∧ off < 0x2000 then { s with dev := { s.dev with mgrEv := ringPoke 16 (off - 0x1000) v s.dev.mgrEv } }
    else if 0x101000 ≤ off ∧ off < 0x102000 then boxPoke 0 (off - 0x101000) v s
    else if 0x302000 ≤ off ∧ off < 0x304000 then { s with ras := { s.ras with log := ringPoke 32 (off - 0x302000) v s.ras.log } }
    else if 0x304000 ≤ off ∧ off < 0x306000 then { s with plumb := { s.plumb with log := ringPoke 32 (off - 0x304000) v s.plumb.log } }
    else if 0x401000 ≤ off ∧ off < 0x401800 then { s with rst := { s.rst with log := ringPoke 32 (off - 0x401000) v s.rst.log } }
    else s
  | .bay b _ =>
    if 0x1000 ≤ off ∧ off < 0x2000 then boxPoke (b + 1) (off - 0x1000) v s
    else if 0x81000 ≤ off ∧ off < 0x82000 then modBay b (fun y => { y with ev := ringPoke 16 (off - 0x81000) v y.ev }) s
    else s

/-- A write of a window: any size in the areas; elsewhere only an aligned one of 4 or 8 bytes or a longer one acts, as successive words
(R581). -/
def windowWrite (w : WinId) (off size v : Nat) (s : State) : State :=
  if (areaBytes w off 1 s).isSome then each (List.range size) (fun i => areaPoke w (off + i) (BitVec.ofNat 8 (v / 256 ^ i))) s
  else if size < 4 || off % size != 0 || size % 4 != 0 then s
  else each (List.range (size / 4)) (fun i => wordWrite w (off + 4 * i) (v / 2 ^ (32 * i) % 2 ^ 32)) s

/-- REGISTER_WRITE (R581). -/
def execRegisterWrite (win : WinId) (off size v : Nat) (s : State) : Host.Outcome State Fault Refusal :=
  onUnit (winOk s win) "bay" (run fpRegs (onWin win (windowWrite win off size v)) s)

/-- RING_CONS_WRITE (R333, R478, R514, R515, R588, R592). -/
def execRingConsWrite (r : RingName) (v : BitVec 32) (s : State) : Host.Outcome State Fault Refusal :=
  match r with
  | .mgrEvents => run fpRegs (onPf (mgrWrite 0x44 v.toNat)) s
  | .ras => run fpRegs (onPf (mgrWrite 0x300004 v.toNat)) s
  | .plumb => run fpRegs (onPf (mgrWrite 0x30600C v.toNat)) s
  | .reset => run fpRegs (onPf (mgrWrite 0x400024 v.toNat)) s
  | .bayEvents b t => onUnit (decide (b < s.bays.count)) "bay" (run fpRegs (onBar b t (bayWrite b 0x80044 v.toNat)) s)

/-- SYNC_VIEW_WRITE (R586, R587): only an aligned 8-byte write signals. -/
def execSyncViewWrite (off size v : Nat) (s : State) : Host.Outcome State Fault Refusal :=
  run fpRegs (onPf fun t => match syncView t off with
    | some o => if size = 8 ∧ off % 8 = 0 then signal o.1 o.2 (v % 2 ^ 64) t else t
    | none => t) s

end Sys2Proof.Machine
end

