-- ==== Sys2Proof/Machine/Dispatch.lean ====
section
/-! DEFINITION. The one table from commands to their meanings: one arm per constructor, in the order of
spec/opcode_table.json. -/
namespace Sys2Proof.Machine

def exec (i : Instr) (s : State) : Host.Outcome State Fault Refusal :=
  match i with
  | .add a => Sys2Proof.Machine.execAdd a s
  | .sub a => Sys2Proof.Machine.execSub a s
  | .and a => Sys2Proof.Machine.execAnd a s
  | .or a => Sys2Proof.Machine.execOr a s
  | .xor a => Sys2Proof.Machine.execXor a s
  | .shl a => Sys2Proof.Machine.execShl a s
  | .shr a => Sys2Proof.Machine.execShr a s
  | .sra a => Sys2Proof.Machine.execSra a s
  | .mul a => Sys2Proof.Machine.execMul a s
  | .slt a => Sys2Proof.Machine.execSlt a s
  | .sltu a => Sys2Proof.Machine.execSltu a s
  | .gets a => Sys2Proof.Machine.execGets a s
  | .beq a => Sys2Proof.Machine.execBeq a s
  | .bne a => Sys2Proof.Machine.execBne a s
  | .blt a => Sys2Proof.Machine.execBlt a s
  | .bge a => Sys2Proof.Machine.execBge a s
  | .bltu a => Sys2Proof.Machine.execBltu a s
  | .jal a => Sys2Proof.Machine.execJal a s
  | .jr a => Sys2Proof.Machine.execJr a s
  | .ld8 a det => Sys2Proof.Machine.execLd8 a s det
  | .ld16 a det => Sys2Proof.Machine.execLd16 a s det
  | .ld32 a det => Sys2Proof.Machine.execLd32 a s det
  | .ld64 a det => Sys2Proof.Machine.execLd64 a s det
  | .st8 a => Sys2Proof.Machine.execSt8 a s
  | .st16 a => Sys2Proof.Machine.execSt16 a s
  | .st32 a => Sys2Proof.Machine.execSt32 a s
  | .st64 a => Sys2Proof.Machine.execSt64 a s
  | .mldw a => Sys2Proof.Machine.execMldw a s
  | .mma a => Sys2Proof.Machine.execMma a s
  | .mzero a => Sys2Proof.Machine.execMzero a s
  | .vld a => Sys2Proof.Machine.execVld a s
  | .vst a => Sys2Proof.Machine.execVst a s
  | .vlda a => Sys2Proof.Machine.execVlda a s
  | .vsta a => Sys2Proof.Machine.execVsta a s
  | .vbcast a => Sys2Proof.Machine.execVbcast a s
  | .vadd a => Sys2Proof.Machine.execVadd a s
  | .vsub a => Sys2Proof.Machine.execVsub a s
  | .vmul a => Sys2Proof.Machine.execVmul a s
  | .vfma a => Sys2Proof.Machine.execVfma a s
  | .vmax a => Sys2Proof.Machine.execVmax a s
  | .vmin a => Sys2Proof.Machine.execVmin a s
  | .vexp2 a => Sys2Proof.Machine.execVexp2 a s
  | .vrcp a => Sys2Proof.Machine.execVrcp a s
  | .vrsq a => Sys2Proof.Machine.execVrsq a s
  | .vcvt a => Sys2Proof.Machine.execVcvt a s
  | .vredsum a => Sys2Proof.Machine.execVredsum a s
  | .vredmax a => Sys2Proof.Machine.execVredmax a s
  | .dma a det => Sys2Proof.Machine.execDma a s det
  | .dwait a => Sys2Proof.Machine.execDwait a s
  | .dpoll a => Sys2Proof.Machine.execDpoll a s
  | .jcfg a => Sys2Proof.Machine.execJcfg a s
  | .grant a => Sys2Proof.Machine.execGrant a s
  | .send a det => Sys2Proof.Machine.execSend a s det
  | .tsend a det => Sys2Proof.Machine.execTsend a s det
  | .waitj a => Sys2Proof.Machine.execWaitj a s
  | .pop a => Sys2Proof.Machine.execPop a s
  | .jpoll a => Sys2Proof.Machine.execJpoll a s
  | .fence a => Sys2Proof.Machine.execFence a s
  | .signal a => Sys2Proof.Machine.execSignal a s
  | .enq a det => Sys2Proof.Machine.execEnq a s det
  | .halt a => Sys2Proof.Machine.execHalt a s
  | .trap a => Sys2Proof.Machine.execTrap a s
  | .nop a => Sys2Proof.Machine.execNop a s
  | .unitOpComplete a u det => Sys2Proof.Machine.execUnitOpComplete a u det s
  | .dmaReadComplete a tag env => Sys2Proof.Machine.execDmaReadComplete a tag env s
  | .dmaWriteComplete a tag env => Sys2Proof.Machine.execDmaWriteComplete a tag env s
  | .msg n rx => Sys2Proof.Machine.execMsg n rx s
  | .credit n rx => Sys2Proof.Machine.execCredit n rx s
  | .dmaCpl n rx => Sys2Proof.Machine.execDmaCpl n rx s
  | .archData cid a toPanel rx err => Sys2Proof.Machine.execArchData cid a toPanel rx s err
  | .archCtl a cid rx => Sys2Proof.Machine.execArchCtl a cid rx s
  | .start n => Sys2Proof.Machine.execStart n s
  | .kill n => Sys2Proof.Machine.execKill n s
  | .outbox n => Sys2Proof.Machine.execOutbox n s
  | .halted n => Sys2Proof.Machine.execHalted n s
  | .ctlAck n => Sys2Proof.Machine.execCtlAck n s
  | .ctlResendTimeout n => Sys2Proof.Machine.execCtlResendTimeout n s
  | .panelDrained cid => Sys2Proof.Machine.execPanelDrained cid s
  | .imageLoadComplete cid env => Sys2Proof.Machine.execImageLoadComplete cid env s
  | .liftBoundary => Sys2Proof.Machine.execLiftBoundary s
  | .openingWindowEnd => Sys2Proof.Machine.execOpeningWindowEnd s
  | .closingWindowOpen => Sys2Proof.Machine.execClosingWindowOpen s
  | .planSeal => Sys2Proof.Machine.execPlanSeal s
  | .planSealDeadline => Sys2Proof.Machine.execPlanSealDeadline s
  | .commandStart cid => Sys2Proof.Machine.execCommandStart cid s
  | .commitPoint cid env => Sys2Proof.Machine.execCommitPoint cid env s
  | .postCommitCopyDone cid => Sys2Proof.Machine.execPostCommitCopyDone cid s
  | .journalReplayDone b ctx env => Sys2Proof.Machine.execJournalReplayDone b ctx s env
  | .contextSwitchDone b ctx env => Sys2Proof.Machine.execContextSwitchDone b ctx s env
  | .quoinStopTimeout p => Sys2Proof.Machine.execQuoinStopTimeout p s
  | .appendCopyDone b strm bad => Sys2Proof.Machine.execAppendCopyDone b strm bad s
  | .walkPieceDeliver cid q cause => Sys2Proof.Machine.execWalkPieceDeliver cid q cause s
  | .slabMoveDone b slab intact => Sys2Proof.Machine.execSlabMoveDone b slab intact s
  | .streamLost b strm => Sys2Proof.Machine.execStreamLost b strm s
  | .epochBoundary => Sys2Proof.Machine.execEpochBoundary s
  | .moveCopyDone b ext dirty err => Sys2Proof.Machine.execMoveCopyDone b ext dirty err s
  | .moveSwitch b ext => Sys2Proof.Machine.execMoveSwitch b ext s
  | .sqWpWrite b q off size v t => Sys2Proof.Machine.execSqWpWrite b q off size v s t
  | .cqHeadWrite b q off size v t => Sys2Proof.Machine.execCqHeadWrite b q off size v s t
  | .frontBind b => Sys2Proof.Machine.execFrontBind b s
  | .frontFetch f env => Sys2Proof.Machine.execFrontFetch f env s
  | .launch cid => Sys2Proof.Machine.execLaunch cid s
  | .quoinLaunch cid => Sys2Proof.Machine.execQuoinLaunch cid s
  | .collective cid => Sys2Proof.Machine.execCollective cid s
  | .graphLaunch cid env => Sys2Proof.Machine.execGraphLaunch cid env s
  | .streamStep cid => Sys2Proof.Machine.execStreamStep cid s
  | .streamFill cid => Sys2Proof.Machine.execStreamFill cid s
  | .graphCreate cid => Sys2Proof.Machine.execGraphCreate cid s
  | .graphDestroy cid => Sys2Proof.Machine.execGraphDestroy cid s
  | .patch cid => Sys2Proof.Machine.execPatch cid s
  | .contextCreate cid => Sys2Proof.Machine.execContextCreate cid s
  | .contextDestroy cid => Sys2Proof.Machine.execContextDestroy cid s
  | .abort cid => Sys2Proof.Machine.execAbort cid s
  | .event cid => Sys2Proof.Machine.execEvent cid s
  | .eventRead cid hostErr => Sys2Proof.Machine.execEventRead cid hostErr s
  | .map cid => Sys2Proof.Machine.execMap cid s
  | .unmap cid => Sys2Proof.Machine.execUnmap cid s
  | .invalidate cid => Sys2Proof.Machine.execInvalidate cid s
  | .setPriority cid => Sys2Proof.Machine.execSetPriority cid s
  | .streamAdminOpen cid => Sys2Proof.Machine.execStreamAdminOpen cid s
  | .streamAdminClose cid => Sys2Proof.Machine.execStreamAdminClose cid s
  | .streamAdminHold cid => Sys2Proof.Machine.execStreamAdminHold cid s
  | .streamAdminRelease cid => Sys2Proof.Machine.execStreamAdminRelease cid s
  | .streamAdminSetDeadline cid => Sys2Proof.Machine.execStreamAdminSetDeadline cid s
  | .streamAdminSetQuota cid => Sys2Proof.Machine.execStreamAdminSetQuota cid s
  | .streamAdminSetButtress cid => Sys2Proof.Machine.execStreamAdminSetButtress cid s
  | .streamAdminRead cid => Sys2Proof.Machine.execStreamAdminRead cid s
  | .streamAdminPool cid => Sys2Proof.Machine.execStreamAdminPool cid s
  | .streamAdminSpillAdd cid => Sys2Proof.Machine.execStreamAdminSpillAdd cid s
  | .streamAdminSpillRemove cid => Sys2Proof.Machine.execStreamAdminSpillRemove cid s
  | .modelLoad cid env => Sys2Proof.Machine.execModelLoad cid env s
  | .modelUnload cid => Sys2Proof.Machine.execModelUnload cid s
  | .queueCreate cid denied => Sys2Proof.Machine.execQueueCreate cid s denied
  | .queueDestroy cid => Sys2Proof.Machine.execQueueDestroy cid s
  | .eqiNegWrite b v t => Sys2Proof.Machine.execEqiNegWrite b v s t
  | .abiQuery box => Sys2Proof.Machine.execAbiQuery box s
  | .attach box denied => Sys2Proof.Machine.execAttach box s denied
  | .errorRingSet box => Sys2Proof.Machine.execErrorRingSet box s
  | .keyImport box env => Sys2Proof.Machine.execKeyImport box env s
  | .keyDiscard box => Sys2Proof.Machine.execKeyDiscard box s
  | .bondPin box => Sys2Proof.Machine.execBondPin box s
  | .bondUnpin box => Sys2Proof.Machine.execBondUnpin box s
  | .bondPanelSet box => Sys2Proof.Machine.execBondPanelSet box s
  | .bondPanelClear box => Sys2Proof.Machine.execBondPanelClear box s
  | .bondHint box => Sys2Proof.Machine.execBondHint box s
  | .bondQuery box => Sys2Proof.Machine.execBondQuery box s
  | .bondWindowAdd box => Sys2Proof.Machine.execBondWindowAdd box s
  | .bondWindowRemove box => Sys2Proof.Machine.execBondWindowRemove box s
  | .bayCreate box => Sys2Proof.Machine.execBayCreate box s
  | .bayQuiesce box => Sys2Proof.Machine.execBayQuiesce box s
  | .bayQuiesced b => Sys2Proof.Machine.execBayQuiesced b s
  | .bayReset box => Sys2Proof.Machine.execBayReset box s
  | .bayRemove box => Sys2Proof.Machine.execBayRemove box s
  | .bayRelease box => Sys2Proof.Machine.execBayRelease box s
  | .bayResetWorkDone b => Sys2Proof.Machine.execBayResetWorkDone b s
  | .liftPeriodSet box => Sys2Proof.Machine.execLiftPeriodSet box s
  | .clockFloorSet box => Sys2Proof.Machine.execClockFloorSet box s
  | .powerCapSet box => Sys2Proof.Machine.execPowerCapSet box s
  | .scrubRange box => Sys2Proof.Machine.execScrubRange box s
  | .scrubRateSet box => Sys2Proof.Machine.execScrubRateSet box s
  | .resetCompute box => Sys2Proof.Machine.execResetCompute box s
  | .resetFull box => Sys2Proof.Machine.execResetFull box s
  | .repoint box => Sys2Proof.Machine.execRepoint box s
  | .returnToService box => Sys2Proof.Machine.execReturnToService box s
  | .dumpInfo box => Sys2Proof.Machine.execDumpInfo box s
  | .dumpRead box => Sys2Proof.Machine.execDumpRead box s
  | .dumpClear box => Sys2Proof.Machine.execDumpClear box s
  | .fwStage box img => Sys2Proof.Machine.execFwStage box img s
  | .fwActivate box => Sys2Proof.Machine.execFwActivate box s
  | .cfgRead box => Sys2Proof.Machine.execCfgRead box s
  | .cfgWrite box => Sys2Proof.Machine.execCfgWrite box s
  | .cfgDiscard box => Sys2Proof.Machine.execCfgDiscard box s
  | .store box => Sys2Proof.Machine.execStore box s
  | .operationSlotEnd box slot bad => Sys2Proof.Machine.execOperationSlotEnd box slot s bad
  | .opDoneClear box mask => Sys2Proof.Machine.execOpDoneClear box mask s
  | .numvfsWrite v => Sys2Proof.Machine.execNumvfsWrite v s
  | .vfEnableClear => Sys2Proof.Machine.execVfEnableClear s
  | .flr b => Sys2Proof.Machine.execFlr b s
  | .hostConfigWrite fn w => Sys2Proof.Machine.execHostConfigWrite fn w s
  | .ringConsWrite r v => Sys2Proof.Machine.execRingConsWrite r v s
  | .generate => Sys2Proof.Machine.execGenerate s
  | .readPublic => Sys2Proof.Machine.execReadPublic s
  | .writeChain d => Sys2Proof.Machine.execWriteChain d s
  | .lock => Sys2Proof.Machine.execLock s
  | .kpStatus => Sys2Proof.Machine.execKpStatus s
  | .getDigests sess => Sys2Proof.Machine.execGetDigests sess s
  | .getMeasurements sess idx signed nonce => Sys2Proof.Machine.execGetMeasurements sess idx signed nonce s
  | .keyExchange req => Sys2Proof.Machine.execKeyExchange req s
  | .finish sess ok => Sys2Proof.Machine.execFinish sess ok s
  | .respondIfReady b => Sys2Proof.Machine.execRespondIfReady b s
  | .unsupportedSpdmRequest code => Sys2Proof.Machine.execUnsupportedSpdmRequest code s
  | .spdmSessionTimeout sess => Sys2Proof.Machine.execSpdmSessionTimeout sess s
  | .query sess => Sys2Proof.Machine.execQuery sess s
  | .keyProg sess strm id keySet key sub tx pcrc => Sys2Proof.Machine.execKeyProg sess strm id keySet key s sub tx pcrc
  | .kSetGo sess strm keySet sub tx => Sys2Proof.Machine.execKSetGo sess strm keySet s sub tx
  | .kSetStop sess strm => Sys2Proof.Machine.execKSetStop sess strm s
  | .ideIntegrityFail strm => Sys2Proof.Machine.execIdeIntegrityFail strm s
  | .getTdispVersion sess b => Sys2Proof.Machine.execGetTdispVersion sess b s
  | .getTdispCapabilities sess b => Sys2Proof.Machine.execGetTdispCapabilities sess b s
  | .lockInterfaceRequest sess b strm => Sys2Proof.Machine.execLockInterfaceRequest sess b strm s
  | .getDeviceInterfaceReport sess b => Sys2Proof.Machine.execGetDeviceInterfaceReport sess b s
  | .getDeviceInterfaceState sess b => Sys2Proof.Machine.execGetDeviceInterfaceState sess b s
  | .startInterfaceRequest sess b => Sys2Proof.Machine.execStartInterfaceRequest sess b s
  | .stopInterfaceRequest sess b => Sys2Proof.Machine.execStopInterfaceRequest sess b s
  | .linkRekeyTrigger p => Sys2Proof.Machine.execLinkRekeyTrigger p s
  | .linkCounterLimit p => Sys2Proof.Machine.execLinkCounterLimit p s
  | .keyxRetryTimeout p => Sys2Proof.Machine.execKeyxRetryTimeout p s
  | .repointOverwrite => Sys2Proof.Machine.execRepointOverwrite s
  | .repointVerify bad => Sys2Proof.Machine.execRepointVerify bad s
  | .repointAttest => Sys2Proof.Machine.execRepointAttest s
  | .repointHold late => Sys2Proof.Machine.execRepointHold late s
  | .repointComplete => Sys2Proof.Machine.execRepointComplete s
  | .quoinScrubTimeout p => Sys2Proof.Machine.execQuoinScrubTimeout p s
  | .atsTranslationCompletion b page perm xl => Sys2Proof.Machine.execAtsTranslationCompletion b page perm s xl
  | .pageRequestGroupResponse b idx r perm xl => Sys2Proof.Machine.execPageRequestGroupResponse b idx r perm s xl
  | .atsInvalidateRequest b page pages => Sys2Proof.Machine.execAtsInvalidateRequest b page pages s
  | .hostRequestError cid iova => Sys2Proof.Machine.execHostRequestError cid iova s
  | .xltFltCtlRefuse b v t => Sys2Proof.Machine.execXltFltCtlRefuse b v s t
  | .bar2Read fn off len env t => Sys2Proof.Machine.execBar2Read fn off len env s t
  | .bar2Write fn off d env t => Sys2Proof.Machine.execBar2Write fn off d env s t
  | .xltWinRead v => Sys2Proof.Machine.execXltWinRead v s
  | .xltWinEnable v => Sys2Proof.Machine.execXltWinEnable v s
  | .xltWinDisable v => Sys2Proof.Machine.execXltWinDisable v s
  | .winEnableMovesDone => Sys2Proof.Machine.execWinEnableMovesDone s
  | .winDisableDrained => Sys2Proof.Machine.execWinDisableDrained s
  | .idle p fr => Sys2Proof.Machine.execIdle p fr s
  | .kwCredit p fr => Sys2Proof.Machine.execKwCredit p fr s
  | .nak p fr => Sys2Proof.Machine.execNak p fr s
  | .train p fr => Sys2Proof.Machine.execTrain p fr s
  | .keyx p fr ok => Sys2Proof.Machine.execKeyx p fr ok s
  | .read p fr env => Sys2Proof.Machine.execRead p fr env s
  | .write p fr env => Sys2Proof.Machine.execWrite p fr env s
  | .atomic p fr env => Sys2Proof.Machine.execAtomic p fr env s
  | .reduce p fr env => Sys2Proof.Machine.execReduce p fr env s
  | .readData p fr => Sys2Proof.Machine.execReadData p fr s
  | .status p fr => Sys2Proof.Machine.execStatus p fr s
  | .colHs p fr => Sys2Proof.Machine.execColHs p fr s
  | .colData p fr err => Sys2Proof.Machine.execColData p fr err s
  | .colAck p fr => Sys2Proof.Machine.execColAck p fr s
  | .colNak p fr => Sys2Proof.Machine.execColNak p fr s
  | .colAbandon p fr => Sys2Proof.Machine.execColAbandon p fr s
  | .colProbe p fr => Sys2Proof.Machine.execColProbe p fr s
  | .colIsr p fr => Sys2Proof.Machine.execColIsr p fr s
  | .requestTimeout tag => Sys2Proof.Machine.execRequestTimeout tag s
  | .chunkResendTimeout cid dst chunk => Sys2Proof.Machine.execChunkResendTimeout cid dst chunk s
  | .colProbeTimer cid peer unavailable => Sys2Proof.Machine.execColProbeTimer cid peer unavailable s
  | .linkTrained p ep dom peerRev ok => Sys2Proof.Machine.execLinkTrained p ep dom peerRev ok s
  | .laneLockLoss p lane => Sys2Proof.Machine.execLaneLockLoss p lane s
  | .trainingRetryTimer p => Sys2Proof.Machine.execTrainingRetryTimer p s
  | .replayBufferDiscard p => Sys2Proof.Machine.execReplayBufferDiscard p s
  | .archGrpRead v => Sys2Proof.Machine.execArchGrpRead v s
  | .archGrpCreate v => Sys2Proof.Machine.execArchGrpCreate v s
  | .archGrpDestroy v => Sys2Proof.Machine.execArchGrpDestroy v s
  | .archMbrWrite v => Sys2Proof.Machine.execArchMbrWrite v s
  | .weightRefetchDone b model seg env => Sys2Proof.Machine.execWeightRefetchDone b model seg env s
  | .bucketLeakTick k => Sys2Proof.Machine.execBucketLeakTick k s
  | .uncorrectableError k fullDomain word hit => Sys2Proof.Machine.execUncorrectableError k fullDomain word hit s
  | .scrubPassEnd bad us => Sys2Proof.Machine.execScrubPassEnd bad us s
  | .lapOverdue k => Sys2Proof.Machine.execLapOverdue k s
  | .engineReset e => Sys2Proof.Machine.execEngineReset e s
  | .engineResetBoundMiss e => Sys2Proof.Machine.execEngineResetBoundMiss e s
  | .computeResetBegin unreadable => Sys2Proof.Machine.execComputeResetBegin unreadable s
  | .shoringLift failed => Sys2Proof.Machine.execShoringLift failed s
  | .fullResetBegin => Sys2Proof.Machine.execFullResetBegin s
  | .fullResetServing digestOk => Sys2Proof.Machine.execFullResetServing s digestOk
  | .watchdogExpire => Sys2Proof.Machine.execWatchdogExpire s
  | .resetComputeBoundMiss => Sys2Proof.Machine.execResetComputeBoundMiss s
  | .rstCtlFull v => Sys2Proof.Machine.execRstCtlFull v s
  | .rstCtlCompute v => Sys2Proof.Machine.execRstCtlCompute v s
  | .interruptTake core => Sys2Proof.Machine.execInterruptTake core s
  | .handlerEnd core => Sys2Proof.Machine.execHandlerEnd core s
  | .relayDeliver => Sys2Proof.Machine.execRelayDeliver s
  | .holdoffExpire g => Sys2Proof.Machine.execHoldoffExpire g s
  | .msixUnmask fn vec => Sys2Proof.Machine.execMsixUnmask fn vec s
  | .extLineChange k raw => Sys2Proof.Machine.execExtLineChange k raw s
  | .irqPendClear n v => Sys2Proof.Machine.execIrqPendClear n v s
  | .irqSet n v => Sys2Proof.Machine.execIrqSet n v s
  | .irqLock => Sys2Proof.Machine.execIrqLock s
  | .syncViewWrite off size v => Sys2Proof.Machine.execSyncViewWrite off size v s
  | .latchingLoRead win off => Sys2Proof.Machine.execLatchingLoRead win off s
  | .rcRead win off size => Sys2Proof.Machine.execRcRead win off size s
  | .registerWrite win off size v => Sys2Proof.Machine.execRegisterWrite win off size v s
  | .perstAssert => Sys2Proof.Machine.execPerstAssert s
  | .perstDeassert => Sys2Proof.Machine.execPerstDeassert s
  | .clkAshAck => Sys2Proof.Machine.execClkAshAck s
  | .avsVoltageInRange => Sys2Proof.Machine.execAvsVoltageInRange s
  | .pmbusPoll r => Sys2Proof.Machine.execPmbusPoll r s
  | .pmAlert status pinMax vinMin => Sys2Proof.Machine.execPmAlert status pinMax vinMin s
  | .stackTempRead temps => Sys2Proof.Machine.execStackTempRead temps s
  | .emergencyThrottle c => Sys2Proof.Machine.execEmergencyThrottle c s
  | .throttleRelease => Sys2Proof.Machine.execThrottleRelease s
  | .thermalTrip sensor degC => Sys2Proof.Machine.execThermalTrip sensor degC s
  | .quoinReady p rise => Sys2Proof.Machine.execQuoinReady p rise s
  | .quoinRegWord p w => Sys2Proof.Machine.execQuoinRegWord p w s
  | .quoinDone p w => Sys2Proof.Machine.execQuoinDone p w s
  | .quoinStopped p stat => Sys2Proof.Machine.execQuoinStopped p stat s
  | .quoinReq p r env => Sys2Proof.Machine.execQuoinReq p r env s
  | .quoinWdata p d => Sys2Proof.Machine.execQuoinWdata p d s
  | .quoinObx p d => Sys2Proof.Machine.execQuoinObx p d s
  | .quoinScrubAck p => Sys2Proof.Machine.execQuoinScrubAck p s
  | .powerOnResetRelease => Sys2Proof.Machine.execPowerOnResetRelease s
  | .warmReset => Sys2Proof.Machine.execWarmReset s
  | .hbmTrainingDone ok health => Sys2Proof.Machine.execHbmTrainingDone ok health s
  | .memoryFillDone ms romOk => Sys2Proof.Machine.execMemoryFillDone ms romOk s
  | .firmwareInitDone pinMax vinMin rails => Sys2Proof.Machine.execFirmwareInitDone pinMax vinMin rails s
  | .eqiReady => Sys2Proof.Machine.execEqiReady s
  | .getCertificate slot off len => Sys2Proof.Machine.execGetCertificate slot off len s
  | .challenge slot nonce => Sys2Proof.Machine.execChallenge slot nonce s
  | .heartbeat sess => Sys2Proof.Machine.execHeartbeat sess s
  | .keyUpdate sess => Sys2Proof.Machine.execKeyUpdate sess s
  | .endSession sess => Sys2Proof.Machine.execEndSession sess s
  | .getVersion => Sys2Proof.Machine.execGetVersion s
  | .getCapabilities => Sys2Proof.Machine.execGetCapabilities s
  | .negotiateAlgorithms offer => Sys2Proof.Machine.execNegotiateAlgorithms offer s
  | .engineResetEnd e => Sys2Proof.Machine.execEngineResetEnd e s
  | .hbmPhyUpdateRequest p => Sys2Proof.Machine.execHbmPhyUpdateRequest p s
  | .powerOnResetAssert => Sys2Proof.Machine.execPowerOnResetAssert s
  | .scrubLapEnd k ms bad => Sys2Proof.Machine.execScrubLapEnd k ms s bad

end Sys2Proof.Machine
end

