-- ==== Sys2Proof/Machine/Idle.lean ====
section
/-! DEFINITION. What a step does when no command waits: one microsecond passes (log entry 13). -/
namespace Sys2Proof.Machine

/-- One microsecond: RST_TIME advances (R515) and the hold-off timers of the interrupt controller count down (R524). -/
def microsecond (s : State) : State :=
  { s with
    rst := { s.rst with time := (s.rst.time + 1) % 2 ^ 64 }
    irq := { s.irq with timer := tmap (fun _ n => n - 1) s.irq.timer } }

/-- The step on an empty queue. -/
def idleStep (s : State) : Host.Outcome State Fault Refusal := run [.rst, .irq] microsecond s

end Sys2Proof.Machine
end

