-- ==== Sys2Proof/Safety.lean ====
section
/-! DEFINITION. What counts as a safe run, and the words statements about single commands are made of. -/
namespace Sys2Proof
open Machine

/-- A step that goes on. -/
def goesOn (s : State) : Prop := ∃ t, step s = .next t

/-- `k` steps from `s` all go on. -/
def runsFor : Nat → State → Prop
  | 0, _ => True
  | k + 1, s => ∃ t, step s = .next t ∧ runsFor k t

/-- The command answers a next state, of which `P` holds. -/
def Answers (i : Instr) (s : State) (P : State → Prop) : Prop := ∃ t, exec i s = .next t ∧ P t

/-- `t` is as `s` in every group outside `fp`, in the hardened figures and in the queue. -/
def ChangesOnly (fp : List Grp) (s t : State) : Prop := keep fp s t = t

/-- `t` differs from `s` in ashlar `a` alone. -/
def OnlyAsh (a : Nat) (s t : State) : Prop :=
  t = { s with grid := { s.grid with ashlars := t.grid.ashlars } } ∧ ∀ b, b ≠ a → ash t b = ash s b

/-- Ashlar `a` exists, runs, and has the legal word `w` of the instruction `code` at its program counter; the block has power and no
thermal trip has stopped the clock. -/
def issues (s : State) (a : Nat) (w : W64) (code : Nat) : Bool :=
  decide (a < ashlars s) && s.start.powered && !s.pwr.trip && (ash s a).run == .running && fetchWord (ash s a) == some w && legal w &&
    codeOf w == code

end Sys2Proof
end

