-- ==== Sys2Proof/WellFormed.lean ====
section
/-! DEFINITION. Which commands are well formed: their operands lie in the ranges of the fields that carry them, in configuration F (a
unit configuration H does not have faults when the command is executed). No meaning rests on it. -/
namespace Sys2Proof

/-- A number below the size of its field. -/
def below (n x : Nat) : Bool := decide (x < n)
/-- A string of at most, or of exactly, `n` elements. -/
def upTo {α : Type} (n : Nat) (l : List α) : Bool := decide (l.length ≤ n)
def exactly {α : Type} (n : Nat) (l : List α) : Bool := l.length == n
/-- The access sizes of a register window (R581). -/
def sizeOk (n : Nat) : Bool := n == 1 || n == 2 || n == 4 || n == 8
/-- Addresses rise, each listed once. -/
def rising : List Nat → Bool
  | a :: b :: t => decide (a < b) && rising (b :: t)
  | _ => true
/-- What the surroundings answer is listed in order, and a detection has a cause of R455. -/
def envOk (e : Env) : Bool :=
  rising (e.host.map Prod.fst) && rising (e.remote.map Prod.fst) && rising (e.bad.map Prod.fst) &&
    (match e.det with
     | some c => decide (1 ≤ c ∧ c ≤ 10)
     | none => true) &&
    (match e.ce with
     | some k => below 7 k
     | none => true)
/-- The fields of a frame's header hold their values (R414). -/
def frameOk (f : Frame) : Bool :=
  below 4 f.vc && below 32 f.kind && below 4096 f.dst && below 4096 f.src && below 8192 f.tag && below 16 f.mark &&
    below 65536 f.seq && below (2 ^ 52) f.addr && upTo 2048 f.data
/-- A mortar message as received carries at most 4,096 bytes (R48). -/
def rxOk : Option Rx → Bool
  | some r => upTo 4096 r.payload
  | none => true
/-- A register window of a bay that can exist (R8). -/
def winFormed : WinId → Bool
  | .manager => true
  | .bay b _ => below 16 b
/-- A ring of a bay that can exist. -/
def ringOk : RingName → Bool
  | .bayEvents b _ => below 16 b
  | _ => true
/-- An engine that can exist. -/
def engineWf : Engine → Bool
  | .quoin p => below 4 p
  | _ => true

/-- Whether a command is well formed. -/
def Instr.wellFormed : Instr → Bool
  | .add a => below 1024 a
  | .sub a => below 1024 a
  | .and a => below 1024 a
  | .or a => below 1024 a
  | .xor a => below 1024 a
  | .shl a => below 1024 a
  | .shr a => below 1024 a
  | .sra a => below 1024 a
  | .mul a => below 1024 a
  | .slt a => below 1024 a
  | .sltu a => below 1024 a
  | .gets a => below 1024 a
  | .beq a => below 1024 a
  | .bne a => below 1024 a
  | .blt a => below 1024 a
  | .bge a => below 1024 a
  | .bltu a => below 1024 a
  | .jal a => below 1024 a
  | .jr a => below 1024 a
  | .ld8 a _ => below 1024 a
  | .ld16 a _ => below 1024 a
  | .ld32 a _ => below 1024 a
  | .ld64 a _ => below 1024 a
  | .st8 a => below 1024 a
  | .st16 a => below 1024 a
  | .st32 a => below 1024 a
  | .st64 a => below 1024 a
  | .mldw a => below 1024 a
  | .mma a => below 1024 a
  | .mzero a => below 1024 a
  | .vld a => below 1024 a
  | .vst a => below 1024 a
  | .vlda a => below 1024 a
  | .vsta a => below 1024 a
  | .vbcast a => below 1024 a
  | .vadd a => below 1024 a
  | .vsub a => below 1024 a
  | .vmul a => below 1024 a
  | .vfma a => below 1024 a
  | .vmax a => below 1024 a
  | .vmin a => below 1024 a
  | .vexp2 a => below 1024 a
  | .vrcp a => below 1024 a
  | .vrsq a => below 1024 a
  | .vcvt a => below 1024 a
  | .vredsum a => below 1024 a
  | .vredmax a => below 1024 a
  | .dma a _ => below 1024 a
  | .dwait a => below 1024 a
  | .dpoll a => below 1024 a
  | .jcfg a => below 1024 a
  | .grant a => below 1024 a
  | .send a _ => below 1024 a
  | .tsend a _ => below 1024 a
  | .waitj a => below 1024 a
  | .pop a => below 1024 a
  | .jpoll a => below 1024 a
  | .fence a => below 1024 a
  | .signal a => below 1024 a
  | .enq a _ => below 1024 a
  | .halt a => below 1024 a
  | .trap a => below 1024 a
  | .nop a => below 1024 a
  | .unitOpComplete a _ _ => below 1024 a
  | .dmaReadComplete a tag env => below 1024 a && below 16 tag && envOk env
  | .dmaWriteComplete a tag env => below 1024 a && below 16 tag && envOk env
  | .msg _ rx => rxOk rx
  | .credit _ rx => rxOk rx
  | .dmaCpl _ rx => rxOk rx
  | .archData _ a _ rx _ => below 1024 a && rxOk rx
  | .archCtl a _ rx => below 1024 a && rxOk rx
  | .start _ => true
  | .kill _ => true
  | .outbox _ => true
  | .halted _ => true
  | .ctlAck _ => true
  | .ctlResendTimeout _ => true
  | .panelDrained _ => true
  | .imageLoadComplete _ env => envOk env
  | .liftBoundary => true
  | .openingWindowEnd => true
  | .closingWindowOpen => true
  | .planSeal => true
  | .planSealDeadline => true
  | .commandStart _ => true
  | .commitPoint _ env => envOk env
  | .postCommitCopyDone _ => true
  | .journalReplayDone b _ env => below 16 b && envOk env
  | .contextSwitchDone b _ env => below 16 b && envOk env
  | .quoinStopTimeout p => below 4 p
  | .appendCopyDone b _ _ => below 16 b
  | .walkPieceDeliver _ _ _ => true
  | .slabMoveDone b _ _ => below 16 b
  | .streamLost b _ => below 16 b
  | .epochBoundary => true
  | .moveCopyDone b _ _ _ => below 16 b
  | .moveSwitch b _ => below 16 b
  | .sqWpWrite b q _ size _ _ => below 16 b && below 1024 q && sizeOk size
  | .cqHeadWrite b q _ size _ _ => below 16 b && below 1024 q && sizeOk size
  | .frontBind b => below 16 b
  | .frontFetch f env => below 64 f && envOk env
  | .launch _ => true
  | .quoinLaunch _ => true
  | .collective _ => true
  | .graphLaunch _ env => envOk env
  | .streamStep _ => true
  | .streamFill _ => true
  | .graphCreate _ => true
  | .graphDestroy _ => true
  | .patch _ => true
  | .contextCreate _ => true
  | .contextDestroy _ => true
  | .abort _ => true
  | .event _ => true
  | .eventRead _ _ => true
  | .map _ => true
  | .unmap _ => true
  | .invalidate _ => true
  | .setPriority _ => true
  | .streamAdminOpen _ => true
  | .streamAdminClose _ => true
  | .streamAdminHold _ => true
  | .streamAdminRelease _ => true
  | .streamAdminSetDeadline _ => true
  | .streamAdminSetQuota _ => true
  | .streamAdminSetButtress _ => true
  | .streamAdminRead _ => true
  | .streamAdminPool _ => true
  | .streamAdminSpillAdd _ => true
  | .streamAdminSpillRemove _ => true
  | .modelLoad _ env => envOk env
  | .modelUnload _ => true
  | .queueCreate _ _ => true
  | .queueDestroy _ => true
  | .eqiNegWrite b _ _ => below 16 b
  | .abiQuery box => below 17 box
  | .attach box _ => below 17 box
  | .errorRingSet box => below 17 box
  | .keyImport box env => below 17 box && envOk env
  | .keyDiscard box => below 17 box
  | .bondPin box => below 17 box
  | .bondUnpin box => below 17 box
  | .bondPanelSet box => below 17 box
  | .bondPanelClear box => below 17 box
  | .bondHint box => below 17 box
  | .bondQuery box => below 17 box
  | .bondWindowAdd box => below 17 box
  | .bondWindowRemove box => below 17 box
  | .bayCreate box => below 17 box
  | .bayQuiesce box => below 17 box
  | .bayQuiesced b => below 16 b
  | .bayReset box => below 17 box
  | .bayRemove box => below 17 box
  | .bayRelease box => below 17 box
  | .bayResetWorkDone b => below 16 b
  | .liftPeriodSet box => below 17 box
  | .clockFloorSet box => below 17 box
  | .powerCapSet box => below 17 box
  | .scrubRange box => below 17 box
  | .scrubRateSet box => below 17 box
  | .resetCompute box => below 17 box
  | .resetFull box => below 17 box
  | .repoint box => below 17 box
  | .returnToService box => below 17 box
  | .dumpInfo box => below 17 box
  | .dumpRead box => below 17 box
  | .dumpClear box => below 17 box
  | .fwStage box _ => below 17 box
  | .fwActivate box => below 17 box
  | .cfgRead box => below 17 box
  | .cfgWrite box => below 17 box
  | .cfgDiscard box => below 17 box
  | .store box => below 17 box
  | .operationSlotEnd box slot _ => below 17 box && below 4 slot
  | .opDoneClear box _ => below 17 box
  | .numvfsWrite _ => true
  | .vfEnableClear => true
  | .flr b => below 16 b
  | .hostConfigWrite fn _ => below 17 fn
  | .ringConsWrite r _ => ringOk r
  | .generate => true
  | .readPublic => true
  | .writeChain _ => true
  | .lock => true
  | .kpStatus => true
  | .getDigests _ => true
  | .getMeasurements _ _ _ nonce => exactly 32 nonce
  | .keyExchange _ => true
  | .finish _ _ => true
  | .respondIfReady b => below 16 b
  | .unsupportedSpdmRequest _ => true
  | .spdmSessionTimeout _ => true
  | .query _ => true
  | .keyProg _ _ _ _ _ c _ _ => below 3 c
  | .kSetGo _ _ _ c _ => below 3 c
  | .kSetStop _ _ => true
  | .ideIntegrityFail _ => true
  | .getTdispVersion _ b => below 16 b
  | .getTdispCapabilities _ b => below 16 b
  | .lockInterfaceRequest _ b _ => below 16 b
  | .getDeviceInterfaceReport _ b => below 16 b
  | .getDeviceInterfaceState _ b => below 16 b
  | .startInterfaceRequest _ b => below 16 b
  | .stopInterfaceRequest _ b => below 16 b
  | .linkRekeyTrigger p => below 16 p
  | .linkCounterLimit p => below 16 p
  | .keyxRetryTimeout p => below 16 p
  | .repointOverwrite => true
  | .repointVerify _ => true
  | .repointAttest => true
  | .repointHold _ => true
  | .repointComplete => true
  | .quoinScrubTimeout p => below 4 p
  | .atsTranslationCompletion b _ perm _ => below 16 b && below 4 perm
  | .pageRequestGroupResponse b idx _ perm _ => below 16 b && below 64 idx && below 4 perm
  | .atsInvalidateRequest b _ _ => below 16 b
  | .hostRequestError _ _ => true
  | .xltFltCtlRefuse b _ _ => below 16 b
  | .bar2Read fn _ len env _ => below 17 fn && below 4097 len && envOk env
  | .bar2Write fn _ d env _ => below 17 fn && upTo 4096 d && envOk env
  | .xltWinRead _ => true
  | .xltWinEnable _ => true
  | .xltWinDisable _ => true
  | .winEnableMovesDone => true
  | .winDisableDrained => true
  | .idle p fr => below 16 p && frameOk fr
  | .kwCredit p fr => below 16 p && frameOk fr
  | .nak p fr => below 16 p && frameOk fr
  | .train p fr => below 16 p && frameOk fr
  | .keyx p fr _ => below 16 p && frameOk fr
  | .read p fr env => below 16 p && frameOk fr && envOk env
  | .write p fr env => below 16 p && frameOk fr && envOk env
  | .atomic p fr env => below 16 p && frameOk fr && envOk env
  | .reduce p fr env => below 16 p && frameOk fr && envOk env
  | .readData p fr => below 16 p && frameOk fr
  | .status p fr => below 16 p && frameOk fr
  | .colHs p fr => below 16 p && frameOk fr
  | .colData p fr _ => below 16 p && frameOk fr
  | .colAck p fr => below 16 p && frameOk fr
  | .colNak p fr => below 16 p && frameOk fr
  | .colAbandon p fr => below 16 p && frameOk fr
  | .colProbe p fr => below 16 p && frameOk fr
  | .colIsr p fr => below 16 p && frameOk fr
  | .requestTimeout tag => below 8192 tag
  | .chunkResendTimeout _ dst _ => below 4096 dst
  | .colProbeTimer _ peer _ => below 4096 peer
  | .linkTrained p ep _ _ _ => below 16 p && below 4096 ep
  | .laneLockLoss p lane => below 16 p && below 4 lane
  | .trainingRetryTimer p => below 16 p
  | .replayBufferDiscard p => below 16 p
  | .archGrpRead _ => true
  | .archGrpCreate _ => true
  | .archGrpDestroy _ => true
  | .archMbrWrite _ => true
  | .weightRefetchDone b _ _ env => below 16 b && envOk env
  | .bucketLeakTick k => below 7 k
  | .uncorrectableError k _ _ _ => below 7 k
  | .scrubPassEnd _ _ => true
  | .lapOverdue k => below 4 k
  | .engineReset e => engineWf e
  | .engineResetBoundMiss e => engineWf e
  | .computeResetBegin _ => true
  | .shoringLift _ => true
  | .fullResetBegin => true
  | .fullResetServing _ => true
  | .watchdogExpire => true
  | .resetComputeBoundMiss => true
  | .rstCtlFull _ => true
  | .rstCtlCompute _ => true
  | .interruptTake core => below 4 core
  | .handlerEnd core => below 4 core
  | .relayDeliver => true
  | .holdoffExpire g => below 16 g
  | .msixUnmask fn _ => below 17 fn
  | .extLineChange k _ => below 32 k
  | .irqPendClear n _ => below 16 n
  | .irqSet n _ => below 16 n
  | .irqLock => true
  | .syncViewWrite _ size _ => sizeOk size
  | .latchingLoRead win _ => winFormed win
  | .rcRead win _ size => winFormed win && sizeOk size
  | .registerWrite win _ size _ => winFormed win && sizeOk size
  | .perstAssert => true
  | .perstDeassert => true
  | .clkAshAck => true
  | .avsVoltageInRange => true
  | .pmbusPoll _ => true
  | .pmAlert status0 pinMax vinMin => below 65536 status0 && below 65536 pinMax && below 65536 vinMin
  | .stackTempRead _ => true
  | .emergencyThrottle _ => true
  | .throttleRelease => true
  | .thermalTrip sensor _ => below 64 sensor
  | .quoinReady p _ => below 4 p
  | .quoinRegWord p _ => below 4 p
  | .quoinDone p _ => below 4 p
  | .quoinStopped p stat => below 4 p && exactly 8 stat
  | .quoinReq p _ env => below 4 p && envOk env
  | .quoinWdata p d => below 4 p && upTo 256 d
  | .quoinObx p d => below 4 p && exactly 64 d
  | .quoinScrubAck p => below 4 p
  | .powerOnResetRelease => true
  | .warmReset => true
  | .hbmTrainingDone _ _ => true
  | .memoryFillDone _ _ => true
  | .firmwareInitDone pinMax vinMin _ => below 65536 pinMax && below 65536 vinMin
  | .eqiReady => true
  | .getCertificate slot _ _ => below 16 slot
  | .challenge slot nonce => below 16 slot && exactly 32 nonce
  | .heartbeat _ => true
  | .keyUpdate _ => true
  | .endSession _ => true
  | .getVersion => true
  | .getCapabilities => true
  | .negotiateAlgorithms _ => true
  | .engineResetEnd e => engineWf e
  | .hbmPhyUpdateRequest p => below 8 p
  | .powerOnResetAssert => true
  | .scrubLapEnd k _ _ => below 4 k

end Sys2Proof
end

