-- ==== Sys2Proof/Certificates/Slice0/Obligations.lean ====
section
/-! DEFINITION. The statements for the provers. -/
open Sys2Proof Sys2Proof.Machine
/-- Whether the configuration has the unit a command names (R8). -/
def present (s : State) : Instr → Bool
  | .add a | .sub a | .and a | .or a | .xor a | .shl a | .shr a | .sra a | .mul a | .slt a | .sltu a | .beq a | .bne a | .blt a | .bge a
    | .bltu a | .jal a | .jr a | .dwait a | .dpoll a | .fence a | .nop a | .gets a | .ld8 a _ | .ld16 a _ | .ld32 a _ | .ld64 a _ | .st8 a
    | .st16 a | .st32 a | .st64 a | .mldw a | .mma a | .mzero a | .vld a | .vst a | .vlda a | .vsta a | .vbcast a | .vadd a | .vsub a
    | .vmul a | .vfma a | .vmax a | .vmin a | .vexp2 a | .vrcp a | .vrsq a | .vcvt a | .vredsum a | .vredmax a | .dma a _ | .jcfg a | .grant a
    | .send a _ | .tsend a _ | .waitj a | .pop a | .jpoll a | .signal a | .enq a _ | .halt a | .trap a | .unitOpComplete a _ _
    | .dmaReadComplete a _ _ | .dmaWriteComplete a _ _ | .archData _ a _ _ _ | .archCtl a _ _ => decide (a < ashlars s)
  | .journalReplayDone b _ _ | .contextSwitchDone b _ _ | .appendCopyDone b _ _ | .slabMoveDone b _ _ | .moveCopyDone b _ _ _ | .moveSwitch b _
    | .sqWpWrite b _ _ _ _ _ | .cqHeadWrite b _ _ _ _ _ | .frontBind b | .eqiNegWrite b _ _ | .bayQuiesced b | .bayResetWorkDone b | .flr b
    | .atsTranslationCompletion b _ _ _ | .pageRequestGroupResponse b _ _ _ _ | .atsInvalidateRequest b _ _ | .xltFltCtlRefuse b _ _
    | .weightRefetchDone b _ _ _ | .respondIfReady b | .getTdispVersion _ b | .getTdispCapabilities _ b | .lockInterfaceRequest _ b _
    | .getDeviceInterfaceReport _ b | .getDeviceInterfaceState _ b | .startInterfaceRequest _ b | .stopInterfaceRequest _ b => decide (b < s.bays.count)
  | .quoinStopTimeout p | .quoinScrubTimeout p | .quoinReady p _ | .quoinRegWord p _ | .quoinDone p _ | .quoinStopped p _ | .quoinReq p _ _
    | .quoinWdata p _ | .quoinObx p _ | .quoinScrubAck p => decide (p < quoinPorts s)
  | .frontFetch f _ => decide (f < fronts s)
  | .abiQuery box | .attach box _ | .errorRingSet box | .keyImport box _ | .keyDiscard box | .bondPin box | .bondUnpin box | .bondPanelSet box
    | .bondPanelClear box | .bondHint box | .bondQuery box | .bondWindowAdd box | .bondWindowRemove box | .bayCreate box | .bayQuiesce box
    | .bayReset box | .bayRemove box | .bayRelease box | .liftPeriodSet box | .clockFloorSet box | .powerCapSet box | .scrubRange box
    | .scrubRateSet box | .resetCompute box | .resetFull box | .repoint box | .returnToService box | .dumpInfo box | .dumpRead box
    | .dumpClear box | .fwStage box _ | .fwActivate box | .cfgRead box | .cfgWrite box | .cfgDiscard box | .store box | .opDoneClear box _ => decide (box ≤ maxBays s)
  | .hostConfigWrite fn _ | .bar2Read fn _ _ _ _ | .bar2Write fn _ _ _ _ => decide (fn ≤ s.bays.count)
  | .linkRekeyTrigger p | .linkCounterLimit p | .keyxRetryTimeout p | .idle p _ | .kwCredit p _ | .nak p _ | .train p _ | .keyx p _ _
    | .read p _ _ | .write p _ _ | .atomic p _ _ | .reduce p _ _ | .readData p _ | .status p _ | .colHs p _ | .colData p _ _ | .colAck p _
    | .colNak p _ | .colAbandon p _ | .colProbe p _ | .colIsr p _ | .linkTrained p _ _ _ _ | .trainingRetryTimer p | .replayBufferDiscard p => decide (p < kwPorts s)
  | .hbmPhyUpdateRequest p => decide (p < hbmPorts s)
  | .bucketLeakTick k | .uncorrectableError k _ _ _ => decide (k < 7)
  | .lapOverdue k | .scrubLapEnd k _ _ => decide (k < 4)
  | .engineReset e | .engineResetBoundMiss e | .engineResetEnd e => engineOk s e
  | .interruptTake core | .handlerEnd core => decide (core < 4)
  | .irqPendClear n _ | .irqSet n _ => decide (n < 16)
  | .latchingLoRead win _ | .rcRead win _ _ | .registerWrite win _ _ _ => winOk s win
  | .laneLockLoss p lane => decide (p < kwPorts s) && decide (lane < 4)
  | .streamLost b strm => decide (b < s.bays.count) && decide (strm < streamsPerBay s)
  | .operationSlotEnd box slot _ => decide (box ≤ maxBays s) && decide (slot < 4)
  | .ideIntegrityFail strm => decide (strm < 4)
  | .holdoffExpire g => decide (g < 16)
  | .extLineChange k _ => decide (k < 32)
  | .thermalTrip sensor _ => decide (sensor < 64)
  | .ringConsWrite (.bayEvents b _) _ => decide (b < s.bays.count)
  | .msg .. | .credit .. | .dmaCpl .. | .start .. | .kill .. | .outbox .. | .halted .. | .ctlAck .. | .ctlResendTimeout .. | .panelDrained ..
    | .imageLoadComplete .. | .liftBoundary | .openingWindowEnd | .closingWindowOpen | .planSeal | .planSealDeadline | .commandStart ..
    | .commitPoint .. | .postCommitCopyDone .. | .walkPieceDeliver .. | .epochBoundary | .launch .. | .quoinLaunch .. | .collective ..
    | .graphLaunch .. | .streamStep .. | .streamFill .. | .graphCreate .. | .graphDestroy .. | .patch .. | .contextCreate ..
    | .contextDestroy .. | .abort .. | .event .. | .eventRead .. | .map .. | .unmap .. | .invalidate .. | .setPriority ..
    | .streamAdminOpen .. | .streamAdminClose .. | .streamAdminHold .. | .streamAdminRelease .. | .streamAdminSetDeadline ..
    | .streamAdminSetQuota .. | .streamAdminSetButtress .. | .streamAdminRead .. | .streamAdminPool .. | .streamAdminSpillAdd ..
    | .streamAdminSpillRemove .. | .modelLoad .. | .modelUnload .. | .queueCreate .. | .queueDestroy .. | .numvfsWrite .. | .vfEnableClear
    | .ringConsWrite .. | .generate | .readPublic | .writeChain .. | .lock | .kpStatus | .getDigests .. | .getMeasurements ..
    | .keyExchange .. | .finish .. | .unsupportedSpdmRequest .. | .spdmSessionTimeout .. | .query .. | .keyProg .. | .kSetGo .. | .kSetStop ..
    | .repointOverwrite | .repointVerify .. | .repointAttest | .repointHold .. | .repointComplete | .hostRequestError .. | .xltWinRead ..
    | .xltWinEnable .. | .xltWinDisable .. | .winEnableMovesDone | .winDisableDrained | .requestTimeout .. | .chunkResendTimeout ..
    | .colProbeTimer .. | .archGrpRead .. | .archGrpCreate .. | .archGrpDestroy .. | .archMbrWrite .. | .scrubPassEnd ..
    | .computeResetBegin .. | .shoringLift .. | .fullResetBegin | .fullResetServing .. | .watchdogExpire | .resetComputeBoundMiss
    | .rstCtlFull .. | .rstCtlCompute .. | .relayDeliver | .msixUnmask .. | .irqLock | .syncViewWrite .. | .perstAssert | .perstDeassert
    | .clkAshAck | .avsVoltageInRange | .pmbusPoll .. | .pmAlert .. | .stackTempRead .. | .emergencyThrottle .. | .throttleRelease
    | .powerOnResetRelease | .warmReset | .hbmTrainingDone .. | .memoryFillDone .. | .firmwareInitDone .. | .eqiReady | .getCertificate ..
    | .challenge .. | .heartbeat .. | .keyUpdate .. | .endSession .. | .getVersion | .getCapabilities | .negotiateAlgorithms ..
    | .powerOnResetAssert => true
/-- What a command in flight can reach when it runs, is killed, violates, completes or commits. -/
def workGroups : List Grp := [.lift, .stat, .grid, .cmds, .bays, .dev, .mem, .sec, .kw, .arch, .ras, .plumb, .rst, .irq, .quoin, .out]
/-- The groups of the state each command may change; a command not named here may reach what a command in flight reaches. -/
def reach : Instr → List Grp
  | .liftBoundary | .planSeal | .emergencyThrottle .. => [.pwr] ++ workGroups
  | .openingWindowEnd => [.lift]
  | .quoinStopTimeout .. | .engineReset .. | .quoinReady .. | .quoinRegWord .. | .quoinDone .. | .quoinStopped .. | .quoinReq ..
    | .quoinWdata .. | .quoinObx .. | .quoinScrubAck .. => [.boxes] ++ workGroups
  | .appendCopyDone .. | .slabMoveDone .. | .moveCopyDone .. | .xltWinEnable .. | .winEnableMovesDone => [.bays, .mem, .kw, .irq, .out]
  | .epochBoundary | .moveSwitch .. | .bondWindowRemove .. => [.boxes, .bays, .dev, .mem, .kw, .irq, .out]
  | .frontBind .. => [.bays, .dev]
  | .eqiNegWrite .. => [.bays, .out]
  | .abiQuery .. | .dumpInfo .. | .cfgRead .. => [.boxes, .irq]
  | .attach .. | .errorRingSet .. | .keyImport .. | .keyDiscard .. | .bondUnpin .. | .bondPanelClear .. | .bondHint .. | .bondWindowAdd ..
    | .bayCreate .. | .bayQuiesced .. => [.boxes, .bays, .irq]
  | .bondPin .. => [.boxes, .bays, .dev, .mem, .irq, .pwr]
  | .bondPanelSet .. => [.boxes, .bays, .irq, .pwr]
  | .bondQuery .. => [.boxes, .irq, .out]
  | .bayQuiesce .. | .bayReset .. | .bayRemove .. | .bayRelease .. | .bayResetWorkDone .. | .numvfsWrite .. | .vfEnableClear | .flr ..
    | .stopInterfaceRequest .. => [.boxes, .pwr] ++ workGroups
  | .liftPeriodSet .. => [.boxes, .lift, .irq]
  | .clockFloorSet .. | .powerCapSet .. => [.boxes, .bays, .dev, .mem, .ras, .irq, .pwr]
  | .scrubRange .. => [.boxes, .dev, .mem, .ras, .irq]
  | .scrubRateSet .. => [.boxes, .dev, .mem, .ras, .irq, .pwr]
  | .resetCompute .. | .resetFull .. | .returnToService .. => [.boxes, .rst, .irq]
  | .repoint .. | .repointOverwrite | .repointVerify .. | .repointComplete | .weightRefetchDone .. | .uncorrectableError ..
    | .scrubPassEnd .. | .computeResetBegin .. | .shoringLift .. | .fullResetBegin | .fullResetServing .. | .memoryFillDone .. | .eqiReady
    | .powerOnResetAssert => [.foot, .fw, .boxes, .dump, .pwr, .start] ++ workGroups
  | .dumpRead .. => [.boxes, .dump, .irq, .out]
  | .dumpClear .. => [.boxes, .dump, .irq]
  | .fwStage .. => [.fw, .boxes, .kw, .irq, .start]
  | .fwActivate .. => [.foot, .boxes, .rst, .irq]
  | .cfgWrite .. | .cfgDiscard .. | .store .. => [.foot, .boxes, .irq]
  | .operationSlotEnd .. => [.foot, .boxes, .ras, .rst, .irq]
  | .opDoneClear .. => [.boxes]
  | .hostConfigWrite .. => [.bays, .sec, .irq, .start, .out]
  | .ringConsWrite .. | .syncViewWrite .. | .latchingLoRead .. | .rcRead .. | .registerWrite .. => [.boxes, .dump, .pwr, .start] ++ workGroups
  | .generate | .readPublic | .writeChain .. | .lock | .kpStatus => [.ident, .out]
  | .getDigests .. | .unsupportedSpdmRequest .. | .query .. | .getTdispVersion .. | .getTdispCapabilities .. | .getDeviceInterfaceReport ..
    | .getDeviceInterfaceState .. | .interruptTake .. | .relayDeliver | .holdoffExpire .. | .msixUnmask .. | .getCertificate ..
    | .challenge .. | .heartbeat .. | .getCapabilities => [.irq, .out]
  | .getMeasurements .. | .keyExchange .. | .finish .. | .respondIfReady .. | .keyProg .. | .kSetGo .. | .kSetStop ..
    | .lockInterfaceRequest .. | .keyUpdate .. | .endSession .. | .getVersion | .negotiateAlgorithms .. => [.sec, .irq, .out]
  | .spdmSessionTimeout .. | .repointAttest => [.sec]
  | .ideIntegrityFail .. => [.sec, .irq]
  | .linkRekeyTrigger .. | .linkCounterLimit .. | .train .. | .linkTrained .. | .laneLockLoss .. => [.kw, .irq, .out]
  | .keyxRetryTimeout .. | .trainingRetryTimer .. => [.kw, .out]
  | .repointHold .. => [.sec, .kw]
  | .quoinScrubTimeout .. => [.quoin, .out]
  | .bar2Read .. | .bar2Write .. => [.bays, .mem, .kw, .ras, .irq, .out]
  | .xltWinRead .. | .xltWinDisable .. | .winDisableDrained => [.mem]
  | .keyx .. => [.sec, .kw, .irq, .out]
  | .replayBufferDiscard .. => [.kw]
  | .archGrpRead .. | .archGrpCreate .. | .archGrpDestroy .. | .archMbrWrite .. => [.arch]
  | .bucketLeakTick .. => [.ras]
  | .lapOverdue .. => [.ras, .irq]
  | .engineResetBoundMiss .. => [.rst, .irq, .quoin, .out]
  | .watchdogExpire => [.fw, .rst, .irq]
  | .resetComputeBoundMiss | .rstCtlFull .. | .rstCtlCompute .. | .engineResetEnd .. => [.rst, .irq]
  | .handlerEnd .. | .extLineChange .. | .irqPendClear .. | .irqSet .. | .irqLock => [.irq]
  | .perstAssert => [.boxes, .pwr, .start] ++ workGroups
  | .perstDeassert | .powerOnResetRelease => [.start]
  | .clkAshAck => [.pwr]
  | .avsVoltageInRange => [.irq, .pwr]
  | .pmbusPoll .. | .pmAlert .. | .stackTempRead .. | .throttleRelease => [.bays, .dev, .mem, .ras, .irq, .pwr, .out]
  | .thermalTrip .. => [.irq, .pwr, .out]
  | .warmReset => [.fw, .boxes, .kw, .rst, .irq, .start]
  | .hbmTrainingDone .. => [.sec, .irq, .start, .out]
  | .firmwareInitDone .. => [.pwr, .start]
  | .hbmPhyUpdateRequest .. => [.out]
  | _ => workGroups

/-- An instruction that writes `v` to general register `rd` of ashlar `a` and goes to the next instruction: the ashlar's other fields, the
other registers and the other ashlars are as before, and a write of g0 is discarded (R29, R34). -/
def WritesReg (a rd : Nat) (v : W64) (s t : State) : Prop :=
  OnlyAsh a s t ∧
  ash t a = { ash s a with g := (ash t a).g, pc := (ash s a).pc + 1, cycle := (ash s a).cycle + 1, stall := .none } ∧
  ∀ r, gr (ash t a) r = if r = rd ∧ r ≠ 0 then v else gr (ash s a) r

/-- An instruction that goes to `target` in `clocks` clocks and changes nothing else of ashlar `a` but, where it links, register `rd`. -/
def GoesTo (a target clocks : Nat) (s t : State) : Prop :=
  OnlyAsh a s t ∧ ash t a = { ash s a with pc := target, cycle := (ash s a).cycle + clocks, stall := .none }

/-- A unit's instruction is handed over: the ashlar's queue `f` has it last, and only the sequencer went on. -/
def HandsOver (a : Nat) (y : Ashlar) (s t : State) : Prop :=
  OnlyAsh a s t ∧ ash t a = { y with pc := (ash s a).pc + 1, cycle := (ash s a).cycle + 1, stall := .none }

/-- The descriptor ashlar `a` names with instruction `w`, plain: it passes the checks of R43, its tag is idle, it notifies nobody, and for
both answers a cached translation may give, every page translates to placed memory (no host page, no remote piece). -/
def plainDma (s : State) (a : Nat) (w : W64) : Bool :=
  let x := ash s a
  let addr := (gr x (xRa w)).toNat
  let bs := mread x.spad addr 64
  let d := descOf bs
  let c := cmdD s x.cid
  addr % 64 == 0 && decide (addr + 64 ≤ 0x80000) && (tget (xSel w) x.tags).isNone && descReserved bs && descShape d && !d.notifyEn &&
    (d.toMem || !(spadRows d).any fun r => inJoint x r.1 r.2) && (outsideOutputs c d).isNone && decide (c.outCount ≤ 512) &&
    [true, false].all fun st => (dmaFault c.batch.isSome s c.bay d fun _ => st).isNone &&
      (hostPagesOf s c.bay (memRows d) (if d.toMem then 2 else 1) fun _ => st).isEmpty && (remotePieces s c.bay d fun _ => st).isEmpty &&
      (!d.toMem || recordWrites s c.bay d c.outbox == c.outbox)

/-- Command `c` is the one numbered `cid` in flight, in a powered block. -/
def inFlight (s : State) (cid : Nat) (c : Cmd) : Prop := s.start.powered = true ∧ cmd? s cid = some c ∧ c.cid = cid

/-- A command of a ring (none of a graph body, none of a batch) is DONE with `code` and `result`: it has left the table and its queue owes,
or has written, one completion entry more, which names the slot, the code and the result (R237, R238). -/
def CompletesWith (s : State) (c : Cmd) (code result : Nat) (t : State) : Prop :=
  cmd? t c.cid = none ∧ ∀ q, queue? s c.bay c.queue = some q → ∃ r, queue? t c.bay c.queue = some r ∧
    r.cqNext + r.owed.length = q.cqNext + q.owed.length + 1 ∧
    let names_ (e : List Byte) : Prop := fld e 0 2 = slotOf s c % 65536 ∧ fld e 2 2 = code % 65536 ∧ fld e 8 4 = result % 2 ^ 32
    (cqFree q = false → ∃ e, r.owed = q.owed ++ [e] ∧ names_ e) ∧
    let slot_ := q.cqAddr + 16 * (q.cqNext % 2 ^ q.log2Cq)
    (q.owed = [] → cqFree q = true → q.ringFailed = false → bit q.qflags 1 = true → hostShut s c.bay = false →
      atsMiss s c.bay [(slot_ / 4096, slot_)] = none → atsDenied s c.bay 2 [(slot_ / 4096, slot_)] = none →
      ∃ e, names_ e ∧ .hostWrite (c.bay + 1) slot_ e (reqT s (c.bay + 1)) (hostXl s c.bay slot_) ∈ t.out.log)
/-- The host pages of a command's declared output ranges, with the device page of each. -/
def outHost (s : State) (c : Cmd) : List (Nat × Nat) := (outPages s c).filterMap fun p => p.2.map fun h => (h, p.1)

/-- The state in which the front checks entry `e` of queue `q` of bay `b`, which was `x`: the reads of other endpoints have gone out, the
command number and the fetch position have moved on. -/
def tookEntry (s : State) (b q : Nat) (x : Queue) (e : List Byte) : State :=
  let u := askTaken b e (if bit x.qflags 0 then s else askVa b (entryAt x) 64 s)
  modQueue b q (fun x => { x with fetch := x.fetch + 1, aborts := sdrop x.fetch x.aborts }) (progress b { u with cmds := { u.cmds with next := u.cmds.next + 1 } })
/-- The command a front makes of entry `e`: one of a queue being destroyed, or named by an ABORT before, has its abort flag set. -/
def entryCmd (s : State) (b q : Nat) (x : Queue) (e : List Byte) : Cmd :=
  { cid := s.cmds.next, bay := b, queue := q, pos := x.fetch, entry := e, abort := x.aborts.contains x.fetch || x.destroyer.isSome }
/-- What the checks of R236 say of entry `e`. -/
def entryVerdict (s : State) (b q : Nat) (x : Queue) (e : List Byte) (env : Env) : Verd :=
  match entryCheck (tookEntry s b q x e) .ring (entryCmd s b q x e) with
  | .go c => argCheck (tookEntry s b q x e) env none 0 (entryCmd s b q x e).abort c
  | r => r
/-- The host page an entry in host memory is read from. -/
def entryHost (x : Queue) : List (Nat × Nat) := if bit x.qflags 0 then [(entryAt x / 4096, entryAt x)] else []

/-- Command `c` of opcode `op`, numbered `cid`, may leave WAITING (R233, R235). -/
def leaves (s : State) (cid : Nat) (c : Cmd) (op : Nat) : Prop := inFlight s cid c ∧ opc c = op ∧ mayLeave s c = true
/-- The same of a command that is an entry of its queue's ring. -/
def leavesRing (s : State) (cid : Nat) (c : Cmd) (op : Nat) : Prop := leaves s cid c op ∧ c.parent = none ∧ c.batch = none ∧ (queue? s c.bay c.queue).isSome = true

/-- The checks of a sealed LOAD that follow the manifest's tag, for the segments' plaintext `r.1` and whether every tag of theirs verified
(R296 to R298), and no weight page in a backing window, whose WRITEs could fail (R423). -/
def sealChecks (s : State) (c : Cmd) (key : Nat × BitVec 128 × BitVec 256) (hd : SealHead) (m : List Byte) (r : List Byte × Bool) : Prop :=
  let md := sealedModel (cf c 0x18 2) key.1 hd.fmt (cf c 0x20 8) (cf c 0x28 8) hd.digest m r.1
  r.2 = true ∧ weightFault s c.bay (manifestOf m).weights = none ∧ weightsAway s c.bay (manifestOf m).weights = false ∧ sealDigest m r.1 = hd.digest ∧ manifestOk hd.fmt m r.1 = true ∧
  (hd.fmt ≠ 1 → ∀ i, i < 2 → sealBodyBad s c md (sealBody m i) (sealParams m i) (((manifestOf m).graphs.getD i (0, 0, 0, 0)).2.2.2) = none) ∧
  sealExtents md m ≤ freeFrames s c.bay

/-- Request `r` of message code `m` is at the head of the order of go writes, in mailbox `x` (R284). -/
def atHead (s : State) (x m : Nat) (r : Req) : Prop :=
  s.start.powered = true ∧ x ≤ maxBays s ∧ s.boxes.order.head? = some x ∧ reqOf s x = r ∧ r.msg = m
/-- The same of a request that no case of R287 refuses. -/
def serves (s : State) (x m : Nat) (r : Req) : Prop := atHead s x m r ∧ refusal s x r = none
/-- The response half of mailbox `x` says `code`, `slot`, `opId`, `bound` and the payload `p`; busy is clear, done is set, and the request has
left the order (R282, R283). -/
def Responded (s : State) (x code slot opId bound : Nat) (p : List Byte) (t : State) : Prop :=
  let m := mbx t x
  let h := mread m.area 0x800 64
  m.busy = false ∧ m.done = true ∧ x ∉ t.boxes.order ∧ fld h 0 2 = (reqOf s x).msg % 65536 ∧ fld h 2 2 = code % 65536 ∧ fld h 4 4 = (reqOf s x).tag % 2 ^ 32 ∧
  fld h 8 4 = p.length % 2 ^ 32 ∧ fld h 0xC 1 = slot % 256 ∧ fld h 0xD 1 = opId % 256 ∧ fld h 0x10 4 = bound % 2 ^ 32 ∧ mread m.area 0x840 p.length = p
/-- A request answered at once. -/
def Replied (s : State) (x code : Nat) (p : List Byte) (t : State) : Prop := Responded s x code 0xFF 0 0 p t
/-- A long request accepted in slot `i` (R286). -/
def TookSlot (s : State) (x i bound : Nat) (t : State) : Prop :=
  Responded s x 1 i (mbx s x).nextOp bound [] t ∧ (mbx t x).nextOp = if (mbx s x).nextOp = 255 then 1 else (mbx s x).nextOp + 1
/-- The operation in slot `i` runs, or has ended with a code. -/
def opRuns (s : State) (x i : Nat) (k : OpKind) : Prop := ∃ o, tget i (mbx s x).ops = some o ∧ o.running = true ∧ o.kind = k
def opEnded (s : State) (x i code : Nat) : Prop := ∃ o, tget i (mbx s x).ops = some o ∧ o.running = false ∧ o.code = code ∧ bit (mbx s x).opDone i = true

/-- Whether an access to a window gets through: the block has power, the window exists, and neither D3hot nor the function's interface turns it away: one in ERROR turns
every request away, one in RUN what comes without the T bit on its stream (R355, R356, R551). -/
def windowOpen (s : State) : WinId → Bool
  | .manager => s.start.powered && !s.start.d3
  | .bay b t => s.start.powered && decide (b < s.bays.count) && barOpen s b t
/-- The ring a cons register belongs to. -/
def ringOf (s : State) : RingName → Ring
  | .mgrEvents => s.dev.mgrEv
  | .ras => s.ras.log
  | .plumb => s.plumb.log
  | .reset => s.rst.log
  | .bayEvents b _ => (bay s b).ev
/-- The window a cons register lies in. -/
def ringWin : RingName → WinId
  | .bayEvents b t => .bay b t
  | _ => .manager
/-- The state after a read that answered `bs`. -/
def Read (bs : List Byte) (s t : State) : Prop := t.out.log = .reply bs false :: s.out.log

/-- The one thing `t` drove at a port that `s` had not is `o`. -/
def Says (o : Out) (s t : State) : Prop := t.out.log = o :: s.out.log
/-- Whether a request reaches the SPDM responder: the block has power, firmware runs, and the host link is up. -/
def spdmOpen (s : State) : Bool := s.start.powered && s.fw.running && !s.start.perst
/-- The state as a served request meets it: its arrival has fired the source of DOE requests (R519). -/
def asked (s : State) : State := raise (srcSec 0) s
/-- The same of a TDISP request, which fires its own source as well. -/
def tdAsked (s : State) : State := raise (srcSec 2) (asked s)
/-- ResponseNotReady with RDTExponent 20 and RDTM 1 (R342). -/
def NotReady : Out := .spdmNotReady 20 1
/-- Whether session `k` is open. -/
def openSession (s : State) (k : Nat) : Bool := (tget k s.sec.sessions).any (·.finished)
/-- Whether a request outside (none) or within a session is served. -/
def onConnection (s : State) (sess : Option Nat) : Bool := spdmOpen s && match sess with
  | none => s.sec.version && s.sec.algs
  | some k => openSession s k

/-- Port `p` takes frame `f` as kind `k` in its order (R415, R416). -/
def takes (s : State) (p k : Nat) (f : Frame) : Bool :=
  s.start.powered && decide (p < kwPorts s) && linkUp (kport s p) && !discards (kport s p) f && f.kind == k
/-- The state once the frame is accepted; keys agreed for its number have taken effect (R361). -/
def took (s : State) (p : Nat) : State := modKw p (fun x => { x with sRx := x.sRx + 1 }) (turn p s)
/-- Port `p` has sent a frame of which `P` holds, sealed under its next number, or holds it for its turn or for buffers. -/
def Sends (p : Nat) (P : Frame → Prop) (s t : State) : Prop :=
  ∃ new, t.out.log = new ++ s.out.log ∧ ∃ f, P f ∧ ((∃ e ∈ (kport t p).outq, e.frame = f) ∨ (∃ e, (p, e) ∈ t.kw.waiting ∧ e.frame = f) ∨
    ∃ q c w, .frame p { f with seq := q, ctr := c, wire := w } ∈ new)
/-- Port `p` has driven a TRAIN frame that reports `full`. -/
def SendsTrain (p full : Nat) (s t : State) : Prop := t.out.log = .frame p { kind := fkTrain, vc := 3, src := s.kw.ep, full := full } :: s.out.log
/-- Port `p` has driven message `m` of the key exchange: 1 the first, 2 the signature (R360). -/
def SendsKeyx (p m : Nat) (s t : State) : Prop :=
  ∃ new, t.out.log = new ++ s.out.log ∧ ∃ g, .frame p g ∈ new ∧ g.kind = fkKeyx ∧ g.vc = 3 ∧ fld g.data 0 1 = m ∧
    (m = 2 → fld g.data 1 8 = (kport t p).cut % 2 ^ 64)

/-- An answer to request `f` leaves by port `p`, with the request's tag and mark (R414, R428). -/
def AnswersWith (p kind status : Nat) (data : List Byte) (f : Frame) (s t : State) : Prop :=
  Sends p (fun g => g.kind = kind ∧ g.vc = 1 ∧ g.dst = f.src ∧ g.tag = f.tag ∧ g.mark = f.mark ∧ g.addr = status ∧ g.data = data) s t
/-- The state once the MACs of the blocks a request reads have been checked (R460); a WRITE reads those it covers in part (R363). -/
def afterMac (wr : Bool) (b va n : Nat) (env : Env) (s : State) : State :=
  (physRanges s b va n 0).foldl (fun u q => (if wr then mergeFailures else macFailures) b q.1 q.2.1 q.2.2 env u) s
/-- What an inbound request is: its command, its frame's kind, the kind of its answer, the permission it needs, its bytes, and whether it
is malformed (R425, R426). -/
structure Inbound where
  i : Instr
  kind : Nat
  ans : Nat
  op : Nat
  n : Nat
  bad : Bool
/-- The four inbound requests of frame `f`. -/
def inboundsOf (p : Nat) (f : Frame) (env : Env) : List Inbound :=
  let e := reduceBytes (fld f.data 1 1)
  let long := decide (2048 < f.data.length)
  [⟨.read p f env, fkRead, fkReadData, 0, fld f.data 0 2, decide (2048 < fld f.data 0 2) || long⟩,
   ⟨.write p f env, fkWrite, fkStatus, 1, f.data.length, long⟩,
   ⟨.atomic p f env, fkAtomic, fkStatus, 2, atomicBytes (fld f.data 1 1), f.data.length != 24 || !atomicOk (fld f.data 0 1) (fld f.data 1 1) || f.addr % 8 != 0 || long⟩,
   ⟨.reduce p f env, fkReduce, fkStatus, 3, (f.data.drop 8).length,
    decide (f.data.length < 16) || decide (2 < fld f.data 0 1) || decide (3 < fld f.data 1 1) || f.addr % e != 0 || (f.data.drop 8).length % e != 0 || long⟩]
/-- The bytes an inbound WRITE, ATOMIC or REDUCE stores where it finds `old`. -/
def storedBy (f : Frame) (kind : Nat) (old : List Byte) : List Byte :=
  let op := fld f.data 0 1
  let ty := fld f.data 1 1
  let e := reduceBytes ty
  if kind = fkWrite then f.data
  else if kind = fkAtomic then natLe (atomicBytes ty) (atomicNew op ty (leNat old) (fld f.data 8 8) (fld f.data 16 8))
  else (List.range ((f.data.drop 8).length / e)).flatMap fun i => natLe e (reduceElem op ty (fld old (i * e) e) (fld (f.data.drop 8) (i * e) e))
/-- The log entry of a RAS record without bay: kind, class, place, detail (R476). -/
def blockRecord (s : State) (kind cls space addr detail : Nat) : List Byte :=
  natLe 4 (s.ras.log.seq + 1) ++ natLe 1 kind ++ [0, 0xFF] ++ natLe 1 cls ++ natLe 8 (space * 2 ^ 56 + addr % 2 ^ 56) ++ natLe 8 s.lift.num ++
    natLe 4 detail ++ [0, 0, 0, 0]
/-- The log entry of a reset: domain, trigger, flags, engine, begin, lift and duration, and the two counts of the histories (R516, R517). -/
def resetLine (s : State) (domain trigger flags engine time lift us : Nat) : List Byte :=
  natLe 4 (s.rst.log.seq + 1) ++ natLe 1 domain ++ natLe 1 trigger ++ natLe 1 flags ++ natLe 1 engine ++ natLe 8 time ++ natLe 8 lift ++
    natLe 4 (min us 0xFFFFFFFF) ++ natLe 2 (escCompute s) ++ natLe 2 (escFull s)
/-- Whether an engine reset kills a running command. -/
def engineHits (e : Engine) (c : Cmd) : Bool :=
  match e with
  | .panel cid => c.cid == cid
  | .front => false
  | .walker => c.walk.isSome
  | .arch => c.col.isSome
  | .quoin p => opc c == opQuoin && wOf c == p
/-- An engine reset starts: it is noted, what its engine runs goes back to READY, the rest of the commands and every queue stay (R130, R494). -/
def EngineStarts (e : Engine) (s t : State) : Prop :=
  t.rst = { s.rst with engines := { engine := e, time := s.rst.time, lift := s.lift.num } :: s.rst.engines } ∧
  (∀ j c, cmd? s j = some c → c.cid = j → c.st = .running → engineHits e c = true → ∃ d, cmd? t j = some d ∧ d.st = .ready ∧ d.entry = c.entry) ∧
  (∀ j, (∀ k c, cmd? s k = some c → c.st = .running → engineHits e c = true → c.cid ≠ j) → cmd? t j = cmd? s j) ∧
  match e with
  | .front => t.dev.fronts = [] ∧ t.cmds = s.cmds
  | .quoin p => (qport t p).ready = false ∧ (qport t p).registered = false ∧ (qport t p).cid = none ∧ (qport t p).killed = none ∧
      .quoinReset p true ∈ t.out.log ∧ .quoinReset p false ∈ t.out.log
  | _ => True
/-- The engine on port `p` holds the running ring command `c`, numbered `cid`; the port is not held in reset. -/
def enginesCmd (s : State) (p cid : Nat) (c : Cmd) : Prop :=
  inFlight s cid c ∧ (qport s p).heldReset = false ∧ (qport s p).cid = some cid ∧ c.committed = false ∧ c.st = .running ∧ c.bay < s.bays.count
/-- Command `cid` is FROZEN by a violation of the engine on port `p`, and the plumb log has one record more (R480, R484). -/
def FrozenBy (p cid master reason unit addr : Nat) (s t : State) : Prop :=
  (∃ d, cmd? t cid = some d ∧ d.st = .frozen ∧ d.viol = some { master := master, reason := reason, unit := p * 4096 + unit, address := addr }) ∧
  t.plumb.log.prod = (s.plumb.log.prod + 1) % 2 ^ 32
/-- A breach with no command: the plumb log has the record, the port's breach source is pending and no command changes (R480, R525,
R560). -/
def BareBreach (p : Nat) (s t : State) : Prop :=
  ChangesOnly [.plumb, .irq] s t ∧ t.plumb.log.prod = (s.plumb.log.prod + 1) % 2 ^ 32 ∧ 144 + 4 * p + 3 ∈ t.irq.pend
/-- A request of `n` bytes at `va` translates to placed memory for the engine on port `p`, whatever a cached translation answers (R390). -/
def plainReq (s : State) (c : Cmd) (va n : Nat) (wr : Bool) : Bool :=
  [true, false].all fun stale => (dmaFault c.batch.isSome s c.bay (reqDesc va n wr) fun _ => stale).isNone &&
    (hostPagesOf s c.bay (memRows (reqDesc va n wr)) (if wr then 2 else 1) fun _ => stale).isEmpty
/-- The port answers `d` with status `st`, and the identity store is `i` from now on; nothing else changes but the count of random draws. -/
def PortAnswers (st : Nat) (d : List Byte) (i : Ident) (s t : State) : Prop :=
  t.out.log = .kp st d :: s.out.log ∧ t.ident = i ∧ ChangesOnly [.ident, .out] s t ∧ t.out.free = s.out.free

/-- A step executes the command at the front of the queue; with none a microsecond passes. For every command c, queue rest and state
s, step of s with c at the front of its queue is exec of c on s with the queue's rest; a step of a powered block on an empty queue
advances RST_TIME by one, modulo 2^64, counts the hold-off timers of the interrupt controller down by one and leaves every other
field; that tick is the model's own choice (log entry 13), the counter is R515's and the timers are R524's -/
def Obligations.StepRunsFront : Prop :=
  (∀ (c : Instr) (rest : List Instr) (s : State), step { s with pending := c :: rest } = exec c { s with pending := rest }) ∧
  ∀ s : State, s.pending = [] → s.start.powered = true → ∃ t, step s = .next t ∧ ChangesOnly [.rst, .irq] s t ∧
    t.rst = { s.rst with time := (s.rst.time + 1) % 2 ^ 64 } ∧ t.irq = { s.irq with timer := t.irq.timer } ∧
    ∀ g n, tget g s.irq.timer = some n → tget g t.irq.timer = some (n - 1)

/-- Every command has a meaning, and completes wherever the unit it names exists. No command answers a refusal on any state. A command
answers a next state exactly where the hardened configuration and the bay count in force have the unit it names: its ashlar, bay,
stream, quoin, Kewick or memory port, command front, mailbox, function, IDE stream, control or scrubbed memory, interrupt core,
group or line, die sensor; where they have not, it answers the one fault absentUnit (R8). What the next state is, the other
statements say -/
def Obligations.NoCommandIsRefused : Prop :=
  ((∀ (c : Instr) (s : State), (∃ t, exec c s = .next t) ∨ ∃ what, exec c s = .fault (.absentUnit what))) ∧
  (∀ (c : Instr) (s : State), present s c = true → ∃ t, exec c s = .next t) ∧
  ∀ (c : Instr) (s : State), present s c = false → ∃ what, exec c s = .fault (.absentUnit what)

/-- What a command leaves alone. Whenever a command answers a next state, every group of the state outside the ones the statement
lists for that command is as before: the identity store changes by the key port alone, the footing store by its messages, a full
block reset and power-on, firmware images by their messages and resets, the mailboxes by messages, register accesses, bay life and
resets, and so on for every group; the waiting commands and the hardened figures (configuration, stacks, pin rate, PMBus address,
kp_en) never change, so a step removes exactly the front of the queue -/
def Obligations.ReachOfCommands : Prop :=
  (∀ (c : Instr) (s t : State), exec c s = .next t → ChangesOnly (reach c) s t ∧ t.pending = s.pending ∧ t.hw = s.hw) ∧
  ∀ (c : Instr) (rest : List Instr) (s t : State), s.pending = c :: rest → step s = .next t → ChangesOnly (reach c) { s with pending := rest } t ∧ t.pending = rest ∧ t.hw = s.hw

/-- A locked identity store never changes again. From every state whose identity store is locked, every command that answers a next
state leaves the store as it is, resets and power-on included (R338, R339) -/
def Obligations.IdentityStoreLocks : Prop :=
  (∀ (c : Instr) (s t : State), s.ident.locked = true → exec c s = .next t → t.ident = s.ident) ∧
  ∀ s t : State, s.ident.locked = true → step s = .next t → t.ident = s.ident

/-- While the block has no power nothing acts on it. Between the assertion and the release of power-on reset every command but
POWER_ON_RESET_RELEASE that answers a next state leaves the state as it is, and POWER_ON_RESET_RELEASE starts start-up at step 1
with nothing else changed (R571, R573) -/
def Obligations.NothingActsWithoutPower : Prop :=
  (∀ (c : Instr) (s t : State), s.start.powered = false → c ≠ .powerOnResetRelease → exec c s = .next t → t = s) ∧
  ∀ s : State, s.start.powered = false → exec .powerOnResetRelease s = .next { s with start := { powered := true, phase := 1 } }

/-- ADD, SUB, AND, OR, XOR, SHL, SHR, SRA, MUL, SLT and SLTU. A running ashlar whose program counter holds the instruction executes
it: rd takes the result of rs1 and operand 2 (g[rs2] or the sign-extended immediate), shifts use bits 5:0 of operand 2,
comparisons give 1 or 0, the next instruction follows, g0 stays 0, and nothing else changes -/
def Obligations.ScalarArithmetic : Prop :=
  ∀ (s : State) (a : Nat) (w : W64),
    let p := gr (ash s a) (sRs1 w)
    let q := op2 w (ash s a)
    let n := q.toNat % 64
    (issues s a w 0x000 = true → Answers (.add a) s (WritesReg a (sRd w) (p + q) s)) ∧
    (issues s a w 0x001 = true → Answers (.sub a) s (WritesReg a (sRd w) (p - q) s)) ∧
    (issues s a w 0x002 = true → Answers (.and a) s (WritesReg a (sRd w) (p &&& q) s)) ∧
    (issues s a w 0x003 = true → Answers (.or a) s (WritesReg a (sRd w) (p ||| q) s)) ∧
    (issues s a w 0x004 = true → Answers (.xor a) s (WritesReg a (sRd w) (p ^^^ q) s)) ∧
    (issues s a w 0x005 = true → Answers (.shl a) s (WritesReg a (sRd w) (p <<< n) s)) ∧
    (issues s a w 0x006 = true → Answers (.shr a) s (WritesReg a (sRd w) (p >>> n) s)) ∧
    (issues s a w 0x007 = true → Answers (.sra a) s (WritesReg a (sRd w) (p.sshiftRight n) s)) ∧
    (issues s a w 0x008 = true → Answers (.mul a) s (WritesReg a (sRd w) (p * q) s)) ∧
    (issues s a w 0x009 = true → Answers (.slt a) s (WritesReg a (sRd w) (if p.toInt < q.toInt then 1 else 0) s)) ∧
    (issues s a w 0x00A = true → Answers (.sltu a) s (WritesReg a (sRd w) (if p.toNat < q.toNat then 1 else 0) s))

/-- GETS and the branches BEQ, BNE, BLT, BGE, BLTU, JAL and JR. GETS writes the special word of its index (px, py, pw, ph, bound,
args, rerun, seed, grefused, reserved indices 0), sw_grefused is cleared by its read and sw_cycle reads the clocks of the run so
far plus those of waits, a free number; a taken branch goes to its target in 3 clocks and an untaken one to the next instruction
in 1; JAL writes PC + 1 to rd; JR goes to g[rs1] bits 12:0; nothing else changes -/
def Obligations.ScalarControl : Prop :=
  ∀ (s : State) (a : Nat) (w : W64),
    let x := ash s a
    let i := bits (sImm w).toNat 7 0
    let p := gr x (bRs1 w)
    let q := gr x (bRs2 w)
    let branch (c : Instr) (taken : Prop) : Prop :=
      (taken → Answers c s (GoesTo a (bTarget w) 3 s)) ∧ (¬ taken → Answers c s (GoesTo a (x.pc + 1) 1 s))
    (issues s a w 0x010 = true → i ≠ 4 → i ≠ 9 → Answers (.gets a) s (WritesReg a (sRd w) (special x i) s)) ∧
    (issues s a w 0x010 = true → i = 9 → Answers (.gets a) s fun t =>
      OnlyAsh a s t ∧ (ash t a).grefused = 0 ∧ (sRd w ≠ 0 → gr (ash t a) (sRd w) = BitVec.ofNat 64 x.grefused) ∧ (ash t a).pc = x.pc + 1) ∧
    (issues s a w 0x010 = true → i = 4 → Answers (.gets a) s fun t =>
      ∃ k, (sRd w ≠ 0 → gr (ash t a) (sRd w) = BitVec.ofNat 64 (x.cycle + k)) ∧ (ash t a).pc = x.pc + 1 ∧ (ash t a).cycle = x.cycle + k + 1) ∧
    (issues s a w 0x100 = true → branch (.beq a) (p = q)) ∧
    (issues s a w 0x101 = true → branch (.bne a) (p ≠ q)) ∧
    (issues s a w 0x102 = true → branch (.blt a) (p.toInt < q.toInt)) ∧
    (issues s a w 0x103 = true → branch (.bge a) (q.toInt ≤ p.toInt)) ∧
    (issues s a w 0x104 = true → branch (.bltu a) (p.toNat < q.toNat)) ∧
    (issues s a w 0x105 = true → Answers (.jal a) s fun t => OnlyAsh a s t ∧
      ash t a = { x with g := (ash t a).g, pc := bTarget w, cycle := x.cycle + 3, stall := .none } ∧
      ∀ r, gr (ash t a) r = if r = bRd w ∧ r ≠ 0 then BitVec.ofNat 64 (x.pc + 1) else gr x r) ∧
    (issues s a w 0x106 = true → Answers (.jr a) s (GoesTo a (p.toNat % 8192) 3 s))

/-- LD8 to LD64 and ST8 to ST64. A load at a naturally aligned address inside the scratchpad, with no DMA read outstanding on the
ashlar, writes the zero-extended little-endian bytes to rt; a store outside every configured joint region writes the low bytes of
rt at the address computed from base and offset, and every other byte of the scratchpad, every other register and every other
ashlar is as before; a load whose line shows an error in its code is a detection and writes no register: its command re-runs, or
is damaged at rest (the definition lineDetect of R97 and R457) -/
def Obligations.ScalarMemory : Prop :=
  ∀ (s : State) (a : Nat) (w : W64),
    let x := ash s a
    let addr := lAddr w x
    let load (c : Instr) (n : Nat) : Prop := Answers c s fun t =>
      (∀ r, gr (ash t a) r = if r = lRt w ∧ r ≠ 0 then BitVec.ofNat 64 (leNat (mread x.spad addr n)) else gr x r) ∧
      ash t a = { x with g := (ash t a).g, pc := x.pc + 1, cycle := x.cycle + 1, stall := .none } ∧ (∀ b, b ≠ a → ash t b = ash s b) ∧
      ChangesOnly [.grid, .out] s t
    let store (c : Instr) (n : Nat) : Prop := Answers c s fun t => OnlyAsh a s t ∧
      (∀ k, mget (ash t a).spad k =
        if addr ≤ k ∧ k < addr + n then (natLe n (gr x (lRt w)).toNat).getD (k - addr) 0 else mget x.spad k) ∧
      (ash t a).pc = x.pc + 1 ∧ (ash t a).g = x.g ∧ (ash t a).acc = x.acc ∧ (ash t a).v = x.v
    let found (c : Instr) : Prop := Answers c s fun t => t = keep fpWork s (lineDetect a addr s)
    (x.tags = [] → addr % 1 = 0 → addr + 1 ≤ 0x80000 → issues s a w 0x200 = true → load (.ld8 a false) 1) ∧
    (x.tags = [] → addr % 2 = 0 → addr + 2 ≤ 0x80000 → issues s a w 0x201 = true → load (.ld16 a false) 2) ∧
    (x.tags = [] → addr % 4 = 0 → addr + 4 ≤ 0x80000 → issues s a w 0x202 = true → load (.ld32 a false) 4) ∧
    (x.tags = [] → addr % 8 = 0 → addr + 8 ≤ 0x80000 → issues s a w 0x203 = true → load (.ld64 a false) 8) ∧
    (inJoint x addr 1 = false → addr + 1 ≤ 0x80000 → issues s a w 0x204 = true → store (.st8 a) 1) ∧
    (inJoint x addr 2 = false → addr % 2 = 0 → addr + 2 ≤ 0x80000 → issues s a w 0x205 = true → store (.st16 a) 2) ∧
    (inJoint x addr 4 = false → addr % 4 = 0 → addr + 4 ≤ 0x80000 → issues s a w 0x206 = true → store (.st32 a) 4) ∧
    (inJoint x addr 8 = false → addr % 8 = 0 → addr + 8 ≤ 0x80000 → issues s a w 0x207 = true → store (.st64 a) 8) ∧
    (addr + 1 ≤ 0x80000 → issues s a w 0x200 = true → found (.ld8 a true)) ∧
    (addr % 2 = 0 → addr + 2 ≤ 0x80000 → issues s a w 0x201 = true → found (.ld16 a true)) ∧
    (addr % 4 = 0 → addr + 4 ≤ 0x80000 → issues s a w 0x202 = true → found (.ld32 a true)) ∧
    (addr % 8 = 0 → addr + 8 ≤ 0x80000 → issues s a w 0x203 = true → found (.ld64 a true))

/-- The matrix and vector instructions are handed to their units. MLDW, MMA and MZERO join a matrix queue of fewer than 8 and the 17
vector instructions a vector queue of fewer than 16, in order, when their operands are in range; the sequencer goes to the next
instruction and no register, byte or accumulator entry changes yet (R34); with the queue full the sequencer stalls and the
instruction stays -/
def Obligations.UnitQueues : Prop :=
  ∀ (s : State) (a : Nat) (w : W64),
    let x := ash s a
    let mqd : Ashlar := { x with mq := x.mq ++ [{ word := w, h0 := x.serial }] }
    let base := gr x (vBase w)
    let vqd : Ashlar := { x with vq := x.vq ++ [{ word := w, base := base, h0 := x.serial }] }
    let matrix (c : Instr) (ok : Bool) : Prop :=
      (ok = true → x.mq.length < 8 → headIllegal mqd = false → Answers c s (HandsOver a mqd s)) ∧
      (ok = true → x.mq.length = 8 → Answers c s fun t => OnlyAsh a s t ∧ ash t a = { x with stall := .queue, cycle := x.cycle + 1 })
    let vector (c : Instr) : Prop :=
      vPlaceOk w (vAddr base w) = true → inJoint x (vAddr base w) (64 * elemBytes (vType w)) = false →
        (x.vq.length < 16 → Answers c s (HandsOver a vqd s)) ∧
        (x.vq.length = 16 → Answers c s fun t => OnlyAsh a s t ∧ ash t a = { x with stall := .queue, cycle := x.cycle + 1 })
    (issues s a w 0x300 = true → matrix (.mldw a) (tileInRange w)) ∧
    (issues s a w 0x301 = true → matrix (.mma a) (accRowsOk w)) ∧
    (issues s a w 0x302 = true → matrix (.mzero a) (accRowsOk w)) ∧
    (issues s a w 0x400 = true → vector (.vld a)) ∧
    (issues s a w 0x401 = true → vector (.vst a)) ∧
    (issues s a w 0x402 = true → vector (.vlda a)) ∧
    (issues s a w 0x403 = true → vector (.vsta a)) ∧
    (issues s a w 0x404 = true → vector (.vbcast a)) ∧
    (issues s a w 0x410 = true → vector (.vadd a)) ∧
    (issues s a w 0x411 = true → vector (.vsub a)) ∧
    (issues s a w 0x412 = true → vector (.vmul a)) ∧
    (issues s a w 0x413 = true → vector (.vfma a)) ∧
    (issues s a w 0x414 = true → vector (.vmax a)) ∧
    (issues s a w 0x415 = true → vector (.vmin a)) ∧
    (issues s a w 0x416 = true → vector (.vexp2 a)) ∧
    (issues s a w 0x417 = true → vector (.vrcp a)) ∧
    (issues s a w 0x418 = true → vector (.vrsq a)) ∧
    (issues s a w 0x420 = true → vector (.vcvt a)) ∧
    (issues s a w 0x421 = true → vector (.vredsum a)) ∧
    (issues s a w 0x422 = true → vector (.vredmax a))

/-- UNIT_OP_COMPLETE performs the operation at the head of a unit's queue. On a running ashlar with no detection, the row completes
for every operation at the head of the matrix or the vector queue (but a VST into a joint, and an MMA that would come to the head
and is illegal there): the operation leaves its queue, and the other queue, the program counter, the general registers and the
tags are as before, as is every other ashlar. MZERO writes 0 to its rows, MMA and MZERO leave every other accumulator entry, MLDW
fills the shadow buffer from the scratchpad; VADD, VSUB, VMUL, VMAX and VMIN write every lane of vd with the rounded result of the
lanes of va and vb, other vector registers unchanged; VLD of FP32 loads 64 words; VST of FP32 writes no byte outside its 256. With
a detection the row is that detection on the ashlar (the definition ashDetect of R99, R455 and R457); with nothing in the queue,
or on an ashlar that does not run, it changes nothing -/
def Obligations.UnitResults : Prop :=
  ∀ (s : State) (a : Nat), a < ashlars s → s.start.powered = true →
    let x := ash s a
    let matrixNext := matrixDo (unitIncoming s a) s.out.free x
    let frame (t : State) : Prop := (∀ b, b ≠ a → ash t b = ash s b) ∧ (ash t a).pc = x.pc ∧ (ash t a).g = x.g ∧ (ash t a).tags = x.tags ∧
      (ash t a).run = .running
    let matrix (P : State → Prop) : Prop := Answers (.unitOpComplete a .matrix none) s fun t => frame t ∧ (ash t a).mq = x.mq.tail ∧
      (ash t a).vq = x.vq ∧ (ash t a).v = x.v ∧ (ash t a).spad = x.spad ∧ P t
    let vector (P : State → Prop) : Prop := Answers (.unitOpComplete a .vector none) s fun t => frame t ∧ (ash t a).vq = x.vq.tail ∧
      (ash t a).mq = x.mq ∧ P t
    (x.run = .running → x.mq ≠ [] → headIllegal matrixNext = false → matrix fun t =>
      ∀ w, (x.mq.map (·.word)).head? = some w →
        ((codeOf w = 0x301 ∨ codeOf w = 0x302) → ∀ r c, c < 32 → ¬ (maAcc w ≤ r ∧ r < maAcc w + maRows w) → accE (ash t a) r c = accE x r c) ∧
        (codeOf w = 0x302 → ∀ r c, c < 32 → maAcc w ≤ r → r < maAcc w + maRows w → accE (ash t a) r c = 0) ∧
        (codeOf w = 0x300 → (ash t a).acc = x.acc) ∧
        (codeOf w = 0x300 → x.hist = [] → x.tags = [] → mwFmt w = 0 →
          (ash t a).shadow = some { bfmt := 0, elems := mread x.spad (mwLine w * 64) (32 * rowBytesOf 0 (depthK 0)), scales := [] })) ∧
    (x.run = .running → x.vq ≠ [] → vstJoint x = false → vector fun t =>
      ∀ w base h0, x.vq.head? = some { word := w, base := base, h0 := h0 } →
        let f := (fmtOfType (vType w)).getD fp32
        let other (r : Nat) : Prop := ∀ q l, q < 16 → l < 64 → q ≠ r → vr (ash t a) q l = vr x q l
        let lanes (op : Val → Val → Val) : Prop := other (vVd w) ∧
          ∀ l, l < 64 → vr (ash t a) (vVd w) l = laneRound f none (op (lane (vr x (vVa w) l)) (lane (vr x (vVb w) l)))
        (codeOf w ≠ 0x401 → (ash t a).spad = x.spad) ∧ (codeOf w ≠ 0x403 → (ash t a).acc = x.acc) ∧
        (codeOf w = 0x401 ∨ codeOf w = 0x403 → (ash t a).v = x.v) ∧
        (codeOf w = 0x410 → vRnd w = 0 → lanes addV) ∧ (codeOf w = 0x411 → vRnd w = 0 → lanes fun p q => addV p (negV q)) ∧
        (codeOf w = 0x412 → vRnd w = 0 → lanes mulV) ∧ (codeOf w = 0x414 → vRnd w = 0 → lanes maxV) ∧ (codeOf w = 0x415 → vRnd w = 0 → lanes minV) ∧
        (codeOf w = 0x400 → vType w = 0 → x.hist = [] → x.tags = [] → other (vVd w) ∧
          ∀ l, l < 64 → vr (ash t a) (vVd w) l = BitVec.ofNat 32 (leNat (mread x.spad (vAddr base w + 4 * l) 4))) ∧
        (codeOf w = 0x401 → vType w = 0 → ∀ k, ¬ (vAddr base w ≤ k ∧ k < vAddr base w + 256) → mget (ash t a).spad k = mget x.spad k)) ∧
    (∀ cause, x.run = .running → (x.mq ≠ [] → Answers (.unitOpComplete a .matrix (some cause)) s fun t =>
        t = keep fpWork s (ashDetect a cause (if cause = 2 then 2 else 1) (a * 0x80000) s)) ∧
      (x.vq ≠ [] → Answers (.unitOpComplete a .vector (some cause)) s fun t =>
        t = keep fpWork s (ashDetect a cause (if cause = 2 then 2 else 1) (a * 0x80000) s))) ∧
    (∀ det, (x.mq = [] ∨ x.run ≠ .running → exec (.unitOpComplete a .matrix det) s = .next s) ∧
      (x.vq = [] ∨ x.run ≠ .running → exec (.unitOpComplete a .vector det) s = .next s))

/-- DMA, DWAIT and DPOLL. DMA with a descriptor the rules admit, on an idle tag, takes the tag for the transfer and goes on, on a busy
tag it stalls, and where its descriptor's line shows an error it is that detection (lineDetect of R97); DWAIT goes on when every
tag of its mask is idle and stalls otherwise; DPOLL writes the mask of idle tags -/
def Obligations.DmaInstructions : Prop :=
  ∀ (s : State) (a : Nat) (w : W64),
    let x := ash s a
    (issues s a w 0x500 = true → plainDma s a w = true → Answers (.dma a false) s fun t =>
      tget (xSel w) (ash t a).tags = some { d := descOf (mread x.spad (gr x (xRa w)).toNat 64), h0 := x.serial } ∧
      (ash t a).pc = x.pc + 1 ∧ (ash t a).g = x.g ∧ (ash t a).spad = x.spad ∧ ∀ k, k ≠ xSel w → tget k (ash t a).tags = tget k x.tags) ∧
    (issues s a w 0x500 = true → (gr x (xRa w)).toNat % 64 = 0 → (gr x (xRa w)).toNat + 64 ≤ 0x80000 → tget (xSel w) x.tags = none →
      Answers (.dma a true) s fun t => t = keep fpWork s (lineDetect a (gr x (xRa w)).toNat s)) ∧
    (∀ det, issues s a w 0x500 = true → (gr x (xRa w)).toNat % 64 = 0 → (gr x (xRa w)).toNat + 64 ≤ 0x80000 → tget (xSel w) x.tags ≠ none →
      Answers (.dma a det) s fun t => OnlyAsh a s t ∧ ash t a = { x with stall := .tag, cycle := x.cycle + 1 }) ∧
    (issues s a w 0x501 = true → (∀ k, k < 16 → bit (xN w) k = true → tget k x.tags = none) →
      Answers (.dwait a) s (GoesTo a (x.pc + 1) 1 s)) ∧
    (issues s a w 0x501 = true → (∃ k, k < 16 ∧ bit (xN w) k = true ∧ tget k x.tags ≠ none) →
      Answers (.dwait a) s fun t => OnlyAsh a s t ∧ ash t a = { x with stall := .tag, cycle := x.cycle + 1 }) ∧
    (issues s a w 0x502 = true → Answers (.dpoll a) s fun t => WritesReg a (xRd w) (BitVec.ofNat 64 (idleMask x)) s t ∧
      ∀ k, k < 16 → bit (idleMask x) k = (tget k x.tags).isNone)

/-- DMA_READ_COMPLETE and DMA_WRITE_COMPLETE. A finished read of one row from placed memory outside every joint, with no error and no
DMA write under way that could race with it, makes its tag idle and puts the row's bytes, as memory holds them, at the
descriptor's scratchpad address and nowhere else; a finished write in place of one 64-byte line puts the scratchpad's bytes at the
line's physical address and changes no other byte of HBM -/
def Obligations.DmaEnds : Prop :=
  ∀ (s : State) (a tag pa : Nat) (d : DmaDesc) (h0 : Nat), a < ashlars s → s.start.powered = true →
    let x := ash s a
    let c := cmdD s x.cid
    x.run = .running → d.rows = 1 → d.vaddr % 4096 + d.rowBytes ≤ 4096 → 0 < d.rowBytes → c.bay < 16 →
    (∀ k, k < d.rowBytes → ∀ need stale, xlate s c.bay (d.vaddr + k) need stale = .ok (.hbm (pa + k))) →
    s.mem.poison = [] → tget tag x.tags = some { d := d, h0 := h0 } →
    (d.toMem = false → inJoint x d.spadAddr d.rowBytes = false → (∀ e ∈ s.grid.ashlars, ∀ g ∈ e.2.tags, g.2.d.toMem = false) → Answers (.dmaReadComplete a tag {}) s fun t =>
      tget tag (ash t a).tags = none ∧ (∀ b, b ≠ a → ash t b = ash s b) ∧ t.mem = s.mem ∧
      ∀ k, mget (ash t a).spad k = if d.spadAddr ≤ k ∧ k < d.spadAddr + d.rowBytes then mget s.mem.hbm (pa + (k - d.spadAddr)) else mget x.spad k) ∧
    (d.toMem = true → d.notifyEn = false → d.rowBytes = 64 → x.hist = [] → x.tags = [(tag, { d := d, h0 := h0 })] → staged c = false →
      Answers (.dmaWriteComplete a tag {}) s fun t =>
        tget tag (ash t a).tags = none ∧ (ash t a).spad = x.spad ∧
        ∀ k, mget t.mem.hbm k = if pa ≤ k ∧ k < pa + 64 then mget x.spad (d.spadAddr + (k - pa)) else mget s.mem.hbm k)

/-- JCFG, GRANT, SEND, TSEND, WAITJ, POP and JPOLL. Where the rules admit them: JCFG configures a joint with its base, size and slots;
GRANT writes 1 to rd, records the grant and sends a CREDIT; SEND and TSEND take one credit and put the message, with the
scratchpad's bytes, into the network; WAITJ writes the head message's address, length and coordinates; POP frees the head slot and
sends its credit back; JPOLL writes the number of messages; without a credit SEND stalls and TSEND writes 0 and goes on, a payload
line that shows an error is that detection, and WAITJ of an empty joint stalls; a GRANT beyond the slots or the table writes 0;
every other use of a joint is a program violation with reason 0x12 (the definition violation of R66). The joint in a CREDIT's
payload is the model's place for it (log entry 11) -/
def Obligations.JointInstructions : Prop :=
  ∀ (s : State) (a : Nat) (w : W64),
    let x := ash s a
    let p := unpackXy (gr x (xRa w))
    let from_ := (gr x (xRb w)).toNat
    let creditTo (dst n : Nat) (j : Joint) : MMsg :=
      { kind := 1, src := a, dst := dst, payload := natLe 2 n ++ natLe 2 ((j.slotLines - 1) * 64) ++ natLe 1 (xSel w), cid := x.cid }
    let breaks (c : Instr) : Prop := Answers c s fun t => t = keep fpWork s (violation a 0x12 0 0 s)
    (issues s a w 0x600 = true → (gr x (xRa w)).toNat % 64 = 0 → jointOk w x = true → Answers (.jcfg a) s fun t => OnlyAsh a s t ∧
      ash t a = { x with joints := tput (xSel w) (jointOf w x) x.joints, pc := x.pc + 1, cycle := x.cycle + 1, stall := .none }) ∧
    (∀ j, issues s a w 0x601 = true → tget (xSel w) x.joints = some j → inPanel x p.1 p.2 = true → grantOk x j (xSel w) p.1 p.2 (xN w) = true →
      Answers (.grant a) s fun t => t.grid.net = s.grid.net ++ [creditTo (absId x a p.1 p.2) (xN w) j] ∧
        (ash t a).grants = addGrant (xSel w) p.1 p.2 (xN w) x.grants ∧ (xRd w ≠ 0 → gr (ash t a) (xRd w) = 1) ∧ (ash t a).pc = x.pc + 1) ∧
    (∀ k (c : Instr), (c = .send a false ∧ issues s a w 0x602 = true) ∨ (c = .tsend a false ∧ issues s a w 0x603 = true) →
      inPanel x p.1 p.2 = true → creditOf x p.1 p.2 (xSel w) = some k → xN w ≤ k.limit → from_ + xN w ≤ 0x80000 → x.tags = [] →
      Answers c s fun t => t.grid.net = s.grid.net ++ [{ kind := 0, src := a, dst := absId x a p.1 p.2, joint := xSel w, seq := k.seq
                                                         payload := mread x.spad from_ (xN w), cid := x.cid }] ∧
        (ash t a).credits = (takeCreditTo p.1 p.2 (xSel w) x).credits ∧ (ash t a).pc = x.pc + 1 ∧
        (c = .tsend a false → xRd w ≠ 0 → gr (ash t a) (xRd w) = 1)) ∧
    (∀ k (c : Instr), (c = .send a true ∧ issues s a w 0x602 = true) ∨ (c = .tsend a true ∧ issues s a w 0x603 = true) →
      inPanel x p.1 p.2 = true → creditOf x p.1 p.2 (xSel w) = some k → xN w ≤ k.limit → from_ + xN w ≤ 0x80000 → 0 < xN w →
      Answers c s fun t => t = keep fpWork s (lineDetect a from_ s)) ∧
    (∀ det, issues s a w 0x602 = true → inPanel x p.1 p.2 = true → creditOf x p.1 p.2 (xSel w) = none →
      Answers (.send a det) s fun t => OnlyAsh a s t ∧ ash t a = { x with stall := .credit, cycle := x.cycle + 1 }) ∧
    (∀ det, issues s a w 0x603 = true → inPanel x p.1 p.2 = true → creditOf x p.1 p.2 (xSel w) = none →
      Answers (.tsend a det) s (WritesReg a (xRd w) 0 s)) ∧
    (∀ det, inPanel x p.1 p.2 = false ∨ (∃ k, inPanel x p.1 p.2 = true ∧ creditOf x p.1 p.2 (xSel w) = some k ∧ k.limit < xN w) →
      (issues s a w 0x602 = true → breaks (.send a det)) ∧ (issues s a w 0x603 = true → breaks (.tsend a det))) ∧
    (∀ j m ms, issues s a w 0x604 = true → tget (xSel w) x.joints = some j → j.msgs = m :: ms → Answers (.waitj a) s (WritesReg a (xRd w) (waitjWord j m) s)) ∧
    (∀ j, issues s a w 0x604 = true → tget (xSel w) x.joints = some j → j.msgs = [] →
      Answers (.waitj a) s fun t => OnlyAsh a s t ∧ ash t a = { x with stall := .joint, cycle := x.cycle + 1 }) ∧
    (∀ j m ms, issues s a w 0x605 = true → tget (xSel w) x.joints = some j → j.msgs = m :: ms → Answers (.pop a) s fun t =>
      tget (xSel w) (ash t a).joints = some { j with msgs := ms } ∧ (ash t a).pc = x.pc + 1 ∧
      t.grid.net = s.grid.net ++ [creditTo (absId x a m.dx m.dy) 1 j]) ∧
    (∀ j, issues s a w 0x606 = true → tget (xSel w) x.joints = some j →
      Answers (.jpoll a) s (WritesReg a (xRd w) (BitVec.ofNat 64 j.msgs.length) s)) ∧
    (issues s a w 0x600 = true → (gr x (xRa w)).toNat % 64 = 0 → jointOk w x = false → breaks (.jcfg a)) ∧
    (issues s a w 0x601 = true → (tget (xSel w) x.joints = none ∨ inPanel x p.1 p.2 = false) → breaks (.grant a)) ∧
    (∀ j, issues s a w 0x601 = true → tget (xSel w) x.joints = some j → inPanel x p.1 p.2 = true → grantOk x j (xSel w) p.1 p.2 (xN w) = false →
      Answers (.grant a) s (WritesReg a (xRd w) 0 s)) ∧
    (tget (xSel w) x.joints = none → (issues s a w 0x604 = true → breaks (.waitj a)) ∧ (issues s a w 0x605 = true → breaks (.pop a)) ∧
      (issues s a w 0x606 = true → breaks (.jpoll a))) ∧
    (∀ j, issues s a w 0x605 = true → tget (xSel w) x.joints = some j → j.msgs = [] → breaks (.pop a))

/-- FENCE, SIGNAL, ENQ, HALT, TRAP and NOP. FENCE goes on once the units of its mask have finished and stalls before; SIGNAL and ENQ
send one OUTBOX record each to the control corner and count it, an object or a queue they may not name is a program violation with
reason 0x15, and an error in the line of an ENQ is that detection; HALT with empty queues and idle tags stops the ashlar,
unconfigures its joints and sends HALTED; TRAP freezes the ashlar and its command, with an error record of its code; NOP only goes
on -/
def Obligations.ClassSeven : Prop :=
  ∀ (s : State) (a : Nat) (w : W64),
    let x := ash s a
    let c := cmdD s x.cid
    let sends (t : State) (k : CtlKind) : Prop := tget s.grid.nextCtl t.grid.ctl = some { kind := k, a := a, cid := x.cid } ∧ t.grid.nextCtl = s.grid.nextCtl + 1
    (issues s a w 0x700 = true → fenceMet (xN w) x = true → Answers (.fence a) s fun t => OnlyAsh a s t ∧ (ash t a).pc = x.pc + 1 ∧
      (ash t a).spad = x.spad ∧ (ash t a).g = x.g) ∧
    (issues s a w 0x700 = true → fenceMet (xN w) x = false → Answers (.fence a) s fun t => OnlyAsh a s t ∧
      ash t a = { x with stall := .fence, cycle := x.cycle + 1 }) ∧
    (issues s a w 0x701 = true → cmd? s x.cid = some c → (gr x (xRa w)).toNat < syncPerBay s → c.outCount < 512 → Answers (.signal a) s fun t =>
      sends t (.outbox (.signal (gr x (xRa w)).toNat (gr x (xRb w)).toNat)) ∧ (cmdD t x.cid).outCount = c.outCount + 1 ∧ (ash t a).pc = x.pc + 1) ∧
    (issues s a w 0x702 = true → cmd? s x.cid = some c → x.tags = [] → (gr x (xRb w)).toNat % 64 = 0 → (gr x (xRb w)).toNat < 0x80000 →
      revAtLeast s c.bay 2 = true → isDevEnq s c.bay (gr x (xRa w)).toNat = true → c.outCount < 512 → Answers (.enq a false) s fun t =>
      sends t (.outbox (.enq (gr x (xRa w)).toNat (mread x.spad (gr x (xRb w)).toNat 64))) ∧ (cmdD t x.cid).outCount = c.outCount + 1 ∧
        (ash t a).pc = x.pc + 1) ∧
    (issues s a w 0x702 = true → (gr x (xRb w)).toNat % 64 = 0 → (gr x (xRb w)).toNat < 0x80000 → revAtLeast s c.bay 2 = true →
      isDevEnq s c.bay (gr x (xRa w)).toNat = true → Answers (.enq a true) s fun t => t = keep fpWork s (lineDetect a (gr x (xRb w)).toNat s)) ∧
    (∀ det, issues s a w 0x702 = true → (gr x (xRb w)).toNat % 64 = 0 → (gr x (xRb w)).toNat < 0x80000 →
      (revAtLeast s c.bay 2 = false ∨ isDevEnq s c.bay (gr x (xRa w)).toNat = false) →
      Answers (.enq a det) s fun t => t = keep fpWork s (violation a 0x15 0 0 s)) ∧
    (issues s a w 0x701 = true → syncPerBay s ≤ (gr x (xRa w)).toNat → Answers (.signal a) s fun t => t = keep fpWork s (violation a 0x15 0 0 s)) ∧
    (issues s a w 0x703 = true → x.mq = [] → x.vq = [] → x.tags = [] → Answers (.halt a) s fun t =>
      (ash t a).run = .halted ∧ (ash t a).joints = [] ∧ (ash t a).spad = x.spad ∧ sends t .halted) ∧
    (issues s a w 0x703 = true → (x.mq ≠ [] ∨ x.vq ≠ [] ∨ x.tags ≠ []) → Answers (.halt a) s fun t => OnlyAsh a s t ∧
      ash t a = { x with stall := .halt, cycle := x.cycle + 1 }) ∧
    (issues s a w 0x704 = true → cmd? s x.cid = some c → c.placed = true → opc c = opLaunch → panelIds c = [a] → x.tags = [] → Answers (.trap a) s fun t =>
      (ash t a).run = .frozen ∧ (cmdD t x.cid).st = .frozen ∧
      (cmdD t x.cid).viol = some { master := 2, reason := 0x13, ashlar := some a, detail := xN w, address := 0 } ∧ t.plumb.log.prod ≠ s.plumb.log.prod) ∧
    (issues s a w 0x705 = true → Answers (.nop a) s (GoesTo a (x.pc + 1) 1 s))

/-- MSG, DMA_CPL and CREDIT. The oldest message of its source, destination and joint, intact and with the expected seq, leaves the
network for the next slot of its joint at an ashlar that runs its command: the slot holds the header line and the payload, the
joint's queue has the message last and the next expected seq is one more modulo 8; a CREDIT, whose payload is the count, the limit
and the joint, enters the sender's credit table; a message that comes to an ashlar that no longer runs its command is discarded
without effect, whatever its header says; every other ashlar is as before -/
def Obligations.MessagesArrive : Prop :=
  ∀ (s : State) (i : Nat) (m : MMsg), s.start.powered = true → netMsg s i = some m →
    let r := received m none
    let x := ash s m.dst
    let y := slotAddr
    (∀ (c : Instr) rx, (c = .msg i rx ∧ m.kind = 0) ∨ (c = .dmaCpl i rx ∧ m.kind = 2) ∨ (c = .credit i rx ∧ m.kind = 1) → oldestOfPair s i m = true →
      x.cid ≠ m.cid ∨ x.run ≠ .running → exec c s = .next { s with grid := { s.grid with net := s.grid.net.eraseIdx i } }) ∧
    (x.cid = m.cid → x.run = .running → badHeader r = false → hKind r.hdr = m.kind →
    (∀ (c : Instr) (j : Joint), (c = .msg i none ∧ m.kind = 0) ∨ (c = .dmaCpl i none ∧ m.kind = 2) → oldestOfPair s i m = true →
      hSeq r.hdr = tgetD (seqKey (hSrc r.hdr) (hJoint r.hdr)) x.seqIn 0 → tget (hJoint r.hdr) x.joints = some j → Answers c s fun t =>
        t.grid.net = s.grid.net.eraseIdx i ∧ (ash t m.dst).spad = mputs (y j j.head) (slotBytes r.hdr m.payload) x.spad ∧
        (∃ e, tget (hJoint r.hdr) (ash t m.dst).joints = some { j with head := (j.head + 1) % j.slots, msgs := j.msgs ++ [e] } ∧
          e.slot = j.head ∧ e.len = m.payload.length) ∧
        tget (seqKey (hSrc r.hdr) (hJoint r.hdr)) (ash t m.dst).seqIn = some ((hSeq r.hdr + 1) % 8) ∧
        (ash t m.dst).g = x.g ∧ (ash t m.dst).pc = x.pc ∧ t.cmds = s.cmds ∧ ∀ b, b ≠ m.dst → ash t b = ash s b) ∧
    (∀ cs, m.kind = 1 →
      creditIn (m.src % 32 - (m.dst % 32 - x.px)) (m.src / 32 - (m.dst / 32 - x.py)) (fld m.payload 4 1) (fld m.payload 0 2) (fld m.payload 2 2)
        (freshSeq s m.dst m.src (fld m.payload 4 1)) x.credits = some cs → Answers (.credit i none) s fun t =>
        t.grid.net = s.grid.net.eraseIdx i ∧ ash t m.dst = { x with credits := cs } ∧ t.cmds = s.cmds ∧ ∀ b, b ≠ m.dst → ash t b = ash s b))

/-- START, KILL, OUTBOX, HALTED, CTL_ACK and CTL_RESEND_TIMEOUT. A START that has not arrived before sets a running command's ashlar
to its entry state; a KILL stops the ashlar that still runs a command the block has ended; an OUTBOX appends its record to the
command's outbox and a HALTED marks the ashlar halted; each is then owed an acknowledgement, CTL_ACK ends its repetition, and a
time-out sends it again twice; at a third the block declares a hard fault of the ashlar. START and KILL of a command that is gone
or has another state only arrive; each command on a message that is not there, is of another kind or has arrived before, and an
acknowledgement of one that has not, leaves the state as it is -/
def Obligations.ControlMessages : Prop :=
  ∀ (s : State) (i : Nat), s.start.powered = true →
   (ctl? s i = none → ∀ f ∈ [Instr.start, .kill, .outbox, .halted, .ctlAck, .ctlResendTimeout], exec (f i) s = .next s) ∧
   ∀ k : Ctl, ctl? s i = some k →
    let seen (t : State) : Prop := t.grid.net = s.grid.net ∧ tget i t.grid.ctl = some { k with arrived := true }
    let x := ash s k.a
    let c := cmdD s k.cid
    (k.kind = .start → k.arrived = false → cmd? s k.cid = some c → c.st = .running → Answers (.start i) s fun t =>
      let y := ash t k.a
      seen t ∧ y.run = .running ∧ y.cid = c.cid ∧ y.pc = 0 ∧ y.g = [(1, 0x7FF00)] ∧ y.v = [] ∧ y.mq = [] ∧ y.vq = [] ∧ y.tags = [] ∧ y.joints = [] ∧
      y.credits = [] ∧ y.imem = x.imem ∧ (ctxOf c = 0 → y.acc = [] ∧ y.spad = mputs 0x7FF00 (argBytes c) []) ∧ ∀ b, b ≠ k.a → ash t b = ash s b) ∧
    (k.kind = .kill → k.arrived = false → x.cid = k.cid → x.run = .running → c.st ≠ .running → Answers (.kill i) s fun t =>
      seen t ∧ (ash t k.a).run = .idle ∧ (ash t k.a).tags = [] ∧ (ash t k.a).joints = [] ∧ (ash t k.a).spad = x.spad ∧ ∀ b, b ≠ k.a → ash t b = ash s b) ∧
    (∀ r, k.kind = .outbox r → k.arrived = false → cmd? s k.cid = some c → Answers (.outbox i) s fun t =>
      seen t ∧ cmd? t k.cid = some { c with outbox := c.outbox ++ [r] } ∧ ∀ b, ash t b = ash s b) ∧
    (k.kind = .halted → k.arrived = false → cmd? s k.cid = some c → Answers (.halted i) s fun t =>
      seen t ∧ (cmdD t k.cid).st = c.st ∧ k.a ∈ (cmdD t k.cid).halted ∧ ∀ b, ash t b = ash s b) ∧
    (k.kind = .start → k.arrived = false → (∀ d, cmd? s k.cid = some d → d.st ≠ .running) → Answers (.start i) s fun t => seen t ∧ ∀ b, ash t b = ash s b) ∧
    (k.kind = .kill → k.arrived = false → x.cid ≠ k.cid ∨ x.run ≠ .running ∨ c.st = .running → Answers (.kill i) s fun t => seen t ∧ ∀ b, ash t b = ash s b) ∧
    (∀ r, k.kind = .outbox r ∨ k.kind = .halted → k.arrived = false → cmd? s k.cid = none →
      ∀ f ∈ [Instr.outbox, .halted], (k.kind = .halted ↔ f i = .halted i) → Answers (f i) s fun t => seen t ∧ t.cmds = s.cmds) ∧
    (k.kind ≠ .start ∨ k.arrived = true → exec (.start i) s = .next s) ∧ (k.kind ≠ .kill ∨ k.arrived = true → exec (.kill i) s = .next s) ∧
    ((∀ r, k.kind ≠ .outbox r) ∨ k.arrived = true → exec (.outbox i) s = .next s) ∧ (k.kind ≠ .halted ∨ k.arrived = true → exec (.halted i) s = .next s) ∧
    (k.arrived = false → exec (.ctlAck i) s = .next s) ∧
    (2 ≤ k.resent → Answers (.ctlResendTimeout i) s fun t => k.a ∈ t.rst.named ∧ tgetD k.a t.grid.named 0 = tgetD k.a s.grid.named 0 + 1 ∧
      (s.rst.now = none → s.rst.want = none → s.sec.repointing = false → ∃ r, t.rst.want = some r ∧ r.full = false ∧ r.trigger = 1)) ∧
    (k.arrived = true → Answers (.ctlAck i) s fun t => t = { s with grid := { s.grid with ctl := tdrop i s.grid.ctl } } ∧ ctl? t i = none) ∧
    (k.resent < 2 → Answers (.ctlResendTimeout i) s fun t =>
      ∃ n f, (n = s.grid.crcErr ∨ n = min 0xFFFF (s.grid.crcErr + 1)) ∧
        t = { s with grid := { s.grid with ctl := tput i { k with resent := k.resent + 1 } s.grid.ctl, crcErr := n }, out := { s.out with free := f } })

/-- IMAGE_LOAD_COMPLETE and PANEL_DRAINED. When the image of a launch has been read without a fault, every ashlar of the panel has it
in its instruction memory, its length and digest with it, and a START is under way to each; a command all of whose ashlars have
halted, with no traffic and no tag left, goes from RUNNING to COMMITTING and nothing else changes -/
def Obligations.PanelAndImage : Prop :=
  ∀ (s : State) (cid : Nat) (c : Cmd), s.start.powered = true → cmd? s cid = some c →
    (∀ ws, c.loading = true → c.st = .running →
      ((c.words = ws ∧ ws ≠ []) ∨ (c.words = [] ∧ firstFault s c.bay (cf c 0x18 8) (8 * c.desc.imageInstr) 1 false = none ∧
        (readVa s c.bay {} false (cf c 0x18 8) (8 * c.desc.imageInstr)).map wordsOf = some ws)) →
      Answers (.imageLoadComplete cid {}) s fun t => (cmdD t cid).loading = false ∧
        ∀ a, a ∈ panelIds c → (ash t a).imgLen = ws.length ∧ (ash t a).img = some (imageDigest ws) ∧ (ash t a).run = (ash s a).run ∧
          ∃ k, tget k t.grid.ctl = some { kind := .start, a := a, cid := cid }) ∧
    (drained s c = true → c.cid = cid → Answers (.panelDrained cid) s fun t =>
      t = { s with cmds := { s.cmds with all := tput cid { c with st := .committing } s.cmds.all } })

/-- ARCH_DATA and ARCH_CTL. ARCH_DATA to the arch unit puts an ashlar's input slice, as its scratchpad holds it, into the collective's
input at the panel index, while children have still to report; ARCH_DATA to the panel writes the ashlar's slice of the finished
output to its scratchpad; an ARCH_CTL that arrives intact leaves the state as it is -/
def Obligations.SlicesOfACollective : Prop :=
  ∀ (s : State) (cid a : Nat) (x : ColCtx), s.start.powered = true → a < ashlars s → colCtx s cid = some x → x.c.cid = cid → a ∈ panelIds x.c →
    (x.c.st = .running → panelIndex x.c a ∉ x.k.gathered → x.k.verdict = .none → x.k.children.length < (childrenOf x.g).length →
      Answers (.archData cid a false none false) s fun t =>
        (∃ y, colCtx t cid = some y ∧ y.c.st = .running ∧ y.k.gathered = panelIndex x.c a :: x.k.gathered ∧
          y.k.inp = mputs (panelIndex x.c a * sliceBytes x.c (colIn x.c x.g.members x.g.rank))
            (mread (ash s a).spad (cf x.c 0x30 4) (sliceBytes x.c (colIn x.c x.g.members x.g.rank))) x.k.inp) ∧ ∀ b, ash t b = ash s b) ∧
    (x.c.st = .anchored → panelIndex x.c a ∉ x.k.scattered → x.k.verdict = .endpoint ∨ x.k.verdict = .inSwitch →
      colSmall x = true ∨ x.k.got.length = (recvsOf x x.k.verdict).length → Answers (.archData cid a true none false) s fun t =>
        (ash t a).spad = mputs (cf x.c 0x34 4) (mread x.k.out (panelIndex x.c a * sliceBytes x.c (colOut x.c x.g.members))
          (sliceBytes x.c (colOut x.c x.g.members))) (ash s a).spad ∧ ∀ b, b ≠ a → ash t b = ash s b) ∧
    exec (.archCtl a cid none) s = .next s

/-- LIFT_BOUNDARY. At the boundary of a serving block the lift number grows by one modulo 2^64, a waiting period takes effect, a
prepared clock is switched to, the budget is the period times the clock less 12,000, the opening window begins, only planned
commands that fit the budget stay in the plan, and the lift-boundary source is pending -/
def Obligations.LiftBoundary : Prop :=
  ∀ s : State, s.start.powered = true → s.lift.serving = true → Answers .liftBoundary s fun t =>
    t.lift.num = (s.lift.num + 1) % 2 ^ 64 ∧ t.lift.window = .opening ∧ t.lift.throttled = false ∧ t.lift.pending = false ∧
    t.lift.period = (if s.lift.pending then s.lift.next else s.lift.period) ∧
    t.lift.clk = (if s.pwr.req ≠ 0 ∧ s.pwr.ack = true then s.pwr.req else s.lift.clk) ∧
    t.lift.budget = t.lift.period * t.lift.clk - 12000 ∧ t.lift.sealed = none ∧
    (∀ i, i ∈ t.lift.plan → i.offset + i.charge ≤ t.lift.budget) ∧ srcLiftBoundary ∈ t.irq.pend ∧ t.ident = s.ident

/-- OPENING_WINDOW_END and CLOSING_WINDOW_OPEN. In a serving block the opening window ends in the run window and nothing else changes;
the run window ends in the closing window, and a launch that runs then past its bound is counted once as overrun and, unless it
was placed alone, waits READY again with one overrun more; one placed alone completes BOUND_EXCEEDED -/
def Obligations.WindowsOfALift : Prop :=
  ∀ s : State, s.start.powered = true → s.lift.serving = true →
    (s.lift.window = .opening → exec .openingWindowEnd s = .next { s with lift := { s.lift with window := .run } }) ∧
    (s.lift.window = .run → Answers .closingWindowOpen s fun t => t.lift.window = .closing ∧ t.lift.num = s.lift.num) ∧
    (s.lift.window = .run → (s.cmds.all.map Prod.snd).filter (overruns s) = [] → Answers .closingWindowOpen s fun t => t.stat = s.stat ∧ t.grid = s.grid) ∧
    (∀ c, s.lift.window = .run → inFlight s c.cid c → (s.cmds.all.map Prod.snd).filter (overruns s) = [c] → c.solo = false →
      Answers .closingWindowOpen s fun t => (cmdD t c.cid).st = .ready ∧ (cmdD t c.cid).overruns = c.overruns + 1 ∧
        t.stat.overrun = min 0xFFFF (s.stat.overrun + 1) ∧ (bay t c.bay).overrun = min 0xFFFF ((bay s c.bay).overrun + 1)) ∧
    ∀ c, s.lift.window = .run → inFlight s c.cid c → (s.cmds.all.map Prod.snd).filter (overruns s) = [c] → c.solo = true → c.parent = none → c.batch = none →
      Answers .closingWindowOpen s fun t => CompletesWith s c 0x31 (if opc c = opCollective then c.result else 0) t ∧
        t.stat.overrun = min 0xFFFF (s.stat.overrun + 1) ∧ (bay t c.bay).overrun = min 0xFFFF ((bay s c.bay).overrun + 1)

/-- PLAN_SEAL and PLAN_SEAL_DEADLINE. PLAN_SEAL in a serving block that is not shored and has sealed no plan seals one, for the clock
fixed then, and starts nothing: number, window, period and budget of the lift are as before; with no attached bay the plan is
empty; a shored block, or one whose plan is sealed, seals none. The deadline makes the seal-point source pending; a plan not
sealed by then is an empty one, and the late-plan counter, which stops at 255, counts it -/
def Obligations.PlanSeals : Prop :=
  ∀ s : State, s.start.powered = true → s.lift.serving = true →
    (s.rst.shored = true ∨ s.lift.sealed ≠ none → exec .planSeal s = .next s) ∧
    (s.rst.shored = false → s.lift.sealed = none → Answers .planSeal s fun t => t.lift.sealed.isSome = true ∧ t.lift.nextClk = nextClock s ∧
      t.lift.num = s.lift.num ∧ t.lift.window = s.lift.window ∧ t.lift.period = s.lift.period ∧ t.lift.budget = s.lift.budget ∧
      (plannedBays s = [] → t.lift.sealed = some [])) ∧
    (s.lift.sealed ≠ none ∨ s.rst.shored = true → Answers .planSealDeadline s fun t => ChangesOnly [.irq] s t ∧ srcSealPoint ∈ t.irq.pend) ∧
    (s.lift.sealed = none → s.rst.shored = false → Answers .planSealDeadline s fun t => srcSealPoint ∈ t.irq.pend ∧ t.lift.sealed = some [] ∧
      t.stat.latePlan = min 255 (s.stat.latePlan + 1) ∧ t.dev.mgrEv.prod = (s.dev.mgrEv.prod + 1) % 2 ^ 32 ∧ t.cmds = s.cmds ∧ t.lift.plan = s.lift.plan)

/-- COMMAND_START. A planned command that may start, whose declared pages are mapped with their permissions and whose host output
pages have their translations, is RUNNING and holds its output translations; a LAUNCH has a START under way to each ashlar of its
panel or its image is loading; a QUOIN_LAUNCH has its record driven to the engine, which holds its number; a COLLECTIVE with
children to wait for has its panel and the hash of its record -/
def Obligations.CommandStarts : Prop :=
  ∀ (s : State) (cid : Nat) (c : Cmd), inFlight s cid c → mayStart s c = true → declFault s c = none → outFault s c = none →
    atsMiss s c.bay (outHost s c) = none → atsDenied s c.bay 2 (outHost s c) = none →
    (opc c = opLaunch → Answers (.commandStart cid) s fun t => (cmdD t cid).st = .running ∧ (cmdD t cid).transPages = (outPages s c).map (·.1) ∧
      (c.redet = false → t.mem = s.mem) ∧
      ((cmdD t cid).loading = true ∨ ∀ a, a ∈ panelIds c → ∃ k, tget k t.grid.ctl = some { kind := .start, a := a, cid := cid, hdr := ctlHdr 5 a })) ∧
    (opc c = opQuoin → Answers (.commandStart cid) s fun t => (cmdD t cid).st = .running ∧ (qport t (wOf c)).cid = some cid ∧
      ∃ va, t.out.log = .quoinCmd (wOf c) (quoinBeats c va) :: s.out.log) ∧
    (∀ x, opc c = opCollective → colCtx s cid = some x → x.g.abandoned = [] → x.g.verdicts = [] → x.k.sentUp = false →
      (x.k.children ++ (x.g.early.filter fun e => e.1 == x.k.seq % 16).map (·.2)).length < (childrenOf x.g).length →
      Answers (.commandStart cid) s fun t => ∃ y, colCtx t cid = some y ∧ y.c.st = .running ∧ y.k.hash = colHash c x.g x.k.seq ∧
        y.k.children = x.k.children ++ (x.g.early.filter fun e => e.1 == x.k.seq % 16).map (·.2) ∧ ∀ a, a ∈ panelIds c → (ash t a).cid = cid)

/-- COMMIT_POINT and POST_COMMIT_COPY_DONE. A COMMITTING command of a ring first copies its staged outputs, once; an error met by that
copy is a detection and re-runs it. It then waits while a slot or its host is wanting; told to abort before, it completes ABORTED
with nothing released; with more chunks to come it is READY for the next one; else it passes its commit point: with an empty
outbox it completes, with one SIGNAL record the sync object takes the greater value and it completes, and its header signal is
released; with a declared range to copy it is committed and still owed its copy, whose end, with every remote effect answered,
completes it -/
def Obligations.CommitPoint : Prop :=
  ∀ (s : State) (cid : Nat) (c : Cmd), inFlight s cid c → c.parent = none →
    (c.st = .committing → c.committed = false →
      (∀ cause, staged c = true → c.copied = false → c.abort = false → c.dets.length < 2 → Answers (.commitPoint cid { det := some cause }) s fun t =>
        (cmdD t cid).st = .ready ∧ (cmdD t cid).reruns = c.reruns + 1 ∧ (cmdD t cid).committed = false) ∧
      let u := copyOut cid s
      let room := enqRoom u c && cqRoomFor u c && !(hostShut u c.bay && hostBound c)
      (room = false → Answers (.commitPoint cid {}) s fun t => cmd? t cid = some { c with copied := true } ∧ t.mem = u.mem) ∧
      (room = true → c.abort = true → c.batch = none →
        Answers (.commitPoint cid {}) s (CompletesWith s c 0x10 (if opc c = opCollective then c.result else 0))) ∧
      (∀ w, room = true → c.abort = false → c.walk = some w → w.chunk + 1 < w.chunks → Answers (.commitPoint cid {}) s fun t =>
        (cmdD t cid).st = .ready ∧ (cmdD t cid).committed = false ∧ (cmdD t cid).walk.map (·.chunk) = some (w.chunk + 1)) ∧
      (room = true → c.abort = false → moreChunks c = false → c.batch = none → c.remoteLeft = 0 → c.effq = [] → (c.outbox = [] ∨ ∃ o v, c.outbox = [.signal o v]) →
        Answers (.commitPoint cid {}) s fun t => CompletesWith s c c.code c.result t ∧
          (∀ o v, c.outbox = [.signal o v] → flag c 5 = false → syncVal t c.bay o = max v (syncVal s c.bay o)) ∧
          (c.outbox = [] → flag c 5 = true → syncVal t c.bay (cf c 4 2) = max (cf c 0x10 8) (syncVal s c.bay (cf c 4 2)))) ∧
      (room = true → c.abort = false → moreChunks c = false → c.outbox ≠ [] → (∀ r, r ∈ c.outbox → ∃ va n h, r = .range va n h) → Answers (.commitPoint cid {}) s fun t =>
        (cmdD t cid).committed = true ∧ (cmdD t cid).copyOwed = true)) ∧
    (c.committed = true → c.copyOwed = true → c.batch = none → c.remoteLeft = 0 → Answers (.postCommitCopyDone cid) s (CompletesWith s c c.code c.result)) ∧
    (c.committed = true → c.copyOwed = true → c.remoteLeft ≠ 0 → Answers (.postCommitCopyDone cid) s fun t =>
      cmd? t cid = some { c with copyOwed := false, stage := [], stageAt := [] })

/-- JOURNAL_REPLAY_DONE and CONTEXT_SWITCH_DONE. The pending journal of a context no command of which runs is put back, newest record
first, on every ashlar of its panel, and nowhere else; a context switched out leaves its panel, its save image holding each
ashlar's scratchpad without the argument window and its accumulator; one switched in is resident with its image on each ashlar,
and both swap counters count it; it waits while another context holds one of them; the image it writes ends the poison of its
blocks, and a block of the home region whose MAC fails twice as it is read is poisoned in class 7 and damages the context -/
def Obligations.Contexts : Prop :=
  ∀ (s : State) (b h : Nat) (x : Ctx), s.start.powered = true → b < s.bays.count → ctx? s b h = some x →
    let harmed (blk : Nat) (i : Instr) : Prop := tget blk s.mem.poison = none → ((bayCmds s b).any fun c => ctxOf c == h) = false →
      Answers i s fun t => tget blk t.mem.poison = some 7 ∧ ∃ y, ctx? t b h = some y ∧ y.damaged = true
    (x.pending = true → ctxBusy s b h = false → (ctxIds x).Nodup → Answers (.journalReplayDone b h) s fun t =>
      ctx? t b h = some { x with pending := false } ∧ (∀ a, a ∈ ctxIds x → ash t a = replayAsh (ash s a)) ∧ (∀ a, a ∉ ctxIds x → ash t a = ash s a) ∧ ChangesOnly [.grid, .bays] s t) ∧
    (∀ blk o, x.pending = true → ctxBusy s b h = false → homeOff s b x blk = some o → imageBytes x ≤ o → o < 2 * imageBytes x → harmed blk (.journalReplayDone b h { bad := [(blk, false)] })) ∧
    (x.switch = .out → x.pending = false → Answers (.contextSwitchDone b h) s fun t => ChangesOnly [.bays, .mem] s t ∧ t.mem = { s.mem with poison := t.mem.poison } ∧
      (∀ blk, (∀ o, homeOff s b x blk = some o → o < imageBytes x → tget blk t.mem.poison = none) ∧
        ((∀ o, homeOff s b x blk = some o → imageBytes x ≤ o) → tget blk t.mem.poison = tget blk s.mem.poison)) ∧
      ∃ y, ctx? t b h = some y ∧ y.resident = none ∧ y.switch = .none ∧ y.slot = false ∧
        ∀ k a, (ctxIds x)[k]? = some a → ∃ i, tget k y.images = some i ∧ i.acc = (ash s a).acc ∧
          ∀ p, mget i.spad p = if 0x7FF00 ≤ p ∧ p < 0x80000 then 0 else mget (ash s a).spad p) ∧
    (∀ x0 y0, x.switch = .into x0 y0 → ((bay s b).strm.ctxs.any fun y => y.handle != h && (ctxIds y).any ((rectIds x0 y0 x.w x.h).contains ·)) = true →
      exec (.contextSwitchDone b h) s = .next s) ∧
    (∀ x0 y0, x.switch = .into x0 y0 → (rectIds x0 y0 x.w x.h).Nodup →
      ((bay s b).strm.ctxs.any fun y => y.handle != h && (ctxIds y).any ((rectIds x0 y0 x.w x.h).contains ·)) = false →
      Answers (.contextSwitchDone b h) s fun t => ctx? t b h = some { x with resident := some (x0, y0), switch := .none, slot := false } ∧
        ChangesOnly [.stat, .grid, .bays] s t ∧ t.stat.swaps = min 0xFFFF (s.stat.swaps + 1) ∧ (bay t b).swaps = min 0xFFFF ((bay s b).swaps + 1) ∧
        ∀ k a, (rectIds x0 y0 x.w x.h)[k]? = some a → (ash t a).spad = (tgetD k x.images {}).spad ∧ (ash t a).acc = (tgetD k x.images {}).acc ∧ (ash t a).journal = (tgetD k x.images {}).journal) ∧
    (∀ x0 y0 blk o, x.switch = .into x0 y0 → ((bay s b).strm.ctxs.any fun y => y.handle != h && (ctxIds y).any ((rectIds x0 y0 x.w x.h).contains ·)) = false →
      homeOff s b x blk = some o → o < 2 * imageBytes x → harmed blk (.contextSwitchDone b h { bad := [(blk, false)] }))

/-- SQ_WP_WRITE, CQ_HEAD_WRITE and EQI_NEG_WRITE. A write the function's BARs do not accept is answered Unsupported Request and
nothing else happens. Else a doorbell of a queue the bay does not have, of a form or value that is to be ignored, of a
device-written queue, or while the block repoints, is counted and ignored; one not above the position in force has no effect; one
beyond the ring is recorded and ignored; one that names a greater position within the ring moves sq_wp there, counts as progress
and wakes an idle queue; one of cq_head between the old head and what has been written frees the slots up to it; EQI_NEG takes a
revision the block implements and refuses another, until one has been taken -/
def Obligations.Doorbells : Prop :=
  ∀ (s : State) (b q off size v : Nat) (bt : Option Nat), s.start.powered = true → b < s.bays.count →
    let sq : Instr := .sqWpWrite b q off size v bt
    let cq : Instr := .cqHeadWrite b q off size v bt
    (barOpen s b bt = false → exec sq s = .next (emit .unsupportedRequest s) ∧ exec cq s = .next (emit .unsupportedRequest s) ∧
      ∀ w, exec (.eqiNegWrite b w bt) s = .next (emit .unsupportedRequest s)) ∧
    (barOpen s b bt = true →
      (s.sec.repointing = true ∨ queue? s b q = none → exec sq s = .next (countIgnored s) ∧ exec cq s = .next (countIgnored s)) ∧
      (∀ x, s.sec.repointing = false → queue? s b q = some x →
        (dbValue s b x.wp off size v = none → exec sq s = .next (countIgnored s)) ∧
        (dbValue s b x.cqHead off size v = none → exec cq s = .next (countIgnored s)) ∧
        (∀ n, dbValue s b x.wp off size v = some n →
          (bit x.qflags 2 = true → exec sq s = .next (countIgnored s)) ∧
          (bit x.qflags 2 = false → n ≤ x.wp → exec sq s = .next s) ∧
          (bit x.qflags 2 = false → x.wp < n → 2 ^ x.log2Ring < n - oldestPos s b q x → Answers sq s fun t =>
            queue? t b q = some x ∧ t.cmds = s.cmds ∧ t.dev.ignoredDb = min 0xFFFF (s.dev.ignoredDb + 1) ∧ (bay t b).eqi.errSeq = (bay s b).eqi.errSeq + 1) ∧
          (bit x.qflags 2 = false → x.wp < n → n - oldestPos s b q x ≤ 2 ^ x.log2Ring → Answers sq s fun t =>
            queue? t b q = some { x with wp := n, idle := false, asked := x.asked || x.idle } ∧ (bay t b).progress = ((bay s b).progress + 1) % 2 ^ 32 ∧
            (x.idle = true → srcDoorbell ∈ t.irq.pend) ∧ t.cmds = s.cmds ∧ t.mem = s.mem)) ∧
        ∀ n, dbValue s b x.cqHead off size v = some n →
          (n < x.cqHead ∨ x.cqNext < n → exec cq s = .next (countIgnored s)) ∧
          (n = x.cqHead → n ≤ x.cqNext → exec cq s = .next s) ∧
          (x.cqHead < n → n ≤ x.cqNext → Answers cq s fun t => (bay t b).progress = ((bay s b).progress + 1) % 2 ^ 32 ∧
            ∃ y, queue? t b q = some y ∧ y.cqHead = n ∧ y.cqNext + y.owed.length = x.cqNext + x.owed.length)) ∧
      ∀ w : BitVec 32, (s.sec.repointing = true ∨ (bay s b).st = .absent → exec (.eqiNegWrite b w bt) s = .next s) ∧
        (s.sec.repointing = false → (bay s b).st ≠ .absent → Answers (.eqiNegWrite b w bt) s fun t =>
          let e := (bay s b).eqi
          let major := bits w.toNat 15 8
          let minor := bits w.toNat 7 0
          (bay t b).eqi = if e.negDone then e else { e with major := major, minor := minor, negDone := revKnown major minor, negRefused := !revKnown major minor }))

/-- FRONT_BIND and FRONT_FETCH. FRONT_BIND binds the bay's lowest free front to the queue that is next, with none fetched, and nothing
happens without a queue or a front. FRONT_FETCH of a bound front: where the bay may not fetch the binding ends; after the last
entry the write position is read again, and the binding goes on or ends; at the bay's limit the limit source is raised; a queue
without an entry ends the binding, counted when nothing was fetched; else it takes the entry at the fetch position: the position
and the command number move on by one, an entry that passes every check waits as a new command (a COLLECTIVE with its sequence
number), one refused completes with its code, a privilege violation freezes its queue, and a ring that cannot be read freezes its
queue with nothing fetched -/
def Obligations.FrontsFetch : Prop :=
  ∀ (s : State) (b q f : Nat), s.start.powered = true →
    (b < s.bays.count → nextQueue s b = none ∨ freeFront s b = none → exec (.frontBind b) s = .next s) ∧
    (b < s.bays.count → nextQueue s b = some q → freeFront s b = some f → Answers (.frontBind b) s fun t =>
      tget f t.dev.fronts = some { bay := b, queue := q } ∧ (∀ g, g ≠ f → tget g t.dev.fronts = tget g s.dev.fronts) ∧ t.cmds = s.cmds ∧
      ∀ x, queue? s b q = some x → queue? t b q = some { x with unbound := 0, asked := false }) ∧
    ∀ fr x env, f < fronts s → tget f s.dev.fronts = some fr → fr.bay = b → fr.queue = q → queue? s b q = some x →
      let go := .frontFetch f env
      (mayFetch s b = false → exec go s = .next (releaseFront f s)) ∧
      (mayFetch s b = true → fr.reread = true → activeQ x = false → exec go s = .next (releaseFront f s)) ∧
      (mayFetch s b = true → fr.reread = true → activeQ x = true → Answers go s fun t => queue? t b q = some { x with idle := false } ∧ t.cmds = s.cmds ∧
        tget f t.dev.fronts = if 16 ≤ fr.fetched then none else some { fr with reread := false }) ∧
      (mayFetch s b = true → fr.reread = false → fetchLimit s ≤ heldCount s b → exec go s = .next (raise srcFetchLimit s)) ∧
      (mayFetch s b = true → fr.reread = false → heldCount s b < fetchLimit s →
        (activeQ x = false → Answers go s fun t => tget f t.dev.fronts = none ∧ t.cmds = s.cmds ∧
          t.dev.wastedFetch = if fr.fetched = 0 then min 0xFFFF (s.dev.wastedFetch + 1) else s.dev.wastedFetch) ∧
        (activeQ x = true → oldestPos s b q x + 2 ^ x.log2Ring ≤ x.fetch → exec go s = .next s) ∧
        (activeQ x = true → x.fetch < oldestPos s b q x + 2 ^ x.log2Ring → atsMiss s b (entryHost x) = none → atsDenied s b 1 (entryHost x) = none →
          (∀ a p, ringRead s b x env = .failed a p → Answers go s fun t => t.cmds = s.cmds ∧ ∃ y, queue? t b q = some y ∧ y.frozen = true ∧ y.fetch = x.fetch) ∧
          ∀ e, ringRead s b x env = .bytes e →
            (Answers go s fun t => t.cmds.next = s.cmds.next + 1 ∧ ∃ y, queue? t b q = some y ∧ y.fetch = x.fetch + 1) ∧
            (∀ d, entryVerdict s b q x e env = .go d → Answers go s fun t =>
              cmd? t s.cmds.next = some { (numberCol d (tookEntry s b q x e)).1 with st := .waiting }) ∧
            (∀ r, entryVerdict s b q x e env = .no r → Answers go s
              (CompletesWith (tookEntry s b q x e) (entryCmd s b q x e) r.code (numberCol (entryCmd s b q x e) (tookEntry s b q x e)).1.result)) ∧
            (entryVerdict s b q x e env = .priv → Answers go s fun t => (queue? t b q).map (·.frozen) = some true ∧
              CompletesWith (tookEntry s b q x e) (entryCmd s b q x e) 0x22 0 t)))

/-- LAUNCH, QUOIN_LAUNCH, COLLECTIVE, STREAM_STEP, STREAM_FILL and GRAPH_LAUNCH. A command whose wait is met and whose order allows it
leaves WAITING: a LAUNCH is READY with the seed its entry gives from revision 3.4 on, or a random draw; QUOIN_LAUNCH and
COLLECTIVE are READY and nothing else changes; STREAM_STEP and STREAM_FILL are READY, or complete STREAM_LOST or STREAM_FULL where
their stream is lost or has no room; GRAPH_LAUNCH takes one command number for each body entry and runs with the current
generation pinned until all of them are DONE -/
def Obligations.LaunchesLeave : Prop :=
  ∀ (s : State) (cid : Nat) (c : Cmd),
    let ready (t : State) : Prop := t = { s with cmds := { s.cmds with all := tput cid { c with st := .ready } s.cmds.all } }
    (leaves s cid c opLaunch → c.seeded = false → Answers (.launch cid) s fun t => (cmdD t cid).st = .ready ∧ (cmdD t cid).seeded = true ∧ t.grid = s.grid ∧
      if revAtLeast s c.bay 4 = true ∧ (cf c 0x30 8 ≠ 0 ∨ cf c 0x38 8 ≠ 0) then
        (cmdD t cid).seedLo = BitVec.ofNat 64 (cf c 0x30 8) ∧ (cmdD t cid).seedHi = BitVec.ofNat 64 (cf c 0x38 8) ∧ t.out = s.out
      else (cmdD t cid).seedLo = (randVal s).truncate 64 ∧ (cmdD t cid).seedHi = (randVal s >>> 64).truncate 64 ∧ t.out.random = s.out.random + 1) ∧
    (leaves s cid c opLaunch → c.seeded = true → Answers (.launch cid) s ready) ∧
    (leaves s cid c opQuoin → Answers (.quoinLaunch cid) s ready) ∧
    (leaves s cid c opCollective → Answers (.collective cid) s ready) ∧
    (∀ i : Instr, (i = .streamStep cid ∧ leaves s cid c opStreamStep) ∨ (i = .streamFill cid ∧ leaves s cid c opStreamFill) →
      (streamVerdict s c = none → Answers i s ready) ∧
      ((stream s c.bay (cf c 0x18 4)).state = .lost → c.parent = none → c.batch = none → Answers i s (CompletesWith s c 0x41 0)) ∧
      ((stream s c.bay (cf c 0x18 4)).state ≠ .lost → c.parent = none → c.batch = none →
        (stream s c.bay (cf c 0x18 4)).limit < (stream s c.bay (cf c 0x18 4)).position + (if opc c = opStreamFill then cf c 0x1C 4 else 1) →
        Answers i s (CompletesWith s c 0x40 0))) ∧
    (∀ g, leavesRing s cid c opGraphLaunch → cid < s.cmds.next → graph? s c.bay (cf c 0x18 4) = some g → Answers (.graphLaunch cid {}) s fun t =>
      t.cmds.next = s.cmds.next + g.body.length ∧
      (cmd? t cid = none ∨ ((cmdD t cid).st = .running ∧ (cmdD t cid).gen = g.gen ∧
        ∃ k, graph? t c.bay (cf c 0x18 4) = some k ∧ (cid, g.gen) ∈ k.pins))) ∧
    (leavesRing s cid c opGraphLaunch → graph? s c.bay (cf c 0x18 4) = none → Answers (.graphLaunch cid {}) s (CompletesWith s c 0x23 0))

/-- GRAPH_CREATE, GRAPH_DESTROY, PATCH, CONTEXT_CREATE and CONTEXT_DESTROY. GRAPH_CREATE stores the body and the initial parameters
under the bay's next handle, which it returns; GRAPH_DESTROY removes a graph that no model owns and no launch uses, is refused
GRAPH_IN_USE code 0x28 where one does and 0x23 where there is none; PATCH makes the next generation from the current one with the
bytes taken at fetch, and returns its number; CONTEXT_CREATE makes a context of zeros with the next handle, or completes 0x34
without room; CONTEXT_DESTROY removes one that no command in flight names -/
def Obligations.GraphsAndContexts : Prop :=
  ∀ (s : State) (cid : Nat) (c : Cmd),
    let b := c.bay
    let h := cf c 0x18 4
    let st (t : State) := (bay t b).strm
    let fits (n : Nat) : Prop := n ≤ freeFrames s b
    (leavesRing s cid c 0x10 → fits (ceilDiv (2 * cf c 0x24 4) 0x200000) → Answers (.graphCreate cid) s fun t => CompletesWith s c 0 (st s).nextGraph t ∧
      (st t).nextGraph = (st s).nextGraph + 1 ∧ ∃ g, (st t).graphs = (st s).graphs ++ [g] ∧ g.handle = (st s).nextGraph ∧ g.paramBytes = cf c 0x24 4 ∧ g.gen = 0 ∧
        g.body = (List.range (cf c 0x20 2)).map (bodyEntry c) ∧ ∀ k, k < cf c 0x24 4 → mget g.r0 k = mget c.stage (2 ^ 20 + k)) ∧
    (leavesRing s cid c 0x10 → ¬ fits (ceilDiv (2 * cf c 0x24 4) 0x200000) → Answers (.graphCreate cid) s (CompletesWith s c 0x34 0)) ∧
    (∀ g, leavesRing s cid c 0x11 → graph? s b h = some g → g.owner = none →
      ((bayCmds s b).any fun k => (opc k == opGraphLaunch || opc k == 0x12) && k.parent.isNone && cf k 0x18 4 == h) = false →
      Answers (.graphDestroy cid) s fun t => CompletesWith s c 0 0 t ∧ graph? t b h = none ∧ ∀ n, n ≠ h → graph? t b n = graph? s b n) ∧
    (∀ g, leavesRing s cid c 0x11 → graph? s b h = some g → g.owner ≠ none → Answers (.graphDestroy cid) s (CompletesWith s c 0x28 0)) ∧
    (∀ g, leavesRing s cid c 0x12 → graph? s b h = some g → (g.pins.any fun p => p.2 + 1 == g.gen) = false → Answers (.patch cid) s fun t =>
      CompletesWith s c 0 (g.gen + 1) t ∧ ∃ k, graph? t b h = some k ∧ k.gen = g.gen + 1 ∧ k.body = g.body ∧ k.pins = g.pins ∧
        regionOf k k.gen = mputs (cf c 0x1C 4) (mread c.stage 0 (cf c 0x20 4)) (regionOf g g.gen) ∧ regionOf k g.gen = regionOf g g.gen) ∧
    (leavesRing s cid c 0x13 → fits (ctxExtents (wOf c) (hOf c)) → Answers (.contextCreate cid) s fun t => CompletesWith s c 0 (st s).nextCtx t ∧
      (st t).nextCtx = (st s).nextCtx + 1 ∧ (st t).ctxs = (st s).ctxs ++ [{ handle := (st s).nextCtx, w := wOf c, h := hOf c, home := highFrames s b (ctxExtents (wOf c) (hOf c)) }]) ∧
    (leavesRing s cid c 0x13 → ¬ fits (ctxExtents (wOf c) (hOf c)) → Answers (.contextCreate cid) s (CompletesWith s c 0x34 0)) ∧
    (leavesRing s cid c 0x14 → ((st s).ctxs.any fun x => x.handle == h) = true → ((bayCmds s b).any fun k => ctxOf k == h) = false →
      Answers (.contextDestroy cid) s fun t => CompletesWith s c 0 0 t ∧ ctx? t b h = none ∧ ∀ n, n ≠ h → ctx? t b n = ctx? s b n) ∧
    (leavesRing s cid c 0x14 → ((st s).ctxs.any fun x => x.handle == h) = false → Answers (.contextDestroy cid) s (CompletesWith s c 0x23 0))

/-- QUEUE_CREATE, QUEUE_DESTROY, SET_PRIORITY, ABORT, EVENT and EVENT_READ. QUEUE_CREATE makes the queue its entry describes, with
positions 0, and completes 0x23 where the queue exists or its rings may not be; QUEUE_DESTROY of an idle queue frees it;
SET_PRIORITY sets the priority; ABORT of itself completes OK, of a position not yet written or of a queue that does not exist
0x23, of one long DONE 0x11, of one not yet fetched OK with the position marked, and of a command in flight OK with its abort flag
set or the command gone; EVENT completes with OK and releases its signal; EVENT_READ puts the values of the sync objects at its
address -/
def Obligations.QueuesAndEvents : Prop :=
  ∀ (s : State) (cid : Nat) (c : Cmd),
    let b := c.bay
    let q := cf c 0x18 2
    let pos := cf c 0x20 8
    (∀ denied, leavesRing s cid c 0x26 → queue? s b q = none → ringsOk s b denied (newQueue c) = true → Answers (.queueCreate cid denied) s fun t =>
      CompletesWith s c 0 0 t ∧ queue? t b q = some (newQueue c)) ∧
    (∀ denied, leavesRing s cid c 0x26 → (queue? s b q).isSome = true ∨ ringsOk s b denied (newQueue c) = false → Answers (.queueCreate cid denied) s (CompletesWith s c 0x23 0)) ∧
    (∀ x, leavesRing s cid c 0x27 → queue? s b q = some x → q ≠ 0 → q ≠ c.queue → x.destroyer = none → queueCmds s b q = [] → x.owed = [] → fetchTo x ≤ x.fetch →
      Answers (.queueDestroy cid) s fun t => CompletesWith s c 0 0 t ∧ queue? t b q = none) ∧
    (leavesRing s cid c 0x27 → queue? s b q = none ∨ q = 0 ∨ q = c.queue → Answers (.queueDestroy cid) s (CompletesWith s c 0x23 0)) ∧
    (leavesRing s cid c 0x23 → (queue? s b q).isSome = true → Answers (.setPriority cid) s fun t =>
      CompletesWith s c 0 0 t ∧ (queue? t b q).map (·.prio) = some (cf c 0x1B 1)) ∧
    (leavesRing s cid c 0x15 → q = c.queue → pos = c.pos → Answers (.abort cid) s (CompletesWith s c 0 0)) ∧
    (leavesRing s cid c 0x15 → queue? s b q = none → Answers (.abort cid) s (CompletesWith s c 0x23 0)) ∧
    (∀ x, leavesRing s cid c 0x15 → queue? s b q = some x → q ≠ c.queue →
      (x.wp ≤ pos → Answers (.abort cid) s (CompletesWith s c 0x23 0)) ∧
      (pos < x.wp → pos < oldestPos s b q x → Answers (.abort cid) s (CompletesWith s c 0x11 0)) ∧
      (pos < x.wp → oldestPos s b q x ≤ pos → x.fetch ≤ pos → Answers (.abort cid) s fun t =>
        CompletesWith s c 0 0 t ∧ ∃ y, queue? t b q = some y ∧ pos ∈ y.aborts) ∧
      ∀ k, pos < x.wp → oldestPos s b q x ≤ pos → pos < x.fetch → inFlight s k.cid k →
        ((bayCmds s b).find? fun c => c.queue == q && c.pos == pos && c.parent.isNone && c.batch.isNone) = some k →
        Answers (.abort cid) s fun t => CompletesWith s c 0 0 t ∧ (cmd? t k.cid = none ∨ (cmdD t k.cid).abort = true)) ∧
    (leavesRing s cid c 0x16 → cf c 6 1 = 0 → Answers (.event cid) s (CompletesWith s c 0 0)) ∧
    (leavesRing s cid c 0x16 → cf c 6 1 = 0 → flag c 5 = true → Answers (.event cid) s fun t =>
      syncVal t b (cf c 4 2) = max (cf c 0x10 8) (syncVal s b (cf c 4 2))) ∧
    (∀ x pa, leavesRing s cid c 0x16 → cf c 6 1 = 1 → queue? s b c.queue = some x → bit x.qflags 1 = true → readFails s c none = none →
      hostShut s b = false → pos % 4096 + 8 * cf c 0x1A 2 ≤ 4096 → b < 16 →
      (∀ k, k < 8 * cf c 0x1A 2 → ∀ need stale, xlate s b (pos + k) need stale = .ok (.hbm (pa + k))) → Answers (.eventRead cid none) s fun t =>
        CompletesWith s c 0 0 t ∧ ∀ i, i < cf c 0x1A 2 → leNat (mread t.mem.hbm (pa + 8 * i) 8) = syncVal s b (q + i) % 2 ^ 64)

/-- MAP, UNMAP and INVALIDATE. A MAP that R387 refuses completes with the refusal's code; one of host memory or of a remote window
adds its run of pages, one of placed memory places every extent of its range with its permission; UNMAP removes the extents and
the mapped pages of its range, which then await invalidation, and completes 0x23 where it would cut an extent; INVALIDATE, with no
command running, ends the wait of its pages and drops their cached host translations -/
def Obligations.MapsOfABay : Prop :=
  ∀ (s : State) (cid : Nat) (c : Cmd),
    let b := c.bay
    let m := (bay s b).mem
    let va := cf c 0x18 8
    let n := cf c 0x20 8
    let p := va / 4096
    let k := n / 4096
    (∀ code, leavesRing s cid c 0x20 → mapRefusal s c = some code → Answers (.map cid) s (CompletesWith s c code 0)) ∧
    (leavesRing s cid c 0x20 → mapRefusal s c = none → cf c 6 1 ≠ 0 → m.faults = [] → Answers (.map cid) s fun t => CompletesWith s c 0 0 t ∧
      (bay t b).mem.maps = m.maps ++ [{ page := p, pages := k, perm := cf c 7 1, tgt := mapTarget c }]) ∧
    (∀ u, leavesRing s cid c 0x20 → mapRefusal s c = none → cf c 6 1 = 0 → m.faults = [] →
      placeAll b (cf c 7 1) ((List.range (n / 2 ^ 21)).map (· + va / 2 ^ 21)) s = some u → Answers (.map cid) s fun t => CompletesWith s c 0 0 t ∧
        ∀ i, i < n / 2 ^ 21 → ∃ x, extent? t b (va / 2 ^ 21 + i) = some x ∧ x.perm = cf c 7 1) ∧
    (leavesRing s cid c 0x21 → ((m.extents.filter fun e => pagesMeet p k (e.1 * 512) 512).any fun e => !within p k (e.1 * 512) 512) = false →
      Answers (.unmap cid) s fun t => CompletesWith s c 0 0 t ∧ (bay t b).mem.maps = m.maps.flatMap (mapOutside p k) ∧
        ∀ e, pagesMeet p k (e * 512) 512 = true → (extent? t b e = none ∧ ∀ x, extent? s b e = some x → ∃ a, a ∈ (bay t b).mem.awaiting ∧ a.page = e * 512 ∧ a.pages = 512)) ∧
    (leavesRing s cid c 0x21 → ((m.extents.filter fun e => pagesMeet p k (e.1 * 512) 512).any fun e => !within p k (e.1 * 512) 512) = true →
      Answers (.unmap cid) s (CompletesWith s c 0x23 0)) ∧
    (leavesRing s cid c 0x22 → cf c 6 1 = 0 → Answers (.invalidate cid) s (CompletesWith s c 0x23 0)) ∧
    (leavesRing s cid c 0x22 → cf c 6 1 ≠ 0 → c.gen = 0 → (∀ d, d ∈ bayCmds s b → d.st ≠ .running ∧ d.st ≠ .committing) → copyHolds s b (cf c 6 1) p k = false →
      Answers (.invalidate cid) s fun t => CompletesWith s c 0 0 t ∧
        (bit (cf c 6 1) 0 = true → (bay t b).mem.awaiting = m.awaiting.flatMap (waitOutside p k)) ∧
        (bit (cf c 6 1) 1 = true → ∀ h, h ∈ hostPagesIn m p k → tget h.2 (bay t b).mem.atc = none))

/-- STREAM_ADMIN. Each operation of STREAM_ADMIN on a stream that is not open completes 0x23; OPEN writes the descriptor at the index
it takes and returns the index; CLOSE clears a stream no batch holds, and waits for one that is STEPPING or FILLING; HOLD,
RELEASE, SET_DEADLINE, SET_QUOTA and SET_BUTTRESS change their field alone; READ puts the descriptor's 64 bytes at its address;
POOL gives pool and batch area their extents where nothing in use falls outside and extents suffice, and completes 0x42 or 0x34
otherwise; SPILL_ADD adds a remote range, and completes 0x23 for another or a number in use; SPILL_REMOVE takes away a range that
holds no slab, waits or completes 0x42 for one that does, and completes 0x23 where there is none -/
def Obligations.StreamAdministration : Prop :=
  ∀ (s : State) (cid : Nat) (c : Cmd), leavesRing s cid c 0x24 →
    let b := c.bay
    let n := cf c 0x18 4
    let k := stream s b n
    let y := (bay s b).strm
    let op := cf c 6 1
    let sets (i : Instr) (f : Stream → Stream) : Prop := Answers i s fun t => CompletesWith s c 0 0 t ∧ stream t b n = f k ∧ ∀ j, j ≠ n → stream t b j = stream s b j
    (∀ i p, (i, p) ∈ [(Instr.streamAdminClose cid, 1), (.streamAdminHold cid, 2), (.streamAdminRelease cid, 3), (.streamAdminSetDeadline cid, 4),
        (.streamAdminSetQuota cid, 5), (.streamAdminSetButtress cid, 6), (.streamAdminRead cid, 7)] → op = p → k.state = .free →
      Answers i s (CompletesWith s c 0x23 0)) ∧
    (∀ j, op = 0 → openOk s c = true → openIndex s c = some j → Answers (.streamAdminOpen cid) s fun t => CompletesWith s c 0 j t ∧ stream t b j = opened s c) ∧
    (op = 0 → openOk s c = false ∨ openIndex s c = none → Answers (.streamAdminOpen cid) s (CompletesWith s c 0x23 0)) ∧
    (op = 1 → k.state ≠ .free → pinnedStream s b n = false → streamCmds s b n = [] → Answers (.streamAdminClose cid) s fun t => CompletesWith s c 0 0 t ∧
      stream t b n = {} ∧ ∀ e, e ∈ (bay t b).strm.slabs → e.2.stream = n → e.2.loc = .free) ∧
    (op = 1 → pinnedStream s b n = true → Answers (.streamAdminClose cid) s fun t => cmd? t cid = some c ∧ stream t b n = { k with closing := some cid }) ∧
    (op = 2 → k.state ≠ .free → sets (.streamAdminHold cid) fun k => { k with hold := true }) ∧
    (op = 3 → k.state ≠ .free → sets (.streamAdminRelease cid) fun k => { k with hold := false }) ∧
    (op = 4 → k.state ≠ .free → sets (.streamAdminSetDeadline cid) fun k => { k with deadline := cf c 0x20 2 }) ∧
    (op = 5 → k.state ≠ .free → cf c 0x28 4 ≤ 4194304 → sets (.streamAdminSetQuota cid) fun k => { k with quota := cf c 0x28 4 }) ∧
    (op = 5 → k.state ≠ .free → 4194304 < cf c 0x28 4 → Answers (.streamAdminSetQuota cid) s (CompletesWith s c 0x23 0)) ∧
    (op = 6 → k.state ≠ .free → cf c 0x1E 2 = 0xFFFF ∨ servable s b (cf c 0x1E 2) = true → buttressSealed s b n = false →
      Answers (.streamAdminSetButtress cid) s fun t => CompletesWith s c 0 0 t ∧ (stream t b n).buttressId = cf c 0x1E 2 ∧
        (stream t b n).buttressActive = false ∧ (stream t b n).bLen = 0 ∧ (stream t b n).mLen = k.mLen ∧
        ∀ e, e ∈ (bay t b).strm.slabs → ¬ (e.2.stream = n ∧ e.2.buttress = true)) ∧
    (∀ x pa, op = 7 → k.state ≠ .free → queue? s b c.queue = some x → bit x.qflags 1 = true → firstFault s b (cf c 0x30 8) 64 2 false = none →
      cf c 0x30 8 % 4096 ≤ 4032 → b < 16 → (∀ j, j < 64 → ∀ need stale, xlate s b (cf c 0x30 8 + j) need stale = .ok (.hbm (pa + j))) →
      Answers (.streamAdminRead cid) s fun t => CompletesWith s c 0 0 t ∧ mread t.mem.hbm pa 64 = streamBytes k) ∧
    (op = 8 → (∀ u, u ∈ usedRanges s b → kvBase ≤ u.1 → u.1 + u.2 ≤ kvBase + cf c 0x38 4 * 2 ^ 21) →
      (∀ x, x ∈ y.batches → x.tableVa + batchBytes s b x ≤ batchBase + cf c 0x3C 4 * 2 ^ 21) →
      (cf c 0x38 4 + cf c 0x3C 4 ≤ freeFrames s b + y.pool.length + y.area.length → Answers (.streamAdminPool cid) s fun t => CompletesWith s c 0 0 t ∧
        (bay t b).strm.pool.take y.pool.length = y.pool.take (cf c 0x38 4) ∧ (bay t b).strm.area.take y.area.length = y.area.take (cf c 0x3C 4)) ∧
      (freeFrames s b + y.pool.length + y.area.length < cf c 0x38 4 + cf c 0x3C 4 → Answers (.streamAdminPool cid) s (CompletesWith s c 0x34 0))) ∧
    (op = 8 → ((∃ u, u ∈ usedRanges s b ∧ kvBase ≤ u.1 ∧ kvBase + cf c 0x38 4 * 2 ^ 21 < u.1 + u.2) ∨
      ∃ x, x ∈ y.batches ∧ batchBase + cf c 0x3C 4 * 2 ^ 21 < x.tableVa + batchBytes s b x) → Answers (.streamAdminPool cid) s (CompletesWith s c 0x42 0)) ∧
    (op = 9 → (16 ≤ cf c 0x22 1 ∨ (tget (cf c 0x22 1) y.spills).isSome = true ∨ remoteRange s b (cf c 0x30 8) (cf c 0x38 8) = false) →
      Answers (.streamAdminSpillAdd cid) s (CompletesWith s c 0x23 0)) ∧
    (op = 10 → tget (cf c 0x22 1) y.spills = none → Answers (.streamAdminSpillRemove cid) s (CompletesWith s c 0x23 0)) ∧
    (op = 10 → tget (cf c 0x22 1) y.spills ≠ none → spillSlabs s b (cf c 0x22 1) ≠ [] → Answers (.streamAdminSpillRemove cid) s fun t =>
      cmd? t cid = some c ∨ CompletesWith s c 0x42 0 t) ∧
    (op = 6 → k.state ≠ .free → cf c 0x1E 2 ≠ 0xFFFF → servable s b (cf c 0x1E 2) = false → Answers (.streamAdminSetButtress cid) s (CompletesWith s c 0x23 0)) ∧
    (op = 9 → cf c 0x22 1 < 16 → tget (cf c 0x22 1) y.spills = none → remoteRange s b (cf c 0x30 8) (cf c 0x38 8) = true →
      Answers (.streamAdminSpillAdd cid) s fun t => CompletesWith s c 0 0 t ∧
        tget (cf c 0x22 1) (bay t b).strm.spills = some { va := cf c 0x30 8, size := cf c 0x38 8 }) ∧
    (op = 10 → tget (cf c 0x22 1) y.spills ≠ none → spillSlabs s b (cf c 0x22 1) = [] → Answers (.streamAdminSpillRemove cid) s fun t =>
      CompletesWith s c 0 0 t ∧ tget (cf c 0x22 1) (bay t b).strm.spills = none)

/-- MODEL_LOAD_SEALED. A LOAD completes 0x2C where its key is not held and 0x23 where its ID is in use; an image that has been read,
whose header agrees and names the key, completes with OK and its ID exactly when the manifest's tag verifies and every later check
passes, and the model is then resident (the cipher itself is a constant without a body, log entry 3); an UNLOAD removes a model
nothing uses, and completes 0x23 for one that is not there and 0x29 for one in use -/
def Obligations.SealedModels : Prop :=
  ∀ (s : State) (cid : Nat) (c : Cmd), leavesRing s cid c 0x25 →
    let b := c.bay
    let id := cf c 0x18 2
    let y := (bay s b).strm
    (∀ env, cf c 6 1 = 0 → (y.keys.find? fun k => k.1 == cf c 0x1C 4) = none → Answers (.modelLoad cid env) s (CompletesWith s c 0x2C 0)) ∧
    (∀ env key, cf c 6 1 = 0 → (y.keys.find? fun k => k.1 == cf c 0x1C 4) = some key → (y.models.any fun m => m.id == id) = true →
      Answers (.modelLoad cid env) s (CompletesWith s c 0x23 0)) ∧
    (∀ env key img hd, cf c 6 1 = 0 → (y.keys.find? fun k => k.1 == cf c 0x1C 4) = some key → (y.models.any fun m => m.id == id) = false →
      takeVa s b env (cf c 0x20 8) (cf c 0x28 8) = .bytes img → sealHead (img.take 256) img.length = some hd → hd.keyId = key.2.1 →
      Answers (.modelLoad cid env) s fun t => ∃ code, CompletesWith s c code (if code = 0 then id else 0) t ∧
        (openSeg key.2.2 hd 0 ((img.drop 256).take (hd.manifest + 16)) = none → code = 0x2B) ∧
        (∀ m, openSeg key.2.2 hd 0 ((img.drop 256).take (hd.manifest + 16)) = some m →
          sealChecks s c key hd m (openSegs key.2.2 hd 1 (chunks 1048592 hd.segs (img.drop (256 + hd.manifest + 16))) []) → code = 0) ∧
        (code = 0 → ∃ m, m ∈ (bay t b).strm.models ∧ m.id = id ∧ m.digest = hd.digest) ∧ (code ≠ 0 → (bay t b).strm.models = y.models)) ∧
    (cf c 6 1 = 1 → model? s b id = none → Answers (.modelUnload cid) s (CompletesWith s c 0x23 0)) ∧
    (cf c 6 1 = 1 → (model? s b id).isSome = true → modelInUse s b id = true → Answers (.modelUnload cid) s (CompletesWith s c 0x29 0)) ∧
    (cf c 6 1 = 1 → (model? s b id).isSome = true → modelInUse s b id = false → Answers (.modelUnload cid) s fun t => CompletesWith s c 0 id t ∧
      model? t b id = none ∧ ∀ n, n ≠ id → model? t b n = model? s b n)

/-- APPEND_COPY_DONE, WALK_PIECE_DELIVER, SLAB_MOVE_DONE and STREAM_LOST. When the copies of a committed step end, its stream's length
covers the position and each layer's slab holds it; a piece not read ahead is delivered into its slot of the ashlar's ring with
its header, and the ring's count has grown by one, while one that cannot be read poisons its slab and the chunk waits READY again;
an intact move rewrites the slab's entry for its new place, another poisons it or, for a place in a spill range, may leave it
where it was; a stream a memory error loses is LOST, counted and reported to its bay -/
def Obligations.StreamsAndSlabs : Prop :=
  ∀ (s : State) (b n : Nat), s.start.powered = true → b < s.bays.count →
    (∀ x i k m r, ((bay s b).strm.batches.find? fun x => x.committed && x.members.any fun k => k.strm == n && !k.masked && !k.appended) = some x →
      (x.members.findIdx? fun k => k.strm == n && !k.masked && !k.appended) = some i → x.members[i]? = some k → model? s b x.model = some m →
      (stream s b n).state ≠ .lost → x.kind = .step → x.buttress = false → rowAt s b n false (k.pos / 256) = some r →
      (∀ l, l < m.layers → recPoisoned s b x m i l = false) →
      Answers (.appendCopyDone b n []) s fun t => (stream t b n).mLen = max (stream s b n).mLen (k.pos + 1) ∧ (stream t b n).root = (stream s b n).root ∧
        ∀ l, l < m.layers → (slab t b (r + l)).fill = max (slab s b (r + l)).fill (k.pos % 256 + 1) ∧ (slab t b (r + l)).loc = (slab s b (r + l)).loc) ∧
    (∀ cid c q w a y m p, inFlight s cid c → c.bay = b → c.walk = some w → (panelIds c)[q]? = some a → c.st = .running → (ash s a).cid = cid →
      (ash s a).run = .running → batch? s b w.batch = some y → model? s b y.model = some m → inJoint (ash s a) w.ring (64 + w.slots * w.slotLines * 64) = false →
      (chunkPieces s b y w q a)[tgetD a w.prod 0]? = some p → (slab s b p.slab).loc = .valid → p.entry < y.members.length → tgetD a w.ahead 0 = 0 → tgetD a w.prod 0 < leNat (mread (ash s a).spad (w.ring + 8) 8) + w.slots →
      let prod := tgetD a w.prod 0
      let bytes := pieceSlot s b m w p
      (Answers (.walkPieceDeliver cid q none) s fun t => mread (ash t a).spad (w.ring + 64 + prod % max 1 w.slots * w.slotLines * 64) bytes.length = bytes ∧
        leNat (mread (ash t a).spad w.ring 8) = (prod + 1) % 2 ^ 64 ∧
        (prod = 0 → leNat (mread (ash t a).spad (w.ring + 16) 8) = (chunkPieces s b y w q a).length % 2 ^ 64) ∧
        (∃ n, (cmdD t cid).walk = some { w with prod := tput a (prod + 1) w.prod, pieces := tput a (chunkPieces s b y w q a) w.pieces, ahead := tput a n w.ahead }) ∧ ∀ d, d ≠ a → ash t d = ash s d) ∧
      ∀ k, Answers (.walkPieceDeliver cid q (some k)) s fun t => (cmdD t cid).st = .ready ∧ (slab t b p.slab).loc = .poisoned ∧ (slab t b p.slab).cause = k) ∧
    (∀ d, (slab s b n).moving = some d → (slab s b n).loc ≠ .free →
      (Answers (.slabMoveDone b n true) s fun t => (slab t b n).moving = none ∧ (slab t b n).vaPage = d / 4096 ∧ (slab t b n).spill = decide (d < kvBase) ∧
        (slab t b n).loc = (slab s b n).loc ∧ (slab t b n).fill = (slab s b n).fill ∧ ∀ j, j ≠ n → slab t b j = slab s b j) ∧
      ((slab s b n).loc = .valid → Answers (.slabMoveDone b n false) s fun t => (slab t b n).moving = none ∧
        (((slab t b n).loc = .poisoned ∧ (slab t b n).cause = (if (slab s b n).spill then 2 else 1)) ∨
          (d < kvBase ∧ (slab t b n).loc = .valid ∧ (slab t b n).vaPage = (slab s b n).vaPage)))) ∧
    (n < streamsPerBay s → (stream s b n).state ≠ .free → (stream s b n).state ≠ .lost → Answers (.streamLost b n) s fun t =>
      (stream t b n).state = .lost ∧ t.mem.streamsLost = min 0xFFFF (s.mem.streamsLost + 1) ∧ (bay t b).ev.prod = ((bay s b).ev.prod + 1) % 2 ^ 32)

/-- EPOCH_BOUNDARY, MOVE_COPY_DONE and MOVE_SWITCH. At an epoch boundary not served before, every extent's access counters are folded
into its heat and cleared, an extent that a command ready or planned declares is 2 MiB hotter, and no extent changes its home; at
any other time the command does nothing; a copy round that ends advances the move with the pages written since, unless an error or
a recopy after the third with more than eight pages left abandons it; the switch step makes the destination the extent's home,
with the same contents, and frees and zeroes the old frame; a round of a move that has nothing left to copy, or a switch that may
not come yet, changes nothing -/
def Obligations.MovesOfExtents : Prop :=
  ∀ (s : State), s.start.powered = true →
    (s.lift.serving = true → s.lift.num % 16 = 0 → s.mem.epochAt ≠ some s.lift.num → Answers .epochBoundary s fun t => t.mem.epochAt = some s.lift.num ∧
      ∀ b e x, b < s.bays.count → extent? s b e = some x → ∃ y, extent? t b e = some y ∧ y.heat = 64 * (x.rd + x.wr) + x.heat / 2 ∧
        y.boost = (if declaredHot s b e then 2 ^ 21 else 0) ∧ y.rd = 0 ∧ y.wr = 0 ∧
        y.home = x.home ∧ y.perm = x.perm) ∧
    (s.lift.serving = false ∨ s.lift.num % 16 ≠ 0 ∨ s.mem.epochAt = some s.lift.num → exec .epochBoundary s = .next s) ∧
    ∀ b e x v, b < s.bays.count → extent? s b e = some x → x.move = some v →
      let due : Prop := v.round = 0 ∨ (v.round ≤ 3 ∧ unsettled v ≠ []) ∨ 8 < (unsettled v).length
      (∀ dirty err, mayMove s b = false ∨ ¬ due → exec (.moveCopyDone b e dirty err) s = .next s) ∧
      (maySwitch s b e x v = false → exec (.moveSwitch b e) s = .next s) ∧
      (∀ dirty, mayMove s b = true → due → (3 ≤ v.round → (recordedNow v dirty).length ≤ 8) →
        Answers (.moveCopyDone b e dirty false) s fun t =>
          extent? t b e = some { x with move := some { v with round := v.round + 1, recorded := recordedNow v dirty, written := [] } } ∧ t.mem = s.mem) ∧
      (∀ dirty err, mayMove s b = true → due → err = true ∨ (3 ≤ v.round ∧ 8 < (recordedNow v dirty).length) →
        (∀ k, k ∈ (bay s b).mem.extents → k.1 ≠ e → ∀ m, k.2.move = some m → m.dst ≠ x.home) → Answers (.moveCopyDone b e dirty err) s fun t =>
          extent? t b e = some { x with move := none, noMoveUntil := epoch s + 16 } ∧ t.mem.abandoned = min 0xFFFF (s.mem.abandoned + 1)) ∧
      (maySwitch s b e x v = true → (homePoisoned s b x.home = false ∨ ∃ f, v.dst = .hbm f) → Answers (.moveSwitch b e) s fun t =>
        extent? t b e = some { x with home := v.dst, move := none, lastMove := some (epoch s) } ∧ t.mem.moved = min 0xFFFF (s.mem.moved + 1) ∧
        ∀ f g, x.home = .hbm f → v.dst = .hbm g → f ≠ g → Memory.wf s.mem.hbm = true → ∀ k, k < 2 ^ 21 →
          mget t.mem.hbm (physOf s b g k) = mget s.mem.hbm (physOf s b f k) ∧ mget t.mem.hbm (physOf s b f k) = 0)

/-- A refused request. Whatever the message, a request at the head of the order that a case of R287 refuses is answered with that
case's code and no payload, and nothing but the mailboxes and the interrupt sources changes -/
def Obligations.RequestsRefused : Prop :=
  ∀ (s : State) (x m code : Nat) (r : Req) (i : Instr) (denied : List Nat) (env : Env) (img : FwImage), atHead s x m r → refusal s x r = some code →
    (i, m) ∈ [(Instr.abiQuery x, 1), (.attach x denied, 0x100), (.errorRingSet x, 0x101), (.keyImport x env, 0x102), (.keyDiscard x, 0x103), (.bondPin x, 0x200), (.bondUnpin x, 0x201),
      (.bondPanelSet x, 0x202), (.bondPanelClear x, 0x203), (.bondHint x, 0x204), (.bondQuery x, 0x205), (.bondWindowAdd x, 0x206), (.bondWindowRemove x, 0x207)] ++
      [(.bayCreate x, 0x300), (.bayQuiesce x, 0x301), (.bayReset x, 0x302), (.bayRemove x, 0x303), (.bayRelease x, 0x304), (.liftPeriodSet x, 0x400), (.clockFloorSet x, 0x401),
      (.powerCapSet x, 0x402), (.scrubRange x, 0x403), (.scrubRateSet x, 0x404), (.resetCompute x, 0x500), (.resetFull x, 0x501), (.repoint x, 0x502)] ++
      [(.returnToService x, 0x503), (.dumpInfo x, 0x504), (.dumpRead x, 0x505), (.dumpClear x, 0x506), (.fwStage x img, 0x600), (.fwActivate x, 0x601), (.cfgRead x, 0x602), (.cfgWrite x, 0x603),
      (.cfgDiscard x, 0x604), (.store x, 0x605)] → Answers i s fun t => Replied s x code [] t ∧ ChangesOnly [.boxes, .irq] s t

/-- ABI_QUERY, ATTACH, ERROR_RING_SET, KEY_IMPORT and KEY_DISCARD. Served, ABI_QUERY answers versions and configuration; ATTACH of a
created bay that has negotiated, with rings that may be, makes queue 0 and attaches the bay, and answers its share, while a bay in
reset work answers 0x28 and any other 0x23; ERROR_RING_SET places or removes the error ring; KEY_IMPORT of a blob of another size
answers 0x20, of one that cannot be read 0x23, and of a 96-byte blob the first failed check's code, or 0x2B where its tag fails,
or the handle of the key it stores; KEY_DISCARD removes a key the bay holds -/
def Obligations.BayMessages : Prop :=
  ∀ (s : State) (x : Nat) (r : Req),
    let b := reqBay x r
    let y := bay s b
    (serves s x 1 r → Answers (.abiQuery x) s fun t => Replied s x 0 (abiResult s) t ∧ ChangesOnly [.boxes, .irq] s t) ∧
    (∀ denied, serves s x 0x100 r → y.st = .created → y.eqi.negDone = true → ringsOk s b denied (attachQueue r.p) = true → Answers (.attach x denied) s fun t =>
      Replied s x 0 (attachResult s) t ∧ (bay t b).st = .attached ∧ queue? t b 0 = some (attachQueue r.p)) ∧
    (∀ denied, serves s x 0x100 r → y.st = .resetting → Answers (.attach x denied) s fun t => Replied s x 0x28 [] t ∧ t.bays = s.bays) ∧
    (∀ denied, serves s x 0x100 r → y.st ≠ .resetting → (y.st ≠ .created ∨ y.eqi.negDone = false ∨ ringsOk s b denied (attachQueue r.p) = false) →
      Answers (.attach x denied) s fun t => Replied s x 0x23 [] t ∧ t.bays = s.bays) ∧
    (serves s x 0x101 r → Answers (.errorRingSet x) s fun t => Replied s x 0 [] t ∧
      (bay t b).eqi = { y.eqi with errVa := fld r.p 0 8, errRecs := if fld r.p 0 8 = 0 then 0 else fld r.p 8 4, errPos := 0 }) ∧
    (∀ env, serves s x 0x102 r → fld r.p 8 4 ≠ 96 → Answers (.keyImport x env) s fun t => Replied s x 0x20 [] t ∧ t.bays = s.bays) ∧
    (∀ env, serves s x 0x102 r → fld r.p 8 4 = 96 → readVa s b env false (fld r.p 0 8) 96 = none ∨ (poisonVa s b (fld r.p 0 8) 96).isSome = true →
      Answers (.keyImport x env) s fun t => Replied s x 0x23 [] t ∧ t.bays = s.bays) ∧
    (∀ env blob, serves s x 0x102 r → fld r.p 8 4 = 96 → readVa s b env false (fld r.p 0 8) 96 = some blob → poisonVa s b (fld r.p 0 8) 96 = none →
      Answers (.keyImport x env) s fun t => (∀ code, blobRefusal s b blob = some code → Replied s x code [] t ∧ t.bays = s.bays) ∧
        (blobRefusal s b blob = none → blobKey s b blob = none → Replied s x 0x2B [] t ∧ t.bays = s.bays) ∧
        ∀ k, blobRefusal s b blob = none → blobKey s b blob = some k → Replied s x 0 (natLe 4 (freshHandle y.strm)) t ∧
          (bay t b).strm.keys = y.strm.keys ++ [(freshHandle y.strm, BitVec.ofNat 128 (fld blob 0x10 16), BitVec.ofNat 256 (leNat k))]) ∧
    (serves s x 0x103 r → (y.strm.keys.any fun k => k.1 == fld r.p 0 4) = true → Answers (.keyDiscard x) s fun t => Replied s x 0 [] t ∧
      (bay t b).strm.keys = y.strm.keys.filter fun k => k.1 != fld r.p 0 4) ∧
    (serves s x 0x103 r → (y.strm.keys.any fun k => k.1 == fld r.p 0 4) = false → Answers (.keyDiscard x) s fun t => Replied s x 0x23 [] t ∧ t.bays = s.bays)

/-- The placement messages. Served, BOND_PIN records a pin its checks admit under the requester's next handle and answers it, or the
refusal's code; BOND_UNPIN removes the requester's own pin; BOND_PANEL_SET adds a constraint, a guest's only where some 1 x 1
panel still meets every one of its queue, and BOND_PANEL_CLEAR removes the requester's; BOND_HINT records the newest hint or a
queue's origin; BOND_QUERY answers the free frames and one record for each extent asked for; BOND_WINDOW_ADD grants a range not
granted before under the lowest free number, and BOND_WINDOW_REMOVE takes an empty window away at once; what names no pin, queue
or window of the bay is answered 0x23 -/
def Obligations.BondMessages : Prop :=
  ∀ (s : State) (x : Nat) (r : Req),
    let b := reqBay x r
    let m := (bay s b).mem
    let mine := x == 0
    let h := (takeHandle b mine s).1
    let home := if fld r.p 0x10 4 = 0 then none else some (fld r.p 0x14 4)
    (∀ code, serves s x 0x200 r → pinRefused s b home (fld r.p 0 8 / 2 ^ 21) (fld r.p 8 8 / 2 ^ 21) = some code → Answers (.bondPin x) s (Replied s x code [])) ∧
    (serves s x 0x200 r → pinRefused s b home (fld r.p 0 8 / 2 ^ 21) (fld r.p 8 8 / 2 ^ 21) = none → Answers (.bondPin x) s fun t =>
      Replied s x 0 (natLe 4 h) t ∧ ∃ p, p ∈ (bay t b).mem.pins ∧ p.handle = h ∧ p.byMgr = mine ∧ p.ext0 = fld r.p 0 8 / 2 ^ 21 ∧ p.exts = fld r.p 8 8 / 2 ^ 21 ∧ p.home = home) ∧
    (serves s x 0x201 r → (m.pins.any fun p => p.handle == fld r.p 0 4 && p.byMgr == mine) = true → Answers (.bondUnpin x) s fun t => Replied s x 0 [] t ∧
      (bay t b).mem.pins = m.pins.filter fun p => !(p.handle == fld r.p 0 4 && p.byMgr == mine)) ∧
    (serves s x 0x201 r → (m.pins.any fun p => p.handle == fld r.p 0 4 && p.byMgr == mine) = false → Answers (.bondUnpin x) s (Replied s x 0x23 [])) ∧
    (serves s x 0x202 r → (queuesPerBay s ≤ fld r.p 0 2 ∨ (x ≠ 0 ∧ someCell s ((m.cons.filter fun c => c.queue == fld r.p 0 2) ++ [conOf x h r.p]) = false)) →
      Answers (.bondPanelSet x) s (Replied s x 0x23 [])) ∧
    (serves s x 0x203 r → queuesPerBay s ≤ fld r.p 0 2 → Answers (.bondPanelClear x) s (Replied s x 0x23 [])) ∧
    (serves s x 0x206 r → windowTaken s (fld r.p 0 2) (fld r.p 2 2) (fld r.p 8 8) (fld r.p 0x10 8) = true → Answers (.bondWindowAdd x) s (Replied s x 0x23 [])) ∧
    (serves s x 0x207 r → tget (fld r.p 0 4) m.windows = none → Answers (.bondWindowRemove x) s (Replied s x 0x23 [])) ∧
    (serves s x 0x202 r → fld r.p 0 2 < queuesPerBay s →
      (x ≠ 0 → someCell s ((m.cons.filter fun c => c.queue == fld r.p 0 2) ++ [conOf x h r.p]) = true) → Answers (.bondPanelSet x) s fun t =>
        Replied s x 0 (natLe 4 h) t ∧ (bay t b).mem.cons = m.cons ++ [conOf x h r.p]) ∧
    (serves s x 0x203 r → fld r.p 0 2 < queuesPerBay s → Answers (.bondPanelClear x) s fun t => Replied s x 0 [] t ∧
      (bay t b).mem.cons = m.cons.filter fun c => !(c.queue == fld r.p 0 2 && c.byMgr == mine)) ∧
    (serves s x 0x204 r → fld r.p 0 1 = 1 → Answers (.bondHint x) s fun t => Replied s x 0 [] t ∧
      tget (fld r.p 2 2) (bay t b).mem.origins = some (fld r.p 4 1, fld r.p 5 1, mine)) ∧
    (serves s x 0x204 r → fld r.p 0 1 ≠ 1 → Answers (.bondHint x) s fun t => Replied s x 0 [] t ∧ ∃ e n, (bay t b).mem.hints = (e, n, fld r.p 1 1, mine) :: m.hints ∧
      e = ceilDiv (fld r.p 8 8) (2 ^ 21) ∧ n = (fld r.p 8 8 + fld r.p 0x10 8) / 2 ^ 21 - e) ∧
    (serves s x 0x205 r → Answers (.bondQuery x) s fun t => t.bays = s.bays ∧ ∃ p, Replied s x 0 p t ∧ p.length = 32 + 16 * fld r.p 8 4 ∧
      fld p 0 4 = freeFrames s b % 2 ^ 32 ∧ fld p 4 4 = freeWinFrames s b % 2 ^ 32 ∧ ∀ i e, i < fld r.p 8 4 → extent? s b (fld r.p 0 8 / 2 ^ 21 + i) = some e →
        fld p (32 + 16 * i + 8) 8 = (e.heat + e.boost) % 2 ^ 64 ∧ fld p (32 + 16 * i + 2) 1 = b2n (pinOf m (fld r.p 0 8 / 2 ^ 21 + i)).isSome) ∧
    (∀ i, serves s x 0x206 r → windowTaken s (fld r.p 0 2) (fld r.p 2 2) (fld r.p 8 8) (fld r.p 0x10 8) = false →
      ((List.range 8).find? fun i => (tget i m.windows).isNone) = some i → Answers (.bondWindowAdd x) s fun t => Replied s x 0 (natLe 4 i) t ∧
        ∃ n, tget i (bay t b).mem.windows = some { ep := fld r.p 0 2, win := fld r.p 2 2, off := fld r.p 8 8, len := fld r.p 0x10 8, added := n }) ∧
    (∀ i k, serves s x 0x207 r → tget (fld r.p 0 4) m.windows = some k → k.removing = none → freeSlot s x = some i → (m.extents.all fun e => !inWindow (fld r.p 0 4) e.2) = true →
      Answers (.bondWindowRemove x) s fun t => TookSlot s x i (k.len / (kwPorts s * 100000000 / 8 / s.bays.count) + 1000) t ∧ opEnded t x i 0 ∧
        tget (fld r.p 0 4) (bay t b).mem.windows = none)

/-- FW_STAGE, FW_ACTIVATE, CFG_READ, CFG_WRITE, CFG_DISCARD, STORE, OPERATION_SLOT_END and OP_DONE_CLEAR. FW_STAGE of an image that
passes stages it, or under the boot ROM starts it with the mailbox silent, and answers its version and svn; another answers 0x2B.
FW_ACTIVATE of a staged image asks for a full block reset. CFG_READ answers the staged or the stored record; CFG_WRITE changes the
staged record where every field it touches stays in range; CFG_DISCARD drops what is staged; STORE writes journal and marker with
the next store_count, or ends at once with nothing staged; the end of its operation makes the journal the record and clears the
marker, and a word that cannot be stored asks for a full block reset instead; ones written to op_done free ended slots -/
def Obligations.StoreAndFirmware : Prop :=
  ∀ (s : State) (x : Nat) (r : Req),
    let off := fld r.p 0 2
    let n := fld r.p 2 2
    let wrote := mputs off ((r.p.drop 8).take n) s.foot.staged
    (∀ img, serves s x 0x600 r → imageOk s r img = false → Answers (.fwStage x img) s fun t => Replied s x 0x2B [] t ∧ t.start = s.start ∧ t.fw.active = s.fw.active) ∧
    (∀ img, serves s x 0x600 r → imageOk s r img = true → (mbx s x).boot = false → Answers (.fwStage x img) s fun t =>
      Replied s x 0 (natLe 4 img.version ++ natLe 4 img.svn) t ∧ t.fw = { s.fw with staged := some img } ∧ t.start = s.start) ∧
    (∀ img, serves s x 0x600 r → imageOk s r img = true → (mbx s x).boot = true → Answers (.fwStage x img) s fun t =>
      Replied s x 0 (natLe 4 img.version ++ natLe 4 img.svn) t ∧ t.fw = { active := some img, staged := none, running := true } ∧ t.start.phase = 6 ∧
        (mbx t x).ready = false ∧ ∀ p, p < kwPorts s → footFld s (0x78 + 4 * p) 1 = 1 → (kport t p).st = .training) ∧
    (∀ img i, serves s x 0x601 r → s.fw.staged = some img → exclusiveBusy s = false → freeSlot s x = some i → s.rst.now = none → s.rst.want = none →
      Answers (.fwActivate x) s fun t => TookSlot s x i 10000 t ∧ opRuns t x i .fwActivate ∧ t.rst.want = some (resetAt true 9 s) ∧
        (img.svn ≤ storedMinSvn s → t.foot = s.foot)) ∧
    (∀ img, serves s x 0x601 r → s.fw.staged = some img → exclusiveBusy s = true → Answers (.fwActivate x) s fun t => Replied s x 0x28 [] t ∧ t.rst = s.rst) ∧
    (serves s x 0x601 r → s.fw.staged = none → Answers (.fwActivate x) s fun t => Replied s x 0x23 [] t ∧ t.rst = s.rst) ∧
    (serves s x 0x602 r → Answers (.cfgRead x) s fun t =>
      Replied s x 0 (mread (if fld r.p 0 1 = 0 then s.foot.staged else s.foot.record) 0 256) t ∧ t.foot = s.foot) ∧
    (serves s x 0x603 r → writeOk s off n wrote = true → Answers (.cfgWrite x) s fun t => Replied s x 0 [] t ∧ t.foot = { s.foot with staged := wrote }) ∧
    (serves s x 0x603 r → writeOk s off n wrote = false → Answers (.cfgWrite x) s fun t => Replied s x 0x23 [] t ∧ t.foot = s.foot) ∧
    (serves s x 0x604 r → Answers (.cfgDiscard x) s fun t => Replied s x 0 [] t ∧ t.foot = { s.foot with staged := s.foot.record }) ∧
    (∀ i, serves s x 0x605 r → exclusiveBusy s = false → (storesCounted s).length < 32 → freeSlot s x = some i → Answers (.store x) s fun t => TookSlot s x i 200 t ∧
      (s.foot.staged = s.foot.record → opEnded t x i 0 ∧ t.foot = s.foot) ∧
      (s.foot.staged ≠ s.foot.record → opRuns t x i .store ∧ t.foot.record = s.foot.record ∧ t.foot.journal = nextCount s s.foot.staged ∧ t.foot.staged = t.foot.journal ∧
        t.foot.marker = some (leNat (mread t.foot.journal 8 8)))) ∧
    (serves s x 0x605 r → exclusiveBusy s = true ∨ 32 ≤ (storesCounted s).length → Answers (.store x) s fun t => Replied s x 0x28 [] t ∧ t.foot = s.foot) ∧
    (∀ i, s.start.powered = true → x ≤ maxBays s → i < 4 → opRuns s x i .store → s.foot.marker ≠ none →
      (∀ w, Answers (.operationSlotEnd x i (some w)) s fun t => t.foot = s.foot ∧ t.boxes = s.boxes ∧
        (s.rst.now = none → s.rst.want = none → ∃ k, t.rst.want = some k ∧ k.full = true)) ∧ Answers (.operationSlotEnd x i none) s fun t =>
      (bit (mbx s x).opDone i = false → opEnded t x i 0) ∧ t.foot.record = s.foot.journal ∧ t.foot.marker = none ∧ t.foot.stores = s.rst.time :: storesCounted s) ∧
    (∀ i w, s.start.powered = true → x ≤ maxBays s → i < 4 → ¬ opRuns s x i .store → exec (.operationSlotEnd x i w) s = .next s) ∧
    ∀ mask : BitVec 4, s.start.powered = true → x ≤ maxBays s → Answers (.opDoneClear x mask) s fun t => ∀ i, i < 4 →
      if bit mask.toNat i && bit (mbx s x).opDone i then tget i (mbx t x).ops = none ∧ bit (mbx t x).opDone i = false
      else tget i (mbx t x).ops = tget i (mbx s x).ops ∧ bit (mbx t x).opDone i = bit (mbx s x).opDone i

/-- The messages of a bay's life, and the ends of their work. Served, BAY_CREATE of an absent bay the host has enabled makes it
CREATED and its mailbox ready; BAY_QUIESCE of an attached bay takes a slot, leaves no front on it and its running commands READY,
and of a quiesced one ends at once; the bay is QUIESCED when nothing of it is left; BAY_RESET and BAY_REMOVE of a created or
quiesced bay discard its commands and queues and make it RESETTING; BAY_RELEASE attaches a quiesced bay and thaws what it froze;
the end of the reset work leaves the share zero and the bay CREATED, or ABSENT after BAY_REMOVE; in any other state the request is
refused -/
def Obligations.BayLifecycle : Prop :=
  ∀ (s : State) (r : Req) (b : Nat),
    let y := bay s b
    (∀ k c, cmd? s k = some c → c.cid = k) → reqBay 0 r = b →
    (serves s 0 0x300 r → y.st = .absent → s.bays.vfEnable = true → b < s.bays.numVfs → Answers (.bayCreate 0) s fun t =>
      Replied s 0 0 [] t ∧ bay t b = { y with st := .created, eqi := {}, strm := {}, ev := {}, hangs := 0 } ∧ (mbx t (b + 1)).ready = true) ∧
    (serves s 0 0x300 r → (y.st ≠ .absent ∨ s.bays.vfEnable = false ∨ s.bays.numVfs ≤ b) → Answers (.bayCreate 0) s fun t =>
      Replied s 0 0x23 [] t ∧ t.bays = s.bays) ∧
    (∀ i, serves s 0 0x301 r → y.st = .attached → freeSlot s 0 = some i → Answers (.bayQuiesce 0) s fun t => TookSlot s 0 i (quiesceBound s b) t ∧
      opRuns t 0 i (.quiesce b) ∧ (bay t b).st = .quiescing ∧ (bay t b).quiesceOps = y.quiesceOps ++ [i] ∧ (∀ f, f ∈ t.dev.fronts → f.2.bay ≠ b) ∧
      ∀ k c, cmd? s k = some c → c.bay = b → preempted c = true → ∃ d, cmd? t k = some d ∧ d.st = .ready ∧ d.outbox = []) ∧
    (∀ i, serves s 0 0x301 r → (y.st = .quiesced ∨ y.st = .created) → freeSlot s 0 = some i → bit (mbx s 0).opDone i = false → Answers (.bayQuiesce 0) s fun t =>
      TookSlot s 0 i 2000 t ∧ opEnded t 0 i 0 ∧ t.bays = s.bays) ∧
    (b < s.bays.count → s.start.powered = true → y.st = .quiescing → bayDrained s b = true → Answers (.bayQuiesced b) s fun t =>
      bay t b = { y with st := .quiesced, quiesceOps := [] } ∧
      ∀ i k, i ∈ y.quiesceOps → opRuns s 0 i k → bit (mbx s 0).opDone i = false → opEnded t 0 i 0) ∧
    (∀ i, serves s 0 0x302 r → (y.st = .created ∨ y.st = .quiesced) → freeSlot s 0 = some i → Answers (.bayReset 0) s fun t => TookSlot s 0 i 1000 t ∧
      opRuns t 0 i (.bayReset b) ∧ (bay t b).st = .resetting ∧ (bay t b).resetOp = some i ∧ (∀ q, queue? t b q = none) ∧ ∀ k c, cmd? t k = some c → c.bay ≠ b) ∧
    (serves s 0 0x302 r → (y.st = .attached ∨ y.st = .quiescing ∨ y.st = .absent) → Answers (.bayReset 0) s fun t => Replied s 0 0x2A [] t ∧ t.bays = s.bays) ∧
    (serves s 0 0x303 r → y.removeBox = false → (y.st = .created ∨ y.st = .quiesced) → Answers (.bayRemove 0) s fun t => t.boxes.order.head? = some 0 ∧
      (bay t b).st = .resetting ∧ (bay t b).toAbsent = true ∧ (bay t b).removeBox = true ∧ (∀ q, queue? t b q = none) ∧ ∀ k c, cmd? t k = some c → c.bay ≠ b) ∧
    (serves s 0 0x304 r → y.st ≠ .resetting → Answers (.bayRelease 0) s fun t => Replied s 0 0 [] t ∧
      (bay t b).st = (if y.st = .quiesced then .attached else y.st) ∧
      (∀ q u, queue? s b q = some u → u.frozen = true → ∃ v, queue? t b q = some v ∧ (v.frozen = false ∨ v.ringFailed = true)) ∧
      (∀ k c, cmd? s k = some c → c.bay = b → c.st = .frozen → cmd? t k = none) ∧
      ∀ i w, tget i s.mem.wins = some w → w.frozen = true → w.bay = b → ∃ w2, tget i t.mem.wins = some w2 ∧ w2.frozen = false) ∧
    (serves s 0 0x304 r → y.st = .resetting → Answers (.bayRelease 0) s fun t => Replied s 0 0x28 [] t ∧ t.bays = s.bays) ∧
    (b < s.bays.count → s.start.powered = true → y.st = .resetting → Answers (.bayResetWorkDone b) s fun t =>
      (bay t b).st = (if y.toAbsent then .absent else .created) ∧ (bay t b).mem.extents = [] ∧ (bay t b).mem.maps = [] ∧ (∀ q, queue? t b q = none) ∧
      (∀ a, b * shareBytes s ≤ a → a < (b + 1) * shareBytes s → mget t.mem.hbm a = 0) ∧
      (∀ i k, y.resetOp = some i → opRuns s 0 i k → bit (mbx s 0).opDone i = false → opEnded t 0 i 0) ∧ (y.removeBox = true → Replied s 0 0 [] t))

/-- NUMVFS_WRITE, VF_ENABLE_CLEAR, FLR and HOST_CONFIG_WRITE. A NumVFs up to TotalVFs is taken and every bay from it on is removed at
once, or becomes absent when its reset work ends; a larger one is ignored; clearing VF Enable removes every bay; an FLR sends an
existing bay to reset work, resets the function's PCIe state and moves a locked or running interface to ERROR; a configuration
write changes the register it names, and one that changes a register the interface report locks moves a locked or running
interface to ERROR -/
def Obligations.HostAndBays : Prop :=
  ∀ (s : State), s.start.powered = true →
    (∀ v, v ≤ s.bays.count → Answers (.numvfsWrite v) s fun t => t.bays.numVfs = v ∧
      ∀ b, if b < s.bays.count ∧ v ≤ b then (if (bay s b).st = .resetting then (bay t b).st = .resetting ∧ (bay t b).toAbsent = true else (bay t b).st = .absent)
        else (bay t b).st = (bay s b).st) ∧
    (∀ v, s.bays.count < v → Answers (.numvfsWrite v) s fun t => t = s) ∧
    (Answers .vfEnableClear s fun t => t.bays.vfEnable = false ∧ ∀ b, b < s.bays.count →
      if (bay s b).st = .resetting then (bay t b).st = .resetting ∧ (bay t b).toAbsent = true else (bay t b).st = .absent) ∧
    (∀ b, b < s.bays.count → Answers (.flr b) s fun t => (bay t b).st = (if (bay s b).st = .absent then .absent else .resetting) ∧
      (bay t b).memSpace = false ∧ (bay t b).bar = 0 ∧ (bay t b).bar2 = 0 ∧ (bay t b).mem.atsEnable = false ∧ (bay t b).d3 = false ∧ tget (b + 1) t.irq.msix = none ∧ (bay t b).mem.atc = [] ∧
      ((bay s b).st ≠ .absent → (tdi t b).st = if (tdi s b).st = .locked ∨ (tdi s b).st = .run then .error else (tdi s b).st)) ∧
    ∀ fn w, fn ≤ s.bays.count → Answers (.hostConfigWrite fn w) s fun t => ChangesOnly [.bays, .irq, .sec, .out, .start] s t ∧
      (∀ b, fn = b + 1 → (tdi t b).st = if lockedRegs t fn ≠ lockedRegs s fn ∧ ((tdi s b).st = .locked ∨ (tdi s b).st = .run) then .error else (tdi s b).st) ∧
      match w with
      | .vfEnable => fn = 0 → t.bays.vfEnable = true
      | .msixEnable on => (tgetD fn t.irq.msix {}).enable = on ∧ (on = true → (tgetD fn t.irq.msix {}).fmask = false →
          ∀ v, v ∈ (tgetD fn t.irq.msix {}).pba → v ∉ (tgetD fn t.irq.msix {}).unmasked)
      | .functionMask on => (tgetD fn t.irq.msix {}).fmask = on ∧ (on = false → (tgetD fn t.irq.msix {}).enable = true →
          ∀ v, v ∈ (tgetD fn t.irq.msix {}).pba → v ∉ (tgetD fn t.irq.msix {}).unmasked)
      | .vectorMask vec => (tgetD fn t.irq.msix {}).unmasked = sdrop vec (tgetD fn s.irq.msix {}).unmasked
      | .memorySpace on => ∀ b, fn = b + 1 → bay t b = { bay s b with memSpace := on }
      | .bar v => ∀ b, fn = b + 1 → bay t b = { bay s b with bar := v }
      | .bar2 v => ∀ b, fn = b + 1 → bay t b = { bay s b with bar2 := v }
      | .priEnable on => ∀ b, fn = b + 1 → (bay t b).mem = { (bay s b).mem with priEnable := on }
      | .priClearFailure => ∀ b, fn = b + 1 → (bay t b).mem = { (bay s b).mem with priFailed := false }
      | .dState d3 => (fn = 0 → t.start = { s.start with d3 := d3 }) ∧ ∀ b, fn = b + 1 → bay t b = { bay s b with d3 := d3 }
      | .atsEnable on => ∀ b, fn = b + 1 → (bay t b).mem = { (bay s b).mem with atsEnable := on, atc := if on = true then (bay s b).mem.atc else [] }

/-- LIFT_PERIOD_SET, CLOCK_FLOOR_SET, POWER_CAP_SET, SCRUB_RANGE and SCRUB_RATE_SET. Served, LIFT_PERIOD_SET sets the next lift period
unless an anchored collective's bound forbids it; CLOCK_FLOOR_SET and POWER_CAP_SET set floor and cap under the manager's next
handle and answer it; SCRUB_RANGE of a range that keeps the rules starts a pass in a slot with its bound, and is refused with
INVALID_ARGUMENT or RESOURCE_BUSY otherwise; SCRUB_RATE_SET sets the required rate unless it is too high -/
def Obligations.ManagerSettings : Prop :=
  ∀ (s : State) (r : Req),
    let late := s.cmds.all.any fun e => e.2.st == .anchored && decide (budgetAt (fld r.p 0 2) s.lift.clk < boundLeft s e.2)
    let h := s.pwr.nextHandle
    let spad := fld r.p 0x18 1 == 1
    (serves s 0 0x400 r → late = false → Answers (.liftPeriodSet 0) s fun t => Replied s 0 0 [] t ∧
      t.lift = { s.lift with next := fld r.p 0 2, pending := fld r.p 0 2 != s.lift.period }) ∧
    (serves s 0 0x400 r → late = true → Answers (.liftPeriodSet 0) s fun t => Replied s 0 0x23 [] t ∧ t.lift = s.lift) ∧
    (serves s 0 0x401 r → Answers (.clockFloorSet 0) s fun t => Replied s 0 0 (natLe 4 h) t ∧ t.pwr.floor = fld r.p 0 2 ∧ t.pwr.floorHandle = h ∧
      t.pwr.nextHandle = h + 1 ∧ t.pwr.cap = s.pwr.cap) ∧
    (serves s 0 0x402 r → Answers (.powerCapSet 0) s fun t => Replied s 0 0 (natLe 4 h) t ∧ t.pwr.cap = fld r.p 0 2 ∧ t.pwr.capHandle = h ∧
      t.pwr.nextHandle = h + 1 ∧ t.pwr.floor = s.pwr.floor) ∧
    (∀ i, serves s 0 0x403 r → scrubRangeOk s spad (fld r.p 0 8) (fld r.p 8 8) = true → s.ras.pass = none → s.sec.repointing = false → freeSlot s 0 = some i →
      Answers (.scrubRange 0) s fun t => TookSlot s 0 i (scrubBound s spad (fld r.p 8 8)) t ∧ opRuns t 0 i .scrub ∧
        t.ras.pass = some { start := fld r.p 0 8, len := fld r.p 8 8, summaryVa := fld r.p 0x10 8, spad := spad, slot := i } ∧ t.ras.rate = rateInForce s) ∧
    (atHead s 0 0x403 r → (mbx s 0).boot = false → r.major = 1 → r.minor ≤ 2 → scrubRangeOk s spad (fld r.p 0 8) (fld r.p 8 8) = false →
      Answers (.scrubRange 0) s fun t => Replied s 0 0x20 [] t ∧ t.ras = s.ras) ∧
    (serves s 0 0x403 r → scrubRangeOk s spad (fld r.p 0 8) (fld r.p 8 8) = true → s.ras.pass ≠ none ∨ s.sec.repointing = true →
      Answers (.scrubRange 0) s fun t => Replied s 0 0x28 [] t ∧ t.ras = s.ras) ∧
    (serves s 0 0x404 r → rateTooHigh s (fld r.p 0 4) = false → Answers (.scrubRateSet 0) s fun t => Replied s 0 0 (natLe 4 h) t ∧
      t.ras.required = some (fld r.p 0 4) ∧ t.ras.reqHandle = h ∧ t.ras.pass = s.ras.pass) ∧
    (serves s 0 0x404 r → rateTooHigh s (fld r.p 0 4) = true → Answers (.scrubRateSet 0) s fun t => Replied s 0 0x23 [] t ∧ t.ras = s.ras)

/-- RESET_COMPUTE, RESET_FULL, REPOINT, RETURN_TO_SERVICE and the dump's messages. Served, RESET_COMPUTE and RESET_FULL take a slot
and want their reset with trigger 7 where none runs; REPOINT of a block whose bays are absent, created or quiesced takes a slot
and starts the fence phase, in which queues, sessions, windows and groups are gone and every interface is unlocked; one of these
messages while another runs is RESOURCE_BUSY; RETURN_TO_SERVICE ends out-of-service with both histories empty; DUMP_INFO answers
what is held; DUMP_READ writes the bytes asked for to host memory; DUMP_CLEAR drops the dump -/
def Obligations.ManagerResets : Prop :=
  ∀ (s : State) (r : Req),
    let quiet := (List.range s.bays.count).all fun b => (bay s b).st == .absent || (bay s b).st == .created || (bay s b).st == .quiesced
    let off := fld r.p 0 8
    let n := fld r.p 8 4
    (∀ i, serves s 0 0x500 r → exclusiveBusy s = false → freeSlot s 0 = some i → s.rst.now = none → s.rst.want = none → s.sec.repointing = false →
      Answers (.resetCompute 0) s fun t => TookSlot s 0 i 500 t ∧ opRuns t 0 i .resetCompute ∧ t.rst = { s.rst with want := some (resetAt false 7 s) }) ∧
    (∀ i, serves s 0 0x501 r → exclusiveBusy s = false → freeSlot s 0 = some i → s.rst.now = none → s.rst.want = none →
      Answers (.resetFull 0) s fun t => TookSlot s 0 i 8000 t ∧ opRuns t 0 i .resetFull ∧ t.rst = { s.rst with want := some (resetAt true 7 s) }) ∧
    (serves s 0 0x500 r → exclusiveBusy s = true → Answers (.resetCompute 0) s fun t => Replied s 0 0x28 [] t ∧ t.rst = s.rst) ∧
    (serves s 0 0x501 r → exclusiveBusy s = true → Answers (.resetFull 0) s fun t => Replied s 0 0x28 [] t ∧ t.rst = s.rst) ∧
    (∀ i, serves s 0 0x502 r → quiet = true → exclusiveBusy s = false → s.ras.pass = none → s.sec.repointing = false → freeSlot s 0 = some i →
      Answers (.repoint 0) s fun t => TookSlot s 0 i 2000 t ∧ opRuns t 0 i .repoint ∧ t.sec.repointing = true ∧ t.sec.phase = 1 ∧
        t.sec.sessions = [] ∧ t.mem.wins = [] ∧ t.arch.groups = [] ∧ t.kw.txns = [] ∧ (∀ b, (tdi t b).st = .unlocked) ∧
        t.sec.keyGeneration = satAdd 0xFFFF s.sec.keyGeneration 1 ∧ ∀ b q, b < s.bays.count → (bay s b).st ≠ .absent → queue? t b q = none) ∧
    (serves s 0 0x502 r → quiet = false → Answers (.repoint 0) s fun t => Replied s 0 0x2A [] t ∧ t.sec = s.sec) ∧
    (serves s 0 0x502 r → quiet = true → exclusiveBusy s = true ∨ s.ras.pass ≠ none ∨ s.sec.repointing = true → Answers (.repoint 0) s fun t =>
      Replied s 0 0x28 [] t ∧ t.sec = s.sec) ∧
    (serves s 0 0x503 r → Answers (.returnToService 0) s fun t => Replied s 0 0 [] t ∧ t.rst = { s.rst with oos := false, histC := [], histF := [] }) ∧
    (serves s 0 0x504 r → Answers (.dumpInfo 0) s fun t => t.dump = s.dump ∧ Replied s 0 0 (if s.dump.present = true then
      natLe 1 1 ++ natLe 1 s.dump.head.format ++ natLe 6 0 ++ natLe 8 (dumpSize s.dump) ++ natLe 8 s.dump.head.lift else natLe 24 0) t) ∧
    (serves s 0 0x505 r → s.dump.writing = false → s.dump.present = true → off + n ≤ dumpSize s.dump → Answers (.dumpRead 0) s fun t =>
      Replied s 0 0 [] t ∧ ∃ d, t.out.log = .hostWrite 0 (fld r.p 0x10 8) d :: s.out.log ∧ d.length = n ∧
        (dumpPoison s off n = [] → d = mread (dumpImage s) off n ∧ t.dump.poisoned = satAdd 255 s.dump.poisoned 0)) ∧
    (serves s 0 0x505 r → s.dump.writing = true → Answers (.dumpRead 0) s fun t => Replied s 0 0x28 [] t ∧ t.out = s.out) ∧
    (serves s 0 0x505 r → s.dump.writing = false → s.dump.present = false ∨ dumpSize s.dump < off + n → Answers (.dumpRead 0) s fun t =>
      Replied s 0 0x23 [] t ∧ t.out = s.out) ∧
    (serves s 0 0x506 r → Answers (.dumpClear 0) s fun t => Replied s 0 0 [] t ∧ t.dump = { s.dump with present := false, failed := false })

/-- SYNC_VIEW_WRITE, LATCHING_LO_READ, RC_READ, REGISTER_WRITE and RING_CONS_WRITE. An access to a window its function does not serve
is answered Unsupported Request and does nothing else; cons takes a value up to prod and ignores a larger one; an aligned 8-byte
write of the sync-object view signals, and any other write of it does nothing; a read of a low half answers it and latches the
high half; a read of a register all of whose fields are RC answers its value and leaves it 0; go starts a request, or is counted
as ignored; a write of the message area stores its byte; a narrow write of a register, and a write of an interrupt setting while
the controller is locked, change nothing -/
def Obligations.RegisterAccesses : Prop :=
  ∀ (s : State), s.start.powered = true →
    (∀ w off size v, windowOpen s w = false → winOk s w = true →
      Answers (.rcRead w off size) s (fun t => t = emit .unsupportedRequest s) ∧ Answers (.registerWrite w off size v) s (fun t => t = emit .unsupportedRequest s) ∧
      (latches w off = true → Answers (.latchingLoRead w off) s fun t => t = emit .unsupportedRequest s)) ∧
    (∀ off size v, windowOpen s .manager = false → Answers (.syncViewWrite off size v) s fun t => t = emit .unsupportedRequest s) ∧
    (∀ r (v : BitVec 32), windowOpen s (ringWin r) = true → (∀ b, r = .bayEvents b → bayServes s b 0x80044 = true) → Answers (.ringConsWrite r v) s fun t =>
      ringOf t r = if v.toNat ≤ (ringOf s r).prod then { ringOf s r with cons := v.toNat } else ringOf s r) ∧
    (∀ off v b o, windowOpen s .manager = true → syncView s off = some (b, o) → off % 8 = 0 → Answers (.syncViewWrite off 8 v) s fun t =>
      syncVal t b o = max (syncVal s b o) (v % 2 ^ 64) ∧
      (bay t b).progress = if syncVal s b o < v % 2 ^ 64 then ((bay s b).progress + 1) % 2 ^ 32 else (bay s b).progress) ∧
    (∀ off size v, windowOpen s .manager = true → (size ≠ 8 ∨ off % 8 ≠ 0 ∨ syncView s off = none) → Answers (.syncViewWrite off size v) s fun t => t = s) ∧
    (windowOpen s .manager = true →
      Answers (.latchingLoRead .manager 0x400010) s (fun t => Read (natLe 4 (s.rst.time % 2 ^ 32)) s t ∧ t.rst = { s.rst with timeLatch := s.rst.time / 2 ^ 32 }) ∧
      Answers (.latchingLoRead .manager 0x600008) s (fun t => Read (natLe 4 (s.lift.num % 2 ^ 32)) s t ∧ t.lift = { s.lift with latch := s.lift.num / 2 ^ 32 }) ∧
      Answers (.latchingLoRead .manager 0x800008) s (fun t => Read (natLe 4 (s.sec.epoch % 2 ^ 32)) s t ∧ t.sec = { s.sec with epochLatch := s.sec.epoch / 2 ^ 32 }) ∧
      ∀ off b o, syncView s off = some (b, o) → off % 8 = 0 → Answers (.latchingLoRead .manager off) s fun t =>
        Read (natLe 4 (syncVal s b o)) s t ∧ (bay t b).eqi = { (bay s b).eqi with syncLatch := tput o (syncVal s b o / 2 ^ 32) (bay s b).eqi.syncLatch }) ∧
    (∀ b, windowOpen s (.bay b) = true → bayServes s b 0x8000C = true → Answers (.latchingLoRead (.bay b) 0x8000C) s fun t =>
      Read (natLe 4 (s.lift.num % 2 ^ 32)) s t ∧ bay t b = { bay s b with liftLatch := s.lift.num / 2 ^ 32 }) ∧
    (∀ w off, windowOpen s w = true → latches w off = false → Answers (.latchingLoRead w off) s fun t => t = s) ∧
    (∀ off, off ∈ [0x48, 0x300008, 0x300020, 0x300044, 0x300084, 0x306004, 0x306010, 0x400028, 0x600020, 0x600024, 0x600028, 0x608200, 0x900100, 0xA00204, 0xB00100,
        0xB00104, 0xC00004, 0xC00104, 0xC00400, 0xD00100] → windowOpen s .manager = true →
      Answers (.rcRead .manager off 4) s fun t => Read (natLe 4 (mgrWord s off)) s t ∧ mgrWord t off = 0) ∧
    (∀ b off, off ∈ [0x80020, 0x80024, 0x80028, 0x80048] → windowOpen s (.bay b) = true → bayServes s b off = true →
      Answers (.rcRead (.bay b) off 4) s fun t => Read (natLe 4 (bayWord s b off)) s t ∧ bayWord t b off = 0) ∧
    (∀ w off size, windowOpen s w = true → off < 0x1000000 → areaBytes w off size s = none → off % size ≠ 0 → Answers (.rcRead w off size) s fun t =>
      Read (List.replicate size 0) s t ∧ ChangesOnly [.out] s t) ∧
    (∀ v, windowOpen s .manager = true → bit (v % 2 ^ 32) 0 = true → Answers (.registerWrite .manager 0x100000 4 v) s fun t =>
      if (mbx s 0).ready = false ∨ (mbx s 0).busy = true then (mbx t 0).ignored = satAdd 255 (mbx s 0).ignored 1 ∧ t.boxes.order = s.boxes.order
      else (∀ x, (s.boxes.order ++ [0]).head? = some x → (msgInfo (reqOf s x).msg).isSome = true) →
        (mbx t 0).busy = true ∧ t.boxes.order = s.boxes.order ++ [0] ∧ srcGo 0 ∈ t.irq.pend) ∧
    (∀ b o v, windowOpen s (.bay b) = true → bayServes s b (0x1000 + o) = true → o < 0x1000 → Answers (.registerWrite (.bay b) (0x1000 + o) 1 v) s fun t =>
      (mbx t (b + 1)).area = if (mbx s (b + 1)).busy = true ∧ o < 0x800 then (mbx s (b + 1)).area else mput o (BitVec.ofNat 8 v) (mbx s (b + 1)).area) ∧
    (∀ w off size v, windowOpen s w = true → areaBytes w off 1 s = none → size < 4 ∨ off % size ≠ 0 → Answers (.registerWrite w off size v) s fun t => t = s) ∧
    ∀ o v, windowOpen s .manager = true → s.irq.lock = true → o < 0x100000 → o % 4 = 0 → Answers (.registerWrite .manager (0x200000 + o) 4 v) s fun t =>
      t.irq.prio = s.irq.prio ∧ t.irq.dest = s.irq.dest ∧ t.irq.vec = s.irq.vec ∧ t.irq.en = s.irq.en ∧ t.irq.ext = s.irq.ext ∧ t.irq.bpoint = s.irq.bpoint ∧ t.irq.lock = true

/-- The interrupt controller's commands. A core takes its most urgent eligible source if no handler of its group runs; a handler's end
retires it; the relay delivers the most urgent ready source, a completion source with every owed vector, and loads the hold-off;
at the end of a hold-off nothing ready is left in the group; unmasking sends what is pending; a line's level follows its filter
and fires on its edge or level; the manager's writes clear and set only sources 8 to 12; the lock sets -/
def Obligations.InterruptCommands : Prop :=
  ∀ (s : State), s.start.powered = true →
    (∀ core n, core < 4 → mostUrgent s (eligible s core) = some n → mayTake s core n = true → Answers (.interruptTake core) s fun t => ChangesOnly [.irq, .out] s t ∧
      tgetD core t.irq.cores [] = n :: tgetD core s.irq.cores [] ∧ n ∈ t.irq.act ∧ t.out.log = .handler core n :: s.out.log ∧
      (n ∈ t.irq.pend ↔ ∃ k, k < 32 ∧ srcExt k = n ∧ srcReserved s n = false ∧ (extLine s k).level = true ∧ (extLine s k).filtered = true)) ∧
    (∀ core, core < 4 → (∀ n, mostUrgent s (eligible s core) = some n → mayTake s core n = false) → Answers (.interruptTake core) s fun t => t = s) ∧
    (∀ core n rest, core < 4 → tgetD core s.irq.cores [] = n :: rest → Answers (.handlerEnd core) s fun t => ChangesOnly [.irq] s t ∧
      t.irq.act = sdrop n s.irq.act ∧ tgetD core t.irq.cores [] = rest) ∧
    (∀ core, core < 4 → tgetD core s.irq.cores [] = [] → Answers (.handlerEnd core) s fun t => t = s) ∧
    (∀ n, mostUrgent s (relayReady s) = some n → Answers .relayDeliver s fun t => ChangesOnly [.irq, .out] s t ∧ n ∉ t.irq.pend ∧
      (srcBay n = none → discardsFn s 0 = false → (tgetD 0 s.irq.msix {}).fmask = false → irqVec s n ∈ (tgetD 0 s.irq.msix {}).unmasked → t.out.log = .msix 0 (irqVec s n) :: s.out.log) ∧
      (∀ b, srcBay n = some b → tgetD b t.irq.timer 0 = holdOf s b ∧ (n % 32 = 0 → tget b t.irq.owed = none ∧
        ∀ v, v ∈ tgetD b s.irq.owed [] → discardsFn s (b + 1) = false → if (tgetD (b + 1) s.irq.msix {}).fmask = true ∨ v ∉ (tgetD (b + 1) s.irq.msix {}).unmasked
          then v ∈ (tgetD (b + 1) t.irq.msix {}).pba else .msix (b + 1) v (reqT s (b + 1)) ∈ t.out.log))) ∧
    (mostUrgent s (relayReady s) = none → Answers .relayDeliver s fun t => t = s) ∧
    (∀ g, g < 16 → Answers (.holdoffExpire g) s fun t => ChangesOnly [.irq, .out] s t ∧
      ∀ n, n ∈ t.irq.pend → srcBay n = some g → ¬(n ∈ s.irq.en ∧ irqDest s n = 4 ∧ srcReserved s n = false ∧ s.sec.repointing = false)) ∧
    (∀ fn vec, fn ≤ s.bays.count → vec < (if fn = 0 then 8 else 64) → Answers (.msixUnmask fn vec) s fun t => ChangesOnly [.irq, .out] s t ∧
      vec ∈ (tgetD fn t.irq.msix {}).unmasked ∧ ((tgetD fn s.irq.msix {}).enable = true → (tgetD fn s.irq.msix {}).fmask = false →
        vec ∉ (tgetD fn t.irq.msix {}).pba ∧ (vec ∈ (tgetD fn s.irq.msix {}).pba → .msix fn vec (reqT s fn) ∈ t.out.log))) ∧
    (∀ k raw, k < 32 → Answers (.extLineChange k raw) s fun t => ChangesOnly [.irq] s t ∧
      let e := extLine s k
      let v := raw != e.polarity
      extLine t k = { e with raw := v, filtered := v } ∧
      if (v && (e.level || !e.filtered) && !srcReserved s (srcExt k)) = true then srcExt k ∈ t.irq.pend else t.irq.pend = s.irq.pend) ∧
    (∀ n v, n < 16 → Answers (.irqPendClear n v) s fun t => t = { s with irq := { s.irq with pend := s.irq.pend.filter fun k => !(mgrSources n v).contains k } }) ∧
    (∀ n v, n < 16 → Answers (.irqSet n v) s fun t => ChangesOnly [.irq] s t ∧ (n ≠ 0 → t = s) ∧
      ∀ k, 8 ≤ k → k ≤ 12 → n = 0 → (k ∈ t.irq.pend ↔ k ∈ s.irq.pend ∨ v.getLsbD k = true)) ∧
    Answers .irqLock s fun t => t = { s with irq := { s.irq with lock := true } }

/-- The SPDM requests. GET_VERSION starts negotiation again; capabilities and algorithms follow it; digests, certificate portions,
measurements and challenges are answered on a negotiated connection or in an open session, those that sign only while the identity
store is locked and the alias key ready; KEY_EXCHANGE opens the lowest of four sessions, FINISH completes its handshake or ends
it, HEARTBEAT, KEY_UPDATE and END_SESSION act in an open session, and a silent one ends; a request out of place gets its error and
changes nothing but the pending interrupt source that every request fires; none is answered without firmware or while the link is
down. The SPDM encodings, the transcripts signed and the nonces are the model's (log entry 17) -/
def Obligations.SpdmRequests : Prop :=
  ∀ (s : State),
    (∀ i ∈ [Instr.getVersion, .getCapabilities, .negotiateAlgorithms {}, .getDigests none, .getCertificate 0 0 64, .challenge 0 [], .getMeasurements none 0xFF true [],
        .keyExchange [], .finish 1 true, .heartbeat 1, .keyUpdate 1, .endSession 1, .unsupportedSpdmRequest 0xFE], s.start.powered = true → spdmOpen s = false →
        Answers i s fun t => t = s) ∧
    (spdmOpen s = true →
      Answers .getVersion s (fun t => Says (.spdm 0x04 (natLe 2 0x1200 ++ natLe 2 0x1300)) s t ∧ t.sec = { s.sec with version := true, algs := false }) ∧
      Answers .getCapabilities s (fun t => ChangesOnly [.out, .irq] s t ∧ if s.sec.version = true then Says (.spdm 0x61 (natLe 1 18 ++ natLe 4 0x262F6 ++ natLe 4 4096 ++ natLe 4 131072)) s t
        else Says (.spdmError 4) s t) ∧
      (∀ o, Answers (.negotiateAlgorithms o) s fun t => if s.sec.version = true ∧ algsOk o = true then Says (.spdm 0x63 algsChosen) s t ∧ t.sec = { s.sec with algs := true }
        else Says (.spdmError (if s.sec.version = true then 1 else 4)) s t ∧ t.sec = s.sec) ∧
      ∀ code, Answers (.unsupportedSpdmRequest code) s fun t => t = emit (.spdmError 7) (asked s)) ∧
    (∀ sess, onConnection s sess = true →
      Answers (.getDigests sess) s (fun t => ChangesOnly [.out, .irq] s t ∧
        Says (.spdm 0x01 (if s.ident.locked = true then natLe 1 1 ++ natLe 48 (Config.sha384 (slot0 s)).toNat else natLe 1 0)) s t) ∧
      (∀ idx nonce, idx ≤ 11 ∨ idx = 0xFF → Answers (.getMeasurements sess idx false nonce) s fun t => ChangesOnly [.out, .irq] s t ∧
        Says (.spdm 0x60 (measRecord s idx ++ natLe 32 (randVal s).toNat)) s t) ∧
      (∀ idx nonce, idx ≤ 11 ∨ idx = 0xFF → Answers (.getMeasurements sess idx true nonce) s fun t =>
        let m := measRecord s idx ++ natLe 32 (randVal s).toNat
        match sign s (nonce ++ m) with
        | some g => Says (.spdm 0x60 (m ++ g)) s t ∧
            ∀ k, sess = some k → idx = 0xFF → (tgetD k t.sec.sessions {}).measured = true
        | none => Says (.spdmError 7) s t ∧ t.sec = s.sec) ∧
      ∀ idx nonce b, 11 < idx → idx ≠ 0xFF → Answers (.getMeasurements sess idx b nonce) s fun t =>
        t = emit (.spdmError (if b = true ∧ (sign s []).isNone = true then 7 else 1)) (asked s)) ∧
    (onConnection s none = true →
      (∀ off len, s.ident.locked = true → off < (slot0 s).length → Answers (.getCertificate 0 off len) s fun t => ChangesOnly [.out, .irq] s t ∧
        let p := ((slot0 s).drop off).take len
        Says (.spdm 0x02 (natLe 2 p.length ++ natLe 2 ((slot0 s).length - off - p.length) ++ p)) s t) ∧
      (∀ slot off len, slot ≠ 0 ∨ s.ident.locked = false ∨ (slot0 s).length ≤ off → Answers (.getCertificate slot off len) s fun t => t = emit (.spdmError 1) (asked s)) ∧
      (∀ nonce, Answers (.challenge 0 nonce) s fun t =>
        let m := digestBytes (Config.sha384 (slot0 s)) ++ natLe 32 (randVal s).toNat
        match sign s (nonce ++ m) with
        | some g => Says (.spdm 0x03 (m ++ g)) s t ∧ t.out.random = s.out.random + 1
        | none => t = emit (.spdmError 7) (asked s)) ∧
      (∀ slot nonce, slot ≠ 0 → Answers (.challenge slot nonce) s fun t => t = emit (.spdmError (if (sign s []).isNone = true then 7 else 1)) (asked s)) ∧
      (∀ req k, freeSession s = some k → Answers (.keyExchange req) s fun t =>
        let r := drawP384 s
        let m := natLe 4 k ++ natLe 1 60 ++ natLe 32 (randVal r.2).toNat ++ publicKey r.1
        match sign s (req ++ m) with
        | some g => Says (.spdm 0x64 (m ++ g)) s t ∧ tget k t.sec.sessions = some { secret := Config.spdmExport (Config.p384Ecdh r.1 (req.take 97)) (req ++ m) } ∧
            ∀ j, j ≠ k → tget j t.sec.sessions = tget j s.sec.sessions
        | none => t = emit (.spdmError 7) (asked s)) ∧
      ∀ req, freeSession s = none → Answers (.keyExchange req) s fun t => t = emit (.spdmError (if (sign s []).isNone = true then 7 else 0x0A)) (asked s)) ∧
    (∀ k x ok, spdmOpen s = true → tget k s.sec.sessions = some x → x.finished = false → Answers (.finish k ok) s fun t =>
      if ok = true then Says (.spdm 0x65 []) s t ∧ tget k t.sec.sessions = some { x with finished := true } else Says (.spdmError 6) s t ∧ tget k t.sec.sessions = none) ∧
    (∀ k, spdmOpen s = true → openSession s k = true →
      Answers (.heartbeat k) s (fun t => t = emit (.spdm 0x68 []) (asked s)) ∧
      Answers (.keyUpdate k) s (fun t => Says (.spdm 0x69 []) s t ∧ (tgetD k t.sec.sessions {}).keyGen = (tgetD k s.sec.sessions {}).keyGen + 1) ∧
      Answers (.endSession k) s fun t => Says (.spdm 0x6C []) s t ∧ tget k t.sec.sessions = none) ∧
    (∀ k, spdmOpen s = true → openSession s k = false → ∀ i ∈ [Instr.heartbeat k, .keyUpdate k, .endSession k, .getDigests (some k), .getMeasurements (some k) 1 true []],
      Answers i s fun t => t = emit (.spdmError 2) (asked s)) ∧
    (spdmOpen s = true → onConnection s none = false → ∀ i ∈ [Instr.getDigests none, .getCertificate 0 0 64, .challenge 0 [], .getMeasurements none 1 true [], .keyExchange []],
      Answers i s fun t => t = emit (.spdmError 4) (asked s)) ∧
    ∀ k, s.start.powered = true → Answers (.spdmSessionTimeout k) s fun t => ChangesOnly [.sec] s t ∧ tget k t.sec.sessions = none ∧
      ∀ j, j ≠ k → tget j t.sec.sessions = tget j s.sec.sessions

/-- IDE key management and TDISP. In an open session QUERY tells the streams' state, KEY_PROG programs the key of one sub-stream and
direction in a key set of a stream, and is refused while repointing; K_SET_GO puts a programmed set in force there, and the stream
is Secure once all six have one; K_SET_STOP or an integrity failure makes it Insecure with its keys erased and the interfaces it
carries in ERROR; LOCK_INTERFACE_REQUEST of an unlocked interface of a ready bay on a Secure stream locks it with a fresh nonce;
the report is answered while locked or running; START runs a locked interface; STOP sends the bay to reset work and the interface
is unlocked when that has ended, told by RESPOND_IF_READY; a request in the wrong state gets InvalidInterfaceState -/
def Obligations.IdeAndTdisp : Prop :=
  ∀ (s : State) (k b : Nat),
    let x := tdi s b
    let insecure (i : Nat) (t : State) : Prop := (ide t i).secure = false ∧ (ide t i).keys = [] ∧ (ide t i).active = [] ∧
      ∀ j, j < s.bays.count → (tdi t j).st = if (tdi s j).stream = i ∧ ((tdi s j).st = .locked ∨ (tdi s j).st = .run) then .error else (tdi s j).st
    (spdmOpen s = true → openSession s k = true →
      Answers (.query k) s (fun t => ChangesOnly [.out, .irq] s t ∧
        Says (.spdm 0x7E (natLe 1 1 ++ (natLe 1 4 ++ (List.range 4).flatMap fun i => natLe 1 (b2n (ide s i).secure) ++ natLe 1 (ide s i).streamId))) s t) ∧
      (∀ i id ks key sub tx pcrc, i < 4 → ks < 2 → s.sec.repointing = false → Answers (.keyProg k i id ks key sub tx pcrc) s fun t =>
        Says (.spdm 0x7E (natLe 1 3 ++ natLe 1 0)) s t ∧
        ide t i = { ide s i with streamId := id % 256, pcrc := pcrc, keys := tput (6 * ks + 2 * sub + b2n tx) key (ide s i).keys } ∧ ∀ j, j ≠ i → ide t j = ide s j) ∧
      (∀ i id ks key sub tx pcrc, 4 ≤ i ∨ 2 ≤ ks ∨ s.sec.repointing = true → Answers (.keyProg k i id ks key sub tx pcrc) s fun t =>
        ChangesOnly [.out, .irq] s t ∧ Says (.spdm 0x7E (natLe 1 3 ++ natLe 1 (if 4 ≤ i ∨ 2 ≤ ks then 3 else 4))) s t) ∧
      (∀ i ks sub tx, i < 4 → Answers (.kSetGo k i ks sub tx) s fun t => Says (.spdm 0x7E (natLe 1 6)) s t ∧
        let put := tput (2 * sub + b2n tx) ks (ide s i).active
        ide t i = if (tget (6 * ks + 2 * sub + b2n tx) (ide s i).keys).isSome = true ∧ s.sec.repointing = false then
          { ide s i with active := put, secure := (List.range 6).all fun n => (tget n put).isSome } else ide s i) ∧
      ∀ i, i < 4 → Answers (.kSetStop k i) s fun t => Says (.spdm 0x7E (natLe 1 6)) s t ∧ insecure i t) ∧
    (∀ i, s.start.powered = true → i < 4 → (ide s i).secure = true → Answers (.ideIntegrityFail i) s fun t => insecure i t ∧ (ide t i).fail = satAdd 0xFF (ide s i).fail 1) ∧
    (∀ i, s.start.powered = true → i < 4 → (ide s i).secure = false → Answers (.ideIntegrityFail i) s fun t => t = s) ∧
    (b < s.bays.count → spdmOpen s = true → openSession s k = true →
      Answers (.getTdispVersion k b) s (fun t => t = emit (.tdisp 0x01 (natLe 1 1 ++ natLe 1 0x10)) (tdAsked s)) ∧
      Answers (.getTdispCapabilities k b) s (fun t => t = emit (.tdisp 0x02 (natLe 1 0xFE)) (tdAsked s)) ∧
      (∀ i, lockable s b i = true → Answers (.lockInterfaceRequest k b i) s fun t => Says (.tdisp 0x03 (natLe 32 (randVal s).toNat)) s t ∧
        tdi t b = { st := .locked, stream := i, stopping := false } ∧ ∀ j, j ≠ b → tdi t j = tdi s j) ∧
      (∀ i, lockable s b i = false → Answers (.lockInterfaceRequest k b i) s fun t => t = emit (.tdisp 0x7F (natLe 4 4)) (tdAsked s)) ∧
      Answers (.getDeviceInterfaceReport k b) s (fun t => t = if x.st = .locked ∨ x.st = .run then
        emit (.tdisp 0x04 (natLe 8 (bay s b).bar ++ natLe 8 (2 ^ 20) ++ natLe 8 (bay s b).bar2 ++ natLe 8 (apertureBytes s (b + 1)) ++ natLe 4 0xC000)) (tdAsked s)
        else emit (.tdisp 0x7F (natLe 4 4)) (tdAsked s)) ∧
      Answers (.getDeviceInterfaceState k b) s (fun t => t = emit (.tdisp 0x05 (natLe 1 (tdiCode x.st))) (tdAsked s)) ∧
      (x.st = .locked → Answers (.startInterfaceRequest k b) s fun t => (tdi t b).st = .run ∧ t.out.log.head? = some (.tdisp 0x06 [])) ∧
      (x.st ≠ .locked → Answers (.startInterfaceRequest k b) s fun t => t = emit (.tdisp 0x7F (natLe 4 4)) (tdAsked s)) ∧
      (x.st ≠ .unlocked → (bay s b).st ≠ .absent → Answers (.stopInterfaceRequest k b) s fun t => (bay t b).st = .resetting ∧ (tdi t b).stopping = true ∧
        (tdi t b).st = x.st ∧ t.out.log.head? = some NotReady) ∧
      (x.st ≠ .unlocked → (bay s b).st = .absent → Answers (.stopInterfaceRequest k b) s fun t => tdi t b = { st := .unlocked, stream := 7, stopping := false } ∧
        Says (.tdisp 0x07 []) s t) ∧
      (x.st = .unlocked → Answers (.stopInterfaceRequest k b) s fun t => t = emit (.tdisp 0x7F (natLe 4 4)) (tdAsked s))) ∧
    (b < s.bays.count → spdmOpen s = true → openSession s k = false → ∀ i ∈ [Instr.getTdispVersion k b, .getTdispCapabilities k b, .lockInterfaceRequest k b 0,
      .getDeviceInterfaceReport k b, .getDeviceInterfaceState k b, .startInterfaceRequest k b, .stopInterfaceRequest k b], Answers i s fun t => t = emit (.spdmError 2) (tdAsked s)) ∧
    (b < s.bays.count → spdmOpen s = true →
      (x.stopping = true → (bay s b).st ≠ .resetting → Answers (.respondIfReady b) s fun t => Says (.tdisp 0x07 []) s t ∧ tdi t b = { x with stopping := false }) ∧
      (x.stopping = true → (bay s b).st = .resetting → Answers (.respondIfReady b) s fun t => t = emit NotReady (asked s)) ∧
      (x.stopping = false → Answers (.respondIfReady b) s fun t => t = emit (.spdmError 4) (asked s)))

/-- The phases of repointing, and the scrub of the quoin engines. In its phase, REPOINT_OVERWRITE leaves HBM, windows, scratchpads,
accumulators, instruction memories, poison marks and key stores empty; REPOINT_VERIFY withholds the extents of blocks that failed
twice; REPOINT_ATTEST advances the epoch and empties the logs; REPOINT_HOLD, once late, fails the links not keyed;
REPOINT_COMPLETE makes the bays that exist CREATED, ends the operation and acts on a compute-part trigger that waited; out of its
phase each does nothing; an engine that has not scrubbed in time is held in reset with its port empty -/
def Obligations.Repointing : Prop :=
  ∀ (s : State), s.start.powered = true →
    (inPhase 1 s = true → Answers .repointOverwrite s fun t => inPhase 2 t = true ∧ t.mem.hbm = [] ∧ t.mem.win = [] ∧ t.mem.poison = [] ∧ t.dump.present = false ∧
      (∀ a, (ash t a).spad = [] ∧ (ash t a).acc = [] ∧ (ash t a).imem = []) ∧
      ∀ b, b < s.bays.count → (bay s b).st ≠ .absent → (bay t b).strm.keys = [] ∧ (bay t b).mem.extents = [] ∧ ∀ q, queue? t b q = none) ∧
    (∀ bad, inPhase 2 s = true → Answers (.repointVerify bad) s fun t => inPhase 3 t = true ∧
      (∀ e, e ∈ bad → e.2 = true → e.1 * 512 / 2 ^ 21 ∈ t.mem.withheld) ∧ (∀ k, k ∈ s.mem.withheld → k ∈ t.mem.withheld) ∧ t.mem.hbm = s.mem.hbm) ∧
    (inPhase 3 s = true → Answers .repointAttest s fun t =>
      t = { s with sec := { s.sec with epoch := (s.sec.epoch + 1) % 2 ^ 64, progLog := {}, wtLog := {}, phase := 4 } }) ∧
    (∀ late, inPhase 4 s = true ∨ inPhase 5 s = true → Answers (.repointHold late) s fun t => ChangesOnly [.sec, .kw] s t ∧ inPhase 5 t = true ∧
      ∀ p, p < kwPorts s → kport t p = if late = true ∧ bit s.sec.linksPending p = true then { kport s p with key := .failed } else kport s p) ∧
    (inPhase 5 s = true → Answers .repointComplete s fun t => t.sec.repointing = false ∧ t.sec.phase = 0 ∧
      (∀ b, b < s.bays.count → (bay t b).st = if (bay s b).st = .absent then .absent else .created) ∧
      (∀ x i, opOf s .repoint = some (x, i) → opRuns s x i .repoint → bit (mbx s x).opDone i = false → opEnded t x i 0) ∧
      (∀ k, s.rst.after = some k → s.rst.now = none → s.rst.want = none → t.rst = { s.rst with after := none, want := some (resetAt false k s) }) ∧
      (s.rst.after = none → t.rst = s.rst)) ∧
    (∀ k i bad late, (k, i) ∈ [(1, Instr.repointOverwrite), (2, .repointVerify bad), (3, .repointAttest), (5, .repointComplete)] → inPhase k s = false → Answers i s (fun t => t = s) ∧
      (inPhase 4 s = false → inPhase 5 s = false → Answers (.repointHold late) s fun t => t = s)) ∧
    ∀ p, p < quoinPorts s →
      ((qport s p).scrub = true → Answers (.quoinScrubTimeout p) s fun t => Says (.quoinReset p true) s t ∧
        qport t p = { qport s p with scrub := false, registered := false, heldReset := true, identity := [], words := [], mhz := 0 } ∧ ∀ k, k ≠ p → qport t k = qport s k) ∧
      ((qport s p).scrub = false → Answers (.quoinScrubTimeout p) s fun t => t = s)

/-- The Kewick links: IDLE, CREDIT, NAK, TRAIN, KEYX and what happens to a link. A frame is ignored on a link that is not up; one the
receiver discards is NAKed with the next expected number and not accepted; IDLE only moves that number on; CREDIT adds credits and
acknowledges; NAK resends from the named number, or retrains the link once eight resends have not been accepted; TRAIN leaves the
frames beyond the reported one; KEYX with a first message is answered with a signature that names a boundary, and begins this
end's own exchange if there was none; KEYX with a signature that verifies derives both keys, records the peer's chain, clears the
link's pending bit, and keys the link at once, or on a link that carries traffic at the numbers agreed; one that does not verify
marks the link failed; training ends in keying, retry or mismatch; lost lock and a counter's limit retrain; a trigger starts a
re-key, a failed exchange and a failed training are tried again, and the replay buffer of a link that is down is discarded -/
def Obligations.LinkFrames : Prop :=
  ∀ (s : State) (p : Nat) (f : Frame), s.start.powered = true → p < kwPorts s →
    let x := kport s p
    let y := kport (turn p s) p
    let frames : List Instr := [.idle p f, .kwCredit p f, .nak p f, .read p f {}, .write p f {}, .atomic p f {}, .reduce p f {}, .readData p f, .status p f, .colHs p f,
      .colData p f false, .colAck p f, .colNak p f, .colAbandon p f, .colProbe p f, .colIsr p f]
    let retrains (t : State) : Prop := SendsTrain p (lastRx x) s t ∧ kport t p =
      { x with st := .training, rev := 0, key := .none, retrains := satAdd 255 x.retrains 1, resends := 0, hello := [], peerHello := [], nextTx := none, nextRx := none } ∧
      srcKw p ∈ t.irq.pend
    (linkUp x = false → ∀ i ∈ frames, exec i s = .next s) ∧
    (linkUp x = true → discards x f = true → ∀ i ∈ frames, Answers i s fun t => ChangesOnly [.kw, .irq, .out] s t ∧
      (kport t p).sRx = x.sRx ∧ Sends p (fun g => g.kind = fkNak ∧ g.full = x.sRx) s t ∧
      (kport t p).tagFail = if f.fecOk = true ∧ f.tagOk = false then satAdd 255 x.tagFail 1 else x.tagFail) ∧
    (takes s p fkIdle f = true → exec (.idle p f) s = .next (took s p)) ∧
    (takes s p fkCredit f = true → Answers (.kwCredit p f) s fun t => ChangesOnly [.kw, .irq, .out] s t ∧ (kport t p).sRx = x.sRx + 1 ∧
      (y.outq = [] → s.kw.waiting = [] → kport t p = { y with
        sRx := x.sRx + 1, credReq := y.credReq + fld f.data 0 2, credRsp := y.credRsp + fld f.data 2 2, credSpr := y.credSpr + fld f.data 4 2
        resends := if y.replay.any (fun e => e.1 ≤ f.full) then 0 else y.resends, replay := y.replay.filter fun e => f.full < e.1 })) ∧
    (takes s p fkNak f = true → Answers (.nak p f) s fun t => (kport t p).naks = satAdd 255 x.naks 1 ∧ (kport t p).sRx = x.sRx + 1 ∧
      if x.resends < 8 then t.out.log = ((x.replay.filter fun e => f.full ≤ e.1).map fun e => Out.frame p e.2).reverse ++ s.out.log ∧ (kport t p).st = x.st
      else (kport t p).st = .training ∧ (kport t p).key = .none) ∧
    (Answers (.train p f) s fun t => if x.st = .training ∨ x.st = .retrying then SendsTrain p (lastRx x) s t ∧
      kport t p = { x with replay := if f.full < x.sTx then x.replay.filter (fun e => f.full < e.1) else x.replay } else t = s) ∧
    (∀ ok, (x.st ≠ .keying ∧ x.st ≠ .up) ∨ (fld f.data 0 1 ≠ 1 ∧ fld f.data 0 1 ≠ 2) ∨ (fld f.data 0 1 = 2 ∧ x.peerHello = []) → exec (.keyx p f ok) s = .next s) ∧
    (x.st = .keying ∨ x.st = .up →
      (∀ ok, fld f.data 0 1 = 1 → Answers (.keyx p f ok) s fun t => (kport t p).peerHello = f.data.drop 1 ∧ (kport t p).st = x.st ∧ SendsKeyx p 2 s t ∧
        (x.hello = [] → SendsKeyx p 1 s t ∧ (kport t p).hello ≠ [])) ∧
      (fld f.data 0 1 = 2 → x.peerHello ≠ [] →
        (Answers (.keyx p f false) s fun t => kport t p = { x with key := .failed, hello := [], peerHello := [] } ∧ srcKw p ∈ t.irq.pend) ∧
        (Answers (.keyx p f true) s fun t => (kport t p).st = .up ∧ (kport t p).peer = Config.sha384 (x.peerHello.drop 129) ∧
          t.sec.linksPending = (if bit s.sec.linksPending p = true then s.sec.linksPending - 2 ^ p else s.sec.linksPending) ∧
          let tx := linkKey x (x.hello.take 97)
          let rx := linkKey x (x.peerHello.take 97)
          if x.st = .up ∧ x.key = .rekeying then
            ((kport t p).nextTx = some (x.cut, tx) ∨ (kport t p).txKey = tx) ∧ ((kport t p).nextRx = some (fld f.data 1 8, rx) ∨ (kport t p).rxKey = rx)
          else (kport t p).key = .keyed ∧ (kport t p).txKey = tx ∧ (kport t p).rxKey = rx ∧ (kport t p).rekeys = satAdd 255 x.rekeys 1 ∧
            (kport t p).sKRx = fld f.data 1 8 ∧ srcKw p ∈ t.irq.pend))) ∧
    (∀ ep dom rev ok, (x.st ≠ .training ∨ linkFld s p 0 ≠ 1 → exec (.linkTrained p ep dom rev ok) s = .next s) ∧
      (x.st = .training → linkFld s p 0 = 1 → Answers (.linkTrained p ep dom rev ok) s fun t => srcKw p ∈ t.irq.pend ∧
        if ok = false then kport t p = { x with st := .retrying } ∧ t.kw.epValid = s.kw.epValid
        else if s.kw.epValid = true ∧ (s.kw.ep ≠ ep % 4096 ∨ s.kw.dom ≠ dom % 4096) then kport t p = { x with st := .mismatch } ∧ t.kw.ep = s.kw.ep
        else (kport t p).st = .keying ∧ (kport t p).rev = min (min 3 (linkFld s p 1)) rev ∧ SendsKeyx p 1 s t ∧
          t.kw.epValid = true ∧ t.kw.ep = ep % 4096 ∧ t.kw.dom = dom % 4096)) ∧
    (∀ lane, lane < 4 → Answers (.laneLockLoss p lane) s fun t => if x.st = .up ∨ x.st = .keying then retrains t else t = s) ∧
    (Answers (.trainingRetryTimer p) s fun t => if x.st = .retrying then kport t p = { x with st := .training } ∧ SendsTrain p (lastRx x) s t else t = s) ∧
    (exec (.replayBufferDiscard p) s = .next (if linkUp x = false then modKw p (fun x => { x with replay := [] }) s else s)) ∧
    (Answers (.linkRekeyTrigger p) s fun t => if x.st = .up ∧ x.key = .keyed then (kport t p).key = .rekeying ∧ SendsKeyx p 1 s t ∧ srcKw p ∈ t.irq.pend else t = s) ∧
    (Answers (.linkCounterLimit p) s fun t => if x.st = .up ∧ x.key = .rekeying then retrains t else t = s) ∧
    (Answers (.keyxRetryTimeout p) s fun t => if x.key = .failed then SendsKeyx p 1 s t ∧ (kport t p).key = .failed ∧ (kport t p).st = x.st else t = s)

/-- READ, WRITE, ATOMIC and REDUCE from a peer, READ_DATA, STATUS and REQUEST_TIMEOUT. An inbound request the block cannot serve is
answered ENDPOINT_UNAVAILABLE; a malformed one is answered MALFORMED and freezes the enabled window it names; one the window
checks refuse, or whose bytes are poisoned, is answered DENIED; any other reads, stores, or updates exactly the bytes its window
reaches, and its answer carries its tag and mark. An answer with a stale mark is counted and dropped; one to a read enters the
transfer, one to an effect counts toward the command's end; a timed-out READ is issued again under another tag, or waits for one,
at most twice, and anything else ends as unavailable -/
def Obligations.RequestFrames : Prop :=
  ∀ (s : State) (p : Nat) (f : Frame) (env : Env),
    let u := took s p
    (∀ r ∈ inboundsOf p f env, takes s p r.kind f = true →
      (unavailable s = true → Answers r.i s fun t => AnswersWith p r.ans 2 [] f s t ∧ t.mem = s.mem) ∧
      (unavailable s = false → r.bad = true → Answers r.i s fun t => AnswersWith p r.ans 3 [] f s t ∧
        ∀ w, tget (f.addr / 2 ^ 40) s.mem.wins = some w → tget (f.addr / 2 ^ 40) t.mem.wins =
          some (if w.enabled = true then { w with enabled := false, frozen := true, viol := (f.addr % 2 ^ 40, f.src) } else w)) ∧
      (unavailable s = false → r.bad = false → winCheck s f.src f.addr r.n r.op = none → Answers r.i s fun t => AnswersWith p r.ans 1 [] f s t ∧
        t.mem = { s.mem with denied := satAdd 0xFFFF s.mem.denied 1 }) ∧
      ∀ b va, unavailable s = false → r.bad = false → winCheck s f.src f.addr r.n r.op = some (b, va) →
        let v := afterMac (r.kind == fkWrite) b va r.n env u
        ((poisonVa v b va r.n).isSome = true → Answers r.i s fun t => AnswersWith p r.ans 1 [] f s t ∧ t.mem = v.mem) ∧
        ((poisonVa v b va r.n).isSome = false → Answers r.i s fun t =>
          let old := (readVa v b {} false va r.n).getD []
          AnswersWith p r.ans 0 (if r.kind = fkRead then old else if r.kind = fkAtomic then natLe 8 (leNat old) else []) f s t ∧
          t.mem = (countRange b va r.n (decide (r.kind ≠ fkRead)) (if r.kind = fkRead then v else writeVa b va (storedBy f r.kind old) v)).mem)) ∧
    (∀ i k, (i, k) ∈ [(Instr.readData p f, fkReadData), (.status p f, fkStatus)] → takes s p k f = true →
      (tget f.tag s.kw.txns = none → k = fkReadData ∨ f.addr % 16 ≠ 2 → Answers i s fun t => t.cmds = s.cmds ∧ t.grid = s.grid ∧ t.kw.txns = s.kw.txns ∧ t.mem = s.mem) ∧
      ∀ x, tget f.tag s.kw.txns = some x →
      (f.mark = s.kw.mark → (k == fkReadData) ≠ (x.kind == fkRead) → Answers i s fun t => t.cmds = s.cmds ∧ t.grid = s.grid ∧ t.kw.txns = s.kw.txns ∧ t.mem = s.mem) ∧
      (f.mark = s.kw.mark → (k == fkReadData) = (x.kind == fkRead) → x.owner = .own → Answers i s fun t => t.mem = s.mem ∧ ∀ c, (cmd? t c).isSome = (cmd? s c).isSome) ∧
      (f.mark ≠ s.kw.mark → Answers i s fun t => tget f.tag t.kw.txns = none ∧ t.kw.stale = satAdd 0xFFFF s.kw.stale 1 ∧ t.cmds = s.cmds ∧ t.grid = s.grid) ∧
      (∀ cid a tag d, k = fkReadData → f.mark = s.kw.mark → x.kind = fkRead → x.owner = .dma cid a tag → (ash s a).cid = cid → tget tag (ash s a).tags = some d →
        (f.addr % 16 = 0 → Answers i s fun t => ∃ e, tget tag (ash t a).tags = some e ∧ e.got = mputs x.va f.data d.got ∧ e.d = d.d) ∧
        (∀ c, f.addr % 16 ≠ 0 → cmd? s cid = some c → c.cid = cid → Answers i s fun t => cmd? t cid = none)) ∧
      ∀ cid idx c failed, k = fkStatus → f.mark = s.kw.mark → x.kind ≠ fkRead → x.owner = .effect cid idx → cmd? s cid = some c → tgetD idx c.effs (0, false) = (1, failed) →
        (c.copyOwed = true → Answers i s fun t => ∃ d, cmd? t cid = some d ∧ d.remoteLeft = c.remoteLeft - 1 ∧
          d.remoteFailed = (if failed = true ∨ f.addr % 16 ≠ 0 then c.remoteFailed + 1 else c.remoteFailed) ∧
          d.code = if f.addr % 16 ≠ 0 ∧ c.code = 0 then statusCode (f.addr % 16) else c.code) ∧
        (c.cid = cid → c.committed = true → c.copyOwed = false → c.remoteLeft = 1 → Answers i s fun t => cmd? t cid = none)) ∧
    ∀ tag, s.start.powered = true →
      let freed (v : State) : State := { dropTxn tag v with kw := { (dropTxn tag v).kw with timeout := satAdd 0xFFFF v.kw.timeout 1, cooling := tput tag v.rst.time v.kw.cooling } }
      (tget tag s.kw.txns = none → exec (.requestTimeout tag) s = .next s) ∧
      (∀ x, tget tag s.kw.txns = some x → x.kind = fkRead → x.tries < 3 → s.kw.again = [] → Answers (.requestTimeout tag) s fun t => t.cmds = s.cmds ∧ t.kw.timeout = satAdd 0xFFFF s.kw.timeout 1 ∧
        tget tag t.kw.txns = none ∧ (stillWanted s x = false → t.kw = (freed s).kw) ∧
        (stillWanted s x = true → freeTag (freed s) x.bay = none → t.kw = { (freed s).kw with again := [{ x with tries := x.tries + 1 }] })) ∧
      (∀ x cid a dt c, tget tag s.kw.txns = some x → x.kind = fkRead → 3 ≤ x.tries → x.owner = .dma cid a dt → (ash s a).cid = cid → (tget dt (ash s a).tags).isSome = true →
        cmd? s cid = some c → c.cid = cid → Answers (.requestTimeout tag) s fun t => cmd? t cid = none ∧ tget tag t.kw.txns = none) ∧
      (∀ x k, tget tag s.kw.txns = some x → x.kind = fkRead → x.tries < 3 → s.kw.again = [] → stillWanted s x = true → freeTag (freed s) x.bay = some k → Answers (.requestTimeout tag) s fun t =>
        tget tag t.kw.txns = none ∧ tget k t.kw.txns = some { x with tries := x.tries + 1, mark := s.kw.mark } ∧ t.kw.timeout = satAdd 0xFFFF s.kw.timeout 1) ∧
      ∀ x cid idx c failed, tget tag s.kw.txns = some x → x.kind ≠ fkRead → x.owner = .effect cid idx → cmd? s cid = some c → tgetD idx c.effs (0, false) = (1, failed) →
        c.copyOwed = true → Answers (.requestTimeout tag) s fun t => t.kw.timeout = satAdd 0xFFFF s.kw.timeout 1 ∧ ∃ d, cmd? t cid = some d ∧
          d.remoteFailed = c.remoteFailed + 1 ∧ d.remoteLeft = c.remoteLeft - 1 ∧ d.code = if c.code = 0 then 0x60 else c.code

/-- The COL_ frames, CHUNK_RESEND_TIMEOUT and COL_PROBE_TIMER. A child's COL_HS is kept for a sequence number that has not started and
counted for one that has: the last one sends the member's own up, or makes the root decide; the parent's verdict sets the path, or
ends the collective COLL_MISMATCH, also of a member that has not sent its own COL_HS, and a MISMATCH for a number not started is
kept for it; a chunk that is complete is acknowledged and its receive done once the member's input is gathered, and is held until
then, a damaged one is asked for again, one already here is acknowledged; COL_ACK takes the chunk off the sender's list; COL_NAK
and the resend time-out send it again, and give up COLL_EXHAUSTED after eight tries; COL_ABANDON ends the collective with its
code, once for each sequence number, unless it commits already; a frame of no group or no collective in progress changes no
command; a probe is answered; a waiting member probes, and gives up COLL_MEMBER_LOST after eight unanswered; COL_ISR is taken and
has no effect -/
def Obligations.CollectiveFrames : Prop :=
  ∀ (s : State) (p : Nat) (f : Frame),
    let q := frameSeq f
    (∀ i g, takes s p fkColHs f = true → frameGroup s f = some (i, g) → rankOf g f.src ∈ childrenOf g → frameCol s f = none → Answers (.colHs p f) s fun t =>
      t.arch = (modGroup i (fun g => { g with early := g.early ++ [(q, childOf (rankOf g f.src) f)] }) s).arch ∧ t.cmds = s.cmds) ∧
    (∀ i g, takes s p fkColHs f = true → frameGroup s f = some (i, g) → g.rank ≠ 0 → rankOf g f.src = parentOf g → frameCol s f = none → Answers (.colHs p f) s fun t =>
      t.arch = (keepVerdict i q (fld f.data 0 1) s).arch ∧ t.cmds = s.cmds) ∧
    (∀ cid x, frameCol s f = some cid → colCtx s cid = some x → x.c.cid = cid →
      let peer := rankOf x.g f.src
      let i := x.k.grp
      let n := f.tag / 32 % 256
      (takes s p fkColHs f = true → frameGroup s f = some (i, x.g) → peer ∈ childrenOf x.g → x.k.children.length + 1 < (childrenOf x.g).length → Answers (.colHs p f) s fun t =>
        t.cmds = (modCol cid (fun k => { k with children := k.children ++ [childOf peer f] }) s).cmds) ∧
      (takes s p fkColHs f = true → frameGroup s f = some (i, x.g) → peer ∈ childrenOf x.g → (childrenOf x.g).length ≤ x.k.children.length + 1 → x.c.st = .running → x.k.sentUp = false →
        (colSmall x = false ∨ allGathered x = true) → Answers (.colHs p f) s fun t =>
        (x.g.rank ≠ 0 → ∃ y, colCtx t cid = some y ∧ y.c.st = .anchored ∧ y.k.sentUp = true ∧ y.k.children = x.k.children ++ [childOf peer f]) ∧
        (x.g.rank = 0 → if combined { x.k with children := x.k.children ++ [childOf peer f] } = 0 then cmd? t cid = none ∧ t.arch.mismatch = satAdd 255 s.arch.mismatch 1
          else ∃ y, colCtx t cid = some y ∧ y.k.sentUp = true ∧ (y.k.verdict = .inSwitch ∨ y.k.verdict = .endpoint))) ∧
      (takes s p fkColHs f = true → frameGroup s f = some (i, x.g) → x.g.rank ≠ 0 → peer = parentOf x.g → (x.c.st = .anchored ∨ x.c.st = .running ∧ fld f.data 0 1 = 0) → Answers (.colHs p f) s fun t =>
        if fld f.data 0 1 = 0 then cmd? t cid = none ∧ t.arch.mismatch = satAdd 255 s.arch.mismatch 1
        else ∃ y, colCtx t cid = some y ∧ y.k.verdict = if fld f.data 0 1 = 2 then .inSwitch else .endpoint) ∧
      (∀ e, takes s p fkColData f = true → recvIndex x peer n = none → Answers (.colData p f e) s fun t => Sends p (fun g => g.kind = fkColAck ∧ g.dst = f.src) s t ∧ t.cmds = s.cmds) ∧
      (∀ j, takes s p fkColData f = true → recvIndex x peer n = some j → Answers (.colData p f true) s fun t => Sends p (fun g => g.kind = fkColNak ∧ g.dst = f.src) s t ∧
        t.cmds = (modCol cid (fun k => { k with slots := tdrop (peer * 256 + n) k.slots }) s).cmds) ∧
      (∀ j r, takes s p fkColData f = true → recvIndex x peer n = some j → (recvsOf x x.k.verdict)[j]? = some r →
        let have_ := tgetD (peer * 256 + n) x.k.slots []
        (have_.length ≠ 2048 * (f.tag % 32) → Answers (.colData p f false) s fun t => t.cmds = s.cmds ∧ t.arch = s.arch) ∧
        (have_.length = 2048 * (f.tag % 32) →
        ((have_ ++ f.data).length < chunkLen x r → Answers (.colData p f false) s fun t =>
          t.cmds = (modCol cid (fun k => { k with slots := tput (peer * 256 + n) (have_ ++ f.data) k.slots }) s).cmds) ∧
        (chunkLen x r ≤ (have_ ++ f.data).length → allGathered x = false → (x.k.held.any fun h => h.2.src == f.src && h.2.tag == f.tag) = false → Answers (.colData p f false) s fun t =>
          t.cmds = (modCol cid (fun k => { k with held := k.held ++ [(p, f)] }) s).cmds) ∧
        (chunkLen x r ≤ (have_ ++ f.data).length → allGathered x = true → Answers (.colData p f false) s fun t => Sends p (fun g => g.kind = fkColAck ∧ g.dst = f.src) s t ∧
          ∃ y, colCtx t cid = some y ∧ y.k.got = sput j x.k.got))) ∧
      (takes s p fkColAck f = true → Answers (.colAck p f) s fun t => ∃ y new, colCtx t cid = some y ∧
        y.k.sent = (x.k.sent.filter fun c => !(c.dst == peer && c.xfer % 256 == n)) ++ new) ∧
      (takes s p fkColAbandon f = true → frameGroup s f = some (i, x.g) → (x.g.abandoned.any fun e => e.1 == q) = false → x.c.st ≠ .committing →
        Answers (.colAbandon p f) s fun t => cmd? t cid = none ∧ ∃ g, group? t i = some g ∧ g.abandoned.head? = some (q, f.addr % 2 ^ 16)) ∧
      (takes s p fkColAbandon f = true → frameGroup s f = some (i, x.g) → (x.g.abandoned.any fun e => e.1 == q) = false → x.c.st = .committing →
        Answers (.colAbandon p f) s fun t => t.cmds = s.cmds ∧ ∃ g, group? t i = some g ∧ g.abandoned.head? = some (q, f.addr % 2 ^ 16))) ∧
    (∀ i k, (i, k) ∈ [(Instr.colHs p f, fkColHs), (.colAbandon p f, fkColAbandon)] → takes s p k f = true → frameGroup s f = none → Answers i s fun t => t.cmds = s.cmds ∧ t.arch = s.arch) ∧
    (∀ i k, (i, k) ∈ [(Instr.colData p f false, fkColData), (.colAck p f, fkColAck), (.colNak p f, fkColNak)] → takes s p k f = true → frameCol s f = none →
      Answers i s fun t => t.cmds = s.cmds ∧ t.arch = s.arch) ∧
    (∀ i g, takes s p fkColAbandon f = true → frameGroup s f = some (i, g) → (g.abandoned.any fun e => e.1 == q) = true → Answers (.colAbandon p f) s fun t => t.cmds = s.cmds ∧ t.arch = s.arch) ∧
    (∀ cid x dst xi, s.start.powered = true → colCtx s cid = some x → (x.k.sent.find? fun k => k.dst == dst && k.xfer % 256 == xi % 256) = none → exec (.chunkResendTimeout cid dst xi) s = .next s) ∧
    (∀ cid x dst xi c (i : Instr), s.start.powered = true → colCtx s cid = some x → x.c.cid = cid → (x.k.sent.find? fun k => k.dst == dst && k.xfer % 256 == xi % 256) = some c →
      (i = .chunkResendTimeout cid dst xi ∨ (i = .colNak p f ∧ takes s p fkColNak f = true ∧ frameCol s f = some cid ∧ dst = rankOf x.g f.src ∧ xi = f.tag / 32)) →
        Answers i s fun t => if c.tries < 8 then t.arch.retries = satAdd 0xFFFFFFFF s.arch.retries 1 ∧ t.cmds = (modCol cid (fun k => { k with
            sent := modFirst (fun r => r.dst == dst && r.xfer == c.xfer) (fun r => { r with tries := r.tries + 1 }) k.sent }) s).cmds
          else cmd? t cid = none ∧ t.arch.exhausted = satAdd 255 s.arch.exhausted 1) ∧
    (∀ i g, takes s p fkColAbandon f = true → frameGroup s f = some (i, g) → group? s i = some g → (g.abandoned.any fun e => e.1 == q) = false → frameCol s f = none →
      Answers (.colAbandon p f) s fun t => t.cmds = s.cmds ∧ ∃ h, group? t i = some h ∧ h.abandoned.head? = some (q, f.addr % 2 ^ 16)) ∧
    (takes s p fkColProbe f = true → Answers (.colProbe p f) s fun t => ChangesOnly [.kw, .irq, .out] s t ∧ AnswersWith p fkStatus (if unavailable s = true then 2 else 0) [] f s t) ∧
    (takes s p fkColIsr f = true → Answers (.colIsr p f) s fun t => ChangesOnly [.kw, .irq, .out] s t ∧ (kport t p).sRx = (kport s p).sRx + 1) ∧
    ∀ cid x peer bad, s.start.powered = true → colCtx s cid = some x → x.c.cid = cid →
      let n := if bad then tgetD peer x.k.probes 0 + 1 else 0
      (waitsFor x peer = false → exec (.colProbeTimer cid peer bad) s = .next s) ∧
      (waitsFor x peer = true → n < 8 → Answers (.colProbeTimer cid peer bad) s fun t => t.cmds = (modCol cid (fun k => { k with probes := tput peer n k.probes }) s).cmds) ∧
      (waitsFor x peer = true → 8 ≤ n → Answers (.colProbeTimer cid peer bad) s fun t => cmd? t cid = none ∧ t.arch.lost = satAdd 255 s.arch.lost 1)

/-- The group table and the window table as the manager commands them. ARCH_GRP_READ copies an entry into registers and staging list;
ARCH_GRP_CREATE installs the staged entry or reports why not; ARCH_GRP_DESTROY frees an entry no COLLECTIVE uses; ARCH_MBR_WRITE
stages a member and moves on; XLT_WIN_READ copies an entry; XLT_WIN_ENABLE writes it and enables it once its extents are in HBM,
or reports why not; XLT_WIN_DISABLE disables it and is done when drained; a write with another command, or while a window command
is in progress, does nothing -/
def Obligations.TablesOfTheManager : Prop :=
  ∀ (s : State) (v : BitVec 32), s.start.powered = true →
    let op := bits v.toNat 25 24
    let i := bits v.toNat 7 0
    let w := bits v.toNat 11 0
    let g := stagedGroup s.arch
    let k := createStatus s i g
    let e := winRegs s w
    (∀ n c, (n, c) ∈ [(1, Instr.archGrpRead v), (2, .archGrpCreate v), (3, .archGrpDestroy v)] → op ≠ n → Answers c s fun t => t = s) ∧
    (op = 1 → group? s i = none → Answers (.archGrpRead v) s fun t =>
      t = { s with arch := { s.arch with index := i, gid := 0, attr := 0, tree := 0, staging := [], status := 0 } }) ∧
    (∀ h, op = 1 → group? s i = some h → Answers (.archGrpRead v) s fun t => ChangesOnly [.arch] s t ∧ t.arch.gid = h.gid ∧ t.arch.status = 0 ∧ t.arch.index = i ∧
      t.arch.attr = h.bay * 2 ^ 28 + h.weight * 2 ^ 24 + h.members * 2 ^ 13 + h.rank ∧ t.arch.tree = b2n h.treeValid * 2 ^ 31 + h.tree ∧ t.arch.groups = s.arch.groups ∧
      ∀ r, tgetD r t.arch.staging 0 = h.eps.getD r 0) ∧
    (op = 2 → Answers (.archGrpCreate v) s fun t => ChangesOnly [.arch] s t ∧ t.arch.status = k ∧ t.arch.index = i ∧
      if k = 0 then group? t i = some g ∧ ∀ j, j ≠ i → group? t j = group? s j else t.arch.groups = s.arch.groups) ∧
    (op = 3 → Answers (.archGrpDestroy v) s fun t => ChangesOnly [.arch] s t ∧ t.arch.index = i ∧
      if groupBusy s i = true then t.arch.status = 5 ∧ t.arch.groups = s.arch.groups
      else t.arch.status = 0 ∧ group? t i = none ∧ ∀ j, j ≠ i → group? t j = group? s j) ∧
    (Answers (.archMbrWrite v) s fun t => ChangesOnly [.arch] s t ∧ t.arch.mbrIdx = (s.arch.mbrIdx + 1) % 1024 ∧ t.arch.groups = s.arch.groups ∧
      ∀ r, tgetD r t.arch.staging 0 = if r = s.arch.mbrIdx then w else tgetD r s.arch.staging 0) ∧
    (∀ n c, (n, c) ∈ [(1, Instr.xltWinRead v), (2, .xltWinEnable v), (3, .xltWinDisable v)] → (s.mem.winBusy = true ∨ op ≠ n) → Answers c s fun t => t = s) ∧
    (op = 1 → s.mem.winBusy = false → Answers (.xltWinRead v) s fun t =>
      let x := tgetD w s.mem.wins {}
      t = { s with mem := { s.mem with winIndex := w, winAttr := x.bay * 2 ^ 28 + x.perm * 2 ^ 24 + x.reqId * 2 ^ 12 + x.reqMask, winBase := x.base, winLen := x.len, winStatus := 0 } }) ∧
    (∀ c, op = 2 → s.mem.winBusy = false → enableStatus s w e = some c → Answers (.xltWinEnable v) s fun t =>
      t = { s with mem := { s.mem with winIndex := w, winStatus := c } }) ∧
    (op = 2 → s.mem.winBusy = false → enableStatus s w e = none → Answers (.xltWinEnable v) s fun t => ChangesOnly [.mem, .bays, .kw, .irq, .out] s t ∧ t.mem.winStatus = 0 ∧
      tget w t.mem.wins = some { e with enabled := (winAway s e).isEmpty, opening := !(winAway s e).isEmpty } ∧ t.mem.winBusy = !(winAway s e).isEmpty ∧
      (∀ j, j ≠ w → tget j t.mem.wins = tget j s.mem.wins) ∧ t.mem.hbm = s.mem.hbm) ∧
    (op = 3 → s.mem.winBusy = false → Answers (.xltWinDisable v) s fun t => ChangesOnly [.mem] s t ∧ t.mem.winBusy = true ∧ t.mem.winStatus = 0 ∧ t.mem.winDrain = some w ∧
      tget w t.mem.wins = (tget w s.mem.wins).map fun x => { x with enabled := false }) ∧
    (Answers .winEnableMovesDone s fun t => ChangesOnly [.mem, .bays, .kw, .irq, .out] s t ∧ ∀ j x, tget j s.mem.wins = some x → tget j t.mem.wins =
      some (if x.opening = true then { x with enabled := (winAway s x).isEmpty, opening := !(winAway s x).isEmpty } else x)) ∧
    (s.mem.winDrain ≠ none → Answers .winDisableDrained s fun t => t = { s with mem := { s.mem with winBusy := false, winDrain := none } }) ∧
    (s.mem.winDrain = none → Answers .winDisableDrained s fun t => t = s)

/-- The host's translations, its errors, fault refusals and the BAR2 apertures. In configuration F a Translation Completion serves the
accesses that wait for its page: those it grants go on with the page and its translation cached, a command it refuses faults, and
a ring's queue freezes; a Page Request response makes the waiters of its record READY, or completes them XLT_FAULT; an ATS
invalidation takes its pages out of the cache, kills their holders and is answered once no copy holds one; a host error ends the
running command with XLT_FAULT; refusing a record completes its waiters; a BAR2 read answers the bytes its aperture reaches, as
poisoned zeros where one is poisoned, and a BAR2 write stores at exactly the places it reaches; a request the function's BARs do
not accept is answered Unsupported Request -/
def Obligations.HostMemory : Prop :=
  ∀ (s : State) (b : Nat), s.start.powered = true →
    let m := (bay s b).mem
    (b < s.bays.count → isF s = true →
      (∀ page perm xl, (m.atsWait.filter fun x => x.1 == page) = [] → Answers (.atsTranslationCompletion b page perm xl) s fun t => t = s) ∧
      (∀ page perm xl, (m.atsWait.filter fun x => x.1 == page) ≠ [] → (∀ x ∈ m.atsWait, x.1 = page → perm % 4 / x.2.2.1 % 2 = 1) →
        Answers (.atsTranslationCompletion b page perm xl) s fun t => t.cmds = s.cmds ∧ (perm % 4 ≠ 0 → tget page (bay t b).mem.atc = some (perm % 4, xl.getD page)) ∧
          ((∀ x ∈ m.atsWait, x.1 = page → x.2.2.2.2 ≠ 8) → (bay t b).mem.atsWait = m.atsWait.filter (fun x => x.1 != page))) ∧
      (∀ page perm xl x c, x ∈ m.atsWait → x.1 = page → perm % 4 / x.2.2.1 % 2 = 0 → x.2.2.2.2 ≠ 7 → x.2.2.2.2 ≠ 8 → cmd? s x.2.1 = some c → c.st = .running ∨ c.st = .planned →
        Answers (.atsTranslationCompletion b page perm xl) s fun t => ∀ d, cmd? t x.2.1 = some d → d.st = .faulted) ∧
      (∀ page perm xl x y, x ∈ m.atsWait → x.1 = page → perm % 4 / x.2.2.1 % 2 = 0 → x.2.2.2.2 = 7 ∨ x.2.2.2.2 = 8 → queue? s b x.2.1 = some y →
        Answers (.atsTranslationCompletion b page perm xl) s fun t => (queue? t b x.2.1).map (·.frozen) = some true) ∧
      (∀ i r perm xl, (∀ f, tget i m.faults = some f → f.cause ≠ 4 ∨ f.state ≠ 2) → exec (.pageRequestGroupResponse b i r perm xl) s = .next s) ∧
      (∀ i f r perm xl c k, tget i m.faults = some f → f.cause = 4 → f.state = 2 → c ∈ f.waiters → cmd? s c = some k → k.cid = c →
        (r = .success ∧ perm % 4 / max 1 f.need % 2 = 1 → Answers (.pageRequestGroupResponse b i r perm xl) s fun t => ∃ d, cmd? t c = some d ∧ d.st = .ready) ∧
        (¬(r = .success ∧ perm % 4 / max 1 f.need % 2 = 1) → Answers (.pageRequestGroupResponse b i r perm xl) s fun t => cmd? t c = none ∧
          (r = .responseFailure → (bay t b).mem.priFailed = true))) ∧
      ∀ page pages, Answers (.atsInvalidateRequest b page pages) s fun t =>
        (bay t b).mem.atc = m.atc.filter (fun e => !(decide (page ≤ e.1) && decide (e.1 < page + pages))) ∧
        ((∀ x n, copyHolds s b 3 x n = false) → (bay t b).mem.inval = [] ∧ .atsInvalidated (b + 1) page (reqT s (b + 1)) ∈ t.out.log)) ∧
    (∀ page n r perm xl, b < s.bays.count → isF s = false → ∀ i ∈ [Instr.atsTranslationCompletion b page perm xl, .pageRequestGroupResponse b n r perm xl, .atsInvalidateRequest b page n],
      exec i s = .next s) ∧
    (∀ cid iova c, cmd? s cid = some c → c.cid = cid → c.st = .running → isEngineCmd c = true → Answers (.hostRequestError cid iova) s fun t => cmd? t cid = none) ∧
    (∀ cid iova, (∀ c, cmd? s cid = some c → ¬(c.st = .running ∧ isEngineCmd c = true)) → Answers (.hostRequestError cid iova) s fun t => t = s) ∧
    (∀ v bt f c k, windowOpen s (.bay b bt) = true → bit v.toNat 31 = true → s.sec.repointing = false → tget (bits v.toNat 5 0) m.faults = some f → c ∈ f.waiters →
      cmd? s c = some k → k.cid = c → Answers (.xltFltCtlRefuse b v bt) s fun t => cmd? t c = none) ∧
    (∀ v bt, windowOpen s (.bay b bt) = true → (bit v.toNat 31 = false ∨ s.sec.repointing = true ∨ tget (bits v.toNat 5 0) m.faults = none) →
      exec (.xltFltCtlRefuse b v bt) s = .next s) ∧
    (∀ v bt, b < s.bays.count → windowOpen s (.bay b bt) = false → exec (.xltFltCtlRefuse b v bt) s = .next (emit .unsupportedRequest s)) ∧
    (∀ fn off n d env bt, fn ≤ s.bays.count → windowOpen s (if fn = 0 then .manager else .bay (fn - 1) bt) = false →
      exec (.bar2Read fn off n env bt) s = .next (emit .unsupportedRequest s) ∧ exec (.bar2Write fn off d env bt) s = .next (emit .unsupportedRequest s)) ∧
    ∀ fn off env bt, windowOpen s (if fn = 0 then .manager else .bay (fn - 1) bt) = true →
      (∀ n, let u := apertureMac fn off n false env s
        let bad := (apertureHbm u fn off n false).any fun q => !(poisonIn u q.2.1 q.2.2).isEmpty
        Answers (.bar2Read fn off n env bt) s fun t => t.mem.hbm = s.mem.hbm ∧ t.mem.win = s.mem.win ∧ ∃ asks, (fn = 0 ∨ bad = true → asks = []) ∧
          t.out.log = .reply (if bad then List.replicate n 0 else (List.range n).map fun i => apertureByte s fn (off + i)) bad :: asks ++ s.out.log) ∧
      ∀ d, Answers (.bar2Write fn off d env bt) s fun t =>
        (∀ a, (∀ p ∈ pagesOf off d.length, ∀ k, aperture s fn p.1 true = some (.win k) → ¬(k ≤ a ∧ a < k + p.2)) → mget t.mem.win a = mget s.mem.win a) ∧
        (∀ a, (∀ p ∈ pagesOf off d.length, ∀ pa, aperture s fn p.1 true = some (.hbm pa) → ¬(pa ≤ a ∧ a < pa + p.2)) → mget t.mem.hbm a = mget s.mem.hbm a) ∧
        (∀ p ∈ pagesOf off d.length, ∀ pa, aperture s fn p.1 true = some (.hbm pa) →
          (∀ q ∈ pagesOf off d.length, ∀ qa, aperture s fn q.1 true = some (.hbm qa) → q = p ∨ qa + q.2 ≤ pa ∨ pa + p.2 ≤ qa) →
          ∀ k, k < p.2 → mget t.mem.hbm (pa + k) = d.getD (p.1 - off + k) 0)

/-- Scrub passes, weight refetches, control memories and laps. A pass that ends writes its 64-byte summary to summary_va, ends its
slot with OK and leaves no pass; every block outside the reserved regions whose second read failed and that the pass read is
poisoned, a failed block of the stream table loses the streams whose descriptors it holds, one in a context's home region damages
the context, one of the staging pool is zeroed, counted as recovered and re-runs the command that has staged there, and a failed
scratchpad line of an idle ashlar that no command or context holds is zeroed; a weight refetch that succeeds rewrites the segment
and frees its blocks from poison, one that fails marks the segment and changes no memory; a bucket leaks by one; an uncorrectable
error is recorded and asks for the reset of its class, and one in the stream cache loses the stream whose modified descriptor it
held; a lap that is overdue is recorded once, and one that ends is counted, having lost the streams of a block of the stream table
that failed twice -/
def Obligations.MemoryErrors : Prop :=
  ∀ s : State, s.start.powered = true →
    (∀ bad us, s.ras.pass = none → Answers (.scrubPassEnd bad us) s fun t => t = s) ∧
    (∀ bad us p o, s.ras.pass = some p → tget p.slot (mbx s 0).ops = some o → o.running = true → bit (mbx s 0).opDone p.slot = false →
      Answers (.scrubPassEnd bad us) s fun t => t.ras.pass = none ∧ t.ras.rate = 0 ∧ opEnded t 0 p.slot 0 ∧
        (∃ d, .hostWrite 0 p.summaryVa d ∈ t.out.log ∧ d.length = 64 ∧ d.take 16 = natLe 8 p.start ++ natLe 8 p.len ∧
          (scrubHidden s p = false → bad = [] → p.spad = false → d.drop 16 = natLe 8 (p.len / 64) ++ natLe 4 (poisonIn s p.start p.len).length ++ natLe 4 0 ++
            (d.drop 32).take 16 ++ natLe 8 us ++ [0, 0, 0, 0, 0, 1, 0, 0] ∧
            (poisonIn s p.start p.len = [] → (d.drop 32).take 16 = List.replicate 16 0xFF))) ∧
        (p.spad = false → (∀ e ∈ bad, physReserved s (e.1 * 512) = false ∧ (blockClass s (e.1 * 512)).2 ≠ 7 ∧ (blockClass s (e.1 * 512)).2 ≠ 8) → t.mem.hbm = s.mem.hbm ∧ t.cmds = s.cmds ∧ ∀ blk, (blk, false) ∈ bad →
          within p.start p.len (blk * 512) 512 = true → blockRead s (blk * 512) = true → tget blk t.mem.poison ≠ none) ∧
        (∀ blk i, p.spad = false → bad = [(blk, false)] → within p.start p.len (blk * 512) 512 = true → tget blk s.mem.poison = none → physReserved s (blk * 512) = true →
          reservedClass s (blk * 512) = 4 → i < 8 → ∀ g b k, g = (blk * 512 - reservedBase s) / 64 + i → b = g / streamsPerBay s → k = g % streamsPerBay s → b < s.bays.count →
          (stream s b k).state ≠ .free → (stream t b k).state = .lost) ∧
        (∀ blk b, p.spad = false → bad = [(blk, false)] → within p.start p.len (blk * 512) 512 = true → blockRead s (blk * 512) = true →
          tget blk s.mem.poison = none → physReserved s (blk * 512) = false → bayOfPhys s (blk * 512) = some b → vaOfPhys s b (blk * 512) = none →
          (∀ x, homeOf s b (blk * 512) = some x → (bayCmds s b).any (fun c => ctxOf c == x.handle) = false →
            tget blk t.mem.poison = some 7 ∧ ∃ y, ctx? t b x.handle = some y ∧ y.damaged = true) ∧
          (unmappedClass s b (blk * 512) = 8 → tget blk t.mem.poison = none ∧ t.ras.recovered = satAdd 0xFFFF s.ras.recovered 1 ∧
            ∀ c, cmd? s c.cid = some c → c.abort = false → c.dets.length < 2 → bayCmds s b = [c] → stagedBy s b (blk * 512) c = true →
              c.st = .running ∨ c.st = .committing → (cmdD t c.cid).st = .ready ∧ (cmdD t c.cid).reruns = c.reruns + 1)) ∧
        (p.spad = true → ∀ line f, bad = [(line, f)] → within p.start p.len (line * 64) 64 = true → isLost s (line * 64 / 0x80000) = false → ctxOn s (line * 64 / 0x80000) = none →
          (panelIds (cmdD s (ash s (line * 64 / 0x80000)).cid)).contains (line * 64 / 0x80000) = false → (ash s (line * 64 / 0x80000)).run = .idle →
          ∀ k, k < 64 → mget (ash t (line * 64 / 0x80000)).spad (line * 64 % 0x80000 + k) = 0)) ∧
    (∀ b id seg env, b < s.bays.count → (model? s b id = none ∨ (∃ m, model? s b id = some m ∧ (segPoison s b m seg = [] ∨ seg ∈ m.failedSegs))) →
      Answers (.weightRefetchDone b id seg env) s fun t => t = s) ∧
    (∀ b id seg env m bs, b < s.bays.count → model? s b id = some m → segPoison s b m seg ≠ [] → seg ∉ m.failedSegs → (∀ c ∈ bayCmds s b, c.held = false) →
      refetch s b m seg env = some bs → Answers (.weightRefetchDone b id seg env) s fun t =>
        t.mem.hbm = (rewriteSeg b m seg bs s).mem.hbm ∧ t.mem.win = (rewriteSeg b m seg bs s).mem.win ∧ t.cmds = s.cmds ∧ t.bays = s.bays ∧
        (∀ p ∈ segPoison s b m seg, tget p.2 t.mem.poison = none) ∧ (∀ e ∈ t.mem.poison, e ∈ s.mem.poison) ∧
        t.ras.recovered = satAdd 0xFFFF s.ras.recovered (segPoison s b m seg).length ∧ t.ras.failed = s.ras.failed) ∧
    (∀ b id seg env m, b < s.bays.count → model? s b id = some m → segPoison s b m seg ≠ [] → seg ∉ m.failedSegs → (∀ c ∈ bayCmds s b, c.held = false) →
      refetch s b m seg env = none → Answers (.weightRefetchDone b id seg env) s fun t => t.mem = s.mem ∧ t.cmds = s.cmds ∧
        model? t b id = some { m with failedSegs := seg :: m.failedSegs } ∧ t.ras.failed = satAdd 0xFFFF s.ras.failed (segPoison s b m seg).length ∧
        t.ras.recovered = s.ras.recovered) ∧
    (∀ k, k < 7 → Answers (.bucketLeakTick k) s fun t => ChangesOnly [.ras] s t ∧ t.ras = { s.ras with ceLevel := t.ras.ceLevel } ∧
      ∀ j, tgetD j t.ras.ceLevel 0 = if j = k ∧ footFld s (0x3A + 4 * k) 2 ≠ 0 then tgetD k s.ras.ceLevel 0 - 1 else tgetD j s.ras.ceLevel 0) ∧
    (∀ k full word hit, k < 7 → s.rst.now = none → s.rst.want = none → s.sec.repointing = false → (∀ h, hit = some h → k = 2 → tget h.2 (bay s h.1).strm.cache ≠ some true) →
      let whole := k = 0 ∨ k = 1 ∨ k = 2 ∨ k = 6 ∨ (k = 4 ∧ full = true)
      Answers (.uncorrectableError k full word hit) s fun t => ChangesOnly [.ras, .rst, .irq] s t ∧
        t.ras = { s.ras with log := ringPut 256 (blockRecord s 8 k 3 word 0) s.ras.log } ∧
        t.rst.want = some { full := decide whole, trigger := if whole then 3 else 2, time := s.rst.time, lift := s.lift.num, counted := true }) ∧
    (∀ full word b n, s.rst.now = none → s.rst.want = none → (∃ x, tget b s.bays.all = some x) → (stream s b n).state ≠ .free → tget n (bay s b).strm.cache = some true →
      Answers (.uncorrectableError 2 full word (some (b, n))) s fun t => (stream t b n).state = .lost ∧ ∃ w, t.rst.want = some w ∧ w.full = true ∧ w.trigger = 3) ∧
    (∀ k, k < 4 → k ∈ s.ras.overdue → Answers (.lapOverdue k) s fun t => t = s) ∧
    (∀ k, k < 4 → k ∉ s.ras.overdue → Answers (.lapOverdue k) s fun t => ChangesOnly [.ras, .irq] s t ∧ k ∈ t.ras.overdue ∧
      t.ras.log = ringPut 256 (blockRecord s 11 k 0 0 0) s.ras.log) ∧
    (∀ k ms, k < 4 → Answers (.scrubLapEnd k ms []) s fun t => ChangesOnly [.ras] s t ∧ t.ras = { s.ras with lapMs := t.ras.lapMs, laps := t.ras.laps, overdue := t.ras.overdue }) ∧
    (∀ k ms bad, k < 4 → Answers (.scrubLapEnd k ms bad) s fun t =>
      tget k t.ras.lapMs = some (min ms 0xFFFF) ∧ tgetD k t.ras.laps 0 = min 0xFFFF (tgetD k s.ras.laps 0 + 1) ∧ k ∉ t.ras.overdue) ∧
    ∀ ms blk i b k, physReserved s (blk * 512) = true → reservedClass s (blk * 512) = 4 → tget blk s.mem.poison = none → i < 8 →
      b = ((blk * 512 - reservedBase s) / 64 + i) / streamsPerBay s → k = ((blk * 512 - reservedBase s) / 64 + i) % streamsPerBay s → b < s.bays.count →
      (stream s b k).state ≠ .free → Answers (.scrubLapEnd 2 ms [(blk, false)]) s fun t => (stream t b k).state = .lost

/-- Engine resets and what asks for the reset of a larger domain. An engine reset kills what runs on its engine, which goes back to
READY, and is noted until its end writes its record; within a reset of a larger domain it is only logged, and one of the arch unit
while a collective is anchored is a compute-part reset with trigger 4; QUOIN_STOP_TIMEOUT resets the engine whose kill is
unanswered; an engine reset or a compute-part reset that misses its bound asks for the next domain with trigger 4, and a quoin
engine that stays away after a full block reset is held in reset; the watchdog asks for trigger 6, RST_CTL with its key for
trigger 8, and the warm reset for the same but not during start-up -/
def Obligations.EngineResets : Prop :=
  ∀ (s : State) (e : Engine), s.start.powered = true → engineOk s e = true →
    let free := s.rst.now = none ∧ s.rst.want = none ∧ s.sec.repointing = false
    let asks (c : Instr) (full : Bool) (trigger : Nat) (r : Rst) : Prop := Answers c s fun t => ChangesOnly [.rst] s t ∧ t.rst = { r with want := some (resetAt full trigger s) }
    (s.rst.now = none → ¬(e = .arch ∧ anyAnchored s = true) → (∀ r ∈ s.rst.engines, r.engine ≠ e) → Answers (.engineReset e) s (EngineStarts e s)) ∧
    (s.rst.now ≠ none → Answers (.engineReset e) s fun t => ChangesOnly [.rst, .irq] s t ∧
      t.rst = { s.rst with log := ringPut 64 (resetLine s 1 0 0 (engineCode e) s.rst.time s.lift.num 0) s.rst.log }) ∧
    (e = .arch → anyAnchored s = true → free → asks (.engineReset e) false 4 s.rst) ∧
    (s.rst.now = none → ¬(e = .arch ∧ anyAnchored s = true) → (∃ r ∈ s.rst.engines, r.engine = e) → Answers (.engineReset e) s fun t => t = s) ∧
    (∀ p, e = .quoin p → (qport s p).killed = none → Answers (.quoinStopTimeout p) s fun t => t = s) ∧
    (∀ p, e = .quoin p → (qport s p).killed ≠ none → s.rst.now = none → (∀ r ∈ s.rst.engines, r.engine ≠ e) → Answers (.quoinStopTimeout p) s (EngineStarts e s)) ∧
    (∀ r, s.rst.engines.find? (fun r => r.engine == e) = some r → s.rst.now = none → engineBack s e = true → Answers (.engineResetEnd e) s fun t => ChangesOnly [.rst, .irq] s t ∧
      t.rst = { s.rst with engines := s.rst.engines.filter (fun r => r.engine != e), log := ringPut 64 (resetLine s 1 0 0 (engineCode e) r.time r.lift (s.rst.time - r.time)) s.rst.log }) ∧
    ((∀ r ∈ s.rst.engines, r.engine ≠ e) ∨ s.rst.now ≠ none ∨ engineBack s e = false → Answers (.engineResetEnd e) s fun t => t = s) ∧
    ((∃ r ∈ s.rst.engines, r.engine = e) → free → asks (.engineResetBoundMiss e) false 4 s.rst) ∧
    ((∃ r ∈ s.rst.engines, r.engine = e) → runsReset s false = true → s.rst.want = none → asks (.engineResetBoundMiss e) true 4 s.rst) ∧
    (∀ p, e = .quoin p → s.rst.engines = [] → s.rst.now = none → (qport s p).ready = false → (qport s p).heldReset = false → Answers (.engineResetBoundMiss e) s fun t =>
      ChangesOnly [.quoin, .out] s t ∧ (qport t p).heldReset = true ∧ (qport t p).registered = false ∧ .quoinReset p true ∈ t.out.log) ∧
    (runsReset s false = true → s.rst.want = none → asks .resetComputeBoundMiss true 4 s.rst) ∧
    (runsReset s false = false → Answers .resetComputeBoundMiss s fun t => t = s) ∧
    (s.fw.running = true → runsReset s true = false → s.rst.want = none → Answers .watchdogExpire s fun t => ChangesOnly [.rst, .fw] s t ∧
      t.fw = { s.fw with running := false } ∧ t.rst = { s.rst with want := some (resetAt true 6 s) }) ∧
    (∀ v, ctlKey v = true → v.getLsbD 1 = true → runsReset s true = false → s.rst.want = none → asks (.rstCtlFull v) true 8 { s.rst with ctlFull := true }) ∧
    (∀ v, ctlKey v = true → v.getLsbD 0 = true → free → asks (.rstCtlCompute v) false 8 { s.rst with ctlCompute := true }) ∧
    (∀ v, ctlKey v = false → (Answers (.rstCtlFull v) s fun t => t = s) ∧ Answers (.rstCtlCompute v) s fun t => t = s) ∧
    (s.start.fail = 0 → s.start.ready = true → runsReset s true = false → s.rst.want = none → asks .warmReset true 8 { s.rst with ctlFull := true }) ∧
    (s.start.fail = 0 → s.start.ready = false → Answers .warmReset s fun t => t = s) ∧
    (s.start.fail ≠ 0 → Answers .warmReset s fun t => t = { s with
      start := { s.start with phase := 1, fail := 0 }, fw := { s.fw with running := false }, boxes := { all := [(0, { boot := true })] }, kw := {} })

/-- COMPUTE_RESET_BEGIN, SHORING_LIFT, FULL_RESET_BEGIN and FULL_RESET_SERVING. A wanted compute-part reset shores the edge: engine
commands that ran or were planned are READY, the units of the compute part are at their reset values, the bays and the tables of
the manager stay; a counted one that fills its window is logged as escalated and becomes a full block reset with trigger 5;
shoring lifts, no earlier than 1 ms after the mark's last change, with the mason's mark advanced, the named ashlars that failed
lost and the reset logged; a full block reset stops mailboxes and units, ends SPDM and the link keys, keeps identity, firmware
image, windows, epoch and keys, and puts the stored record in force; it serves again with lift 0, the bays that existed CREATED,
those on their way out ABSENT, no command left, and without an image, or with one whose digest the boot ROM finds wrong, in boot
mode -/
def Obligations.BlockResets : Prop :=
  ∀ s : State, s.start.powered = true →
    let cmp := footFld s 0x28 1 ≤ withinWindow s.rst.time (footFld s 0x2A 2 * 3600000000) ((s.rst.time :: s.rst.histC).take 255)
    (∀ bad, (s.rst.now ≠ none ∨ s.rst.want = none) → Answers (.computeResetBegin bad) s fun t => t = s) ∧
    (∀ bad r, s.rst.now = none → s.rst.want = some r → r.full = false → s.sec.repointing = true → Answers (.computeResetBegin bad) s fun t =>
      t = { s with rst := { s.rst with want := none, after := some r.trigger } }) ∧
    (∀ bad r, s.rst.now = none → s.rst.want = some r → r.full = false → s.sec.repointing = false → r.counted = true → 1 ≤ r.trigger → r.trigger ≤ 6 → cmp →
      Answers (.computeResetBegin bad) s fun t => ChangesOnly [.rst, .irq] s t ∧ t.rst.now = none ∧ t.rst.histC = (s.rst.time :: s.rst.histC).take 255 ∧
        t.rst.want = some { full := true, trigger := 5, time := s.rst.time, lift := s.lift.num, counted := true } ∧
        ∃ line, t.rst.log = ringPut 64 line s.rst.log ∧ line.drop 4 = [2, BitVec.ofNat 8 r.trigger, 3, 0xFF] ++ line.drop 8 ∧ line.length = 32) ∧
    (∀ bad r, s.rst.now = none → s.rst.want = some r → r.full = false → s.sec.repointing = false → (r.counted = true → 1 ≤ r.trigger ∧ r.trigger ≤ 6) → ¬(r.counted = true ∧ cmp) →
      Answers (.computeResetBegin bad) s fun t => (∃ x, t.rst.now = some x ∧ x.full = false ∧ x.trigger = r.trigger ∧ x.time = r.time ∧ x.lift = r.lift ∧ x.counted = r.counted) ∧
        t.rst.shored = true ∧ t.grid.ashlars = [] ∧ t.grid.net = [] ∧ t.grid.lost = s.grid.lost ∧ t.lift = { s.lift with plan := [], sealed := none } ∧ t.dev.fronts = [] ∧
        (∀ p, (qport t p).cid = none ∧ (qport t p).killed = none) ∧ t.boxes.order = s.boxes.order ∧ t.mem.wins = s.mem.wins ∧ t.foot = s.foot ∧
        (anyAnchored s = false → s.kw.txns = [] → bad = [] → ∀ j c, cmd? s j = some c → c.cid = j →
          if shoredCmd c then ∃ d, cmd? t j = some d ∧ d.st = .ready ∧ d.entry = c.entry else ∃ d, cmd? t j = some d ∧ d.entry = c.entry)) ∧
    (∀ failed, (s.rst.now = none ∨ runsReset s true = true ∨ (s.rst.want.any (·.full)) = true ∨ markFree s = false) → Answers (.shoringLift failed) s fun t => t = s) ∧
    (∀ failed r, s.rst.now = some r → r.full = false → s.rst.want = none → markFree s = true → Answers (.shoringLift failed) s fun t =>
      t.rst.now = none ∧ t.rst.shored = false ∧ t.rst.ctlCompute = false ∧ t.rst.engines = [] ∧ t.rst.named = [] ∧ t.kw.mark = (s.kw.mark + 1) % 16 ∧ t.kw.markAt = some s.rst.time ∧ t.arch.owed = [] ∧
        t.rst.log.prod = (s.rst.log.prod + 1) % 2 ^ 32 ∧ t.dump.writing = false ∧ (s.dump.writing = true → t.dump.present = true) ∧
        (∀ a, a < ashlars s → isLost t a = (isLost s a || s.rst.named.contains a && (failed.contains a || decide (3 ≤ tgetD a s.grid.named 0)))) ∧
        (t.rst.want = if (s.rst.engines.any fun e => !engineBack s e.engine) = true then some (resetAt true 4 s) else none)) ∧
    ((s.rst.want = none ∨ (s.rst.want.any (·.full)) = false ∨ runsReset s true = true) → Answers .fullResetBegin s fun t => t = s) ∧
    (∀ r, s.rst.want = some r → r.full = true → runsReset s true = false → Answers .fullResetBegin s fun t =>
      (∃ x, t.rst.now = some x ∧ x.full = true ∧ x.trigger = r.trigger ∧ x.time = r.time ∧ x.counted = r.counted) ∧ t.rst.want = none ∧ t.rst.shored = true ∧ t.rst.engines = [] ∧
        t.rst.histC = [] ∧ t.rst.histF = (if r.counted = true then (s.rst.time :: s.rst.histF).take 255 else s.rst.histF) ∧ t.rst.time = s.rst.time ∧
        t.boxes.order = [] ∧ (∀ x, (mbx t x).ready = false ∧ (mbx t x).busy = false ∧ ∀ i o, tget i (mbx t x).ops = some o → o.running = true ∧ some o.kind = causeKind r.trigger) ∧
        t.ident = s.ident ∧ t.fw.active = s.fw.active ∧ t.fw.staged = (if r.trigger = 9 then s.fw.staged else none) ∧ t.fw.running = false ∧ t.mem.wins = s.mem.wins ∧
        t.sec.epoch = s.sec.epoch ∧ t.sec.keyGeneration = s.sec.keyGeneration ∧ t.sec.sessions = [] ∧ (∀ k, k < 4 → (ide t k).secure = false ∧ (ide t k).keys = []) ∧
        (∀ b, b < s.bays.count → (tdi t b).st ≠ .locked ∧ (tdi t b).st ≠ .run) ∧
        t.grid = {} ∧ t.dev = {} ∧ t.quoin = [] ∧ t.plumb = {} ∧ t.arch = {} ∧ t.stat = {} ∧ t.lift.serving = false ∧ t.kw.txns = [] ∧ t.kw.mark = s.kw.mark ∧
        (∀ p, p < kwPorts s → (kport t p).key = .none ∧ (kport t p).st = if footFld t (0x78 + 4 * p) 1 = 1 then .training else .disabled) ∧
        t.foot = (bootFoot s).foot ∧ t.irq.lock = false ∧ t.irq.en = [] ∧ t.irq.pend = [] ∧ t.lift.period = footFld t 0x10 2 ∧ t.pwr.cap = footFld t 0x20 2 ∧
        t.start.phase = 4 ∧ t.start.ready = false) ∧
    ((s.rst.now = none ∨ runsReset s false = true ∨ markFree s = false) → ∀ ok, Answers (.fullResetServing ok) s fun t => t = s) ∧
    (∀ r img, s.rst.now = some r → r.full = true → r.trigger ≠ 9 → s.fw.active = some img → s.sec.repointing = false → markFree s = true → Answers (.fullResetServing true) s fun t =>
      t.rst.now = none ∧ t.rst.shored = false ∧ t.rst.log.prod = (s.rst.log.prod + 1) % 2 ^ 32 ∧ t.cmds.all = [] ∧ t.start.phase = 7 ∧ t.start.ready = true ∧ t.fw.running = true ∧
        t.fw.active = some img ∧ t.irq.lock = true ∧ t.lift.serving = true ∧ t.lift.num = 0 ∧ t.lift.clk = 800 ∧ (mbx t 0).ready = true ∧ (mbx t 0).boot = false ∧
        t.kw.mark = (s.kw.mark + 1) % 16 ∧ t.rst.oos = (s.rst.oos || (r.counted && decide (footFld s 0x29 1 ≤ escFull s))) ∧
        ∀ b, b < s.bays.count → ((bay t b).st = if (bay s b).st = .absent ∨ ((bay s b).st = .resetting ∧ (bay s b).toAbsent = true) then .absent else .created) ∧
          ((bay s b).st ≠ .absent → (bay t b).eqi = {} ∧ (bay t b).mem.extents = [] ∧ (bay t b).strm.ctxs = [] ∧ (bay t b).strm.models = [] ∧
            ((bay t b).st = .created → (bay t b).strm.keys = (bay s b).strm.keys ∧ (mbx t (b + 1)).ready = true))) ∧
    (∀ r ok, s.rst.now = some r → r.full = true → r.trigger ≠ 9 → s.fw.active = none ∨ ok = false → s.sec.repointing = false → markFree s = true → Answers (.fullResetServing ok) s fun t =>
      t.rst.now = none ∧ t.start.phase = 4 ∧ t.start.ready = false ∧ (mbx t 0).boot = true ∧ (mbx t 0).ready = true ∧ t.cmds.all = [] ∧ t.fw.running = false ∧
        t.rst.log.prod = (s.rst.log.prod + 1) % 2 ^ 32) ∧
    (∀ r img, s.rst.now = some r → r.full = true → r.trigger = 9 → s.fw.staged = some img → s.sec.repointing = false → markFree s = true → Answers (.fullResetServing true) s fun t =>
      t.fw.active = some img ∧ t.fw.staged = none ∧ t.start.ready = true)

/-- Power-on, the steps of start-up, and the signals of power, clock and PCIe. Power-on reset leaves identity and footing stores and
nothing else, a STORE in progress made or not; its release starts phase 1; training, which draws the epoch and the first HBM keys
once from power-on, the fill of every memory with zeros, firmware initialisation and EQI ready follow in their phases, a stack or
training failure stopping start-up in phase 2 with code 1, a random source that fails its health tests in phase 1 with code 2, a
boot ROM that fails its self-check in phase 4 with code 3 and a rail out of range in phase 6 with code 4; PERST clears the PCIe
layers, makes every IDE stream Insecure and removes every bay; the clock's acknowledgement, the voltage in range, polls of the
converter (three failures set pmb_fail, ten good reads clear it, and with it the clock is held at 800 MHz), pm_alert_n, stack
temperatures, emergency throttle and its release, thermal trip and the PHY's update window each have their effect -/
def Obligations.PowerAndStartUp : Prop :=
  ∀ s : State,
    let fires (n : Nat) (t : State) : Prop := n ∈ t.irq.pend
    let p := s.pwr
    (s.start.powered = true → Answers .powerOnResetAssert s fun t => t.start = { powered := false } ∧ t.hw = s.hw ∧ t.ident = s.ident ∧ t.foot.record = s.foot.record ∧
      t.foot.journal = s.foot.journal ∧ (t.foot.marker = s.foot.marker ∨ ((opOf s .store).isSome = true ∧ t.foot.marker = none)) ∧ t.mem = {} ∧ t.cmds = {} ∧ t.grid = {} ∧ t.rst = {} ∧ t.sec = {} ∧ t.kw = {} ∧ t.fw = {} ∧ t.bays.all = []) ∧
    (s.start.powered = false → Answers .powerOnResetRelease s fun t => t = { s with start := {} } ∧ t.start.powered = true ∧ t.start.phase = 1 ∧ t.start.ready = false) ∧
    (s.start.powered = true → Answers .powerOnResetRelease s fun t => t = s) ∧
    (s.start.powered = true →
      (∀ ok g, s.start.phase ≤ 2 → s.start.fail = 0 → g ∈ [16, 24, 32, 48, 64] → s.hw.stackGib.take (hbmPorts s) = List.replicate (hbmPorts s) g →
        ok = List.replicate (hbmPorts s) true → Answers (.hbmTrainingDone ok true) s fun t => t.start = { s.start with phase := 3 } ∧ if s.sec.drawn = true then t.sec = s.sec else t.sec.drawn = true ∧ t.sec.epoch < 2 ^ 63 ∧ t.sec.keyGeneration = 1) ∧
      (∀ ok, s.start.phase ≤ 2 → s.start.fail = 0 → ok ≠ List.replicate (hbmPorts s) true ∨ (∀ g ∈ [16, 24, 32, 48, 64], s.hw.stackGib.take (hbmPorts s) ≠ List.replicate (hbmPorts s) g) →
        Answers (.hbmTrainingDone ok true) s fun t => t.start = { s.start with phase := 2, fail := 1 } ∧ t.sec = s.sec) ∧
      (∀ ok, s.start.phase ≤ 2 → s.start.fail = 0 → Answers (.hbmTrainingDone ok false) s fun t => t = { s with start := { s.start with phase := 1, fail := 2 } }) ∧
      (∀ ok health, 2 < s.start.phase ∨ s.start.fail ≠ 0 → Answers (.hbmTrainingDone ok health) s fun t => t = s) ∧
      (∀ ms romOk, s.start.phase = 3 → Answers (.memoryFillDone ms romOk) s fun t => t.mem.fillDone = true ∧ t.mem.hbm = [] ∧ t.mem.poison = [] ∧ t.mem.valid = [] ∧
        ∀ a, (ash t a).spad = [] ∧ (ash t a).acc = [] ∧ (ash t a).imem = []) ∧
      (∀ ms, s.start.phase = 3 → Answers (.memoryFillDone ms false) s fun t => ChangesOnly [.start, .mem, .grid] s t ∧ t.start = { s.start with phase := 4, fail := 3 }) ∧
      (∀ ms, s.start.phase = 3 → Answers (.memoryFillDone ms true) s fun t => t.start = { s.start with phase := 4, ready := false } ∧
        (mbx t 0).boot = true ∧ (mbx t 0).ready = true ∧ t.foot = (bootFoot s).foot ∧ t.bays.count = footFld t 0x12 1 ∧ t.lift.period = footFld t 0x10 2 ∧ t.irq.en = [8]) ∧
      (∀ ms romOk, s.start.phase ≠ 3 → Answers (.memoryFillDone ms romOk) s fun t => t = s) ∧
      (∀ pinMax vinMin rails, Answers (.firmwareInitDone pinMax vinMin rails) s fun t => t = if s.start.phase ≠ 6 ∨ s.start.fail ≠ 0 then s
        else if rails = false then { s with start := { s.start with fail := 4 } }
        else { s with start := { s.start with phase := 7 }, pwr := { p with pinMax := min pinMax 0xFFFF, vinMin := vinMin } }) ∧
      (s.start.phase = 7 → s.start.ready = false → Answers .eqiReady s fun t => t.start.ready = true ∧ (mbx t 0).ready = true ∧ (mbx t 0).boot = false ∧ t.irq.lock = true ∧
        t.lift.serving = true ∧ t.lift.num = 0 ∧ t.lift.period = s.lift.period ∧ t.lift.clk = 800 ∧ t.fw.running = true) ∧
      (s.start.phase ≠ 7 ∨ s.start.ready = true → Answers .eqiReady s fun t => t = s) ∧
      (s.start.perst = true → Answers .perstAssert s fun t => t = s) ∧
      (s.start.perst = false → Answers .perstAssert s fun t => t.start = { s.start with perst := true, d3 := false } ∧ t.bays.numVfs = 0 ∧ t.bays.vfEnable = false ∧
        (∀ k, k < 4 → (ide t k).secure = false ∧ (ide t k).keys = []) ∧
        ∀ b, b < s.bays.count → ((bay t b).st = .absent ∨ (bay t b).st = .resetting ∧ (bay t b).toAbsent = true) ∧ (bay t b).memSpace = false ∧ (bay t b).bar = 0 ∧
          (bay t b).mem.atc = [] ∧ ((bay s b).st ≠ .absent → (tdi t b).st ≠ .locked ∧ (tdi t b).st ≠ .run)) ∧
      (Answers .perstDeassert s fun t => t = { s with start := { s.start with perst := false } }) ∧
      (Answers .clkAshAck s fun t => t = if p.req = 0 then s else { s with pwr := { p with ack := true } }) ∧
      (Answers .avsVoltageInRange s fun t => ChangesOnly [.pwr, .irq] s t ∧ fires 81 t ∧ t.pwr = match p.wantClk with
        | some w => { p with volt := max p.volt (30 + w / 25) }
        | none => p) ∧
      (∀ pin vin, Answers (.pmbusPoll (some (pin, vin))) s fun t => ChangesOnly [.pwr, .dev, .irq, .out, .mem, .bays, .ras] s t ∧ t.pwr.pin = pin % 2 ^ 16 ∧ t.pwr.vin = vin % 2 ^ 16 ∧
        t.pwr.window = (pin % 2 ^ 16 :: p.window).take 10 ∧ t.pwr.fails = 0 ∧ t.pwr.oks = min 10 (p.oks + 1) ∧ t.pwr.pmbFail = (p.pmbFail && decide (p.oks + 1 < 10)) ∧
        (t.pwr.pmbFail = true → t.pwr.allow = 800) ∧ (vin % 2 ^ 16 < p.vinMin → fires 83 t)) ∧
      (Answers (.pmbusPoll none) s fun t => t.pwr.fails = min 3 (p.fails + 1) ∧ t.pwr.oks = 0 ∧ t.pwr.pmbFail = (p.pmbFail || decide (3 ≤ p.fails + 1)) ∧
        (t.pwr.pmbFail = true → t.pwr.allow = 800) ∧ t.pwr.pin = p.pin) ∧
      (∀ status pinMax vinMin, Answers (.pmAlert status pinMax vinMin) s fun t => t.pwr.pinMax = pinMax % 2 ^ 16 ∧ t.pwr.vinMin = vinMin % 2 ^ 16 ∧ fires 80 t ∧
        (bit status 13 = true ∨ bit status 3 = true → fires 83 t)) ∧
      (∀ temps, Answers (.stackTempRead temps) s fun t => t.pwr.stackC = min 255 ((temps.take (hbmPorts s)).foldl max 0) ∧
        (p.trip = false → t.pwr.sensor < 64 ∧ t.pwr.dieC < if p.throttle = some .thermal then 120 else 110) ∧ (p.trip = true → t.pwr.dieC = p.dieC) ∧
        (95 ≤ t.pwr.stackC ∨ 105 ≤ t.pwr.dieC → fires 82 t ∧ (p.throttle = none → p.pmbFail = false → t.pwr.allow = max 800 (max 800 s.lift.clk - 50) ∧ t.pwr.limit = 1))) ∧
      (∀ c, p.throttle ≠ none ∨ p.trip = true → Answers (.emergencyThrottle c) s fun t => t = s) ∧
      (∀ c, p.throttle = none → p.trip = false → (∀ e ∈ s.cmds.all, cmd? s e.1 = some e.2 ∧ e.2.cid = e.1) → s.stat.throttleKill ≤ 0xFF →
        Answers (.emergencyThrottle c) s fun t => t.pwr.throttle = some c ∧ t.pwr.allow = 800 ∧ fires 18 t ∧ (c = .electrical → fires 83 t ∧ t.pwr.dieC = p.dieC) ∧
          (c = .thermal → fires 82 t ∧ 110 ≤ t.pwr.dieC ∧ t.pwr.sensor < 64) ∧
          (s.lift.clk ≤ 800 → t.lift = s.lift ∧ t.cmds = s.cmds ∧ t.pwr.req = min 800 p.req) ∧
          (800 < s.lift.clk → t.lift = { s.lift with clk := 800, throttled := true, plan := t.lift.plan } ∧ (∀ i ∈ t.lift.plan, i ∈ s.lift.plan) ∧ t.pwr.req = 800 ∧ t.pwr.ack = false ∧ .clkReq 800 ∈ t.out.log ∧ .clkSwitch ∈ t.out.log ∧
            ∃ hit : List Cmd, (∀ c ∈ hit, cmd? s c.cid = some c ∧ c.st = .running ∧ isEngineCmd c = true) ∧ t.stat.throttleKill = min 0xFF (s.stat.throttleKill + hit.length) ∧
              ∀ j k, cmd? s j = some k → (k ∈ hit → ∃ d, cmd? t j = some d ∧ d.st = .ready ∧ d.reruns = k.reruns ∧ d.dets = k.dets ∧ d.entry = k.entry) ∧ (k ∉ hit → cmd? t j = some k))) ∧
      (p.throttle = none → Answers .throttleRelease s fun t => t = s) ∧
      (p.throttle = some .electrical → Answers .throttleRelease s fun t => if p.vin < p.vinMin then t = s else t.pwr.throttle = none ∧ t.pwr.dieC = p.dieC) ∧
      (p.throttle = some .thermal → Answers .throttleRelease s fun t => t.pwr.throttle = none ∧ t.pwr.dieC < 100) ∧
      (∀ k d, k < 64 → d < 120 ∨ p.trip = true → Answers (.thermalTrip k d) s fun t => t = s) ∧
      (∀ k d, k < 64 → 120 ≤ d → p.trip = false → Answers (.thermalTrip k d) s fun t => ChangesOnly [.pwr, .irq, .out] s t ∧
        t.pwr = { p with trip := true, dieC := min 255 d, sensor := k, req := 0, ack := false, wantClk := none } ∧ fires 82 t ∧ t.out.log = .clkReq 0 :: .thermtrip true :: s.out.log) ∧
      ∀ k, k < hbmPorts s → Answers (.hbmPhyUpdateRequest k) s fun t => t = { s with out := { s.out with log := .phyAck k :: s.out.log } })

/-- The signals of a quoin port. ready rises into registration and its fall is an engine reset that missed its bound; the eighth good
word registers the engine, a bad one holds it in reset; a done word of 0 starts the commit with its result, one of 1 sends the
command back to READY with a detection of cause 7, one of 2 or more ends it PROGRAM_VIOLATION; stopped ends a kill and keeps the
status words; a request that breaks the protocol or reaches outside the declared ranges freezes the command with its reason, a
good read is answered with the bytes, a good write waits for its data, which lands in the staging extent or in memory; a good
outbox record is added, a malformed one freezes; the scrub acknowledgement ends its request, and each of these out of turn is a
breach -/
def Obligations.QuoinPorts : Prop :=
  ∀ (s : State) (p : Nat), s.start.powered = true → p < quoinPorts s →
    let q := qport s p
    let full (q : QPort) (w : W64) : QPort := if q.words.length + 1 < 8 then { q with words := q.words ++ [w] } else
      { q with words := q.words ++ [w], registered := true, mhz := ((q.words ++ [w]).getD 4 0).toNat, identity := ((q.words ++ [w]).take 4).flatMap fun w => natLe 8 w.toNat }
    (∀ rise, q.heldReset = true ∨ q.ready = rise → Answers (.quoinReady p rise) s fun t => t = s) ∧
    (q.heldReset = false → q.ready = false → Answers (.quoinReady p true) s fun t => ChangesOnly [.quoin, .irq] s t ∧
      qport t p = { q with ready := true, words := [], registered := false } ∧ 144 + 4 * p ∈ t.irq.pend ∧ ∀ k, k ≠ p → qport t k = qport s k) ∧
    (q.heldReset = false → q.ready = true → s.rst.now = none → s.rst.want = none → s.sec.repointing = false → (∀ r ∈ s.rst.engines, r.engine ≠ .quoin p) →
      Answers (.quoinReady p false) s fun t => (qport t p).ready = false ∧ (qport t p).cid = none ∧ t.rst.want = some (resetAt false 4 s) ∧
        t.rst.engines = { engine := .quoin p, time := s.rst.time, lift := s.lift.num } :: s.rst.engines) ∧
    (∀ w, q.heldReset = true ∨ q.ready = false ∨ q.registered = true → Answers (.quoinRegWord p w) s fun t => t = s) ∧
    (∀ w, q.heldReset = false → q.ready = true → q.registered = false → regWordOk q.words.length w = true → Answers (.quoinRegWord p w) s fun t =>
      ChangesOnly [.quoin] s t ∧ qport t p = full q w) ∧
    (∀ w, q.heldReset = false → q.ready = true → q.registered = false → regWordOk q.words.length w = false → Answers (.quoinRegWord p w) s fun t =>
      ChangesOnly [.quoin, .out] s t ∧ (qport t p).heldReset = true ∧ (qport t p).ready = false ∧ t.out.log = .quoinReset p true :: s.out.log) ∧
    (∀ stat, q.heldReset = false → q.killed ≠ none → Answers (.quoinStopped p stat) s fun t => ChangesOnly [.quoin, .irq] s t ∧
      qport t p = { q with killed := none, stat := stat.take 8 } ∧ 144 + 4 * p + 1 ∈ t.irq.pend) ∧
    (q.heldReset = false → q.scrub = true → Answers (.quoinScrubAck p) s fun t => ChangesOnly [.quoin] s t ∧ qport t p = { q with scrub := false }) ∧
    (∀ stat w r env d x, ∀ i ∈ [Instr.quoinStopped p stat, .quoinScrubAck p, .quoinDone p w, .quoinReq p r env, .quoinWdata p d, .quoinObx p x],
      (q.heldReset = true → Answers i s fun t => t = s) ∧
      (q.heldReset = false → q.cid = none → q.doneOf = none → q.killed = none → q.scrub = false → Answers i s (BareBreach p s))) ∧
    (∀ w r env d x, ∀ i ∈ [Instr.quoinDone p w, .quoinReq p r env, .quoinWdata p d, .quoinObx p x], q.heldReset = false → q.cid = none → q.killed ≠ none → Answers i s fun t => t = s) ∧
    ∀ cid c, enginesCmd s p cid c →
      let rs := c.desc.ins ++ c.desc.outs
      (∀ stat, q.killed = none → Answers (.quoinStopped p stat) s (FrozenBy p cid 3 0x22 0 0 s)) ∧
      (q.scrub = false → Answers (.quoinScrubAck p) s (FrozenBy p cid 3 0x22 0 0 s)) ∧
      (∀ w : W64, bits w.toNat 7 0 = 0 → Answers (.quoinDone p w) s fun t => ChangesOnly [.cmds, .quoin] s t ∧ (qport t p).cid = none ∧ (qport t p).doneOf = some cid ∧
        cmd? t cid = some { c with st := .committing, result := bits w.toNat 63 32 } ∧ ∀ j, j ≠ cid → cmd? t j = cmd? s j) ∧
      (∀ w : W64, bits w.toNat 7 0 = 1 → c.abort = false → c.dets.length < 2 → Answers (.quoinDone p w) s fun t => (qport t p).cid = none ∧
        (∃ d, cmd? t cid = some d ∧ d.st = .ready ∧ d.dets = c.dets ++ [7] ∧ d.reruns = c.reruns + 1) ∧ t.rst = s.rst ∧ 144 + 4 * p + 2 ∈ t.irq.pend) ∧
      (∀ w : W64, 2 ≤ bits w.toNat 7 0 → c.parent = none → c.batch = none → (queue? s c.bay c.queue).isSome = true → Answers (.quoinDone p w) s fun t =>
        CompletesWith s c 0x30 (if opc c = opCollective then c.result else 0) t ∧ (qport t p).cid = none) ∧
      (∀ (r : BitVec 128) (env : Env),
        let n := bits r.toNat 17 5
        let va := bits r.toNat 81 30
        let strm := bits r.toNat 4 1
        let wr := bit r.toNat 0
        let ok := 64 ≤ n ∧ n ≤ 4096 ∧ n % 64 = 0
        (¬ok → Answers (.quoinReq p r env) s (FrozenBy p cid 3 0x22 0 0 s)) ∧
        (ok → q.frozenStreams.contains (c.bay, strm) = true → Answers (.quoinReq p r env) s fun t => t = s) ∧
        (ok → q.frozenStreams.contains (c.bay, strm) = false →
          (∀ a, wr = true → inStaging c va n = false → outsideOutputs c (reqDesc va n true) = some a → Answers (.quoinReq p r env) s (FrozenBy p cid 3 0x20 strm a s)) ∧
          (∀ a, wr = false → uncovered rs (rs.length + 1) va n = some a → Answers (.quoinReq p r env) s (FrozenBy p cid 4 0x30 strm a s)) ∧
          (∀ bs, env.det = none → env.ce = none → env.bad = [] → hostShut s c.bay = false → wr = false → uncovered rs (rs.length + 1) va n = none → plainReq s c va n false = true → poisonVa s c.bay va n = none →
            readVa (portXlate p c (reqDesc va n false) s) c.bay env true va n = some bs → Answers (.quoinReq p r env) s fun t => .quoinRdata p strm 0 bs ∈ t.out.log ∧ t.cmds = s.cmds ∧
              t.mem.hbm = s.mem.hbm ∧ qport t p = q) ∧
          (wr = true → inStaging c va n = true → Answers (.quoinReq p r env) s fun t => ChangesOnly [.quoin] s t ∧
            qport t p = { q with writes := q.writes ++ [{ va := va, left := n }] }) ∧
          (wr = true → inStaging c va n = false → outsideOutputs c (reqDesc va n true) = none → plainReq s c va n true = true → recordWrites s c.bay (reqDesc va n true) c.outbox = c.outbox →
            c.outCount ≤ 512 → env.bad = [] → hostShut s c.bay = false → Answers (.quoinReq p r env) s fun t => qport t p = { q with writes := q.writes ++ [{ va := va, left := n }] } ∧ cmd? t cid = some c ∧
              t.mem.hbm = s.mem.hbm))) ∧
      (∀ d, q.writes = [] ∨ (∃ w ws, q.writes = w :: ws ∧ w.left < d.length) → Answers (.quoinWdata p d) s (FrozenBy p cid 3 0x22 0 0 s)) ∧
      (∀ d w ws, q.writes = w :: ws → d.length ≤ w.left →
        let rest := if w.left = d.length then ws else { va := w.va + d.length, left := w.left - d.length } :: ws
        (inStaging c w.va d.length = true → Answers (.quoinWdata p d) s fun t => qport t p = { q with writes := rest } ∧ t.mem = s.mem ∧
          ∃ k, cmd? t cid = some k ∧ ∀ a, mget k.direct a = if w.va - c.stageVa ≤ a ∧ a < w.va - c.stageVa + d.length then d.getD (a - (w.va - c.stageVa)) 0 else mget c.direct a) ∧
        (∀ pa, inStaging c w.va d.length = false → staged c = false → pagesOf w.va d.length = [(w.va, d.length)] → xlate s c.bay w.va 2 true = .ok (.hbm pa) →
          Answers (.quoinWdata p d) s fun t => qport t p = { q with writes := rest } ∧ cmd? t cid = some c ∧
            ∀ a, mget t.mem.hbm a = if pa ≤ a ∧ a < pa + d.length then d.getD (a - pa) 0 else mget s.mem.hbm a)) ∧
      (∀ d, (obxRecord s c d = none ∨ 512 ≤ c.outCount) → Answers (.quoinObx p d) s (FrozenBy p cid 3 0x21 0 0 s)) ∧
      (∀ d r, obxRecord s c d = some r → c.outCount < 512 → Answers (.quoinObx p d) s fun t => ChangesOnly [.cmds] s t ∧
        cmd? t cid = some { c with outbox := c.outbox ++ [r], outCount := c.outCount + 1 })

/-- The key-provisioning port. While kp_en is 1 and the boot ROM has entered boot mode: GENERATE, accepted while no UDS is written and
the store is not locked, writes the next draw of the random source as the UDS, from which the device identity key follows;
READ_PUBLIC returns that key's 97 bytes while a UDS is written; WRITE_CHAIN, while a UDS is written and the store is not locked,
appends up to 1,024 bytes; LOCK, while a chain is written and the store is not locked, locks exactly if the chain parses and its
last certificate carries that key; STATUS always returns uds_written, chain bytes and locked; a command not accepted returns a
refusal and changes nothing else -/
def Obligations.KeyPort : Prop :=
  (∀ uds, (publicKey (dik uds)).length = 97) ∧
  ∀ s : State, s.start.powered = true → s.hw.kpEn = true → 4 ≤ s.start.phase →
    let i := s.ident
    let Refused : State → Prop := PortAnswers 1 [] i s
    (i.uds = none → i.locked = false → Answers .generate s fun t => PortAnswers 0 [] { i with uds := some (Config.random s.out.random) } s t ∧ t.out.random = s.out.random + 1) ∧
    (i.uds ≠ none ∨ i.locked = true → Answers .generate s Refused) ∧
    (∀ u, i.uds = some u → Answers .readPublic s (PortAnswers 0 (publicKey (dik u)) i s)) ∧
    (i.uds = none → Answers .readPublic s Refused) ∧
    (∀ d, i.uds ≠ none → i.locked = false → d.length ≤ 1024 → i.chain.length + d.length ≤ 12288 → Answers (.writeChain d) s (PortAnswers 0 [] { i with chain := i.chain ++ d } s)) ∧
    (∀ d, i.uds = none ∨ i.locked = true ∨ 1024 < d.length ∨ 12288 < i.chain.length + d.length → Answers (.writeChain d) s Refused) ∧
    (∀ u, i.uds = some u → i.chain ≠ [] → i.locked = false → Answers .lock s
      (if Config.chainLastKey i.chain = some (publicKey (dik u)) then PortAnswers 0 [] { i with locked := true } s else Refused)) ∧
    (i.chain = [] ∨ i.locked = true ∨ i.uds = none → Answers .lock s Refused) ∧
    Answers .kpStatus s (PortAnswers 0 (natLe 1 (b2n i.uds.isSome) ++ natLe 2 i.chain.length ++ natLe 1 (b2n i.locked)) i s)

/-- Every command keeps the canonical form of the memories. In every state whose HBM and window memories list strictly rising
addresses and no zero byte, every command that answers a next state, and every step, leaves them so -/
def Obligations.MemoryCanonical : Prop :=
  let Inv (s : State) : Prop := Memory.wf s.mem.hbm = true ∧ Memory.wf s.mem.win = true
  (∀ (c : Instr) (s t : State), Inv s → exec c s = .next t → Inv t) ∧ ∀ s t : State, Inv s → step s = .next t → Inv t

/-- What reset leaves, and the registers that identify the block. Right after reset the memories list nothing and are canonical, no
command waits or is in flight, no interrupt source is pending, and the block is powered, in phase 1 and not ready. In every state,
BLK_ID reads vendor 0xDA1A and block 0xF2B0, BLK_REV stepping 1.0, and GRID_SHAPE 0x20 or 0x10 courses in F or H and 0x20 columns,
reserved bits 0, and a write to one of them changes nothing -/
def Obligations.ResetAndIdentity : Prop :=
  (State.reset.mem.hbm = [] ∧ State.reset.mem.win = [] ∧ Memory.wf State.reset.mem.hbm = true ∧ Memory.wf State.reset.mem.win = true ∧ State.reset.pending = [] ∧
    State.reset.cmds.all = [] ∧ State.reset.irq.pend = [] ∧ State.reset.irq.en = [] ∧ State.reset.start.powered = true ∧ State.reset.start.phase = 1 ∧
    State.reset.start.ready = false) ∧
  ∀ s : State, windowOpen s .manager = true →
    let names_ (off v : Nat) : Prop := Answers (.rcRead .manager off 4) s (fun t => Read (natLe 4 v) s t ∧ ChangesOnly [.out] s t) ∧
      ∀ w, Answers (.registerWrite .manager off 4 w) s fun t => t = s
    names_ 0x0000000 0xDA1AF2B0 ∧ names_ 0x0000004 0x00000100 ∧ names_ 0x0608000 (if s.hw.config = .F then 0x2020 else 0x1020)
end

