-- ==== Sys2Proof/Laws/State.lean ====
section
/-! SUPPORT. What each update of the state leaves of each field: one lemma per field per update, so that no later proof unfolds a record
update. -/
namespace Sys2Proof.Machine
variable (s t : State)

@[simp] theorem keep_hw (fp : List Grp) : (keep fp s t).hw = s.hw := rfl
@[simp] theorem keep_ident (fp : List Grp) : (keep fp s t).ident = if .ident ∈ fp then t.ident else s.ident := rfl
@[simp] theorem keep_foot (fp : List Grp) : (keep fp s t).foot = if .foot ∈ fp then t.foot else s.foot := rfl
@[simp] theorem keep_fw (fp : List Grp) : (keep fp s t).fw = if .fw ∈ fp then t.fw else s.fw := rfl
@[simp] theorem keep_boxes (fp : List Grp) : (keep fp s t).boxes = if .boxes ∈ fp then t.boxes else s.boxes := rfl
@[simp] theorem keep_lift (fp : List Grp) : (keep fp s t).lift = if .lift ∈ fp then t.lift else s.lift := rfl
@[simp] theorem keep_stat (fp : List Grp) : (keep fp s t).stat = if .stat ∈ fp then t.stat else s.stat := rfl
@[simp] theorem keep_grid (fp : List Grp) : (keep fp s t).grid = if .grid ∈ fp then t.grid else s.grid := rfl
@[simp] theorem keep_cmds (fp : List Grp) : (keep fp s t).cmds = if .cmds ∈ fp then t.cmds else s.cmds := rfl
@[simp] theorem keep_bays (fp : List Grp) : (keep fp s t).bays = if .bays ∈ fp then t.bays else s.bays := rfl
@[simp] theorem keep_dev (fp : List Grp) : (keep fp s t).dev = if .dev ∈ fp then t.dev else s.dev := rfl
@[simp] theorem keep_mem (fp : List Grp) : (keep fp s t).mem = if .mem ∈ fp then t.mem else s.mem := rfl
@[simp] theorem keep_sec (fp : List Grp) : (keep fp s t).sec = if .sec ∈ fp then t.sec else s.sec := rfl
@[simp] theorem keep_kw (fp : List Grp) : (keep fp s t).kw = if .kw ∈ fp then t.kw else s.kw := rfl
@[simp] theorem keep_arch (fp : List Grp) : (keep fp s t).arch = if .arch ∈ fp then t.arch else s.arch := rfl
@[simp] theorem keep_ras (fp : List Grp) : (keep fp s t).ras = if .ras ∈ fp then t.ras else s.ras := rfl
@[simp] theorem keep_plumb (fp : List Grp) : (keep fp s t).plumb = if .plumb ∈ fp then t.plumb else s.plumb := rfl
@[simp] theorem keep_rst (fp : List Grp) : (keep fp s t).rst = if .rst ∈ fp then t.rst else s.rst := rfl
@[simp] theorem keep_dump (fp : List Grp) : (keep fp s t).dump = if .dump ∈ fp then t.dump else s.dump := rfl
@[simp] theorem keep_irq (fp : List Grp) : (keep fp s t).irq = if .irq ∈ fp then t.irq else s.irq := rfl
@[simp] theorem keep_pwr (fp : List Grp) : (keep fp s t).pwr = if .pwr ∈ fp then t.pwr else s.pwr := rfl
@[simp] theorem keep_quoin (fp : List Grp) : (keep fp s t).quoin = if .quoin ∈ fp then t.quoin else s.quoin := rfl
@[simp] theorem keep_start (fp : List Grp) : (keep fp s t).start = if .start ∈ fp then t.start else s.start := rfl
@[simp] theorem keep_out (fp : List Grp) : (keep fp s t).out = if .out ∈ fp then t.out else s.out := rfl
@[simp] theorem keep_pending (fp : List Grp) : (keep fp s t).pending = s.pending := rfl

/-! `emit` changes `out` alone. -/
@[simp] theorem emit_hw (o : Out) : (emit o s).hw = s.hw := rfl
@[simp] theorem emit_ident (o : Out) : (emit o s).ident = s.ident := rfl
@[simp] theorem emit_foot (o : Out) : (emit o s).foot = s.foot := rfl
@[simp] theorem emit_fw (o : Out) : (emit o s).fw = s.fw := rfl
@[simp] theorem emit_boxes (o : Out) : (emit o s).boxes = s.boxes := rfl
@[simp] theorem emit_lift (o : Out) : (emit o s).lift = s.lift := rfl
@[simp] theorem emit_stat (o : Out) : (emit o s).stat = s.stat := rfl
@[simp] theorem emit_grid (o : Out) : (emit o s).grid = s.grid := rfl
@[simp] theorem emit_cmds (o : Out) : (emit o s).cmds = s.cmds := rfl
@[simp] theorem emit_bays (o : Out) : (emit o s).bays = s.bays := rfl
@[simp] theorem emit_dev (o : Out) : (emit o s).dev = s.dev := rfl
@[simp] theorem emit_mem (o : Out) : (emit o s).mem = s.mem := rfl
@[simp] theorem emit_sec (o : Out) : (emit o s).sec = s.sec := rfl
@[simp] theorem emit_kw (o : Out) : (emit o s).kw = s.kw := rfl
@[simp] theorem emit_arch (o : Out) : (emit o s).arch = s.arch := rfl
@[simp] theorem emit_ras (o : Out) : (emit o s).ras = s.ras := rfl
@[simp] theorem emit_plumb (o : Out) : (emit o s).plumb = s.plumb := rfl
@[simp] theorem emit_rst (o : Out) : (emit o s).rst = s.rst := rfl
@[simp] theorem emit_dump (o : Out) : (emit o s).dump = s.dump := rfl
@[simp] theorem emit_irq (o : Out) : (emit o s).irq = s.irq := rfl
@[simp] theorem emit_pwr (o : Out) : (emit o s).pwr = s.pwr := rfl
@[simp] theorem emit_quoin (o : Out) : (emit o s).quoin = s.quoin := rfl
@[simp] theorem emit_start (o : Out) : (emit o s).start = s.start := rfl
@[simp] theorem emit_pending (o : Out) : (emit o s).pending = s.pending := rfl

/-! `drewFree` changes `out` alone. -/
@[simp] theorem drewFree_hw : (drewFree s).hw = s.hw := rfl
@[simp] theorem drewFree_ident : (drewFree s).ident = s.ident := rfl
@[simp] theorem drewFree_foot : (drewFree s).foot = s.foot := rfl
@[simp] theorem drewFree_fw : (drewFree s).fw = s.fw := rfl
@[simp] theorem drewFree_boxes : (drewFree s).boxes = s.boxes := rfl
@[simp] theorem drewFree_lift : (drewFree s).lift = s.lift := rfl
@[simp] theorem drewFree_stat : (drewFree s).stat = s.stat := rfl
@[simp] theorem drewFree_grid : (drewFree s).grid = s.grid := rfl
@[simp] theorem drewFree_cmds : (drewFree s).cmds = s.cmds := rfl
@[simp] theorem drewFree_bays : (drewFree s).bays = s.bays := rfl
@[simp] theorem drewFree_dev : (drewFree s).dev = s.dev := rfl
@[simp] theorem drewFree_mem : (drewFree s).mem = s.mem := rfl
@[simp] theorem drewFree_sec : (drewFree s).sec = s.sec := rfl
@[simp] theorem drewFree_kw : (drewFree s).kw = s.kw := rfl
@[simp] theorem drewFree_arch : (drewFree s).arch = s.arch := rfl
@[simp] theorem drewFree_ras : (drewFree s).ras = s.ras := rfl
@[simp] theorem drewFree_plumb : (drewFree s).plumb = s.plumb := rfl
@[simp] theorem drewFree_rst : (drewFree s).rst = s.rst := rfl
@[simp] theorem drewFree_dump : (drewFree s).dump = s.dump := rfl
@[simp] theorem drewFree_irq : (drewFree s).irq = s.irq := rfl
@[simp] theorem drewFree_pwr : (drewFree s).pwr = s.pwr := rfl
@[simp] theorem drewFree_quoin : (drewFree s).quoin = s.quoin := rfl
@[simp] theorem drewFree_start : (drewFree s).start = s.start := rfl
@[simp] theorem drewFree_pending : (drewFree s).pending = s.pending := rfl

/-! `drewRandom` changes `out` alone. -/
@[simp] theorem drewRandom_hw : (drewRandom s).hw = s.hw := rfl
@[simp] theorem drewRandom_ident : (drewRandom s).ident = s.ident := rfl
@[simp] theorem drewRandom_foot : (drewRandom s).foot = s.foot := rfl
@[simp] theorem drewRandom_fw : (drewRandom s).fw = s.fw := rfl
@[simp] theorem drewRandom_boxes : (drewRandom s).boxes = s.boxes := rfl
@[simp] theorem drewRandom_lift : (drewRandom s).lift = s.lift := rfl
@[simp] theorem drewRandom_stat : (drewRandom s).stat = s.stat := rfl
@[simp] theorem drewRandom_grid : (drewRandom s).grid = s.grid := rfl
@[simp] theorem drewRandom_cmds : (drewRandom s).cmds = s.cmds := rfl
@[simp] theorem drewRandom_bays : (drewRandom s).bays = s.bays := rfl
@[simp] theorem drewRandom_dev : (drewRandom s).dev = s.dev := rfl
@[simp] theorem drewRandom_mem : (drewRandom s).mem = s.mem := rfl
@[simp] theorem drewRandom_sec : (drewRandom s).sec = s.sec := rfl
@[simp] theorem drewRandom_kw : (drewRandom s).kw = s.kw := rfl
@[simp] theorem drewRandom_arch : (drewRandom s).arch = s.arch := rfl
@[simp] theorem drewRandom_ras : (drewRandom s).ras = s.ras := rfl
@[simp] theorem drewRandom_plumb : (drewRandom s).plumb = s.plumb := rfl
@[simp] theorem drewRandom_rst : (drewRandom s).rst = s.rst := rfl
@[simp] theorem drewRandom_dump : (drewRandom s).dump = s.dump := rfl
@[simp] theorem drewRandom_irq : (drewRandom s).irq = s.irq := rfl
@[simp] theorem drewRandom_pwr : (drewRandom s).pwr = s.pwr := rfl
@[simp] theorem drewRandom_quoin : (drewRandom s).quoin = s.quoin := rfl
@[simp] theorem drewRandom_start : (drewRandom s).start = s.start := rfl
@[simp] theorem drewRandom_pending : (drewRandom s).pending = s.pending := rfl

/-! `modAsh` changes `grid` alone. -/
@[simp] theorem modAsh_hw (a : Nat) (f : Ashlar → Ashlar) : (modAsh a f s).hw = s.hw := rfl
@[simp] theorem modAsh_ident (a : Nat) (f : Ashlar → Ashlar) : (modAsh a f s).ident = s.ident := rfl
@[simp] theorem modAsh_foot (a : Nat) (f : Ashlar → Ashlar) : (modAsh a f s).foot = s.foot := rfl
@[simp] theorem modAsh_fw (a : Nat) (f : Ashlar → Ashlar) : (modAsh a f s).fw = s.fw := rfl
@[simp] theorem modAsh_boxes (a : Nat) (f : Ashlar → Ashlar) : (modAsh a f s).boxes = s.boxes := rfl
@[simp] theorem modAsh_lift (a : Nat) (f : Ashlar → Ashlar) : (modAsh a f s).lift = s.lift := rfl
@[simp] theorem modAsh_stat (a : Nat) (f : Ashlar → Ashlar) : (modAsh a f s).stat = s.stat := rfl
@[simp] theorem modAsh_cmds (a : Nat) (f : Ashlar → Ashlar) : (modAsh a f s).cmds = s.cmds := rfl
@[simp] theorem modAsh_bays (a : Nat) (f : Ashlar → Ashlar) : (modAsh a f s).bays = s.bays := rfl
@[simp] theorem modAsh_dev (a : Nat) (f : Ashlar → Ashlar) : (modAsh a f s).dev = s.dev := rfl
@[simp] theorem modAsh_mem (a : Nat) (f : Ashlar → Ashlar) : (modAsh a f s).mem = s.mem := rfl
@[simp] theorem modAsh_sec (a : Nat) (f : Ashlar → Ashlar) : (modAsh a f s).sec = s.sec := rfl
@[simp] theorem modAsh_kw (a : Nat) (f : Ashlar → Ashlar) : (modAsh a f s).kw = s.kw := rfl
@[simp] theorem modAsh_arch (a : Nat) (f : Ashlar → Ashlar) : (modAsh a f s).arch = s.arch := rfl
@[simp] theorem modAsh_ras (a : Nat) (f : Ashlar → Ashlar) : (modAsh a f s).ras = s.ras := rfl
@[simp] theorem modAsh_plumb (a : Nat) (f : Ashlar → Ashlar) : (modAsh a f s).plumb = s.plumb := rfl
@[simp] theorem modAsh_rst (a : Nat) (f : Ashlar → Ashlar) : (modAsh a f s).rst = s.rst := rfl
@[simp] theorem modAsh_dump (a : Nat) (f : Ashlar → Ashlar) : (modAsh a f s).dump = s.dump := rfl
@[simp] theorem modAsh_irq (a : Nat) (f : Ashlar → Ashlar) : (modAsh a f s).irq = s.irq := rfl
@[simp] theorem modAsh_pwr (a : Nat) (f : Ashlar → Ashlar) : (modAsh a f s).pwr = s.pwr := rfl
@[simp] theorem modAsh_quoin (a : Nat) (f : Ashlar → Ashlar) : (modAsh a f s).quoin = s.quoin := rfl
@[simp] theorem modAsh_start (a : Nat) (f : Ashlar → Ashlar) : (modAsh a f s).start = s.start := rfl
@[simp] theorem modAsh_out (a : Nat) (f : Ashlar → Ashlar) : (modAsh a f s).out = s.out := rfl
@[simp] theorem modAsh_pending (a : Nat) (f : Ashlar → Ashlar) : (modAsh a f s).pending = s.pending := rfl

/-! `dropCmd` changes `cmds` alone. -/
@[simp] theorem dropCmd_hw (c : Nat) : (dropCmd c s).hw = s.hw := rfl
@[simp] theorem dropCmd_ident (c : Nat) : (dropCmd c s).ident = s.ident := rfl
@[simp] theorem dropCmd_foot (c : Nat) : (dropCmd c s).foot = s.foot := rfl
@[simp] theorem dropCmd_fw (c : Nat) : (dropCmd c s).fw = s.fw := rfl
@[simp] theorem dropCmd_boxes (c : Nat) : (dropCmd c s).boxes = s.boxes := rfl
@[simp] theorem dropCmd_lift (c : Nat) : (dropCmd c s).lift = s.lift := rfl
@[simp] theorem dropCmd_stat (c : Nat) : (dropCmd c s).stat = s.stat := rfl
@[simp] theorem dropCmd_grid (c : Nat) : (dropCmd c s).grid = s.grid := rfl
@[simp] theorem dropCmd_bays (c : Nat) : (dropCmd c s).bays = s.bays := rfl
@[simp] theorem dropCmd_dev (c : Nat) : (dropCmd c s).dev = s.dev := rfl
@[simp] theorem dropCmd_mem (c : Nat) : (dropCmd c s).mem = s.mem := rfl
@[simp] theorem dropCmd_sec (c : Nat) : (dropCmd c s).sec = s.sec := rfl
@[simp] theorem dropCmd_kw (c : Nat) : (dropCmd c s).kw = s.kw := rfl
@[simp] theorem dropCmd_arch (c : Nat) : (dropCmd c s).arch = s.arch := rfl
@[simp] theorem dropCmd_ras (c : Nat) : (dropCmd c s).ras = s.ras := rfl
@[simp] theorem dropCmd_plumb (c : Nat) : (dropCmd c s).plumb = s.plumb := rfl
@[simp] theorem dropCmd_rst (c : Nat) : (dropCmd c s).rst = s.rst := rfl
@[simp] theorem dropCmd_dump (c : Nat) : (dropCmd c s).dump = s.dump := rfl
@[simp] theorem dropCmd_irq (c : Nat) : (dropCmd c s).irq = s.irq := rfl
@[simp] theorem dropCmd_pwr (c : Nat) : (dropCmd c s).pwr = s.pwr := rfl
@[simp] theorem dropCmd_quoin (c : Nat) : (dropCmd c s).quoin = s.quoin := rfl
@[simp] theorem dropCmd_start (c : Nat) : (dropCmd c s).start = s.start := rfl
@[simp] theorem dropCmd_out (c : Nat) : (dropCmd c s).out = s.out := rfl
@[simp] theorem dropCmd_pending (c : Nat) : (dropCmd c s).pending = s.pending := rfl

/-! `modBay` changes `bays` alone. -/
@[simp] theorem modBay_hw (b : Nat) (f : Bay → Bay) : (modBay b f s).hw = s.hw := rfl
@[simp] theorem modBay_ident (b : Nat) (f : Bay → Bay) : (modBay b f s).ident = s.ident := rfl
@[simp] theorem modBay_foot (b : Nat) (f : Bay → Bay) : (modBay b f s).foot = s.foot := rfl
@[simp] theorem modBay_fw (b : Nat) (f : Bay → Bay) : (modBay b f s).fw = s.fw := rfl
@[simp] theorem modBay_boxes (b : Nat) (f : Bay → Bay) : (modBay b f s).boxes = s.boxes := rfl
@[simp] theorem modBay_lift (b : Nat) (f : Bay → Bay) : (modBay b f s).lift = s.lift := rfl
@[simp] theorem modBay_stat (b : Nat) (f : Bay → Bay) : (modBay b f s).stat = s.stat := rfl
@[simp] theorem modBay_grid (b : Nat) (f : Bay → Bay) : (modBay b f s).grid = s.grid := rfl
@[simp] theorem modBay_cmds (b : Nat) (f : Bay → Bay) : (modBay b f s).cmds = s.cmds := rfl
@[simp] theorem modBay_dev (b : Nat) (f : Bay → Bay) : (modBay b f s).dev = s.dev := rfl
@[simp] theorem modBay_mem (b : Nat) (f : Bay → Bay) : (modBay b f s).mem = s.mem := rfl
@[simp] theorem modBay_sec (b : Nat) (f : Bay → Bay) : (modBay b f s).sec = s.sec := rfl
@[simp] theorem modBay_kw (b : Nat) (f : Bay → Bay) : (modBay b f s).kw = s.kw := rfl
@[simp] theorem modBay_arch (b : Nat) (f : Bay → Bay) : (modBay b f s).arch = s.arch := rfl
@[simp] theorem modBay_ras (b : Nat) (f : Bay → Bay) : (modBay b f s).ras = s.ras := rfl
@[simp] theorem modBay_plumb (b : Nat) (f : Bay → Bay) : (modBay b f s).plumb = s.plumb := rfl
@[simp] theorem modBay_rst (b : Nat) (f : Bay → Bay) : (modBay b f s).rst = s.rst := rfl
@[simp] theorem modBay_dump (b : Nat) (f : Bay → Bay) : (modBay b f s).dump = s.dump := rfl
@[simp] theorem modBay_irq (b : Nat) (f : Bay → Bay) : (modBay b f s).irq = s.irq := rfl
@[simp] theorem modBay_pwr (b : Nat) (f : Bay → Bay) : (modBay b f s).pwr = s.pwr := rfl
@[simp] theorem modBay_quoin (b : Nat) (f : Bay → Bay) : (modBay b f s).quoin = s.quoin := rfl
@[simp] theorem modBay_start (b : Nat) (f : Bay → Bay) : (modBay b f s).start = s.start := rfl
@[simp] theorem modBay_out (b : Nat) (f : Bay → Bay) : (modBay b f s).out = s.out := rfl
@[simp] theorem modBay_pending (b : Nat) (f : Bay → Bay) : (modBay b f s).pending = s.pending := rfl

/-! `modEqi` changes `bays` alone. -/
@[simp] theorem modEqi_hw (b : Nat) (f : BayEqi → BayEqi) : (modEqi b f s).hw = s.hw := rfl
@[simp] theorem modEqi_ident (b : Nat) (f : BayEqi → BayEqi) : (modEqi b f s).ident = s.ident := rfl
@[simp] theorem modEqi_foot (b : Nat) (f : BayEqi → BayEqi) : (modEqi b f s).foot = s.foot := rfl
@[simp] theorem modEqi_fw (b : Nat) (f : BayEqi → BayEqi) : (modEqi b f s).fw = s.fw := rfl
@[simp] theorem modEqi_boxes (b : Nat) (f : BayEqi → BayEqi) : (modEqi b f s).boxes = s.boxes := rfl
@[simp] theorem modEqi_lift (b : Nat) (f : BayEqi → BayEqi) : (modEqi b f s).lift = s.lift := rfl
@[simp] theorem modEqi_stat (b : Nat) (f : BayEqi → BayEqi) : (modEqi b f s).stat = s.stat := rfl
@[simp] theorem modEqi_grid (b : Nat) (f : BayEqi → BayEqi) : (modEqi b f s).grid = s.grid := rfl
@[simp] theorem modEqi_cmds (b : Nat) (f : BayEqi → BayEqi) : (modEqi b f s).cmds = s.cmds := rfl
@[simp] theorem modEqi_dev (b : Nat) (f : BayEqi → BayEqi) : (modEqi b f s).dev = s.dev := rfl
@[simp] theorem modEqi_mem (b : Nat) (f : BayEqi → BayEqi) : (modEqi b f s).mem = s.mem := rfl
@[simp] theorem modEqi_sec (b : Nat) (f : BayEqi → BayEqi) : (modEqi b f s).sec = s.sec := rfl
@[simp] theorem modEqi_kw (b : Nat) (f : BayEqi → BayEqi) : (modEqi b f s).kw = s.kw := rfl
@[simp] theorem modEqi_arch (b : Nat) (f : BayEqi → BayEqi) : (modEqi b f s).arch = s.arch := rfl
@[simp] theorem modEqi_ras (b : Nat) (f : BayEqi → BayEqi) : (modEqi b f s).ras = s.ras := rfl
@[simp] theorem modEqi_plumb (b : Nat) (f : BayEqi → BayEqi) : (modEqi b f s).plumb = s.plumb := rfl
@[simp] theorem modEqi_rst (b : Nat) (f : BayEqi → BayEqi) : (modEqi b f s).rst = s.rst := rfl
@[simp] theorem modEqi_dump (b : Nat) (f : BayEqi → BayEqi) : (modEqi b f s).dump = s.dump := rfl
@[simp] theorem modEqi_irq (b : Nat) (f : BayEqi → BayEqi) : (modEqi b f s).irq = s.irq := rfl
@[simp] theorem modEqi_pwr (b : Nat) (f : BayEqi → BayEqi) : (modEqi b f s).pwr = s.pwr := rfl
@[simp] theorem modEqi_quoin (b : Nat) (f : BayEqi → BayEqi) : (modEqi b f s).quoin = s.quoin := rfl
@[simp] theorem modEqi_start (b : Nat) (f : BayEqi → BayEqi) : (modEqi b f s).start = s.start := rfl
@[simp] theorem modEqi_out (b : Nat) (f : BayEqi → BayEqi) : (modEqi b f s).out = s.out := rfl
@[simp] theorem modEqi_pending (b : Nat) (f : BayEqi → BayEqi) : (modEqi b f s).pending = s.pending := rfl

/-! `modBm` changes `bays` alone. -/
@[simp] theorem modBm_hw (b : Nat) (f : BayMem → BayMem) : (modBm b f s).hw = s.hw := rfl
@[simp] theorem modBm_ident (b : Nat) (f : BayMem → BayMem) : (modBm b f s).ident = s.ident := rfl
@[simp] theorem modBm_foot (b : Nat) (f : BayMem → BayMem) : (modBm b f s).foot = s.foot := rfl
@[simp] theorem modBm_fw (b : Nat) (f : BayMem → BayMem) : (modBm b f s).fw = s.fw := rfl
@[simp] theorem modBm_boxes (b : Nat) (f : BayMem → BayMem) : (modBm b f s).boxes = s.boxes := rfl
@[simp] theorem modBm_lift (b : Nat) (f : BayMem → BayMem) : (modBm b f s).lift = s.lift := rfl
@[simp] theorem modBm_stat (b : Nat) (f : BayMem → BayMem) : (modBm b f s).stat = s.stat := rfl
@[simp] theorem modBm_grid (b : Nat) (f : BayMem → BayMem) : (modBm b f s).grid = s.grid := rfl
@[simp] theorem modBm_cmds (b : Nat) (f : BayMem → BayMem) : (modBm b f s).cmds = s.cmds := rfl
@[simp] theorem modBm_dev (b : Nat) (f : BayMem → BayMem) : (modBm b f s).dev = s.dev := rfl
@[simp] theorem modBm_mem (b : Nat) (f : BayMem → BayMem) : (modBm b f s).mem = s.mem := rfl
@[simp] theorem modBm_sec (b : Nat) (f : BayMem → BayMem) : (modBm b f s).sec = s.sec := rfl
@[simp] theorem modBm_kw (b : Nat) (f : BayMem → BayMem) : (modBm b f s).kw = s.kw := rfl
@[simp] theorem modBm_arch (b : Nat) (f : BayMem → BayMem) : (modBm b f s).arch = s.arch := rfl
@[simp] theorem modBm_ras (b : Nat) (f : BayMem → BayMem) : (modBm b f s).ras = s.ras := rfl
@[simp] theorem modBm_plumb (b : Nat) (f : BayMem → BayMem) : (modBm b f s).plumb = s.plumb := rfl
@[simp] theorem modBm_rst (b : Nat) (f : BayMem → BayMem) : (modBm b f s).rst = s.rst := rfl
@[simp] theorem modBm_dump (b : Nat) (f : BayMem → BayMem) : (modBm b f s).dump = s.dump := rfl
@[simp] theorem modBm_irq (b : Nat) (f : BayMem → BayMem) : (modBm b f s).irq = s.irq := rfl
@[simp] theorem modBm_pwr (b : Nat) (f : BayMem → BayMem) : (modBm b f s).pwr = s.pwr := rfl
@[simp] theorem modBm_quoin (b : Nat) (f : BayMem → BayMem) : (modBm b f s).quoin = s.quoin := rfl
@[simp] theorem modBm_start (b : Nat) (f : BayMem → BayMem) : (modBm b f s).start = s.start := rfl
@[simp] theorem modBm_out (b : Nat) (f : BayMem → BayMem) : (modBm b f s).out = s.out := rfl
@[simp] theorem modBm_pending (b : Nat) (f : BayMem → BayMem) : (modBm b f s).pending = s.pending := rfl

/-! `modSt` changes `bays` alone. -/
@[simp] theorem modSt_hw (b : Nat) (f : BayStream → BayStream) : (modSt b f s).hw = s.hw := rfl
@[simp] theorem modSt_ident (b : Nat) (f : BayStream → BayStream) : (modSt b f s).ident = s.ident := rfl
@[simp] theorem modSt_foot (b : Nat) (f : BayStream → BayStream) : (modSt b f s).foot = s.foot := rfl
@[simp] theorem modSt_fw (b : Nat) (f : BayStream → BayStream) : (modSt b f s).fw = s.fw := rfl
@[simp] theorem modSt_boxes (b : Nat) (f : BayStream → BayStream) : (modSt b f s).boxes = s.boxes := rfl
@[simp] theorem modSt_lift (b : Nat) (f : BayStream → BayStream) : (modSt b f s).lift = s.lift := rfl
@[simp] theorem modSt_stat (b : Nat) (f : BayStream → BayStream) : (modSt b f s).stat = s.stat := rfl
@[simp] theorem modSt_grid (b : Nat) (f : BayStream → BayStream) : (modSt b f s).grid = s.grid := rfl
@[simp] theorem modSt_cmds (b : Nat) (f : BayStream → BayStream) : (modSt b f s).cmds = s.cmds := rfl
@[simp] theorem modSt_dev (b : Nat) (f : BayStream → BayStream) : (modSt b f s).dev = s.dev := rfl
@[simp] theorem modSt_mem (b : Nat) (f : BayStream → BayStream) : (modSt b f s).mem = s.mem := rfl
@[simp] theorem modSt_sec (b : Nat) (f : BayStream → BayStream) : (modSt b f s).sec = s.sec := rfl
@[simp] theorem modSt_kw (b : Nat) (f : BayStream → BayStream) : (modSt b f s).kw = s.kw := rfl
@[simp] theorem modSt_arch (b : Nat) (f : BayStream → BayStream) : (modSt b f s).arch = s.arch := rfl
@[simp] theorem modSt_ras (b : Nat) (f : BayStream → BayStream) : (modSt b f s).ras = s.ras := rfl
@[simp] theorem modSt_plumb (b : Nat) (f : BayStream → BayStream) : (modSt b f s).plumb = s.plumb := rfl
@[simp] theorem modSt_rst (b : Nat) (f : BayStream → BayStream) : (modSt b f s).rst = s.rst := rfl
@[simp] theorem modSt_dump (b : Nat) (f : BayStream → BayStream) : (modSt b f s).dump = s.dump := rfl
@[simp] theorem modSt_irq (b : Nat) (f : BayStream → BayStream) : (modSt b f s).irq = s.irq := rfl
@[simp] theorem modSt_pwr (b : Nat) (f : BayStream → BayStream) : (modSt b f s).pwr = s.pwr := rfl
@[simp] theorem modSt_quoin (b : Nat) (f : BayStream → BayStream) : (modSt b f s).quoin = s.quoin := rfl
@[simp] theorem modSt_start (b : Nat) (f : BayStream → BayStream) : (modSt b f s).start = s.start := rfl
@[simp] theorem modSt_out (b : Nat) (f : BayStream → BayStream) : (modSt b f s).out = s.out := rfl
@[simp] theorem modSt_pending (b : Nat) (f : BayStream → BayStream) : (modSt b f s).pending = s.pending := rfl

/-! `modStream` changes `bays` alone. -/
@[simp] theorem modStream_hw (b k : Nat) (f : Stream → Stream) : (modStream b k f s).hw = s.hw := rfl
@[simp] theorem modStream_ident (b k : Nat) (f : Stream → Stream) : (modStream b k f s).ident = s.ident := rfl
@[simp] theorem modStream_foot (b k : Nat) (f : Stream → Stream) : (modStream b k f s).foot = s.foot := rfl
@[simp] theorem modStream_fw (b k : Nat) (f : Stream → Stream) : (modStream b k f s).fw = s.fw := rfl
@[simp] theorem modStream_boxes (b k : Nat) (f : Stream → Stream) : (modStream b k f s).boxes = s.boxes := rfl
@[simp] theorem modStream_lift (b k : Nat) (f : Stream → Stream) : (modStream b k f s).lift = s.lift := rfl
@[simp] theorem modStream_stat (b k : Nat) (f : Stream → Stream) : (modStream b k f s).stat = s.stat := rfl
@[simp] theorem modStream_grid (b k : Nat) (f : Stream → Stream) : (modStream b k f s).grid = s.grid := rfl
@[simp] theorem modStream_cmds (b k : Nat) (f : Stream → Stream) : (modStream b k f s).cmds = s.cmds := rfl
@[simp] theorem modStream_dev (b k : Nat) (f : Stream → Stream) : (modStream b k f s).dev = s.dev := rfl
@[simp] theorem modStream_mem (b k : Nat) (f : Stream → Stream) : (modStream b k f s).mem = s.mem := rfl
@[simp] theorem modStream_sec (b k : Nat) (f : Stream → Stream) : (modStream b k f s).sec = s.sec := rfl
@[simp] theorem modStream_kw (b k : Nat) (f : Stream → Stream) : (modStream b k f s).kw = s.kw := rfl
@[simp] theorem modStream_arch (b k : Nat) (f : Stream → Stream) : (modStream b k f s).arch = s.arch := rfl
@[simp] theorem modStream_ras (b k : Nat) (f : Stream → Stream) : (modStream b k f s).ras = s.ras := rfl
@[simp] theorem modStream_plumb (b k : Nat) (f : Stream → Stream) : (modStream b k f s).plumb = s.plumb := rfl
@[simp] theorem modStream_rst (b k : Nat) (f : Stream → Stream) : (modStream b k f s).rst = s.rst := rfl
@[simp] theorem modStream_dump (b k : Nat) (f : Stream → Stream) : (modStream b k f s).dump = s.dump := rfl
@[simp] theorem modStream_irq (b k : Nat) (f : Stream → Stream) : (modStream b k f s).irq = s.irq := rfl
@[simp] theorem modStream_pwr (b k : Nat) (f : Stream → Stream) : (modStream b k f s).pwr = s.pwr := rfl
@[simp] theorem modStream_quoin (b k : Nat) (f : Stream → Stream) : (modStream b k f s).quoin = s.quoin := rfl
@[simp] theorem modStream_start (b k : Nat) (f : Stream → Stream) : (modStream b k f s).start = s.start := rfl
@[simp] theorem modStream_out (b k : Nat) (f : Stream → Stream) : (modStream b k f s).out = s.out := rfl
@[simp] theorem modStream_pending (b k : Nat) (f : Stream → Stream) : (modStream b k f s).pending = s.pending := rfl

/-! `modSlab` changes `bays` alone. -/
@[simp] theorem modSlab_hw (b k : Nat) (f : Slab → Slab) : (modSlab b k f s).hw = s.hw := rfl
@[simp] theorem modSlab_ident (b k : Nat) (f : Slab → Slab) : (modSlab b k f s).ident = s.ident := rfl
@[simp] theorem modSlab_foot (b k : Nat) (f : Slab → Slab) : (modSlab b k f s).foot = s.foot := rfl
@[simp] theorem modSlab_fw (b k : Nat) (f : Slab → Slab) : (modSlab b k f s).fw = s.fw := rfl
@[simp] theorem modSlab_boxes (b k : Nat) (f : Slab → Slab) : (modSlab b k f s).boxes = s.boxes := rfl
@[simp] theorem modSlab_lift (b k : Nat) (f : Slab → Slab) : (modSlab b k f s).lift = s.lift := rfl
@[simp] theorem modSlab_stat (b k : Nat) (f : Slab → Slab) : (modSlab b k f s).stat = s.stat := rfl
@[simp] theorem modSlab_grid (b k : Nat) (f : Slab → Slab) : (modSlab b k f s).grid = s.grid := rfl
@[simp] theorem modSlab_cmds (b k : Nat) (f : Slab → Slab) : (modSlab b k f s).cmds = s.cmds := rfl
@[simp] theorem modSlab_dev (b k : Nat) (f : Slab → Slab) : (modSlab b k f s).dev = s.dev := rfl
@[simp] theorem modSlab_mem (b k : Nat) (f : Slab → Slab) : (modSlab b k f s).mem = s.mem := rfl
@[simp] theorem modSlab_sec (b k : Nat) (f : Slab → Slab) : (modSlab b k f s).sec = s.sec := rfl
@[simp] theorem modSlab_kw (b k : Nat) (f : Slab → Slab) : (modSlab b k f s).kw = s.kw := rfl
@[simp] theorem modSlab_arch (b k : Nat) (f : Slab → Slab) : (modSlab b k f s).arch = s.arch := rfl
@[simp] theorem modSlab_ras (b k : Nat) (f : Slab → Slab) : (modSlab b k f s).ras = s.ras := rfl
@[simp] theorem modSlab_plumb (b k : Nat) (f : Slab → Slab) : (modSlab b k f s).plumb = s.plumb := rfl
@[simp] theorem modSlab_rst (b k : Nat) (f : Slab → Slab) : (modSlab b k f s).rst = s.rst := rfl
@[simp] theorem modSlab_dump (b k : Nat) (f : Slab → Slab) : (modSlab b k f s).dump = s.dump := rfl
@[simp] theorem modSlab_irq (b k : Nat) (f : Slab → Slab) : (modSlab b k f s).irq = s.irq := rfl
@[simp] theorem modSlab_pwr (b k : Nat) (f : Slab → Slab) : (modSlab b k f s).pwr = s.pwr := rfl
@[simp] theorem modSlab_quoin (b k : Nat) (f : Slab → Slab) : (modSlab b k f s).quoin = s.quoin := rfl
@[simp] theorem modSlab_start (b k : Nat) (f : Slab → Slab) : (modSlab b k f s).start = s.start := rfl
@[simp] theorem modSlab_out (b k : Nat) (f : Slab → Slab) : (modSlab b k f s).out = s.out := rfl
@[simp] theorem modSlab_pending (b k : Nat) (f : Slab → Slab) : (modSlab b k f s).pending = s.pending := rfl

/-! `modKw` changes `kw` alone. -/
@[simp] theorem modKw_hw (p : Nat) (f : Port → Port) : (modKw p f s).hw = s.hw := rfl
@[simp] theorem modKw_ident (p : Nat) (f : Port → Port) : (modKw p f s).ident = s.ident := rfl
@[simp] theorem modKw_foot (p : Nat) (f : Port → Port) : (modKw p f s).foot = s.foot := rfl
@[simp] theorem modKw_fw (p : Nat) (f : Port → Port) : (modKw p f s).fw = s.fw := rfl
@[simp] theorem modKw_boxes (p : Nat) (f : Port → Port) : (modKw p f s).boxes = s.boxes := rfl
@[simp] theorem modKw_lift (p : Nat) (f : Port → Port) : (modKw p f s).lift = s.lift := rfl
@[simp] theorem modKw_stat (p : Nat) (f : Port → Port) : (modKw p f s).stat = s.stat := rfl
@[simp] theorem modKw_grid (p : Nat) (f : Port → Port) : (modKw p f s).grid = s.grid := rfl
@[simp] theorem modKw_cmds (p : Nat) (f : Port → Port) : (modKw p f s).cmds = s.cmds := rfl
@[simp] theorem modKw_bays (p : Nat) (f : Port → Port) : (modKw p f s).bays = s.bays := rfl
@[simp] theorem modKw_dev (p : Nat) (f : Port → Port) : (modKw p f s).dev = s.dev := rfl
@[simp] theorem modKw_mem (p : Nat) (f : Port → Port) : (modKw p f s).mem = s.mem := rfl
@[simp] theorem modKw_sec (p : Nat) (f : Port → Port) : (modKw p f s).sec = s.sec := rfl
@[simp] theorem modKw_arch (p : Nat) (f : Port → Port) : (modKw p f s).arch = s.arch := rfl
@[simp] theorem modKw_ras (p : Nat) (f : Port → Port) : (modKw p f s).ras = s.ras := rfl
@[simp] theorem modKw_plumb (p : Nat) (f : Port → Port) : (modKw p f s).plumb = s.plumb := rfl
@[simp] theorem modKw_rst (p : Nat) (f : Port → Port) : (modKw p f s).rst = s.rst := rfl
@[simp] theorem modKw_dump (p : Nat) (f : Port → Port) : (modKw p f s).dump = s.dump := rfl
@[simp] theorem modKw_irq (p : Nat) (f : Port → Port) : (modKw p f s).irq = s.irq := rfl
@[simp] theorem modKw_pwr (p : Nat) (f : Port → Port) : (modKw p f s).pwr = s.pwr := rfl
@[simp] theorem modKw_quoin (p : Nat) (f : Port → Port) : (modKw p f s).quoin = s.quoin := rfl
@[simp] theorem modKw_start (p : Nat) (f : Port → Port) : (modKw p f s).start = s.start := rfl
@[simp] theorem modKw_out (p : Nat) (f : Port → Port) : (modKw p f s).out = s.out := rfl
@[simp] theorem modKw_pending (p : Nat) (f : Port → Port) : (modKw p f s).pending = s.pending := rfl

/-! `modQp` changes `quoin` alone. -/
@[simp] theorem modQp_hw (p : Nat) (f : QPort → QPort) : (modQp p f s).hw = s.hw := rfl
@[simp] theorem modQp_ident (p : Nat) (f : QPort → QPort) : (modQp p f s).ident = s.ident := rfl
@[simp] theorem modQp_foot (p : Nat) (f : QPort → QPort) : (modQp p f s).foot = s.foot := rfl
@[simp] theorem modQp_fw (p : Nat) (f : QPort → QPort) : (modQp p f s).fw = s.fw := rfl
@[simp] theorem modQp_boxes (p : Nat) (f : QPort → QPort) : (modQp p f s).boxes = s.boxes := rfl
@[simp] theorem modQp_lift (p : Nat) (f : QPort → QPort) : (modQp p f s).lift = s.lift := rfl
@[simp] theorem modQp_stat (p : Nat) (f : QPort → QPort) : (modQp p f s).stat = s.stat := rfl
@[simp] theorem modQp_grid (p : Nat) (f : QPort → QPort) : (modQp p f s).grid = s.grid := rfl
@[simp] theorem modQp_cmds (p : Nat) (f : QPort → QPort) : (modQp p f s).cmds = s.cmds := rfl
@[simp] theorem modQp_bays (p : Nat) (f : QPort → QPort) : (modQp p f s).bays = s.bays := rfl
@[simp] theorem modQp_dev (p : Nat) (f : QPort → QPort) : (modQp p f s).dev = s.dev := rfl
@[simp] theorem modQp_mem (p : Nat) (f : QPort → QPort) : (modQp p f s).mem = s.mem := rfl
@[simp] theorem modQp_sec (p : Nat) (f : QPort → QPort) : (modQp p f s).sec = s.sec := rfl
@[simp] theorem modQp_kw (p : Nat) (f : QPort → QPort) : (modQp p f s).kw = s.kw := rfl
@[simp] theorem modQp_arch (p : Nat) (f : QPort → QPort) : (modQp p f s).arch = s.arch := rfl
@[simp] theorem modQp_ras (p : Nat) (f : QPort → QPort) : (modQp p f s).ras = s.ras := rfl
@[simp] theorem modQp_plumb (p : Nat) (f : QPort → QPort) : (modQp p f s).plumb = s.plumb := rfl
@[simp] theorem modQp_rst (p : Nat) (f : QPort → QPort) : (modQp p f s).rst = s.rst := rfl
@[simp] theorem modQp_dump (p : Nat) (f : QPort → QPort) : (modQp p f s).dump = s.dump := rfl
@[simp] theorem modQp_irq (p : Nat) (f : QPort → QPort) : (modQp p f s).irq = s.irq := rfl
@[simp] theorem modQp_pwr (p : Nat) (f : QPort → QPort) : (modQp p f s).pwr = s.pwr := rfl
@[simp] theorem modQp_start (p : Nat) (f : QPort → QPort) : (modQp p f s).start = s.start := rfl
@[simp] theorem modQp_out (p : Nat) (f : QPort → QPort) : (modQp p f s).out = s.out := rfl
@[simp] theorem modQp_pending (p : Nat) (f : QPort → QPort) : (modQp p f s).pending = s.pending := rfl

/-! `modMbx` changes `boxes` alone. -/
@[simp] theorem modMbx_hw (x : Nat) (f : Mbx → Mbx) : (modMbx x f s).hw = s.hw := rfl
@[simp] theorem modMbx_ident (x : Nat) (f : Mbx → Mbx) : (modMbx x f s).ident = s.ident := rfl
@[simp] theorem modMbx_foot (x : Nat) (f : Mbx → Mbx) : (modMbx x f s).foot = s.foot := rfl
@[simp] theorem modMbx_fw (x : Nat) (f : Mbx → Mbx) : (modMbx x f s).fw = s.fw := rfl
@[simp] theorem modMbx_lift (x : Nat) (f : Mbx → Mbx) : (modMbx x f s).lift = s.lift := rfl
@[simp] theorem modMbx_stat (x : Nat) (f : Mbx → Mbx) : (modMbx x f s).stat = s.stat := rfl
@[simp] theorem modMbx_grid (x : Nat) (f : Mbx → Mbx) : (modMbx x f s).grid = s.grid := rfl
@[simp] theorem modMbx_cmds (x : Nat) (f : Mbx → Mbx) : (modMbx x f s).cmds = s.cmds := rfl
@[simp] theorem modMbx_bays (x : Nat) (f : Mbx → Mbx) : (modMbx x f s).bays = s.bays := rfl
@[simp] theorem modMbx_dev (x : Nat) (f : Mbx → Mbx) : (modMbx x f s).dev = s.dev := rfl
@[simp] theorem modMbx_mem (x : Nat) (f : Mbx → Mbx) : (modMbx x f s).mem = s.mem := rfl
@[simp] theorem modMbx_sec (x : Nat) (f : Mbx → Mbx) : (modMbx x f s).sec = s.sec := rfl
@[simp] theorem modMbx_kw (x : Nat) (f : Mbx → Mbx) : (modMbx x f s).kw = s.kw := rfl
@[simp] theorem modMbx_arch (x : Nat) (f : Mbx → Mbx) : (modMbx x f s).arch = s.arch := rfl
@[simp] theorem modMbx_ras (x : Nat) (f : Mbx → Mbx) : (modMbx x f s).ras = s.ras := rfl
@[simp] theorem modMbx_plumb (x : Nat) (f : Mbx → Mbx) : (modMbx x f s).plumb = s.plumb := rfl
@[simp] theorem modMbx_rst (x : Nat) (f : Mbx → Mbx) : (modMbx x f s).rst = s.rst := rfl
@[simp] theorem modMbx_dump (x : Nat) (f : Mbx → Mbx) : (modMbx x f s).dump = s.dump := rfl
@[simp] theorem modMbx_irq (x : Nat) (f : Mbx → Mbx) : (modMbx x f s).irq = s.irq := rfl
@[simp] theorem modMbx_pwr (x : Nat) (f : Mbx → Mbx) : (modMbx x f s).pwr = s.pwr := rfl
@[simp] theorem modMbx_quoin (x : Nat) (f : Mbx → Mbx) : (modMbx x f s).quoin = s.quoin := rfl
@[simp] theorem modMbx_start (x : Nat) (f : Mbx → Mbx) : (modMbx x f s).start = s.start := rfl
@[simp] theorem modMbx_out (x : Nat) (f : Mbx → Mbx) : (modMbx x f s).out = s.out := rfl
@[simp] theorem modMbx_pending (x : Nat) (f : Mbx → Mbx) : (modMbx x f s).pending = s.pending := rfl

/-! `modTdi` changes `sec` alone. -/
@[simp] theorem modTdi_hw (b : Nat) (f : Tdi → Tdi) : (modTdi b f s).hw = s.hw := rfl
@[simp] theorem modTdi_ident (b : Nat) (f : Tdi → Tdi) : (modTdi b f s).ident = s.ident := rfl
@[simp] theorem modTdi_foot (b : Nat) (f : Tdi → Tdi) : (modTdi b f s).foot = s.foot := rfl
@[simp] theorem modTdi_fw (b : Nat) (f : Tdi → Tdi) : (modTdi b f s).fw = s.fw := rfl
@[simp] theorem modTdi_boxes (b : Nat) (f : Tdi → Tdi) : (modTdi b f s).boxes = s.boxes := rfl
@[simp] theorem modTdi_lift (b : Nat) (f : Tdi → Tdi) : (modTdi b f s).lift = s.lift := rfl
@[simp] theorem modTdi_stat (b : Nat) (f : Tdi → Tdi) : (modTdi b f s).stat = s.stat := rfl
@[simp] theorem modTdi_grid (b : Nat) (f : Tdi → Tdi) : (modTdi b f s).grid = s.grid := rfl
@[simp] theorem modTdi_cmds (b : Nat) (f : Tdi → Tdi) : (modTdi b f s).cmds = s.cmds := rfl
@[simp] theorem modTdi_bays (b : Nat) (f : Tdi → Tdi) : (modTdi b f s).bays = s.bays := rfl
@[simp] theorem modTdi_dev (b : Nat) (f : Tdi → Tdi) : (modTdi b f s).dev = s.dev := rfl
@[simp] theorem modTdi_mem (b : Nat) (f : Tdi → Tdi) : (modTdi b f s).mem = s.mem := rfl
@[simp] theorem modTdi_kw (b : Nat) (f : Tdi → Tdi) : (modTdi b f s).kw = s.kw := rfl
@[simp] theorem modTdi_arch (b : Nat) (f : Tdi → Tdi) : (modTdi b f s).arch = s.arch := rfl
@[simp] theorem modTdi_ras (b : Nat) (f : Tdi → Tdi) : (modTdi b f s).ras = s.ras := rfl
@[simp] theorem modTdi_plumb (b : Nat) (f : Tdi → Tdi) : (modTdi b f s).plumb = s.plumb := rfl
@[simp] theorem modTdi_rst (b : Nat) (f : Tdi → Tdi) : (modTdi b f s).rst = s.rst := rfl
@[simp] theorem modTdi_dump (b : Nat) (f : Tdi → Tdi) : (modTdi b f s).dump = s.dump := rfl
@[simp] theorem modTdi_irq (b : Nat) (f : Tdi → Tdi) : (modTdi b f s).irq = s.irq := rfl
@[simp] theorem modTdi_pwr (b : Nat) (f : Tdi → Tdi) : (modTdi b f s).pwr = s.pwr := rfl
@[simp] theorem modTdi_quoin (b : Nat) (f : Tdi → Tdi) : (modTdi b f s).quoin = s.quoin := rfl
@[simp] theorem modTdi_start (b : Nat) (f : Tdi → Tdi) : (modTdi b f s).start = s.start := rfl
@[simp] theorem modTdi_out (b : Nat) (f : Tdi → Tdi) : (modTdi b f s).out = s.out := rfl
@[simp] theorem modTdi_pending (b : Nat) (f : Tdi → Tdi) : (modTdi b f s).pending = s.pending := rfl

/-! `modIde` changes `sec` alone. -/
@[simp] theorem modIde_hw (k : Nat) (f : Ide → Ide) : (modIde k f s).hw = s.hw := rfl
@[simp] theorem modIde_ident (k : Nat) (f : Ide → Ide) : (modIde k f s).ident = s.ident := rfl
@[simp] theorem modIde_foot (k : Nat) (f : Ide → Ide) : (modIde k f s).foot = s.foot := rfl
@[simp] theorem modIde_fw (k : Nat) (f : Ide → Ide) : (modIde k f s).fw = s.fw := rfl
@[simp] theorem modIde_boxes (k : Nat) (f : Ide → Ide) : (modIde k f s).boxes = s.boxes := rfl
@[simp] theorem modIde_lift (k : Nat) (f : Ide → Ide) : (modIde k f s).lift = s.lift := rfl
@[simp] theorem modIde_stat (k : Nat) (f : Ide → Ide) : (modIde k f s).stat = s.stat := rfl
@[simp] theorem modIde_grid (k : Nat) (f : Ide → Ide) : (modIde k f s).grid = s.grid := rfl
@[simp] theorem modIde_cmds (k : Nat) (f : Ide → Ide) : (modIde k f s).cmds = s.cmds := rfl
@[simp] theorem modIde_bays (k : Nat) (f : Ide → Ide) : (modIde k f s).bays = s.bays := rfl
@[simp] theorem modIde_dev (k : Nat) (f : Ide → Ide) : (modIde k f s).dev = s.dev := rfl
@[simp] theorem modIde_mem (k : Nat) (f : Ide → Ide) : (modIde k f s).mem = s.mem := rfl
@[simp] theorem modIde_kw (k : Nat) (f : Ide → Ide) : (modIde k f s).kw = s.kw := rfl
@[simp] theorem modIde_arch (k : Nat) (f : Ide → Ide) : (modIde k f s).arch = s.arch := rfl
@[simp] theorem modIde_ras (k : Nat) (f : Ide → Ide) : (modIde k f s).ras = s.ras := rfl
@[simp] theorem modIde_plumb (k : Nat) (f : Ide → Ide) : (modIde k f s).plumb = s.plumb := rfl
@[simp] theorem modIde_rst (k : Nat) (f : Ide → Ide) : (modIde k f s).rst = s.rst := rfl
@[simp] theorem modIde_dump (k : Nat) (f : Ide → Ide) : (modIde k f s).dump = s.dump := rfl
@[simp] theorem modIde_irq (k : Nat) (f : Ide → Ide) : (modIde k f s).irq = s.irq := rfl
@[simp] theorem modIde_pwr (k : Nat) (f : Ide → Ide) : (modIde k f s).pwr = s.pwr := rfl
@[simp] theorem modIde_quoin (k : Nat) (f : Ide → Ide) : (modIde k f s).quoin = s.quoin := rfl
@[simp] theorem modIde_start (k : Nat) (f : Ide → Ide) : (modIde k f s).start = s.start := rfl
@[simp] theorem modIde_out (k : Nat) (f : Ide → Ide) : (modIde k f s).out = s.out := rfl
@[simp] theorem modIde_pending (k : Nat) (f : Ide → Ide) : (modIde k f s).pending = s.pending := rfl

/-! `modCmd` changes `cmds` alone. -/
@[simp] theorem modCmd_hw (c : Nat) (f : Cmd → Cmd) : (modCmd c f s).hw = s.hw := by
  unfold modCmd; split <;> rfl
@[simp] theorem modCmd_ident (c : Nat) (f : Cmd → Cmd) : (modCmd c f s).ident = s.ident := by
  unfold modCmd; split <;> rfl
@[simp] theorem modCmd_foot (c : Nat) (f : Cmd → Cmd) : (modCmd c f s).foot = s.foot := by
  unfold modCmd; split <;> rfl
@[simp] theorem modCmd_fw (c : Nat) (f : Cmd → Cmd) : (modCmd c f s).fw = s.fw := by
  unfold modCmd; split <;> rfl
@[simp] theorem modCmd_boxes (c : Nat) (f : Cmd → Cmd) : (modCmd c f s).boxes = s.boxes := by
  unfold modCmd; split <;> rfl
@[simp] theorem modCmd_lift (c : Nat) (f : Cmd → Cmd) : (modCmd c f s).lift = s.lift := by
  unfold modCmd; split <;> rfl
@[simp] theorem modCmd_stat (c : Nat) (f : Cmd → Cmd) : (modCmd c f s).stat = s.stat := by
  unfold modCmd; split <;> rfl
@[simp] theorem modCmd_grid (c : Nat) (f : Cmd → Cmd) : (modCmd c f s).grid = s.grid := by
  unfold modCmd; split <;> rfl
@[simp] theorem modCmd_bays (c : Nat) (f : Cmd → Cmd) : (modCmd c f s).bays = s.bays := by
  unfold modCmd; split <;> rfl
@[simp] theorem modCmd_dev (c : Nat) (f : Cmd → Cmd) : (modCmd c f s).dev = s.dev := by
  unfold modCmd; split <;> rfl
@[simp] theorem modCmd_mem (c : Nat) (f : Cmd → Cmd) : (modCmd c f s).mem = s.mem := by
  unfold modCmd; split <;> rfl
@[simp] theorem modCmd_sec (c : Nat) (f : Cmd → Cmd) : (modCmd c f s).sec = s.sec := by
  unfold modCmd; split <;> rfl
@[simp] theorem modCmd_kw (c : Nat) (f : Cmd → Cmd) : (modCmd c f s).kw = s.kw := by
  unfold modCmd; split <;> rfl
@[simp] theorem modCmd_arch (c : Nat) (f : Cmd → Cmd) : (modCmd c f s).arch = s.arch := by
  unfold modCmd; split <;> rfl
@[simp] theorem modCmd_ras (c : Nat) (f : Cmd → Cmd) : (modCmd c f s).ras = s.ras := by
  unfold modCmd; split <;> rfl
@[simp] theorem modCmd_plumb (c : Nat) (f : Cmd → Cmd) : (modCmd c f s).plumb = s.plumb := by
  unfold modCmd; split <;> rfl
@[simp] theorem modCmd_rst (c : Nat) (f : Cmd → Cmd) : (modCmd c f s).rst = s.rst := by
  unfold modCmd; split <;> rfl
@[simp] theorem modCmd_dump (c : Nat) (f : Cmd → Cmd) : (modCmd c f s).dump = s.dump := by
  unfold modCmd; split <;> rfl
@[simp] theorem modCmd_irq (c : Nat) (f : Cmd → Cmd) : (modCmd c f s).irq = s.irq := by
  unfold modCmd; split <;> rfl
@[simp] theorem modCmd_pwr (c : Nat) (f : Cmd → Cmd) : (modCmd c f s).pwr = s.pwr := by
  unfold modCmd; split <;> rfl
@[simp] theorem modCmd_quoin (c : Nat) (f : Cmd → Cmd) : (modCmd c f s).quoin = s.quoin := by
  unfold modCmd; split <;> rfl
@[simp] theorem modCmd_start (c : Nat) (f : Cmd → Cmd) : (modCmd c f s).start = s.start := by
  unfold modCmd; split <;> rfl
@[simp] theorem modCmd_out (c : Nat) (f : Cmd → Cmd) : (modCmd c f s).out = s.out := by
  unfold modCmd; split <;> rfl
@[simp] theorem modCmd_pending (c : Nat) (f : Cmd → Cmd) : (modCmd c f s).pending = s.pending := by
  unfold modCmd; split <;> rfl

/-! `modQueue` changes `bays` alone. -/
@[simp] theorem modQueue_hw (b q : Nat) (f : Queue → Queue) : (modQueue b q f s).hw = s.hw := by
  unfold modQueue; split <;> rfl
@[simp] theorem modQueue_ident (b q : Nat) (f : Queue → Queue) : (modQueue b q f s).ident = s.ident := by
  unfold modQueue; split <;> rfl
@[simp] theorem modQueue_foot (b q : Nat) (f : Queue → Queue) : (modQueue b q f s).foot = s.foot := by
  unfold modQueue; split <;> rfl
@[simp] theorem modQueue_fw (b q : Nat) (f : Queue → Queue) : (modQueue b q f s).fw = s.fw := by
  unfold modQueue; split <;> rfl
@[simp] theorem modQueue_boxes (b q : Nat) (f : Queue → Queue) : (modQueue b q f s).boxes = s.boxes := by
  unfold modQueue; split <;> rfl
@[simp] theorem modQueue_lift (b q : Nat) (f : Queue → Queue) : (modQueue b q f s).lift = s.lift := by
  unfold modQueue; split <;> rfl
@[simp] theorem modQueue_stat (b q : Nat) (f : Queue → Queue) : (modQueue b q f s).stat = s.stat := by
  unfold modQueue; split <;> rfl
@[simp] theorem modQueue_grid (b q : Nat) (f : Queue → Queue) : (modQueue b q f s).grid = s.grid := by
  unfold modQueue; split <;> rfl
@[simp] theorem modQueue_cmds (b q : Nat) (f : Queue → Queue) : (modQueue b q f s).cmds = s.cmds := by
  unfold modQueue; split <;> rfl
@[simp] theorem modQueue_dev (b q : Nat) (f : Queue → Queue) : (modQueue b q f s).dev = s.dev := by
  unfold modQueue; split <;> rfl
@[simp] theorem modQueue_mem (b q : Nat) (f : Queue → Queue) : (modQueue b q f s).mem = s.mem := by
  unfold modQueue; split <;> rfl
@[simp] theorem modQueue_sec (b q : Nat) (f : Queue → Queue) : (modQueue b q f s).sec = s.sec := by
  unfold modQueue; split <;> rfl
@[simp] theorem modQueue_kw (b q : Nat) (f : Queue → Queue) : (modQueue b q f s).kw = s.kw := by
  unfold modQueue; split <;> rfl
@[simp] theorem modQueue_arch (b q : Nat) (f : Queue → Queue) : (modQueue b q f s).arch = s.arch := by
  unfold modQueue; split <;> rfl
@[simp] theorem modQueue_ras (b q : Nat) (f : Queue → Queue) : (modQueue b q f s).ras = s.ras := by
  unfold modQueue; split <;> rfl
@[simp] theorem modQueue_plumb (b q : Nat) (f : Queue → Queue) : (modQueue b q f s).plumb = s.plumb := by
  unfold modQueue; split <;> rfl
@[simp] theorem modQueue_rst (b q : Nat) (f : Queue → Queue) : (modQueue b q f s).rst = s.rst := by
  unfold modQueue; split <;> rfl
@[simp] theorem modQueue_dump (b q : Nat) (f : Queue → Queue) : (modQueue b q f s).dump = s.dump := by
  unfold modQueue; split <;> rfl
@[simp] theorem modQueue_irq (b q : Nat) (f : Queue → Queue) : (modQueue b q f s).irq = s.irq := by
  unfold modQueue; split <;> rfl
@[simp] theorem modQueue_pwr (b q : Nat) (f : Queue → Queue) : (modQueue b q f s).pwr = s.pwr := by
  unfold modQueue; split <;> rfl
@[simp] theorem modQueue_quoin (b q : Nat) (f : Queue → Queue) : (modQueue b q f s).quoin = s.quoin := by
  unfold modQueue; split <;> rfl
@[simp] theorem modQueue_start (b q : Nat) (f : Queue → Queue) : (modQueue b q f s).start = s.start := by
  unfold modQueue; split <;> rfl
@[simp] theorem modQueue_out (b q : Nat) (f : Queue → Queue) : (modQueue b q f s).out = s.out := by
  unfold modQueue; split <;> rfl
@[simp] theorem modQueue_pending (b q : Nat) (f : Queue → Queue) : (modQueue b q f s).pending = s.pending := by
  unfold modQueue; split <;> rfl

/-! `modExtent` changes `bays` alone. -/
@[simp] theorem modExtent_hw (b e : Nat) (f : Extent → Extent) : (modExtent b e f s).hw = s.hw := by
  unfold modExtent; split <;> rfl
@[simp] theorem modExtent_ident (b e : Nat) (f : Extent → Extent) : (modExtent b e f s).ident = s.ident := by
  unfold modExtent; split <;> rfl
@[simp] theorem modExtent_foot (b e : Nat) (f : Extent → Extent) : (modExtent b e f s).foot = s.foot := by
  unfold modExtent; split <;> rfl
@[simp] theorem modExtent_fw (b e : Nat) (f : Extent → Extent) : (modExtent b e f s).fw = s.fw := by
  unfold modExtent; split <;> rfl
@[simp] theorem modExtent_boxes (b e : Nat) (f : Extent → Extent) : (modExtent b e f s).boxes = s.boxes := by
  unfold modExtent; split <;> rfl
@[simp] theorem modExtent_lift (b e : Nat) (f : Extent → Extent) : (modExtent b e f s).lift = s.lift := by
  unfold modExtent; split <;> rfl
@[simp] theorem modExtent_stat (b e : Nat) (f : Extent → Extent) : (modExtent b e f s).stat = s.stat := by
  unfold modExtent; split <;> rfl
@[simp] theorem modExtent_grid (b e : Nat) (f : Extent → Extent) : (modExtent b e f s).grid = s.grid := by
  unfold modExtent; split <;> rfl
@[simp] theorem modExtent_cmds (b e : Nat) (f : Extent → Extent) : (modExtent b e f s).cmds = s.cmds := by
  unfold modExtent; split <;> rfl
@[simp] theorem modExtent_dev (b e : Nat) (f : Extent → Extent) : (modExtent b e f s).dev = s.dev := by
  unfold modExtent; split <;> rfl
@[simp] theorem modExtent_mem (b e : Nat) (f : Extent → Extent) : (modExtent b e f s).mem = s.mem := by
  unfold modExtent; split <;> rfl
@[simp] theorem modExtent_sec (b e : Nat) (f : Extent → Extent) : (modExtent b e f s).sec = s.sec := by
  unfold modExtent; split <;> rfl
@[simp] theorem modExtent_kw (b e : Nat) (f : Extent → Extent) : (modExtent b e f s).kw = s.kw := by
  unfold modExtent; split <;> rfl
@[simp] theorem modExtent_arch (b e : Nat) (f : Extent → Extent) : (modExtent b e f s).arch = s.arch := by
  unfold modExtent; split <;> rfl
@[simp] theorem modExtent_ras (b e : Nat) (f : Extent → Extent) : (modExtent b e f s).ras = s.ras := by
  unfold modExtent; split <;> rfl
@[simp] theorem modExtent_plumb (b e : Nat) (f : Extent → Extent) : (modExtent b e f s).plumb = s.plumb := by
  unfold modExtent; split <;> rfl
@[simp] theorem modExtent_rst (b e : Nat) (f : Extent → Extent) : (modExtent b e f s).rst = s.rst := by
  unfold modExtent; split <;> rfl
@[simp] theorem modExtent_dump (b e : Nat) (f : Extent → Extent) : (modExtent b e f s).dump = s.dump := by
  unfold modExtent; split <;> rfl
@[simp] theorem modExtent_irq (b e : Nat) (f : Extent → Extent) : (modExtent b e f s).irq = s.irq := by
  unfold modExtent; split <;> rfl
@[simp] theorem modExtent_pwr (b e : Nat) (f : Extent → Extent) : (modExtent b e f s).pwr = s.pwr := by
  unfold modExtent; split <;> rfl
@[simp] theorem modExtent_quoin (b e : Nat) (f : Extent → Extent) : (modExtent b e f s).quoin = s.quoin := by
  unfold modExtent; split <;> rfl
@[simp] theorem modExtent_start (b e : Nat) (f : Extent → Extent) : (modExtent b e f s).start = s.start := by
  unfold modExtent; split <;> rfl
@[simp] theorem modExtent_out (b e : Nat) (f : Extent → Extent) : (modExtent b e f s).out = s.out := by
  unfold modExtent; split <;> rfl
@[simp] theorem modExtent_pending (b e : Nat) (f : Extent → Extent) : (modExtent b e f s).pending = s.pending := by
  unfold modExtent; split <;> rfl

end Sys2Proof.Machine
end

