-- ==== Sys2Proof/Laws/Tables.lean ====
section
/-! SUPPORT. Sparse tables and byte memories: a read after a write, and the canonical form every memory operation keeps. -/
namespace Sys2Proof.Machine

/-! ## Tables -/

@[simp] theorem tget_nil {α : Type} (k : Nat) : tget k ([] : Tbl α) = none := rfl

theorem tget_cons {α : Type} (k j : Nat) (v : α) (t : Tbl α) : tget k ((j, v) :: t) = if j = k then some v else tget k t := rfl

@[simp] theorem tget_tput_same {α : Type} (k : Nat) (v : α) (t : Tbl α) : tget k (tput k v t) = some v := by
  induction t with
  | nil => simp [tput, tget]
  | cons e t ih =>
    obtain ⟨j, w⟩ := e
    unfold tput
    split
    · rw [tget_cons, if_neg (by omega), ih]
    · split <;> simp [tget_cons]

theorem tget_tput_ne {α : Type} {k j : Nat} (h : j ≠ k) (v : α) (t : Tbl α) : tget j (tput k v t) = tget j t := by
  induction t with
  | nil => simp [tput, tget_cons, Ne.symm h]
  | cons e t ih =>
    obtain ⟨i, w⟩ := e
    unfold tput
    split
    · simp only [tget_cons, ih]
    · split
      · next h1 => subst h1; simp [tget_cons, Ne.symm h]
      · simp [tget_cons, Ne.symm h]

theorem tget_tput {α : Type} (k j : Nat) (v : α) (t : Tbl α) : tget j (tput k v t) = if j = k then some v else tget j t := by
  split
  · next h => subst h; simp
  · next h => exact tget_tput_ne h v t

@[simp] theorem tget_tdrop_same {α : Type} (k : Nat) (t : Tbl α) : tget k (tdrop k t) = none := by
  induction t with
  | nil => rfl
  | cons e t ih =>
    obtain ⟨j, w⟩ := e
    unfold tdrop
    split
    · exact ih
    · next h => rw [tget_cons, if_neg h, ih]

theorem tget_tdrop_ne {α : Type} {k j : Nat} (h : j ≠ k) (t : Tbl α) : tget j (tdrop k t) = tget j t := by
  induction t with
  | nil => rfl
  | cons e t ih =>
    obtain ⟨i, w⟩ := e
    unfold tdrop
    split
    · next h1 => subst h1; rw [ih, tget_cons, if_neg (Ne.symm h)]
    · simp only [tget_cons, ih]

theorem tget_tmod {α : Type} (k j : Nat) (d : α) (f : α → α) (t : Tbl α) :
    tget j (tmod k d f t) = if j = k then some (f (tgetD k t d)) else tget j t := tget_tput k j _ t

/-! ## Byte memories -/

@[simp] theorem mget_mput_same (a : Nat) (b : Byte) (m : Mem) : mget (mput a b m) a = b := by
  unfold mput
  split
  · next h => simp [mget, tgetD, h]
  · simp [mget, tgetD]

theorem mget_mput_ne {a c : Nat} (h : c ≠ a) (b : Byte) (m : Mem) : mget (mput a b m) c = mget m c := by
  unfold mput
  split
  · simp [mget, tgetD, tget_tdrop_ne h]
  · simp [mget, tgetD, tget_tput_ne h]

/-- A run of bytes is read where it was written, and every other byte is as before. -/
theorem mget_mputs (a : Nat) (bs : List Byte) (m : Mem) (c : Nat) :
    mget (mputs a bs m) c = if a ≤ c ∧ c < a + bs.length then bs.getD (c - a) 0 else mget m c := by
  induction bs generalizing a m with
  | nil => rw [mputs, if_neg (by simp)]
  | cons b bs ih =>
    rw [mputs, ih]
    by_cases h : c = a
    · subst h
      rw [if_neg (by omega), if_pos (by simp)]
      simp
    · rw [mget_mput_ne h]
      by_cases h2 : a + 1 ≤ c ∧ c < a + 1 + bs.length
      · rw [if_pos h2, if_pos (by simp; omega)]
        obtain ⟨d, hd⟩ : ∃ d, c - a = d + 1 := ⟨c - a - 1, by omega⟩
        rw [hd, show c - (a + 1) = d by omega]
        simp
      · rw [if_neg h2, if_neg (by simp; omega)]

/-! ## The canonical form -/

/-- The first key of a memory lies above `n`. -/
def above (n : Nat) : Mem → Bool
  | [] => true
  | (a, _) :: _ => decide (n < a)

theorem wf_cons (a : Nat) (b : Byte) (m : Mem) : Memory.wf ((a, b) :: m) = (b != 0 && above a m && Memory.wf m) := by
  cases m with
  | nil => simp [Memory.wf, above]
  | cons e t => obtain ⟨c, d⟩ := e; simp [Memory.wf, above]

theorem above_trans {n k : Nat} (h : n < k) {m : Mem} (hm : above k m = true) : above n m = true := by
  cases m with
  | nil => rfl
  | cons e t => obtain ⟨c, d⟩ := e; simp [above] at *; omega

theorem above_tput {n k : Nat} (h : n < k) (b : Byte) (m : Mem) (hm : above n m = true) : above n (tput k b m) = true := by
  cases m with
  | nil => simp [tput, above, h]
  | cons e t =>
    obtain ⟨c, d⟩ := e
    unfold tput
    split
    · simpa [above] using hm
    · split <;> simp [above, h]

theorem wf_tput (k : Nat) {b : Byte} (hb : (b != 0) = true) (m : Mem) (h : Memory.wf m = true) :
    Memory.wf (tput k b m) = true := by
  induction m with
  | nil => exact hb
  | cons e t ih =>
    obtain ⟨c, d⟩ := e
    rw [wf_cons] at h
    simp only [Bool.and_eq_true] at h
    unfold tput
    split
    · next hlt => rw [wf_cons, h.1.1, above_tput hlt b t h.1.2, ih h.2]; rfl
    · split
      · next he => subst he; rw [wf_cons, hb, h.1.2, h.2]; rfl
      · next h1 h2 =>
        rw [wf_cons, wf_cons, hb, h.1.1, h.1.2, h.2]
        simp only [above, Bool.true_and, Bool.and_true, decide_eq_true_eq]
        omega

theorem above_tdrop (n k : Nat) (m : Mem) (h : above n m = true) (hw : Memory.wf m = true) : above n (tdrop k m) = true := by
  induction m with
  | nil => rfl
  | cons e t ih =>
    obtain ⟨c, d⟩ := e
    rw [wf_cons] at hw
    simp only [Bool.and_eq_true] at hw
    unfold tdrop
    split
    · exact ih (above_trans (by simpa [above] using h) hw.1.2) hw.2
    · simpa [above] using h

theorem wf_tdrop (k : Nat) (m : Mem) (h : Memory.wf m = true) : Memory.wf (tdrop k m) = true := by
  induction m with
  | nil => rfl
  | cons e t ih =>
    obtain ⟨c, d⟩ := e
    rw [wf_cons] at h
    simp only [Bool.and_eq_true] at h
    unfold tdrop
    split
    · exact ih h.2
    · rw [wf_cons, h.1.1, above_tdrop c k t h.1.2 h.2, ih h.2]; rfl

theorem wf_mput (a : Nat) (b : Byte) (m : Mem) (h : Memory.wf m = true) : Memory.wf (mput a b m) = true := by
  unfold mput
  split
  · exact wf_tdrop a m h
  · next hb => exact wf_tput a (by simpa using hb) m h

theorem wf_mputs (a : Nat) (bs : List Byte) (m : Mem) (h : Memory.wf m = true) : Memory.wf (mputs a bs m) = true := by
  induction bs generalizing a m with
  | nil => exact h
  | cons b bs ih => exact ih _ _ (wf_mput a b m h)

theorem above_filter (n : Nat) (p : Nat × Byte → Bool) (m : Mem) (h : above n m = true) (hw : Memory.wf m = true) :
    above n (m.filter p) = true := by
  induction m with
  | nil => rfl
  | cons e t ih =>
    obtain ⟨c, d⟩ := e
    rw [wf_cons] at hw
    simp only [Bool.and_eq_true] at hw
    rw [List.filter_cons]
    split
    · simpa [above] using h
    · exact ih (above_trans (by simpa [above] using h) hw.1.2) hw.2

theorem wf_filter (p : Nat × Byte → Bool) (m : Mem) (h : Memory.wf m = true) : Memory.wf (m.filter p) = true := by
  induction m with
  | nil => rfl
  | cons e t ih =>
    obtain ⟨c, d⟩ := e
    rw [wf_cons] at h
    simp only [Bool.and_eq_true] at h
    rw [List.filter_cons]
    split
    · rw [wf_cons, h.1.1, above_filter c p t h.1.2 h.2, ih h.2]; rfl
    · exact ih h.2

theorem wf_mzero (a n : Nat) (m : Mem) (h : Memory.wf m = true) : Memory.wf (mzero a n m) = true := wf_filter _ m h

theorem wf_mpaste (a n : Nat) (src m : Mem) (h : Memory.wf m = true) : Memory.wf (mpaste a n src m) = true := by
  unfold mpaste
  generalize src.filter _ = l
  have h0 : Memory.wf (mzero a n m) = true := wf_mzero a n m h
  revert h0
  generalize mzero a n m = z
  intro h0
  induction l generalizing z with
  | nil => exact h0
  | cons e t ih => exact ih _ (wf_mput _ _ _ h0)

end Sys2Proof.Machine
end

