-- ==== Sys2Proof/Laws/Shared.lean ====
section
/-! SUPPORT. Said once for each shared operation: everything it can change. A lemma `f_changes` gives the state after `f` as the state
before with one or two groups replaced, so that every other group is seen to stay; `each_inv` carries a property through a run of
effects, and the `_wf` lemmas keep the canonical form of the memories. -/
namespace Sys2Proof.Machine

variable (s : State)

/-! ## Runs of effects -/

/-- What each effect of a run keeps, the run keeps. -/
theorem each_inv {α : Type} (P : State → Prop) (l : List α) (f : α → State → State) (h : ∀ x t, P t → P (f x t)) :
    ∀ t, P t → P (each l f t) := by
  unfold each
  induction l with
  | nil => exact fun t ht => ht
  | cons x l ih => exact fun t ht => ih _ (h x t ht)

/-- The same for a run that is a fold. -/
theorem foldl_inv {α : Type} (P : State → Prop) (l : List α) (f : State → α → State) (h : ∀ t x, P t → P (f t x)) :
    ∀ t, P t → P (l.foldl f t) := by
  induction l with
  | nil => exact fun t ht => ht
  | cons x l ih => exact fun t ht => ih _ (h t x ht)

/-- An effect under a condition happens or does not. -/
theorem onlyIf_cases (p : State → Bool) (f : State → State) : onlyIf p f s = f s ∧ p s = true ∨ onlyIf p f s = s ∧ p s = false := by
  unfold onlyIf
  cases h : p s <;> simp

/-! ## Interrupts, events and logs -/

theorem raise_changes (n : Nat) : raise n s = { s with irq := { s.irq with pend := (raise n s).irq.pend } } := by
  unfold raise; split <;> rfl

/-- A source that is not reserved is pending after it fires; a reserved one never (R519, R523). -/
theorem raise_pend (n : Nat) : (raise n s).irq.pend = if srcReserved s n then s.irq.pend else sput n s.irq.pend := by
  unfold raise; split <;> rfl

theorem mem_sput (n m : Nat) (l : List Nat) : m ∈ sput n l ↔ m = n ∨ m ∈ l := by
  induction l with
  | nil => simp [sput]
  | cons k t ih =>
    simp only [sput]
    split
    · simp only [List.mem_cons, ih]; tauto
    · split
      · next h => subst h; simp
      · simp

theorem mem_sdrop (n m : Nat) (l : List Nat) : m ∈ sdrop n l ↔ m ∈ l ∧ m ≠ n := by simp [sdrop]

theorem oweVector_changes (b v : Nat) : oweVector b v s = { s with irq := (oweVector b v s).irq } := by
  unfold oweVector; rw [raise_changes]

theorem bayEvent_changes (b code h w x : Nat) :
    bayEvent b code h w x s = { s with bays := (bayEvent b code h w x s).bays, irq := (bayEvent b code h w x s).irq } := by
  unfold bayEvent; rw [raise_changes]; rfl

theorem mgrEvent_changes (code h w x : Nat) :
    mgrEvent code h w x s = { s with dev := { s.dev with mgrEv := (mgrEvent code h w x s).dev.mgrEv }, irq := (mgrEvent code h w x s).irq } := by
  unfold mgrEvent; rw [raise_changes]

theorem rasRec_changes (kind cause bay cls space addr detail : Nat) :
    rasRec kind cause bay cls space addr detail s =
      { s with ras := { s.ras with log := (rasRec kind cause bay cls space addr detail s).ras.log }
               irq := (rasRec kind cause bay cls space addr detail s).irq } := by
  unfold rasRec; rw [raise_changes]

theorem plumbRec_changes (p : PlumbRec) :
    plumbRec p s = { s with plumb := { s.plumb with log := (plumbRec p s).plumb.log }, irq := (plumbRec p s).irq } := by
  unfold plumbRec; rw [raise_changes]

theorem resetRec_changes (domain trigger flags engine time lift duration : Nat) :
    resetRec domain trigger flags engine time lift duration s =
      { s with rst := { s.rst with log := (resetRec domain trigger flags engine time lift duration s).rst.log }
               irq := (resetRec domain trigger flags engine time lift duration s).irq } := by
  unfold resetRec; rw [raise_changes]

/-- A record moves prod on by one and takes the next sequence number (R333, R476). -/
@[simp] theorem ringPut_prod (n : Nat) (r : List Byte) (g : Ring) : (ringPut n r g).prod = (g.prod + 1) % 2 ^ 32 := rfl
@[simp] theorem ringPut_seq (n : Nat) (r : List Byte) (g : Ring) : (ringPut n r g).seq = g.seq + 1 := rfl
@[simp] theorem ringPut_cons (n : Nat) (r : List Byte) (g : Ring) : (ringPut n r g).cons = g.cons := rfl

theorem ceCorrect_changes (k : Nat) :
    ceCorrect k s = { s with ras := (ceCorrect k s).ras, irq := (ceCorrect k s).irq, out := (ceCorrect k s).out } := by
  unfold ceCorrect
  simp only
  split
  · rw [raise_changes, rasRec_changes]; rfl
  · rfl

theorem progress_changes (b : Nat) : progress b s = { s with bays := (progress b s).bays } := rfl

theorem emit_changes (o : Out) : emit o s = { s with out := { s.out with log := o :: s.out.log } } := rfl

/-! ## Mailboxes -/

theorem opEnd_changes (x i code : Nat) : opEnd x i code s = { s with boxes := (opEnd x i code s).boxes, irq := (opEnd x i code s).irq } := by
  unfold opEnd
  split
  · rfl
  · split
    · rfl
    · rw [raise_changes]; rfl

theorem endKind_changes (k : OpKind) (code : Nat) : endKind k code s = { s with boxes := (endKind k code s).boxes, irq := (endKind k code s).irq } := by
  unfold endKind
  split
  · exact opEnd_changes _ _ _ _
  · rfl

/-! ## Resets -/

theorem setWant_changes (full : Bool) (trigger : Nat) :
    setWant full trigger s = { s with rst := { s.rst with want := some (resetAt full trigger s) } } := rfl

theorem countCompute_changes (trigger : Nat) : countCompute trigger s = { s with rst := (countCompute trigger s).rst } := by
  unfold countCompute; split <;> rfl

theorem absorbTrigger_changes (trigger : Nat) :
    absorbTrigger trigger s = { s with rst := (absorbTrigger trigger s).rst, irq := (absorbTrigger trigger s).irq } := by
  unfold absorbTrigger
  simp only
  split
  · rw [setWant_changes, resetRec_changes, countCompute_changes]
  · rw [resetRec_changes, countCompute_changes]

/-- Whatever asks for a reset changes what is wanted, the log and histories, and the log's interrupt, nothing else. -/
theorem wantReset_changes (full : Bool) (trigger : Nat) :
    wantReset full trigger s = { s with rst := (wantReset full trigger s).rst, irq := (wantReset full trigger s).irq } := by
  unfold wantReset
  extract_lets on
  split_ifs
  · rfl
  · rfl
  · exact absorbTrigger_changes _ _
  · rfl
  · rfl

/-! ## Frames on the fabric -/

/-- A state that differs at most in the fabric side, interrupts and output. -/
abbrev FabricOnly (s t : State) : Prop := t = { s with kw := t.kw, irq := t.irq, out := t.out }

theorem FabricOnly.refl : FabricOnly s s := rfl
theorem FabricOnly.trans {s t u : State} (h : FabricOnly s t) (g : FabricOnly t u) : FabricOnly s u := by
  cases s; cases t; cases u; simp_all [FabricOnly]
theorem FabricOnly.mem {s t : State} (h : FabricOnly s t) : t.mem = s.mem := by rw [h]
theorem FabricOnly.raise {s t : State} (h : FabricOnly s t) (n : Nat) : FabricOnly s (raise n t) := h.trans (by rw [raise_changes])
theorem FabricOnly.foldl {α : Type} (f : State → α → State) (hf : ∀ t x, FabricOnly t (f t x)) (l : List α) : FabricOnly s (l.foldl f s) :=
  foldl_inv (FabricOnly s) l f (fun t x h => h.trans (hf t x)) s (.refl s)

theorem turn_fabric (p : Nat) : FabricOnly s (turn p s) := by
  unfold turn
  simp only
  split
  · rfl
  · exact FabricOnly.raise (t := modKw p turnKeys s) rfl _

theorem sendOne_fabric (p : Nat) : FabricOnly s (sendOne p s) := by
  unfold sendOne
  simp only
  split
  · exact turn_fabric s p
  · split
    · exact turn_fabric s p
    · split
      · exact turn_fabric s p
      · exact (turn_fabric s p).trans rfl

theorem admitOne_fabric : FabricOnly s (admitOne s) := by
  unfold admitOne
  split
  · rfl
  · exact FabricOnly.trans (by rfl) (sendOne_fabric _ _)

theorem flushPort_fabric (p : Nat) : FabricOnly s (flushPort p s) := by
  unfold flushPort
  exact (FabricOnly.foldl s _ (fun t _ => sendOne_fabric t p) _).trans (FabricOnly.foldl _ _ (fun t _ => admitOne_fabric t) _)

theorem portSend_fabric (p : Nat) (e : Staged) : FabricOnly s (portSend p e s) :=
  FabricOnly.trans (t := { s with kw := { s.kw with waiting := s.kw.waiting ++ [(p, e)] } }) rfl (flushPort_fabric _ p)

theorem kwSend_fabric (b : Nat) (f : Frame) : FabricOnly s (kwSend b f s) := by
  unfold kwSend
  split
  · exact portSend_fabric _ _ _
  · rfl

theorem sendReq_fabric (t : Txn) : FabricOnly s (sendReq t s) := by
  unfold sendReq
  split
  · rfl
  · exact FabricOnly.trans (by rfl) (kwSend_fabric _ _ _)

theorem ownStep_fabric (i : Nat) (j : OwnJob) : FabricOnly s (ownStep i j s) := by
  unfold ownStep
  exact FabricOnly.trans (by rfl) (sendReq_fabric _ _)

theorem pumpOwn_fabric (n : Nat) : FabricOnly s (pumpOwn n s) := by
  induction n generalizing s with
  | zero => rfl
  | succ n ih =>
    unfold pumpOwn
    split
    · rfl
    · split
      · rfl
      · split
        · rfl
        · exact (ownStep_fabric _ _ _).trans (ih _)

/-- An access of the block's own changes the fabric side, interrupts and output alone. -/
theorem ownJob_fabric (j : OwnJob) : FabricOnly s (ownJob j s) := by
  unfold ownJob
  split
  · rfl
  · exact FabricOnly.trans (t := { s with kw := { s.kw with own := s.kw.own ++ [j] } }) rfl (pumpOwn_fabric _ _)

/-! ## The canonical form of the memories -/

theorem noteMove_changes (b : Nat) (h : Home) (off n : Nat) : noteMove b h off n s = { s with bays := (noteMove b h off n s).bays } := by
  unfold noteMove; split <;> rfl

@[simp] theorem noteMove_mem (b : Nat) (h : Home) (off n : Nat) : (noteMove b h off n s).mem = s.mem := by rw [noteMove_changes]

theorem writePa_wf (pa : Nat) (bs : List Byte) (h : Memory.wf s.mem.hbm = true) : Memory.wf (writePa pa bs s).mem.hbm = true := by
  unfold writePa
  split
  · exact wf_mputs _ _ _ (by rw [noteMove_mem]; exact h)
  · exact wf_mputs _ _ _ h
@[simp] theorem writePa_win (pa : Nat) (bs : List Byte) : (writePa pa bs s).mem.win = s.mem.win := by
  unfold writePa; split <;> simp

theorem writeWin_wf (k : Nat) (bs : List Byte) (h : Memory.wf s.mem.win = true) : Memory.wf (writeWin k bs s).mem.win = true := by
  unfold writeWin
  refine wf_mputs _ _ _ ?_
  rw [noteMove_mem]
  split
  · rw [(ownJob_fabric _ _).mem]; exact h
  · exact h
@[simp] theorem writeWin_hbm (k : Nat) (bs : List Byte) : (writeWin k bs s).mem.hbm = s.mem.hbm := by
  show (noteMove _ _ _ _ _).mem.hbm = s.mem.hbm
  rw [noteMove_mem]
  split
  · rw [(ownJob_fabric _ _).mem]
  · rfl

/-- A write through a bay's translations keeps both memories canonical. -/
theorem writeVa_wf (b va : Nat) (bs : List Byte) (h : Memory.wf s.mem.hbm = true ∧ Memory.wf s.mem.win = true) :
    Memory.wf (writeVa b va bs s).mem.hbm = true ∧ Memory.wf (writeVa b va bs s).mem.win = true := by
  unfold writeVa
  refine foldl_inv (fun t => Memory.wf t.mem.hbm = true ∧ Memory.wf t.mem.win = true) _ _ (fun t p ht => ?_) s h
  simp only
  split
  · exact ⟨writePa_wf _ _ _ ht.1, by rw [writePa_win]; exact ht.2⟩
  · exact ⟨by rw [writeWin_hbm]; exact ht.1, writeWin_wf _ _ _ ht.2⟩
  · exact ht
  · exact ht

/-- So does the zeroing of a home. -/
theorem zeroHome_wf (b : Nat) (m : Home) (h : Memory.wf s.mem.hbm = true ∧ Memory.wf s.mem.win = true) :
    Memory.wf (zeroHome b m s).mem.hbm = true ∧ Memory.wf (zeroHome b m s).mem.win = true := by
  unfold zeroHome
  split
  · exact ⟨wf_mzero _ _ _ h.1, h.2⟩
  · exact ⟨h.1, wf_mzero _ _ _ h.2⟩

/-- Memory right after reset lists nothing. -/
theorem reset_wf : Memory.wf State.reset.mem.hbm = true ∧ Memory.wf State.reset.mem.win = true := ⟨rfl, rfl⟩

end Sys2Proof.Machine
end

