-- ==== Sys2Proof/Laws/Steps.lean ====
section
/-! SUPPORT. Said once: what `run`, `onUnit` and `step` can answer, and what every command leaves alone. -/
namespace Sys2Proof.Machine

/-- A powered block answers the effect, limited to its footprint. -/
theorem run_powered {fp : List Grp} {f : State → State} {s : State} (h : s.start.powered = true) :
    run fp f s = .next (keep fp s (f s)) := by simp [run, h]

/-- A block without power does nothing. -/
theorem run_unpowered {fp : List Grp} {f : State → State} {s : State} (h : s.start.powered = false) : run fp f s = .next s := by
  simp [run, h]

@[simp] theorem onUnit_true (what : String) (o : Host.Outcome State Fault Refusal) : onUnit true what o = o := rfl

theorem onUnit_next {ok : Bool} {what : String} {o : Host.Outcome State Fault Refusal} {t : State} (h : onUnit ok what o = .next t) :
    ok = true ∧ o = .next t := by
  cases ok with
  | true => exact ⟨rfl, h⟩
  | false => cases h

/-- Everything `run` can answer: the state itself, or the effect limited to the footprint. -/
theorem run_next {fp : List Grp} {f : State → State} {s t : State} (h : run fp f s = .next t) : t = s ∨ t = keep fp s (f s) := by
  unfold run at h
  split at h <;> cases h
  · exact .inr rfl
  · exact .inl rfl

/-- A step on a queue runs its front on the state with the rest. -/
theorem step_front (c : Instr) (rest : List Instr) (s : State) (h : s.pending = c :: rest) :
    step s = exec c { s with pending := rest } := by unfold step; rw [h]

/-- A step on an empty queue is the idle step. -/
theorem step_empty (s : State) (h : s.pending = []) : step s = idleStep s := by unfold step; rw [h]

/-- Keeping nothing is the state itself; keeping a state's own groups is the state itself. -/
@[simp] theorem keep_nil (s t : State) : keep [] s t = s := rfl
@[simp] theorem keep_self (fp : List Grp) (s : State) : keep fp s s = s := by simp [keep]
theorem keep_keep (fp : List Grp) (s t : State) : keep fp s (keep fp s t) = keep fp s t := by
  simp only [keep]
  congr 1 <;> split <;> simp_all

end Sys2Proof.Machine
end

