-- ==== Sys2Proof/Tests/Slice0.lean ====
section
/-! SUPPORT. Witnesses for the hypotheses of the statements, and small tests of single steps. -/
namespace Sys2Proof.Tests
open Sys2Proof.Machine
set_option Elab.async false
/-! ## Ill-formed commands: one for each check -/
theorem test_ill_formed_numbers :
    [Instr.add 1024, .dmaReadComplete 0 16 {}, .commitPoint 0 { bad := [(3, true), (3, false)] }, .streamLost 16 0, .quoinStopTimeout 4, .sqWpWrite 0 1024 0 4 0,
      .sqWpWrite 0 0 0 3 0, .frontFetch 64 {}, .abiQuery 17, .operationSlotEnd 0 4 none, .hostConfigWrite 17 (.functionMask true), .linkRekeyTrigger 16,
      .atsTranslationCompletion 0 0 4, .pageRequestGroupResponse 0 64 .success 0, .requestTimeout 8192, .chunkResendTimeout 0 4096 0, .laneLockLoss 0 4,
      .bucketLeakTick 7, .lapOverdue 4, .interruptTake 4, .holdoffExpire 16, .extLineChange 32 true, .irqSet 16 0, .thermalTrip 64 0, .hbmPhyUpdateRequest 8,
      .firmwareInitDone 65536 0 true, .pmAlert 65536 0 0, .bar2Read 0 0 4097 {}, .getCertificate 16 0 0].all (fun i => !i.wellFormed) = true := by decide +kernel
theorem test_ill_formed_contents :
    [Instr.msg 0 (some { hdr := 0, payload := List.replicate 4097 0 }), .graphLaunch 0 { host := [(5, 1), (4, 1)] }, .graphLaunch 0 { remote := [(5, 1), (5, 1)] },
      .graphLaunch 0 { det := some 11 }, .graphLaunch 0 { ce := some 7 }, .idle 0 { vc := 4 }, .idle 0 { kind := 32 }, .idle 0 { dst := 4096 }, .idle 0 { src := 4096 },
      .idle 0 { tag := 8192 }, .idle 0 { mark := 16 }, .idle 0 { seq := 65536 }, .idle 0 { addr := 2 ^ 52 }, .idle 0 { data := List.replicate 2049 0 },
      .rcRead (.bay 16) 0 4, .rcRead .manager 0 5, .ringConsWrite (.bayEvents 16) 0, .engineReset (.quoin 4), .getMeasurements none 0 false (List.replicate 31 0),
      .quoinStopped 0 [], .quoinWdata 0 (List.replicate 257 0), .quoinObx 0 [0], .bar2Write 0 0 (List.replicate 4097 0) {}].all (fun i => !i.wellFormed) = true := by
  decide +kernel
theorem test_well_formed :
    [Instr.add 1023, .dmaReadComplete 0 15 { host := [(4, 1), (5, 1)], det := some 10 }, .sqWpWrite 15 1023 0 8 0, .rcRead (.bay 15) 0 4, .quoinObx 3 (List.replicate 64 0)].all
      (fun i => i.wellFormed) = true := by decide +kernel
/-- The table gives no row any bits: no word spells a command. -/
theorem test_no_word_spells_a_command : decodeTableWord 8 0x55 = none ∧ State.reset.withFetchWord 8 0x55 = State.reset := ⟨rfl, rfl⟩

/-! ## The worked examples of the manual -/
/-- Configuration F with four bays at 1.25 GHz, as the worked examples take it. -/
def fourBaysF : State := { State.reset with bays := { count := 4, vfEnable := true, numVfs := 4, all := [(1, { st := .attached }), (2, { st := .attached })] }, lift := { clk := 1250 } }
/-- BLK_CONFIG, BAY_CFG and BAY_ID as the manager and the guest of bay 2 read them (worked example of chapter 17). -/
theorem test_example_identity :
    (Answers (.rcRead .manager 0x8 4) fourBaysF fun t => t.out.log = [.reply (natLe 4 0x08848400) false]) ∧
    (Answers (.rcRead .manager 0x700000 4) fourBaysF fun t => t.out.log = [.reply (natLe 4 0x01040004) false]) ∧
    (Answers (.rcRead (.bay 2) 0 4) fourBaysF fun t => t.out.log = [.reply (natLe 4 0x00040802) false]) :=
  ⟨⟨_, rfl, by decide +kernel⟩, ⟨_, rfl, by decide +kernel⟩, ⟨_, rfl, by decide +kernel⟩⟩
/-- Object 10 of bay 1 lies at 0x0102_0050 of the view; a write of its low half is ignored (worked example of chapter 17). -/
theorem test_example_sync_view :
    (Answers (.syncViewWrite 0x1020050 8 5) fourBaysF fun t => syncVal t 1 10 = 5 ∧ (bay t 1).progress = 1) ∧
    (Answers (.syncViewWrite 0x1020050 4 5) fourBaysF fun t => syncVal t 1 10 = 0) := ⟨⟨_, rfl, by decide +kernel⟩, ⟨_, rfl, by decide +kernel⟩⟩
/-- The budgets at 1.25 and at 1.2 GHz (worked examples of chapters 5 and 16). -/
theorem test_example_budget : budgetAt 100 1250 = 113000 ∧ budgetAt 100 1200 = 108000 := ⟨rfl, rfl⟩
/-- A bay's HBM share in F with 64 GiB stacks and four bays (worked example of chapter 7). -/
theorem test_example_share : shareBytes fourBaysF = 127580 * 2 ^ 20 := by decide +kernel
/-- The cap in force is the lower of the manager's and the module's (worked example of chapter 16). -/
theorem test_example_cap : capInForce { fourBaysF with pwr := { cap := 1300, pinMax := 1250 } } = 1250 := by decide


/-! ## Ashlar instructions: a small state with one ashlar that runs one word -/

/-- Ashlar 0 runs, with `w` at its program counter, g1 = 6, g2 = 3, g3 = 0x100. -/
def oneWord (w : W64) : State :=
  { State.reset with grid := { ashlars := [(0, { run := .running, g := [(1, 6), (2, 3), (3, 0x100)], imem := [(0, w)], imgLen := 1 })] } }

/-- Ashlar 0 runs word `w` for command 0 of bay 0, whose extent 0 is placed in HBM frame 0 with read and write permission. -/
def oneCommand (w : W64) (x : Ashlar) (c : Cmd) : State :=
  { State.reset with
    grid := { ashlars := [(0, { x with run := .running, imem := [(0, w)], imgLen := 1, cid := 0 })] }
    cmds := { all := [(0, c)], next := 1 }
    bays := { all := [(0, { st := .attached, mem := { extents := [(0, { home := .hbm 0 })] } })] } }
/-- A running LAUNCH of bay 0 on a panel of one ashlar. -/
def oneLaunch : Cmd := { cid := 0, bay := 0, queue := 0, st := .running, placed := true, entry := [1, 0, 0, 0, 0, 0, 1, 1] }

theorem wit_StepRunsFront : (State.reset).pending = [] ∧ (State.reset).start.powered = true := ⟨rfl, rfl⟩

theorem wit_NoCommandIsRefused : present State.reset (.add 0) = true ∧ present State.reset (.add 1024) = false := by decide +kernel

/-- A state with commands waiting: an interrupt lock, then a lift boundary. -/
def queued : State := { State.reset with pending := [.irqLock, .liftBoundary] }
theorem wit_ReachOfCommands : queued.pending = .irqLock :: [.liftBoundary] ∧ ∃ t, step queued = .next t := ⟨rfl, _, rfl⟩

/-- A locked store, and a step from it. -/
def lockedStore : State := { State.reset with ident := { uds := some 1, chain := [1], locked := true }, pending := [.repointAttest] }
theorem wit_IdentityStoreLocks : lockedStore.ident.locked = true ∧ ∃ t, step lockedStore = .next t := ⟨rfl, _, rfl⟩

theorem wit_NothingActsWithoutPower :
    ({ State.reset with start := { powered := false } } : State).start.powered = false ∧
      ∃ t, exec .liftBoundary { State.reset with start := { powered := false } } = .next t := ⟨rfl, _, rfl⟩

/-- The word of scalar operation `op` with rd = 4, rs1 = 1, rs2 = 2. -/
def aluWord (op : Nat) : W64 := encS op 4 1 2 false 0
theorem wit_ScalarArithmetic :
    (List.range 11).all (fun k => issues (oneWord (aluWord k)) 0 (aluWord k) k) = true := by decide
theorem test_sub_wraps : Answers (.sub 0) (oneWord (encS 1 4 2 1 false 0)) fun t => gr (ash t 0) 4 = BitVec.ofInt 64 (-3) :=
  ⟨_, rfl, by decide⟩
theorem test_sra_sign : Answers (.sra 0) (oneWord (encS 7 4 0 0 true 1)) fun t => gr (ash t 0) 4 = 0 := ⟨_, rfl, by decide⟩
theorem test_add_immediate_negative :
    Answers (.add 0) (oneWord (encS 0 4 1 0 true (2 ^ 36 - 1))) fun t => gr (ash t 0) 4 = 5 := ⟨_, rfl, by decide⟩

/-- The word of branch operation `op` comparing g1 with g2. -/
def branchWord (op : Nat) : W64 := encB op 1 2 4 0
theorem wit_ScalarControl :
    (List.range 7).all (fun k => issues (oneWord (branchWord k)) 0 (branchWord k) (0x100 + k)) = true ∧
      [0, 4, 9].all (fun i => issues (oneWord (encS 16 4 0 0 true i)) 0 (encS 16 4 0 0 true i) 0x010 &&
        bits (sImm (encS 16 4 0 0 true i)).toNat 7 0 == i) = true := by decide
theorem test_jal_links : Answers (.jal 0) (oneWord (encB 5 0 0 4 7)) fun t => gr (ash t 0) 4 = 1 ∧ (ash t 0).pc = 7 :=
  ⟨_, rfl, by decide⟩
theorem test_bge_not_taken : Answers (.bge 0) (oneWord (encB 3 2 1 0 7)) fun t => (ash t 0).pc = 1 := ⟨_, rfl, by decide⟩

theorem wit_ScalarMemory :
    (List.range 8).all (fun k =>
      let w := encL k 1 3 8
      let x := ash (oneWord w) 0
      issues (oneWord w) 0 w (0x200 + k) && x.tags.isEmpty && !inJoint x (lAddr w x) 8 && spadOk (lAddr w x) 8) = true := by decide
theorem test_st16_bytes : Answers (.st16 0) (oneWord (encL 5 3 3 0)) fun t =>
    mread (ash t 0).spad 0x100 2 = [0, 1] := ⟨_, rfl, by decide⟩

/-- The same with an operation at the head of each unit's queue. -/
def oneQueued (w m v : W64) : State :=
  { State.reset with grid := { ashlars := [(0, {
      run := .running, g := [(3, 0x100)], imem := [(0, w)], imgLen := 1, mq := [{ word := m }], vq := [{ word := v }] })] } }
theorem wit_UnitQueues :
    [(encMW 6 0 0, 0x300), (encMA 1 6 0 1 0 true true 0, 0x301), (encMA 2 0 0 1 0 false false 0, 0x302)].all (fun p =>
      let x := ash (oneQueued p.1 (encMW 6 0 0) 0) 0
      issues (oneQueued p.1 (encMW 6 0 0) 0) 0 p.1 p.2 && tileInRange (encMW 6 0 0) && accRowsOk (encMA 1 6 0 1 0 true true 0) &&
        accRowsOk (encMA 2 0 0 1 0 false false 0) && !headIllegal { x with mq := x.mq ++ [{ word := p.1, h0 := 0 }] }) = true ∧
    [0, 1, 2, 3, 4, 0x10, 0x11, 0x12, 0x13, 0x14, 0x15, 0x16, 0x17, 0x18, 0x20, 0x21, 0x22].all (fun op =>
      let w := encV op 1 2 3 0 0 0 3 0
      let x := ash (oneWord w) 0
      issues (oneWord w) 0 w (0x400 + op) && vPlaceOk w (vAddr (gr x (vBase w)) w) &&
        !inJoint x (vAddr (gr x (vBase w)) w) (64 * elemBytes (vType w))) = true := by decide

theorem wit_UnitResults :
    let mz := encMA 2 0 0 1 0 false false 0
    let md := encMW 0 0 0
    let s (m v : W64) := oneQueued 0 m v
    let next (m : W64) := matrixDo (unitIncoming (s m 0) 0) (s m 0).out.free (ash (s m 0) 0)
    (0 < ashlars (s mz 0) ∧ (s mz 0).start.powered = true ∧ (ash (s mz 0) 0).run = .running) ∧
    ((ash (s mz 0) 0).mq.map (·.word)).head? = some mz ∧ codeOf mz = 0x302 ∧ headIllegal (next mz) = false ∧
    ((ash (s md 0) 0).mq.map (·.word)).head? = some md ∧ codeOf md = 0x300 ∧ mwFmt md = 0 ∧ headIllegal (next md) = false ∧
    (ash (s md 0) 0).hist = [] ∧ (ash (s md 0) 0).tags = [] ∧
    ([0x10, 0x11, 0x12, 0x14, 0x15].all fun op => codeOf (encV op 1 2 3 0 0 0 3 0) == 0x400 + op && vRnd (encV op 1 2 3 0 0 0 3 0) == 0) = true ∧
    (ash (s mz (encV 0 1 2 3 0 0 0 3 0)) 0).vq = [{ word := encV 0 1 2 3 0 0 0 3 0, base := 0, h0 := 0 }] ∧
    vType (encV 1 1 2 3 0 0 0 3 0) = 0 ∧ codeOf (encV 1 1 2 3 0 0 0 3 0) = 0x401 ∧ vstJoint (ash (s mz (encV 1 1 2 3 0 0 0 3 0)) 0) = false ∧
    (ash State.reset 0).mq = [] := by decide +kernel
/-- MZERO of rows 0 to 1 clears an entry and leaves row 2. -/
theorem test_mzero_rows :
    let s := oneQueued 0 (encMA 2 0 0 1 0 false false 0) 0
    let u : State := { s with grid := { ashlars := [(0, { ash s 0 with acc := [(3, 7), (64, 9)] })] } }
    Answers (.unitOpComplete 0 .matrix none) u fun t => accE (ash t 0) 0 3 = 0 ∧ accE (ash t 0) 2 0 = 9 := ⟨_, rfl, by decide +kernel⟩

/-- A descriptor that reads 64 bytes at device address 0 into scratchpad address 0x400, and one that writes them. -/
def readDesc : List Byte := natLe 8 0 ++ natLe 4 1 ++ natLe 4 64 ++ natLe 8 0 ++ natLe 4 0x400 ++ natLe 4 0 ++ natLe 32 0
theorem wit_DmaInstructions :
    let x : Ashlar := { g := [(1, 0x100)], spad := mputs 0x100 readDesc [] }
    let w := encX 5 0 1 0 0 3 0
    (issues (oneCommand w x oneLaunch) 0 w 0x500 && plainDma (oneCommand w x oneLaunch) 0 w) = true ∧
    issues (oneCommand (encX 5 1 0 0 0 0 8) x oneLaunch) 0 (encX 5 1 0 0 0 0 8) 0x501 = true ∧
    (issues (oneCommand (encX 5 1 0 0 0 0 8) { x with tags := [(3, {})] } oneLaunch) 0 (encX 5 1 0 0 0 0 8) 0x501 && bit 8 3) = true ∧
    issues (oneCommand (encX 5 2 0 0 4 0 0) x oneLaunch) 0 (encX 5 2 0 0 4 0 0) 0x502 = true := by decide

theorem wit_DmaEnds :
    let rd : DmaDesc := { spadAddr := 0x400 }
    let wr : DmaDesc := { spadAddr := 0x400, toMem := true }
    let s (d : DmaDesc) := oneCommand 0 { tags := [(3, { d := d })] } oneLaunch
    0 < ashlars (s rd) ∧ (s rd).start.powered = true ∧ (ash (s rd) 0).run = .running ∧ rd.rows = 1 ∧ rd.vaddr % 4096 + rd.rowBytes ≤ 4096 ∧
    (cmdD (s rd) 0).bay < 16 ∧ ((List.range 64).all fun k => [1, 2, 3].all fun need => [true, false].all fun st =>
      xlate (s rd) 0 (rd.vaddr + k) need st == .ok (.hbm k)) = true ∧
    (s rd).mem.poison = [] ∧ inJoint (ash (s rd) 0) rd.spadAddr rd.rowBytes = false ∧
    ((s rd).grid.ashlars.all fun e => e.2.tags.all fun g => !g.2.d.toMem) = true ∧ tget 3 (ash (s rd) 0).tags = some { d := rd } ∧ rd.toMem = false ∧
    tget 3 (ash (s wr) 0).tags = some { d := wr } ∧ wr.toMem = true ∧ wr.notifyEn = false ∧ wr.rowBytes = 64 ∧ (ash (s wr) 0).hist = [] ∧
    (ash (s wr) 0).tags = [(3, { d := wr })] ∧ staged (cmdD (s wr) 0) = false := by decide

theorem wit_JointInstructions :
    let j : Joint := { base := 0x1000, size := 1024, slotLines := 2, slots := 8 }
    let jm : Joint := { j with msgs := [{}] }
    let k : Credit := { dx := 0, dy := 0, joint := 3, count := 1, limit := 64 }
    let cfg := encX 6 0 1 0 0 3 (1 + 2 * 256)
    let s (w : W64) (x : Ashlar) := oneCommand w x oneLaunch
    let op (n : Nat) := encX 6 n 0 0 4 3 1
    (issues (s cfg { g := [(1, 0x1000)] }) 0 cfg 0x600 && jointOk cfg { g := [(1, 0x1000)] }) = true ∧
    (issues (s (op 1) { joints := [(3, j)] }) 0 (op 1) 0x601 && inPanel { joints := [(3, j)] } 0 0 && grantOk { joints := [(3, j)] } j 3 0 0 1 &&
      xSel (op 1) == 3 && xN (op 1) == 1) = true ∧
    (issues (s (op 2) { credits := [k] }) 0 (op 2) 0x602 && issues (s (op 3) { credits := [k] }) 0 (op 3) 0x603 &&
      creditOf { credits := [k] } 0 0 3 == some k && (creditOf {} 0 0 3).isNone && issues (s (op 3) {}) 0 (op 3) 0x603 && issues (s (op 2) {}) 0 (op 2) 0x602 &&
      inPanel {} 0 0 && !inPanel {} 0 1 && !inPanel {} 1 0 && !jointOk cfg { g := [(1, 0x1000)], joints := [(3, j)] } &&
      !grantOk { joints := [(3, j)] } j 3 0 0 9 && issues (s (op 5) { joints := [(3, j)] }) 0 (op 5) 0x605) = true ∧
    (issues (s (op 4) { joints := [(3, jm)] }) 0 (op 4) 0x604 && issues (s (op 4) { joints := [(3, j)] }) 0 (op 4) 0x604 &&
      issues (s (op 5) { joints := [(3, jm)] }) 0 (op 5) 0x605 && issues (s (op 6) { joints := [(3, j)] }) 0 (op 6) 0x606) = true := by decide

theorem wit_ClassSeven :
    let s (w : W64) (x : Ashlar) := oneCommand w x oneLaunch
    let op (n : Nat) := encX 7 n 1 2 0 0 2
    let dev : State := { s (op 2) { g := [(1, 0), (2, 64)] } with
      bays := { all := [(0, { st := .attached, eqi := { major := 3, minor := 2, queues := [(0, { qflags := 4 })] } })] } }
    (issues (s (op 0) {}) 0 (op 0) 0x700 && fenceMet 2 {} && issues (s (op 0) { vq := [{ word := 0 }] }) 0 (op 0) 0x700 &&
      !fenceMet 2 { vq := [{ word := 0 }] } && xN (op 0) == 2) = true ∧
    (issues (s (op 1) { g := [(1, 5), (2, 9)] }) 0 (op 1) 0x701 && decide (5 < syncPerBay (s (op 1) {})) && (cmd? (s (op 1) {}) 0).isSome) = true ∧
    (issues dev 0 (op 2) 0x702 && revAtLeast dev 0 2 && isDevEnq dev 0 0) = true ∧
    (issues (s (op 3) {}) 0 (op 3) 0x703 && issues (s (op 3) { tags := [(0, {})] }) 0 (op 3) 0x703) = true ∧
    (issues (s (op 4) {}) 0 (op 4) 0x704 && panelIds oneLaunch == [0] && opc oneLaunch == opLaunch && issues (s (op 5) {}) 0 (op 5) 0x705) = true := by decide

/-- Ashlar 0 runs command 0 with joint 3 configured, and one message of `kind` to it is in the network. -/
def oneMessage (kind : Nat) (p : List Byte) : State :=
  { State.reset with grid := { ashlars := [(0, { run := .running, joints := [(3, { base := 0x1000, size := 1024, slotLines := 2, slots := 8 })] })]
                               net := [{ kind := kind, src := 1, dst := 0, joint := 3, payload := p }] } }
theorem wit_MessagesArrive :
    [(0, [1, 2]), (2, []), (1, natLe 2 1 ++ natLe 2 64 ++ [3])].all (fun (q : Nat × List Byte) =>
      let s := oneMessage q.1 q.2
      let m : MMsg := { kind := q.1, src := 1, dst := 0, joint := 3, payload := q.2 }
      let r := received m none
      let h := modAsh 0 (fun x => { x with run := .halted }) s
      netMsg h 0 == some m && oldestOfPair h 0 m && (ash h 0).run != .running && netMsg s 0 == some m && !badHeader r && hKind r.hdr == q.1 && oldestOfPair s 0 m && (hJoint r.hdr == 3 || q.1 == 1) && hSeq r.hdr == 0 &&
        (creditIn 1 0 3 1 64 (freshSeq s 0 1 3) (ash s 0).credits).isSome) = true := by decide +kernel

/-- A control message of command 0 to or from ashlar 0, which runs the command. -/
def oneControl (k : CtlKind) (st : CmdState) : State :=
  { oneCommand 0 {} { oneLaunch with st := st } with grid := { ashlars := [(0, { run := .running })], ctl := [(0, { kind := k, a := 0, cid := 0 })], nextCtl := 1 } }
theorem wit_ControlMessages :
    ctl? (oneControl .start .running) 0 = some { kind := .start, a := 0, cid := 0 } ∧ (cmd? (oneControl .start .running) 0).isSome = true ∧
    (cmdD (oneControl .start .running) 0).st = .running ∧ ctl? (oneControl .kill .waiting) 0 = some { kind := .kill, a := 0, cid := 0 } ∧
    (cmdD (oneControl .kill .waiting) 0).st ≠ .running ∧ (ash (oneControl .kill .waiting) 0).run = .running ∧
    ctl? (oneControl (.outbox (.signal 1 2)) .running) 0 = some { kind := .outbox (.signal 1 2), a := 0, cid := 0 } ∧
    ctl? (oneControl .halted .running) 0 = some { kind := .halted, a := 0, cid := 0 } ∧
    ctl? { State.reset with grid := { ctl := [(4, { kind := .kill, a := 0, cid := 0, arrived := true, resent := 1 })] } } 4 =
      some { kind := .kill, a := 0, cid := 0, arrived := true, resent := 1 } := by decide

theorem wit_PanelAndImage :
    let l : Cmd := { oneLaunch with loading := true, words := [1, 2] }
    let s := oneCommand 0 {} l
    let m : Cmd := { oneLaunch with loading := true, desc := { imageInstr := 1 } }
    cmd? s 0 = some l ∧ l.loading = true ∧ l.st = .running ∧ panelIds oneLaunch = [0] ∧
    firstFault (oneCommand 0 {} m) 0 (cf m 0x18 8) 8 1 false = none ∧
    (readVa (oneCommand 0 {} m) 0 {} false (cf m 0x18 8) 8).map wordsOf = some [0] ∧
    drained (oneCommand 0 {} { oneLaunch with halted := [0] }) { oneLaunch with halted := [0] } = true := by decide

/-- A collective of command 0 on the panel of ashlar 0, one member of a group of two whose rank is `r`. -/
def oneCollective (r : Nat) (k : Col) (st : CmdState) : State :=
  { oneCommand 0 {} { cid := 0, bay := 0, queue := 0, st := st, placed := true, col := some k
                      entry := padTo 64 (natLe 1 opCollective ++ List.replicate 5 0 ++ [1, 1]) } with
    arch := { groups := [(0, { gid := 1, bay := 0, members := 2, rank := r, eps := [1, 2] })] } }
theorem wit_SlicesOfACollective :
    let s := oneCollective 0 {} .running
    let u := oneCollective 1 { verdict := .endpoint } .anchored
    (colCtx s 0).any (fun x => x.c.cid == 0 && (panelIds x.c).contains 0 && decide (x.k.children.length < (childrenOf x.g).length)) = true ∧
    (colCtx u 0).any (fun x => (panelIds x.c).contains 0 && colSmall x && !x.k.scattered.contains (panelIndex x.c 0)) = true := by decide

/-- A block that serves at 800 MHz, its period 100 µs. -/
def serving : State := { State.reset with lift := { serving := true, clk := 800, budget := 68000 } }
theorem wit_LiftBoundary : serving.start.powered = true ∧ serving.lift.serving = true := ⟨rfl, rfl⟩
/-- A boundary makes a waiting period of 200 µs the period in force, with its budget (R102, R103). -/
theorem test_boundary_period :
    Answers .liftBoundary { serving with lift := { serving.lift with next := 200, pending := true } } fun t =>
      t.lift.period = 200 ∧ t.lift.budget = 148000 ∧ t.lift.num = 1 := ⟨_, rfl, by decide +kernel⟩

/-- Command 0, a launch on the panel of ashlar 0, runs in the run window. -/
def runWindow : State := { oneCommand 0 {} oneLaunch with lift := { serving.lift with window := .run } }
theorem wit_WindowsOfALift : runWindow.start.powered = true ∧ runWindow.lift.serving = true ∧ runWindow.lift.window = .run ∧
    serving.lift.window = .opening ∧ (runWindow.cmds.all.map Prod.snd).filter (overruns runWindow) = [oneLaunch] ∧ oneLaunch.solo = false ∧
    (let c : Cmd := { oneLaunch with solo := true }; let s : State := { runWindow with cmds := { runWindow.cmds with all := [(0, c)] } }
     (s.cmds.all.map Prod.snd).filter (overruns s) = [c]) ∧
    cmd? runWindow oneLaunch.cid = some oneLaunch := by decide

theorem wit_PlanSeals : serving.start.powered = true ∧ serving.lift.serving = true ∧ serving.rst.shored = false ∧ serving.lift.sealed = none ∧
    plannedBays serving = [] ∧ ({ serving with lift := { serving.lift with sealed := some [] } } : State).lift.sealed ≠ none := by decide

/-- A planned command of bay 0, first in the plan, in the run window. -/
def planned (c : Cmd) : State :=
  { oneCommand 0 {} c with grid := {}, lift := { serving.lift with window := .run, plan := [{ cid := 0 }] }
                           arch := { groups := [(0, { gid := 1, bay := 0, members := 2, rank := 0, eps := [1, 2] })] }
                           quoin := [(1, { ready := true, registered := true })] }
theorem wit_CommandStarts :
    let l : Cmd := { oneLaunch with st := .planned }
    let q : Cmd := { l with entry := [2, 0, 0, 0, 0, 0, 1, 0] }
    let k : Cmd := { l with entry := 3 :: l.entry.drop 1, col := some {} }
    [(l, opLaunch), (q, opQuoin), (k, opCollective)].all (fun (p : Cmd × Nat) =>
      opc p.1 == p.2 && mayStart (planned p.1) p.1 && (outHost (planned p.1) p.1).isEmpty && (declFault (planned p.1) p.1).isNone && (outFault (planned p.1) p.1).isNone &&
        cmd? (planned p.1) 0 == some p.1) = true ∧
    (colCtx (planned k) 0).any (fun x => x.g.abandoned.isEmpty && !x.k.sentUp && decide (x.k.children.length < (childrenOf x.g).length)) = true := by decide

/-- Command 0 of queue 0 of bay 0, which exists, with room in both rings. -/
def withQueue (c : Cmd) : State :=
  { oneCommand 0 {} c with
    bays := { all := [(0, { st := .attached, eqi := { major := 3, minor := 4, queues := [(0, { qflags := 3, fetch := 1, wp := 1 })] }
                            mem := { extents := [(0, { home := .hbm 0 })] } })] } }
theorem wit_CommitPoint :
    let k : Cmd := { oneLaunch with st := .committing }
    let full : State := { withQueue k with bays := { all := [(0, { st := .attached, eqi := { queues := [(0, { cqNext := 2 ^ 16 })] } })] } }
    let room (s : State) (c : Cmd) : Bool := enqRoom (copyOut 0 s) c && cqRoomFor (copyOut 0 s) c && !(hostShut (copyOut 0 s) 0 && hostBound c)
    [k, { k with abort := true }, { k with outbox := [.signal 3 7] }, { k with outbox := [.range 0 64 none] }, { k with entry := 1 :: 0x20 :: k.entry.drop 2 },
      { k with walk := some { batch := 0, chunks := 2, ring := 0, slots := 0, slotLines := 0, layer := 0, hpa := 0, ways := 0, chunkSlabs := 1, bound := 0, outStride := 0, parts := 0 } }].all (fun c =>
      cmd? (withQueue c) 0 == some c && room (withQueue c) c) = true ∧
    cmd? full 0 = some k ∧ room full k = false ∧ staged { k with entry := 1 :: 2 :: k.entry.drop 2 } = true ∧ (withQueue k).start.powered = true := by decide

/-- Bay 0 has context 1 of one ashlar, resident on ashlar 0 unless it is being switched in. -/
def oneContext (x : Ctx) (y : Ashlar) : State :=
  { State.reset with grid := { ashlars := [(0, y)] }, bays := { all := [(0, { st := .attached, strm := { ctxs := [x] } })] } }
theorem wit_Contexts :
    let x : Ctx := { handle := 1, w := 1, h := 1, resident := some (0, 0) }
    let p := oneContext { x with pending := true } { spad := [(64, 5)], journal := [.line 64 [1, 2]] }
    ctx? p 0 1 = some { x with pending := true } ∧ ctxBusy p 0 1 = false ∧ (ctxIds x).Nodup ∧
    ctx? (oneContext { x with switch := .out } {}) 0 1 = some { x with switch := .out } ∧
    ctx? (oneContext { x with resident := none, switch := .into 0 0 } {}) 0 1 = some { x with resident := none, switch := .into 0 0 } ∧
    (rectIds 0 0 1 1).Nodup := by decide
/-- Block 4 of frame 9, the home of context 1, lies in its save image, block 1200 in its journal. -/
theorem wit_Contexts_home :
    let x : Ctx := { handle := 1, w := 1, h := 1, home := [9], switch := .into 0 0 }
    let s := oneContext x {}
    homeOff s 0 x (9 * 4096 + 4) = some 2048 ∧ homeOff s 0 x (9 * 4096 + 1200) = some (1200 * 512) ∧ imageBytes x = 1152 * 512 ∧ bayCmds s 0 = [] ∧
    tget (9 * 4096 + 4) s.mem.poison = none ∧ ctxBusy s 0 1 = false := by decide
/-- A replay puts the old bytes of the journalled line back (R140). -/
theorem test_replay :
    Answers (.journalReplayDone 0 1) (oneContext { handle := 1, w := 1, h := 1, resident := some (0, 0), pending := true }
      { spad := [(64, 5)], journal := [.line 64 [1, 2]] }) fun t => (ash t 0).spad = [(64, 1), (65, 2)] ∧ (ash t 0).journal = [] := ⟨_, rfl, by decide⟩

theorem wit_Doorbells :
    let s := withQueue { oneLaunch with st := .waiting }
    let u : State := { s with bays := { all := [(0, { st := .attached, eqi := { queues := [(0, { cqNext := 3 })] } })] } }
    s.start.powered = true ∧ 0 < s.bays.count ∧ barOpen s 0 none = true ∧ barOpen { s with bays := { all := [(0, { d3 := true })] } } 0 none = false ∧
    s.sec.repointing = false ∧ queue? s 0 5 = none ∧ dbValue s 0 1 4 8 4 = none ∧
    (queue? s 0 0).any (fun x => dbValue s 0 x.wp 0 8 4 == some 4 && !bit x.qflags 2 && decide (x.wp < 4) && decide (4 - oldestPos s 0 0 x ≤ 2 ^ x.log2Ring) &&
      dbValue s 0 x.wp 0 8 (2 ^ 40) == some (2 ^ 40) && decide (2 ^ x.log2Ring < 2 ^ 40 - oldestPos s 0 0 x)) = true ∧
    (queue? u 0 0).any (fun x => dbValue u 0 x.cqHead 0 8 2 == some 2 && decide (x.cqHead < 2) && decide (2 ≤ x.cqNext)) = true ∧ (bay u 0).st ≠ .absent := by decide
/-- EQI_NEG: revision 3.4 is taken, revision 3.9 is refused (R270, R273). -/
theorem test_negotiation :
    let s := withQueue { oneLaunch with st := .waiting }
    let u : State := { s with bays := { all := [(0, { st := .attached })] } }
    (Answers (.eqiNegWrite 0 0x0304 none) u fun t => (bay t 0).eqi.negDone = true ∧ (bay t 0).eqi.minor = 4) ∧
    (Answers (.eqiNegWrite 0 0x0309 none) u fun t => (bay t 0).eqi.negDone = false ∧ (bay t 0).eqi.negRefused = true) := ⟨⟨_, rfl, by decide⟩, _, rfl, by decide⟩

/-- Queue 0 of bay 0 in host memory holds one EVENT entry, and front 0 may be bound to it. -/
def oneEntry (bound : Bool) : State :=
  { State.reset with
    bays := { all := [(0, { st := .attached, eqi := { major := 3, minor := 4, queues := [(0, { qflags := 3, wp := 1, idle := false })] } })] }
    dev := { fronts := if bound then [(0, { bay := 0, queue := 0 })] else [] } }
/-- The host memory that holds the entry. -/
def entryEnv : Env := { host := (List.range 64).map fun i => (i, if i = 0 then 0x16 else 0) }
theorem wit_FrontsFetch :
    let s := oneEntry true
    nextQueue (oneEntry false) 0 = some 0 ∧ freeFront (oneEntry false) 0 = some 0 ∧ tget 0 s.dev.fronts = some { bay := 0, queue := 0 } ∧
    nextQueue State.reset 0 = none ∧ mayFetch s 0 = true ∧ heldCount s 0 < fetchLimit s ∧ (queue? s 0 0).any (fun x => activeQ x &&
      decide (x.fetch < oldestPos s 0 0 x + 2 ^ x.log2Ring) && (atsMiss s 0 (entryHost x)).isNone && (atsDenied s 0 1 (entryHost x)).isNone &&
      ringRead s 0 x {} == .failed 0 false &&
      (match ringRead s 0 x entryEnv with
        | .bytes bs => (match entryVerdict s 0 0 x bs entryEnv with
          | .go d => d.cid == 0 && opc d == 0x16
          | _ => false) &&
          (match entryVerdict s 0 0 x (0xFF :: bs.drop 1) entryEnv with
          | .no r => r.code == 0x21
          | _ => false)
        | _ => false)) = true := by decide +kernel

/-- Command 0 waits with `entry`; its bay has a stream, a graph and two placed extents. -/
def waiting (entry : List Byte) : State :=
  let c : Cmd := { cid := 0, bay := 0, queue := 0, st := .waiting, entry := padTo 64 entry }
  { withQueue c with
    cmds := { all := [(0, c)], next := 1 }
    bays := { all := [(0, { st := .attached
                            eqi := { major := 3, minor := 4, queues := [(0, { qflags := 3, fetch := 1, wp := 1 }), (5, { qflags := 3, fetch := 2, wp := 4 })] }
                            mem := { extents := [(0, { home := .hbm 0 }), (1, { home := .hbm 1 })] }
                            strm := { streams := [(7, { state := .idle, limit := 4096 }), (8, { state := .lost }), (9, { state := .idle, limit := 3, position := 3 })]
                                      graphs := [{ handle := 0, body := [padTo 64 [0x16]] }], ctxs := [{ handle := 4, w := 1, h := 1 }] } })] } }
/-- The command of `waiting`. -/
def waitingCmd (entry : List Byte) : Cmd := { cid := 0, bay := 0, queue := 0, st := .waiting, entry := padTo 64 entry }
/-- Whether the command of `waiting` meets the premises of `leavesRing`. -/
def leavesNow (entry : List Byte) (op : Nat) : Bool :=
  (waiting entry).start.powered && cmd? (waiting entry) 0 == some (waitingCmd entry) && opc (waitingCmd entry) == op && mayLeave (waiting entry) (waitingCmd entry) &&
    (queue? (waiting entry) 0 0).isSome
/-- An entry of opcode `op` with byte `x` at offset 0x18. -/
def entry18 (op x : Byte) : List Byte := op :: List.replicate 23 0 ++ [x]
theorem wit_LaunchesLeave :
    (leavesNow [1] opLaunch && leavesNow [2] opQuoin && leavesNow [3] opCollective && leavesNow (entry18 5 7) opStreamStep && leavesNow (entry18 6 8) opStreamFill &&
      leavesNow (entry18 4 0) opGraphLaunch && leavesNow (entry18 4 9) opGraphLaunch) = true ∧
    (graph? (waiting (entry18 4 0)) 0 0).isSome = true ∧ (graph? (waiting (entry18 4 9)) 0 9).isNone = true ∧
    (streamVerdict (waiting (entry18 5 7)) (waitingCmd (entry18 5 7))).isNone = true ∧ (stream (waiting []) 0 8).state = .lost ∧
    (stream (waiting []) 0 9).limit < (stream (waiting []) 0 9).position + 1 ∧ cf (waitingCmd (entry18 5 7)) 0x18 4 = 7 := by decide

theorem wit_GraphsAndContexts :
    (leavesNow [0x10] 0x10 && leavesNow (entry18 0x11 0) 0x11 && leavesNow (entry18 0x12 0) 0x12 && leavesNow [0x13, 0, 0, 0, 0, 0, 1, 1] 0x13 &&
      leavesNow (entry18 0x14 4) 0x14 && leavesNow (entry18 0x14 9) 0x14) = true ∧
    ceilDiv (2 * cf (waitingCmd [0x10]) 0x24 4) 0x200000 ≤ freeFrames (waiting [0x10]) 0 ∧
    ctxExtents 1 1 ≤ freeFrames (waiting [0x13, 0, 0, 0, 0, 0, 1, 1]) 0 ∧
    (graph? (waiting (entry18 0x11 0)) 0 0).any (fun g => g.owner.isNone && !(g.pins.any fun p => p.2 + 1 == g.gen)) = true ∧
    ((bayCmds (waiting (entry18 0x11 0)) 0).any fun k => (opc k == opGraphLaunch || opc k == 0x12) && k.parent.isNone && cf k 0x18 4 == 0) = false ∧
    ((bay (waiting []) 0).strm.ctxs.any fun x => x.handle == 4) = true ∧ ((bay (waiting []) 0).strm.ctxs.any fun x => x.handle == 9) = false ∧
    ((bayCmds (waiting (entry18 0x14 4)) 0).any fun k => ctxOf k == 4) = false := by decide +kernel

/-- An entry with bytes at 0x18 and 0x20. -/
def entry20 (op q pos : Byte) : List Byte := entry18 op q ++ List.replicate 7 0 ++ [pos]
/-- An EVENT READ of one object to device address 0. -/
def readEntry : List Byte := [0x16, 0, 0, 0, 0, 0, 1] ++ List.replicate 19 0 ++ [1]
theorem wit_QueuesAndEvents :
    (leavesNow (entry18 0x26 2 ++ List.replicate 5 0 ++ [3]) 0x26 && leavesNow (entry18 0x26 5) 0x26 && leavesNow (entry18 0x27 5) 0x27 && leavesNow (entry18 0x27 0) 0x27 &&
      leavesNow (entry18 0x23 5) 0x23 && leavesNow (entry20 0x15 0 0) 0x15 && leavesNow (entry20 0x15 9 0) 0x15 && leavesNow (entry20 0x15 5 3) 0x15 &&
      leavesNow (entry20 0x15 5 1) 0x15 && leavesNow (entry20 0x15 5 4) 0x15 && leavesNow [0x16] 0x16 && leavesNow readEntry 0x16) = true ∧
    (queue? (waiting []) 0 2).isNone = true ∧
    ringsOk (waiting []) 0 [] (newQueue (waitingCmd (entry18 0x26 2 ++ List.replicate 5 0 ++ [3]))) = true ∧
    (queue? (waiting []) 0 5).any (fun x => x.destroyer.isNone && x.owed.isEmpty && x.fetch == 2 && x.wp == 4 &&
      oldestPos (waiting []) 0 5 x == 2) = true ∧ queueCmds (waiting (entry18 0x27 5)) 0 5 = [] ∧
    readFails (waiting readEntry) (waitingCmd readEntry) none = none ∧ cf (waitingCmd readEntry) 6 1 = 1 ∧ cf (waitingCmd readEntry) 0x1A 2 = 1 ∧
    hostShut (waiting readEntry) 0 = false ∧ (List.range 8).all (fun k => [1, 2, 3].all fun need => [true, false].all fun st =>
      xlate (waiting readEntry) 0 k need st == .ok (.hbm k)) = true := by decide +kernel

/-- A MAP (kind 1) of one page at 16 MiB to host memory; the same words with another opcode, kind and address. -/
def mapEntry (op kind perm : Byte) (va n : Nat) : List Byte := [op, 0, 0, 0, 0, 0, kind, perm] ++ List.replicate 16 0 ++ natLe 8 va ++ natLe 8 n
theorem wit_MapsOfABay :
    let host := mapEntry 0x20 1 3 0x1000000 0x1000
    let dev := mapEntry 0x20 0 3 0x1000000 0x200000
    let un := mapEntry 0x21 0 0 0x200000 0x200000
    let cut := mapEntry 0x21 0 0 0x200000 0x1000
    let inv := mapEntry 0x22 3 0 0x200000 0x1000
    (leavesNow host 0x20 && leavesNow dev 0x20 && leavesNow un 0x21 && leavesNow cut 0x21 && leavesNow inv 0x22 && leavesNow [0x22] 0x22 && leavesNow [0x20] 0x20) = true ∧
    mapRefusal (waiting host) (waitingCmd host) = none ∧ mapRefusal (waiting dev) (waitingCmd dev) = none ∧ mapRefusal (waiting [0x20]) (waitingCmd [0x20]) = some 0x23 ∧
    (placeAll 0 3 [8] (waiting dev)).isSome = true ∧ within 512 512 512 512 = true ∧ (pagesMeet 512 1 512 512 && !within 512 1 512 512) = true ∧
    (bayCmds (waiting inv) 0).all (fun d => d.st != .running && d.st != .committing) = true ∧ copyHolds (waiting inv) 0 1 512 1 = false := by decide +kernel

/-- A STREAM_ADMIN entry: the operation, the stream, then the fields from 0x1C. -/
def adminEntry (op n : Byte) (rest : List Byte) : List Byte := [0x24, 0, 0, 0, 0, 0, op] ++ List.replicate 17 0 ++ [n, 0, 0, 0] ++ rest
/-- The state of `waiting` with a served model, a remote mapping, a spill range and a stream that steps. -/
def streamState (entry : List Byte) : State :=
  modBay 0 (fun y => { y with
    mem := { y.mem with maps := [{ page := 0x8000, pages := 512, perm := 3, tgt := .remote 2 0 0 }] }
    strm := { y.strm with models := [{ id := 1 }], spills := [(3, { va := 0x8100000, size := 4096 })]
                          streams := tput 10 { state := .stepping } y.strm.streams } }) (waiting entry)
/-- Whether its command meets the premises. -/
def adminNow (entry : List Byte) (op : Nat) : Bool :=
  (streamState entry).start.powered && cmd? (streamState entry) 0 == some (waitingCmd entry) && opc (waitingCmd entry) == 0x24 &&
    mayLeave (streamState entry) (waitingCmd entry) && (queue? (streamState entry) 0 0).isSome && cf (waitingCmd entry) 6 1 == op
/-- An OPEN of stream 20 for model 1 with a limit of 512 tokens. -/
def openEntry : List Byte := adminEntry 0 20 (natLe 2 1 ++ natLe 2 0xFFFF ++ natLe 4 0 ++ natLe 4 512)
/-- A SPILL_ADD of range 5 of one page at 128 MiB. -/
def spillEntry : List Byte := adminEntry 9 0 (List.replicate 6 0 ++ [5] ++ List.replicate 13 0 ++ natLe 8 0x8000000 ++ natLe 8 4096)
theorem wit_StreamAdministration :
    ((List.range 11).all fun k => adminNow (adminEntry (BitVec.ofNat 8 k) 7 []) k) = true ∧ (stream (streamState []) 0 7).state = .idle ∧
    (stream (streamState []) 0 99).state = .free ∧ openOk (streamState openEntry) (waitingCmd openEntry) = true ∧
    openIndex (streamState openEntry) (waitingCmd openEntry) = some 20 ∧ openOk (streamState []) (waitingCmd (adminEntry 0 7 [])) = false ∧
    pinnedStream (streamState []) 0 7 = false ∧ streamCmds (streamState (adminEntry 1 7 [])) 0 7 = [] ∧ pinnedStream (streamState []) 0 10 = true ∧
    4194304 < cf (waitingCmd (adminEntry 5 7 (List.replicate 12 0 ++ natLe 4 0xFFFFFFFF))) 0x28 4 ∧
    cf (waitingCmd (adminEntry 6 7 [0, 0, 0xFF, 0xFF])) 0x1E 2 = 0xFFFF ∧ buttressSealed (streamState []) 0 7 = false ∧
    firstFault (streamState []) 0 0 64 2 false = none ∧ usedRanges (streamState []) 0 = [] ∧ (bay (streamState []) 0).strm.batches = [] ∧
    remoteRange (streamState []) 0 0x8000000 4096 = true ∧ cf (waitingCmd spillEntry) 0x22 1 = 5 ∧ cf (waitingCmd spillEntry) 0x30 8 = 0x8000000 ∧
    tget 5 (bay (streamState []) 0).strm.spills = none ∧ (tget 3 (bay (streamState []) 0).strm.spills).isSome = true ∧
    spillSlabs (streamState []) 0 3 = [] := by decide +kernel

/-- A MODEL_LOAD_SEALED entry: operation, model ID, key handle, address, bytes. -/
def modelEntry (op : Byte) (id key va n : Nat) : List Byte :=
  [0x25, 0, 0, 0, 0, 0, op] ++ List.replicate 17 0 ++ natLe 4 id ++ natLe 4 key ++ natLe 8 va ++ natLe 8 n
/-- A sealed image of 336 bytes with an empty payload; its manifest is 64 bytes of ciphertext. -/
def sealImage : List Byte :=
  padTo 336 (natLe 4 0x57535846 ++ natLe 2 1 ++ natLe 2 0 ++ natLe 8 336 ++ natLe 4 64 ++ natLe 4 1048576)
/-- The state of `waiting` with a key under handle 1, models 1 and 2, the second in use, and the image at device address 0. -/
def modelState (entry : List Byte) : State :=
  let s := modBay 0 (fun y => { y with strm := { y.strm with
    keys := [(1, 0, 0)], models := [{ id := 1 }, { id := 2 }], streams := [(0, { state := .idle, modelId := 2 })] } }) (waiting entry)
  { s with mem := { s.mem with hbm := mputs 0 sealImage [] } }
theorem wit_SealedModels :
    [modelEntry 0 9 7 0 336, modelEntry 0 1 1 0 336, modelEntry 0 9 1 0 336, modelEntry 1 9 0 0 0, modelEntry 1 2 0 0 0, modelEntry 1 1 0 0 0].all (fun e =>
      let s := modelState e
      s.start.powered && cmd? s 0 == some (waitingCmd e) && opc (waitingCmd e) == 0x25 && mayLeave s (waitingCmd e) && (queue? s 0 0).isSome) = true ∧
    takeVa (modelState []) 0 {} 0 336 = .bytes sealImage ∧ (sealHead (sealImage.take 256) 336).any (fun hd => hd.keyId == 0) = true ∧
    modelInUse (modelState []) 0 2 = true ∧ modelInUse (modelState []) 0 1 = false ∧ (model? (modelState []) 0 1).isSome = true ∧
    model? (modelState []) 0 9 = none := by decide +kernel

/-- Stream 7 of model 1 (one layer, one head, 32 values of 8 bits) has row 0; a batch of it has committed, slab 0 moves, and command 0 walks it. -/
def walkState : State :=
  let c : Cmd := { oneLaunch with batch := some 1, walk := some { batch := 1 } }
  { oneCommand 0 {} c with
    bays := { all := [(0, { st := .attached, strm := {
      models := [{ id := 1, layers := 1, hkv := 1, kvFmt := 1, d := 32 }]
      streams := [(7, { state := .stepping, modelId := 1, root := 0, tail := 0, mLen := 2 })]
      slabs := [(0, { loc := .valid, last := true, stream := 7, fill := 2, vaPage := 2 ^ 36, moving := some (2 ^ 48 + 4096) })]
      batches := [{ id := 1, model := 1, members := [{ strm := 7, pos := 2 }], committed := true }] } })] } }
theorem wit_StreamsAndSlabs :
    walkState.start.powered = true ∧ ((bay walkState 0).strm.batches.find? fun x => x.committed && x.members.any fun k => k.strm == 7 && !k.masked && !k.appended).isSome = true ∧
    (model? walkState 0 1).isSome = true ∧ rowAt walkState 0 7 false 0 = some 0 ∧ (panelIds (cmdD walkState 0))[0]? = some 0 ∧
    (batch? walkState 0 1).any (fun y => (chunkPieces walkState 0 y { batch := 1 } 0 0).length == 1) = true ∧ (ash walkState 0).run = .running ∧
    (batch? walkState 0 1).any (fun y => recPoisoned walkState 0 y { id := 1, layers := 1, hkv := 1, kvFmt := 1, d := 32 } 0 0) = false ∧
    inJoint (ash walkState 0) 0 128 = false ∧ leNat (mread (ash walkState 0).spad 8 8) = 0 ∧ (slab walkState 0 0).moving = some (2 ^ 48 + 4096) ∧
    (slab walkState 0 0).loc = .valid ∧ (stream walkState 0 7).state = .stepping ∧ 7 < streamsPerBay walkState := by decide +kernel

/-- Extent 1 of bay 0 moves from frame 1 to frame 3, its first copy done, in a closing window at an epoch boundary. -/
def moving (round : Nat) : State :=
  { State.reset with lift := { serving := true, window := .closing, num := 16 }
                     bays := { all := [(0, { st := .attached, mem := { extents := [(1, { home := .hbm 1, rd := 3, heat := 10, move := some { dst := .hbm 3, round := round } })] } })] } }
theorem wit_MovesOfExtents :
    (moving 1).start.powered = true ∧ (moving 1).lift.serving = true ∧ (moving 1).lift.num % 16 = 0 ∧ (moving 1).mem.epochAt ≠ some 16 ∧ mayMove (moving 0) 0 = true ∧
    extent? (moving 1) 0 1 = some { home := .hbm 1, rd := 3, heat := 10, move := some { dst := .hbm 3, round := 1 } } ∧
    maySwitch (moving 1) 0 1 { home := .hbm 1, rd := 3, heat := 10, move := some { dst := .hbm 3, round := 1 } } { dst := .hbm 3, round := 1 } = true ∧
    homePoisoned (moving 1) 0 (.hbm 1) = false ∧ Memory.wf (moving 1).mem.hbm = true := by decide +kernel

/-- Mailbox `x` holds a request, at the head of the order, with its payload; the mailbox is served by firmware. -/
def oneRequest (x msg target : Nat) (p : List Byte) : State :=
  { State.reset with
    boxes := { all := [(x, { ready := true, busy := true, area := mputs 0 (natLe 2 msg ++ [2, 1] ++ natLe 4 77 ++ natLe 4 p.length ++ natLe 4 target ++ natLe 48 0 ++ p) [] })]
               order := [x] }
    bays := { vfEnable := true, numVfs := 1, all := [(0, { st := .attached, eqi := { negDone := true, major := 3, minor := 4 } })] } }
/-- Whether that request is at the head and served, or refused with a code. -/
def servedNow (s : State) (x msg : Nat) : Bool := s.start.powered && decide (x ≤ maxBays s) && s.boxes.order.head? == some x && (reqOf s x).msg == msg && (refusal s x (reqOf s x)).isNone
theorem wit_RequestsRefused :
    let s := oneRequest 1 0x300 0 []
    s.start.powered = true ∧ s.boxes.order.head? = some 1 ∧ (reqOf s 1).msg = 0x300 ∧ refusal s 1 (reqOf s 1) = some 0x22 := by decide +kernel
/-- A bay's mailbox refuses a manager's message with PRIV_VIOLATION (R287, R292). -/
theorem test_refused : Answers (.bayCreate 1) (oneRequest 1 0x300 0 []) fun t => fld (mread (mbx t 1).area 0x800 64) 2 2 = 0x22 := ⟨_, rfl, by decide +kernel⟩

/-- An ATTACH payload with rings of 64 entries in host memory. -/
def attachPayload : List Byte := [0, 6, 6, 3, 0, 0, 0, 0] ++ natLe 8 4096 ++ natLe 8 8192
/-- The request of mailbox 1 with bay 0 in another state. -/
def bayRequest (msg : Nat) (st : BayState) (p : List Byte) : State :=
  modBay 0 (fun y => { y with st := st, mem := { y.mem with extents := [(0, { home := .hbm 0 })] }, strm := { y.strm with keys := [(1, 0, 0)], nextKey := 2 } }) (oneRequest 1 msg 0 p)
theorem wit_BayMessages :
    (servedNow (bayRequest 1 .created []) 1 1 && servedNow (bayRequest 0x100 .created attachPayload) 1 0x100 && servedNow (bayRequest 0x100 .resetting attachPayload) 1 0x100 &&
      servedNow (bayRequest 0x100 .attached attachPayload) 1 0x100 && servedNow (bayRequest 0x101 .attached (natLe 8 64 ++ natLe 4 16)) 1 0x101 &&
      servedNow (bayRequest 0x102 .attached (natLe 8 0 ++ natLe 4 95)) 1 0x102 && servedNow (bayRequest 0x102 .attached (natLe 8 0 ++ natLe 4 96)) 1 0x102 &&
      servedNow (bayRequest 0x103 .attached (natLe 4 1)) 1 0x103 && servedNow (bayRequest 0x103 .attached (natLe 4 9)) 1 0x103) = true ∧
    ringsOk (bayRequest 0x100 .created attachPayload) 0 [] (attachQueue attachPayload) = true ∧
    (readVa (bayRequest 0x102 .attached []) 0 {} false 0 96).isSome = true ∧ poisonVa (bayRequest 0x102 .attached []) 0 0 96 = none := by decide +kernel

/-- A placement request of bay 0's mailbox; the bay has a pin, a window and an extent. -/
def bondRequest (x msg : Nat) (p : List Byte) : State :=
  modBay 0 (fun y => { y with mem := { y.mem with
    extents := [(0, { home := .hbm 0, heat := 9 })], pins := [{ handle := 1, byMgr := x == 0, ext0 := 5, exts := 1, settled := true }], nextHandle := 2
    windows := [(2, { ep := 1, win := 0, off := 0, len := 2 ^ 21 })] } }) (oneRequest x msg 0 p)
/-- A BOND_PIN of extent 0 to HBM. -/
def pinPayload : List Byte := natLe 8 0 ++ natLe 8 (2 ^ 21) ++ natLe 8 0
theorem wit_BondMessages :
    (servedNow (bondRequest 1 0x200 pinPayload) 1 0x200 && servedNow (bondRequest 1 0x201 (natLe 4 1)) 1 0x201 && servedNow (bondRequest 1 0x202 [0, 0, 0, 0, 0, 0, 1, 1]) 1 0x202 &&
      servedNow (bondRequest 1 0x203 [0, 0]) 1 0x203 && servedNow (bondRequest 1 0x204 [1, 0]) 1 0x204 && servedNow (bondRequest 1 0x204 [0, 1]) 1 0x204 &&
      servedNow (bondRequest 1 0x205 (natLe 8 0 ++ natLe 4 1)) 1 0x205 && servedNow (bondRequest 0 0x206 (natLe 8 3 ++ natLe 8 0 ++ natLe 8 (2 ^ 21))) 0 0x206 &&
      servedNow (bondRequest 0 0x207 (natLe 4 2)) 0 0x207) = true ∧
    pinRefused (bondRequest 1 0x200 pinPayload) 0 none 0 1 = none ∧ (pinRefused (bondRequest 1 0x200 pinPayload) 0 (some 7) 0 1).isSome = true ∧
    ((bay (bondRequest 1 0x201 []) 0).mem.pins.any fun p => p.handle == 1 && p.byMgr == false) = true ∧
    0 < queuesPerBay (bondRequest 1 0x202 []) ∧
    someCell (bondRequest 1 0x202 []) [conOf 1 2 [0, 0, 0, 0, 0, 0, 1, 1]] = true ∧ windowTaken (bondRequest 0 0x206 []) 3 0 0 (2 ^ 21) = false ∧
    freeSlot (bondRequest 0 0x207 []) 0 = some 0 ∧ tget 2 (bay (bondRequest 0 0x207 []) 0).mem.windows = some { ep := 1, win := 0, off := 0, len := 2 ^ 21 } := by decide +kernel

/-- A manager request with an image staged, or under the boot ROM. -/
def mgrRequest (msg : Nat) (boot : Bool) (p : List Byte) : State :=
  let s := oneRequest 0 msg 0xFFFFFFFF p
  { s with fw := { staged := if boot then none else some {}, running := !boot }
           boxes := { s.boxes with all := s.boxes.all.map fun e => (e.1, { e.2 with boot := boot }) } }
/-- The end of a STORE in slot 1 of the manager mailbox, and a slot that has ended. -/
def storing : State :=
  { State.reset with boxes := { all := [(0, { ops := [(1, { kind := .store }), (2, { running := false })], opDone := 4 })] }
                     foot := { State.reset.foot with marker := some 3, journal := [(16, 100)] } }
theorem wit_StoreAndFirmware :
    (servedNow (mgrRequest 0x600 false []) 0 0x600 && servedNow (mgrRequest 0x600 true []) 0 0x600 && servedNow (mgrRequest 0x601 false []) 0 0x601 &&
      servedNow (mgrRequest 0x602 false [0]) 0 0x602 && servedNow (mgrRequest 0x603 false ([0x10, 0, 2, 0, 0, 0, 0, 0] ++ natLe 2 200)) 0 0x603 &&
      servedNow (mgrRequest 0x603 false ([0x10, 0, 2, 0, 0, 0, 0, 0] ++ natLe 2 7)) 0 0x603 && servedNow (mgrRequest 0x604 false []) 0 0x604 &&
      servedNow (mgrRequest 0x605 false []) 0 0x605) = true ∧
    exclusiveBusy (mgrRequest 0x605 false []) = false ∧ freeSlot (mgrRequest 0x605 false []) 0 = some 0 ∧
    writeOk (mgrRequest 0x603 false []) 0x10 2 (mputs 0x10 (natLe 2 200) factoryRecord) = true ∧
    writeOk (mgrRequest 0x603 false []) 0x10 2 (mputs 0x10 (natLe 2 7) factoryRecord) = false ∧
    tget 1 (mbx storing 0).ops = some { kind := .store } ∧ bit (mbx storing 0).opDone 1 = false ∧ storing.foot.marker ≠ none := by decide +kernel
/-- An image that passes and one whose signature fails: the record's fw_min_svn is 0 whatever its crc. -/
theorem wit_StoreAndFirmware_image : let s := mgrRequest 0x600 false []
    imageOk s (reqOf s 0) { svn := 1 } = true ∧ imageOk s (reqOf s 0) { sigOk := false } = false := by
  intro s
  have h : storedMinSvn s = 0 := by
    unfold storedMinSvn
    rw [show leNat (mread s.foot.record 0x14 4) = 0 by decide +kernel]
    exact ite_self 0
  have a : fld (reqOf s 0).p 0 8 = 0 := by decide +kernel
  have n : fld (reqOf s 0).p 8 4 = 0 := by decide +kernel
  exact ⟨by simp [imageOk, h, a, n], by simp [imageOk]⟩

/-- The request of the manager's mailbox about bay 0 in some state; a running command of the bay, a frozen queue, and operations in slots 1
and 2. -/
def lifeRequest (msg : Nat) (st : BayState) : State :=
  let s := oneRequest 0 msg 0 []
  let c : Cmd := { cid := 5, bay := 0, queue := 3, entry := [1] ++ List.replicate 63 0, st := if st = .quiesced then .frozen else .running }
  { modBay 0 (fun y => { y with st := st, quiesceOps := [1], resetOp := some 2, eqi := { y.eqi with queues := [(3, { frozen := true })] } }) s with
    cmds := { all := if st = .quiescing then [] else [(5, c)], next := 6 }
    mem := { s.mem with hbm := [(64, 7)], wins := [(4, { frozen := true })] }
    boxes := { s.boxes with all := s.boxes.all.map fun e => (e.1, { e.2 with ops := [(1, { kind := .quiesce 0 }), (2, { kind := .bayReset 0 })] }) } }
/-- What the statement asks of the requests it covers. -/
def lifeServed (msg : Nat) (st : BayState) : Bool := let s := lifeRequest msg st; servedNow s 0 msg && reqBay 0 (reqOf s 0) == 0 && freeSlot s 0 == some 0
theorem wit_BayLifecycle :
    (servedNow (modBay 0 (fun y => { y with st := .absent }) (oneRequest 0 0x300 0 [])) 0 0x300 && lifeServed 0x300 .attached && lifeServed 0x301 .attached &&
      lifeServed 0x301 .quiesced && lifeServed 0x302 .quiesced && lifeServed 0x302 .attached && lifeServed 0x303 .created && lifeServed 0x304 .quiesced &&
      lifeServed 0x304 .resetting) = true ∧
    bayDrained (lifeRequest 0x301 .quiescing) 0 = true ∧ (∀ e ∈ (lifeRequest 0x301 .attached).cmds.all, e.2.cid = e.1) ∧
    bit (mbx (lifeRequest 0x301 .quiescing) 0).opDone 1 = false := by decide +kernel

/-- Four bays, one attached, one in reset work, with a running interface. -/
def fourBays : State :=
  { State.reset with
    bays := { count := 4, vfEnable := true, numVfs := 4, all := [(1, { st := .attached, bar := 4096, memSpace := true }), (2, { st := .resetting }), (3, { st := .created })] }
    sec := { tdi := [(1, { st := .run })] }
    irq := { msix := [(2, { enable := true, fmask := true, unmasked := [3], pba := [3, 4] })] } }
theorem wit_HostAndBays : fourBays.start.powered = true ∧ 1 ≤ fourBays.bays.count ∧ fourBays.bays.count < 17 ∧
    Answers (.numvfsWrite 1) fourBays fun t => (bay t 1).st = .absent ∧ (bay t 2).toAbsent = true := ⟨rfl, by decide, by decide, _, rfl, by decide +kernel⟩
/-- An interrupt that a Function Mask held is sent when it opens (R526). -/
theorem test_function_mask : Answers (.hostConfigWrite 2 (.functionMask false)) fourBays fun t => t.out.log = [.msix 2 3 (some 7)] ∧ (tgetD 2 t.irq.msix {}).pba = [4] :=
  ⟨_, rfl, by decide +kernel⟩

/-- A request of the manager about the whole block, with an anchored collective or a scrub pass in progress. -/
def wholeRequest (msg : Nat) (p : List Byte) (anchored pass : Bool) : State :=
  let s := oneRequest 0 msg 0xFFFFFFFF p
  { s with
    cmds := if anchored then { all := [(1, { cid := 1, bay := 0, queue := 0, st := .anchored, entry := [3] ++ List.replicate 39 0 ++ natLe 4 1000000 ++ List.replicate 20 0 })], next := 2 } else {}
    ras := if pass then { pass := some { start := 0, len := 512, summaryVa := 0 } } else {} }
theorem wit_ManagerSettings :
    (servedNow (wholeRequest 0x400 (natLe 2 50) false false) 0 0x400 && servedNow (wholeRequest 0x400 (natLe 2 50) true false) 0 0x400 &&
      servedNow (wholeRequest 0x401 (natLe 2 900) false false) 0 0x401 && servedNow (wholeRequest 0x402 (natLe 2 300) false false) 0 0x402 &&
      servedNow (wholeRequest 0x403 (natLe 8 0 ++ natLe 8 4096) false false) 0 0x403 && !(mbx (wholeRequest 0x403 (natLe 8 1 ++ natLe 8 4096) false false) 0).boot &&
      (reqOf (wholeRequest 0x403 (natLe 8 1 ++ natLe 8 4096) false false) 0).minor == 2 && (reqOf (wholeRequest 0x403 (natLe 8 1 ++ natLe 8 4096) false false) 0).major == 1 &&
      servedNow (wholeRequest 0x403 (natLe 8 0 ++ natLe 8 4096) false true) 0 0x403 && servedNow (wholeRequest 0x404 (natLe 4 1000) false true) 0 0x404 &&
      servedNow (wholeRequest 0x404 (natLe 4 0xFFFFFFFF) false true) 0 0x404) = true ∧
    ((wholeRequest 0x400 [] true false).cmds.all.any fun e => e.2.st == .anchored && decide (budgetAt 50 0 < boundLeft (wholeRequest 0x400 [] true false) e.2)) = true ∧
    scrubRangeOk (wholeRequest 0x403 [] false false) false 0 4096 = true ∧ scrubRangeOk (wholeRequest 0x403 [] false false) false 1 4096 = false ∧
    freeSlot (wholeRequest 0x403 [] false false) 0 = some 0 ∧ rateTooHigh (wholeRequest 0x404 [] false true) 1000 = false ∧
    rateTooHigh (wholeRequest 0x404 [] false true) 0xFFFFFFFF = true := by decide +kernel

/-- A request of the manager with a dump held, bay 0 in some state, and perhaps a RESET_FULL in progress. -/
def resetRequest (msg : Nat) (p : List Byte) (st : BayState) (inProgress : Bool) : State :=
  let s := modBay 0 (fun y => { y with st := st }) (wholeRequest msg p false false)
  { s with
    dump := { present := true, head := { format := 1, lift := 9 } }
    sec := { sessions := [(0, {})], tdi := [(0, { st := .run })] }
    boxes := if inProgress then { s.boxes with all := s.boxes.all.map fun e => (e.1, { e.2 with ops := [(1, { kind := .resetFull })] }) } else s.boxes }
theorem wit_ManagerResets :
    (servedNow (resetRequest 0x500 [] .quiesced false) 0 0x500 && servedNow (resetRequest 0x501 [] .quiesced false) 0 0x501 &&
      servedNow (resetRequest 0x500 [] .quiesced true) 0 0x500 && servedNow (resetRequest 0x501 [] .quiesced true) 0 0x501 &&
      servedNow (resetRequest 0x502 [] .quiesced false) 0 0x502 && servedNow (resetRequest 0x502 [] .attached false) 0 0x502 &&
      servedNow (resetRequest 0x502 [] .quiesced true) 0 0x502 && servedNow (resetRequest 0x503 [] .quiesced false) 0 0x503 &&
      servedNow (resetRequest 0x504 [] .quiesced false) 0 0x504 && servedNow (resetRequest 0x505 (natLe 8 0 ++ natLe 4 64) .quiesced false) 0 0x505 &&
      servedNow (resetRequest 0x505 (natLe 8 0 ++ natLe 4 65) .quiesced false) 0 0x505 && servedNow (resetRequest 0x506 [] .quiesced false) 0 0x506) = true ∧
    exclusiveBusy (resetRequest 0x500 [] .quiesced false) = false ∧ exclusiveBusy (resetRequest 0x500 [] .quiesced true) = true ∧
    freeSlot (resetRequest 0x500 [] .quiesced false) 0 = some 0 ∧ dumpSize (resetRequest 0x505 [] .quiesced false).dump = 64 := by decide +kernel

/-- Two bays attached, the second with its function in D3hot; mailbox 0 ready. -/
def twoBays : State :=
  { State.reset with
    bays := { count := 2, all := [(0, { st := .attached, overrun := 3, eqi := { sync := [(1, 5)] } }), (1, { st := .attached, d3 := true })] }
    boxes := { all := [(0, { ready := true, area := [(0, 1)] })] }
    dev := { mgrEv := { prod := 4 } }, stat := { overrun := 7 }, irq := { lock := true } }
theorem wit_RegisterAccesses :
    windowOpen twoBays (.bay 1) = false ∧ winOk twoBays (.bay 1) = true ∧ (∀ w ∈ [ringWin .mgrEvents, ringWin .ras, ringWin (.bayEvents 0)], windowOpen twoBays w = true) ∧
    bayServes twoBays 0 0x80044 = true ∧ syncView twoBays 0x1000008 = some (0, 1) ∧ syncView twoBays 8 = none ∧ bayServes twoBays 0 0x8000C = true ∧
    latches .manager 8 = false ∧ bayServes twoBays 0 0x80020 = true ∧ areaBytes .manager 2 4 twoBays = none ∧ bit (1 % 2 ^ 32) 0 = true ∧
    (msgInfo (reqOf twoBays 0).msg).isSome = true ∧ bayServes twoBays 0 0x1FFF = true ∧ areaBytes .manager 0 1 twoBays = none ∧ twoBays.irq.lock = true := by decide +kernel
/-- A read of LIFT_STAT's counters answers them and clears them (R17, R154). -/
theorem test_rc_read : Answers (.rcRead .manager 0x600020 4) twoBays fun t => t.out.log = [.reply (natLe 4 7) false] ∧ t.stat.overrun = 0 := ⟨_, rfl, by decide +kernel⟩

/-- Source 8 and the sources of bay 0 pending and enabled, line 0 held at its active level, a handler on core 1. -/
def irqState : State :=
  { State.reset with irq :=
    { pend := [0, 1, 8, 40], en := [0, 1, 8, 40, 129], act := [129], cores := [(1, [129])], owed := [(0, [3, 5])]
      ext := [(0, { raw := true, filtered := true, level := true })]
      msix := [(0, { enable := true, unmasked := [0] }), (1, { enable := true, unmasked := [3], pba := [4] })] }
                     bays := { all := [(0, { st := .attached })] } }
theorem wit_InterruptCommands :
    mostUrgent irqState (eligible irqState 0) = some 40 ∧ mayTake irqState 0 40 = true ∧ mostUrgent irqState (eligible irqState 2) = none ∧
    tgetD 1 irqState.irq.cores [] = [129] ∧ tgetD 0 irqState.irq.cores [] = [] ∧ mostUrgent irqState (relayReady irqState) = some 0 ∧
    mostUrgent State.reset (relayReady State.reset) = none ∧ srcBay 0 = some 0 ∧ discardsFn irqState 1 = false := by decide +kernel

/-- Firmware runs, the identity store is locked with a chain of one byte, and sessions 1 (open) and 2 (in its handshake) exist. -/
def spdmState : State :=
  { State.reset with
    fw := { active := some {}, running := true }, ident := { uds := some 5, chain := [1], locked := true }
    sec := { version := true, algs := true, aliasKey := some 7, sessions := [(1, { finished := true }), (2, {})], ide := [(0, { secure := true, keys := [(0, 9)] }), (2, { keys := [(6, 9)], active := [(1, 1), (2, 1), (3, 1), (4, 1), (5, 1)] })], tdi := [(0, { st := .run, stream := 0 })] }
    bays := { all := [(0, { st := .attached, memSpace := true })] } }
theorem wit_SpdmRequests :
    spdmOpen State.reset = false ∧ State.reset.start.powered = true ∧ spdmOpen spdmState = true ∧ onConnection spdmState none = true ∧ onConnection spdmState (some 1) = true ∧
    freeSession spdmState = some 3 ∧ openSession spdmState 1 = true ∧ openSession spdmState 2 = false ∧ tget 2 spdmState.sec.sessions = some {} ∧
    freeSession { spdmState with sec := { spdmState.sec with sessions := [(1, {}), (2, {}), (3, {}), (4, {})] } } = none := by decide +kernel
theorem wit_SpdmRequests_slot : 0 < (slot0 spdmState).length := by simp [slot0, spdmState]
theorem wit_SpdmRequests_out : onConnection { spdmState with sec := { spdmState.sec with algs := false } } none = false ∧ algsOk { asym := 0x80, hash := 2, dhe := 16, aead := 2 } = true := by decide
/-- A request of a session that is still in its handshake is refused (R342). -/
theorem test_bad_session : Answers (.heartbeat 2) spdmState fun t => t.out.log = [.spdmError 2] := ⟨_, rfl, by decide +kernel⟩

/-- The interface of bay 0 in some state, the bay attached or in reset work. -/
def tdiState (st : TdiState) (y : BayState) (stopping : Bool) : State :=
  { spdmState with
    sec := { spdmState.sec with tdi := [(0, { st := st, stream := 0, stopping := stopping })] }
    bays := { all := [(0, { st := y, memSpace := true })] } }
theorem wit_IdeAndTdisp :
    spdmOpen spdmState = true ∧ openSession spdmState 1 = true ∧ (ide spdmState 0).secure = true ∧ (ide spdmState 1).secure = false ∧
    lockable (tdiState .unlocked .attached false) 0 0 = true ∧ lockable (tdiState .run .attached false) 0 0 = false ∧ (tdi (tdiState .locked .attached false) 0).st = .locked ∧
    (tdi (tdiState .run .resetting true) 0).stopping = true ∧ spdmOpen (tdiState .run .resetting true) = true ∧
    (tget 0 (ide spdmState 0).keys).isSome = true ∧ (tget 6 (ide spdmState 2).keys).isSome = true ∧ spdmState.sec.repointing = false := by decide +kernel
/-- A locked interface that the host stops waits for its bay's reset work (R357). -/
theorem test_stop_interface : Answers (.stopInterfaceRequest 1 0) (tdiState .run .attached false) fun t => t.out.log = [NotReady] ∧ (tdi t 0).st = .run :=
  ⟨_, rfl, by decide +kernel⟩

/-- Repointing in phase `k`, its operation in slot 2 of the manager's mailbox, a bay with a key and an extent, a compute-part trigger waiting. -/
def repointState (k : Nat) : State :=
  { State.reset with
    sec := { repointing := true, phase := k, linksPending := 2, progLog := { count := 3 } }
    boxes := { all := [(0, { ops := [(2, { kind := .repoint })] })] }
    bays := { all := [(0, { st := .quiesced, strm := { keys := [(1, 0, 0)] }, mem := { extents := [(0, { home := .hbm 0 })] } })] }
    mem := { hbm := [(3, 1)], poison := [(9, 1)] }, quoin := [(1, { scrub := true, ready := true })], rst := { after := some 2 } }
theorem wit_Repointing :
    inPhase 1 (repointState 1) = true ∧ inPhase 2 (repointState 2) = true ∧ inPhase 3 (repointState 3) = true ∧ inPhase 4 (repointState 4) = true ∧
    inPhase 5 (repointState 5) = true ∧ inPhase 3 (repointState 5) = false ∧ opOf (repointState 5) .repoint = some (0, 2) ∧
    bit (repointState 5).sec.linksPending 1 = true ∧ (qport (repointState 5) 1).scrub = true ∧ (qport (repointState 5) 0).scrub = false ∧ 1 < quoinPorts (repointState 5) := by
  decide +kernel

/-- Port 1 up and keyed at revision 3, with one frame in its replay buffer. -/
def linkState : State :=
  { State.reset with kw := { epValid := true, ep := 7, ports := [(1, { st := .up, key := .keyed, rev := 3, sRx := 5, sTx := 9, replay := [(8, { kind := 9 })], credRsp := 4, credReq := 4 })] } }
/-- The same port in another state. -/
def linkIn (st : PortState) (key : KeyState) : State := modKw 1 (fun x => { x with st := st, key := key }) linkState
theorem wit_LinkFrames :
    linkUp (kport linkState 0) = false ∧ linkUp (kport linkState 1) = true ∧ discards (kport linkState 1) { vc := 3, seq := 4 } = true ∧
    takes linkState 1 fkIdle { vc := 3, seq := 5 } = true ∧ takes linkState 1 fkCredit { vc := 3, seq := 5, kind := 1 } = true ∧
    takes linkState 1 fkNak { vc := 3, seq := 5, kind := 2 } = true ∧ (kport (linkIn .training .none) 1).st = .training ∧ linkFld (linkIn .training .none) 1 0 = 1 ∧
    (let q := modKw 1 (fun x => { x with peerHello := [1] }) (linkIn .keying .none)
     (kport q 1).peerHello ≠ [] ∧ fld ({ data := [2] } : Frame).data 0 1 = 2) ∧ fld ({ data := [1] } : Frame).data 0 1 = 1 ∧ 1 < kwPorts linkState := by decide +kernel
/-- A port reports the last frame it accepted when it loses training (R412, R417). -/
theorem test_lane_lock : Answers (.laneLockLoss 1 0) linkState fun t => t.out.log = [.frame 1 { kind := 3, vc := 3, src := 7, full := 4 }] := ⟨_, rfl, by decide +kernel⟩

/-- Port 1 up, window 0 open on extent 0 of attached bay 0 for every endpoint, a READ of ashlar 0's tag 2 and an effect of command 5
outstanding. -/
def fabricState : State :=
  { linkState with
    bays := { all := [(0, { st := .attached, mem := { extents := [(0, { home := .hbm 0 })] } })] }
    mem := { hbm := [(8, 5)], wins := [(0, { perm := 15, len := 1, enabled := true })] }
    cmds := { all := [(5, { cid := 5, bay := 0, queue := 0, st := .committing, committed := true, copyOwed := true, remoteLeft := 2, effs := [(0, (1, false))] })], next := 6 }
    grid := { ashlars := [(0, { cid := 4, tags := [(2, { asked := 1 })] })] }
    kw := { linkState.kw with mark := 3, txns := [(9, { kind := fkRead, dst := 2, addr := 0, len := 64, mark := 3, owner := .dma 4 0 2 }),
                                                  (10, { kind := fkWrite, dst := 2, addr := 0, mark := 3, owner := .effect 5 0 })] } }
/-- A frame of a kind the port expects next. -/
def inFrame (kind vc tag addr : Nat) (d : List Byte) : Frame := { kind := kind, vc := vc, src := 2, tag := tag, mark := 3, seq := 5, addr := addr, data := d }
/-- The frames the clauses speak of. -/
def goodFrames : List Frame :=
  [inFrame fkRead 0 1 8 (natLe 2 16), inFrame fkWrite 0 1 8 [1, 2, 3], inFrame fkAtomic 0 1 8 (natLe 1 0 ++ natLe 1 6 ++ natLe 6 0 ++ natLe 8 7 ++ natLe 8 0),
   inFrame fkReduce 0 1 8 (natLe 1 0 ++ natLe 1 3 ++ natLe 6 0 ++ natLe 8 7)]
theorem wit_RequestFrames :
    goodFrames.all (fun f => (inboundsOf 1 f {}).any fun r => takes fabricState 1 r.kind f && !r.bad && winCheck fabricState f.src f.addr r.n r.op == some (0, 8) &&
      (poisonVa (afterMac false 0 8 r.n {} (took fabricState 1)) 0 8 r.n).isNone && !unavailable fabricState &&
      (poisonVa (afterMac false 0 8 r.n {} { took fabricState 1 with mem := { fabricState.mem with poison := [(0, 1)] } }) 0 8 r.n).isSome) = true ∧
    ((inboundsOf 1 (inFrame fkRead 0 1 8 (natLe 2 2049)) {}).any fun r => takes fabricState 1 r.kind (inFrame fkRead 0 1 8 (natLe 2 2049)) && r.bad) = true ∧
    winCheck fabricState 2 (2 ^ 40) 16 0 = none ∧ takes fabricState 1 fkReadData (inFrame fkReadData 1 9 0 [1]) = true ∧ takes fabricState 1 fkStatus (inFrame fkStatus 1 10 2 []) = true ∧
    freeTag fabricState 0 = some 0 ∧ unavailable { fabricState with rst := { oos := true } } = true ∧
    (tget 9 fabricState.kw.txns).any (fun x => stillWanted fabricState x && x.kind == fkRead && decide (x.tries < 3) && !stillWanted { fabricState with grid := {} } x) = true ∧
    fabricState.kw.again.isEmpty = true ∧ fabricState.start.powered = true ∧
    (cmd? { fabricState with cmds := { all := [(4, { cid := 4, bay := 0, queue := 0, st := .running })], next := 5 } } 4).any (·.cid == 4) = true ∧
    (ash fabricState 0).cid = 4 ∧ (tget 2 (ash fabricState 0).tags).isSome = true ∧ (cmd? fabricState 5).any (fun c => c.copyOwed && tgetD 0 c.effs (0, false) == (1, false)) = true ∧
    tget 11 fabricState.kw.txns = none := by decide +kernel

/-- Command 0 carries an ALL_REDUCE of 64 FP32 elements in a group of three (endpoints 1, 2 and 3, this member of rank `r`), over port 1. -/
def triple (r : Nat) (k : Col) (st : CmdState) : State :=
  let e := padTo 64 (natLe 1 opCollective ++ List.replicate 5 0 ++ [1, 1] ++ natLe 20 0 ++ [0, 0] ++ natLe 2 0 ++ natLe 8 192)
  { oneCommand 0 {} { cid := 0, bay := 0, queue := 0, st := st, placed := true, col := some k, entry := e } with
    kw := linkState.kw, arch := { groups := [(0, { gid := 1, bay := 0, members := 3, rank := r, eps := [1, 2, 3] })] } }
/-- A COL_ frame of that group, sequence number 0, from endpoint `src`. -/
def colFrame (kind vc src tag low : Nat) (d : List Byte) : Frame := { kind := kind, vc := vc, src := src, tag := tag, seq := 5, addr := 2 ^ 20 + low, data := d }
/-- A chunk sent to rank 2, `n` times. -/
def sentChunk (n : Nat) : Col := { verdict := .endpoint, sent := [{ dst := 2, xfer := 0, kind := fkColData, tries := n }], next := 1 }
theorem wit_CollectiveFrames :
    let s := triple 0 {} .running
    let u := triple 1 { sentUp := true } .anchored
    let v := triple 1 (sentChunk 1) .anchored
    let none_ := { s with cmds := {} }
    takes s 1 fkColHs (colFrame fkColHs 2 2 0 0 (natLe 9 1)) = true ∧ frameGroup s (colFrame fkColHs 2 2 0 0 []) = some (0, { gid := 1, bay := 0, members := 3, rank := 0, eps := [1, 2, 3] }) ∧
    frameCol none_ (colFrame fkColHs 2 2 0 0 []) = none ∧
    (let d := triple 1 {} .running
     frameGroup { d with cmds := {} } (colFrame fkColHs 2 1 0 0 [0]) == some (0, { gid := 1, bay := 0, members := 3, rank := 1, eps := [1, 2, 3] }) &&
       takes { d with cmds := {} } 1 fkColHs (colFrame fkColHs 2 1 0 0 [0]) && (colCtx d 0).any fun x => x.c.st == .running && rankOf x.g 1 == parentOf x.g) = true ∧ frameCol s (colFrame fkColHs 2 2 0 0 []) = some 0 ∧
    (colCtx s 0).any (fun x => x.c.cid == 0 && (childrenOf x.g).contains (rankOf x.g 2) && x.k.children.length + 1 < (childrenOf x.g).length) = true ∧
    (colCtx u 0).any (fun x => x.c.st == .anchored && x.g.rank == 1 && rankOf x.g 1 == parentOf x.g && waitsFor x 0 && !waitsFor x 2) = true ∧
    takes v 1 fkColData (colFrame fkColData 0 1 0 0 (natLe 64 0)) = true ∧
    (colCtx v 0).any (fun x => (recvIndex x 0 0).isSome && (recvIndex x 0 200).isNone && x.k.sent.any (fun k => k.dst == 2 && k.xfer == 0) &&
      ((recvIndex x 0 0).any fun j => ((recvsOf x x.k.verdict)[j]?).any fun r => decide (chunkLen x r = 256))) = true ∧
    (colCtx v 0).any (fun x => !allGathered x && x.k.held.isEmpty) = true ∧
    (colCtx (triple 1 { sentChunk 1 with gathered := [0] } .anchored) 0).any (fun x => allGathered x && (recvIndex x 0 0).isSome) = true ∧
    takes v 1 fkColAck (colFrame fkColAck 1 3 0 0 []) = true ∧ takes v 1 fkColNak (colFrame fkColNak 1 3 0 0 []) = true ∧
    takes v 1 fkColAbandon (colFrame fkColAbandon 2 3 0 0x51 []) = true ∧ takes v 1 fkColProbe (colFrame fkColProbe 0 3 0 0 []) = true ∧
    takes v 1 fkColIsr (colFrame fkColIsr 0 3 0 0 []) = true ∧
    (let r := triple 0 { children := [childOf 2 (colFrame fkColHs 2 3 0 0 (natLe 9 1))], gathered := [0] } .running
     (colCtx r 0).any (fun x => decide ((childrenOf x.g).length ≤ x.k.children.length + 1) && x.g.rank == 0 && !x.k.sentUp && allGathered x) &&
       takes r 1 fkColHs (colFrame fkColHs 2 2 0 0 (natLe 9 1))) = true ∧
    frameGroup { s with arch := {} } (colFrame fkColHs 2 2 0 0 []) = none ∧
    (let w := triple 1 { verdict := .endpoint } .committing
     takes w 1 fkColAbandon (colFrame fkColAbandon 2 3 0 0x51 []) && (colCtx w 0).any (fun x => x.c.st == .committing && !x.g.abandoned.any fun e => e.1 == 0)) = true := by decide +kernel

/-- A created bay, a staged group of two endpoints, the registers of a window on extent 0, which lives in a window of its own. -/
def tableState (busy : Bool) : State :=
  { linkState with
    bays := { all := [(0, { st := .created, mem := { extents := [(0, { home := .win 0 0 })] } })] }
    arch := { gid := 9, attr := 1 * 2 ^ 24 + 2 * 2 ^ 13, staging := [(0, 7), (1, 8)], groups := [(4, { gid := 1, bay := 0, members := 2, rank := 0, eps := [7, 5] })] }
    mem := { winLen := 1, winBusy := busy, wins := [(3, { bay := 0, len := 2, opening := true })] } }
theorem wit_TablesOfTheManager :
    bits 0x01000004 25 24 = 1 ∧ bits 0x02000000 25 24 = 2 ∧ bits 0x03000004 25 24 = 3 ∧ (group? (tableState false) 4).isSome = true ∧ group? (tableState false) 0 = none ∧
    createStatus (tableState false) 0 (stagedGroup (tableState false).arch) = 0 ∧ createStatus (tableState false) 4 (stagedGroup (tableState false).arch) = 1 ∧
    groupBusy (tableState false) 4 = false ∧ (tableState true).mem.winBusy = true ∧ enableStatus (tableState false) 0 (winRegs (tableState false) 0) = none ∧
    enableStatus State.reset 0 (winRegs State.reset 0) = some 1 ∧ (winAway (tableState false) (winRegs (tableState false) 0)).isEmpty = false ∧
    tget 3 (tableState false).mem.wins = some { bay := 0, len := 2, opening := true } := by decide +kernel

/-- Bay 0 attached with host page 7 mapped at page 512, a waiter for its translation, a fault record of cause 4 with one waiter. -/
def hostState : State :=
  let l : List Byte := [1] ++ List.replicate 63 0
  { State.reset with
    bays := { all := [(0, { st := .attached, mem := {
      extents := [(0, { home := .hbm 0 })], maps := [{ page := 512, pages := 2, perm := 3, tgt := .host (7 * 4096) }]
      atsWait := [(7, 5, 1, 512 * 4096, 1)], atc := [(9, 3, 9)], faults := [(2, { page := 513 * 4096, state := 2, cause := 4, need := 1, waiters := [6] })] },
                                     eqi := { queues := [(0, {})] } })] }
    cmds := { all := [(5, { cid := 5, bay := 0, queue := 0, st := .running, entry := l }), (6, { cid := 6, bay := 0, queue := 0, st := .faulted, entry := l })], next := 7 }
    mem := { hbm := [(8, 5)] } }
theorem wit_HostMemory :
    hostState.start.powered = true ∧ isF hostState = true ∧ (7, 5, 1, 512 * 4096, 1) ∈ (bay hostState 0).mem.atsWait ∧ (cmd? hostState 5).isSome = true ∧
    tget 2 (bay hostState 0).mem.faults = some { page := 513 * 4096, state := 2, cause := 4, need := 1, waiters := [6] } ∧ windowOpen hostState (.bay 0) = true ∧
    bit 0x80000002 31 = true ∧ bits 0x80000002 5 0 = 2 ∧ windowOpen hostState .manager = true ∧ aperture hostState 1 8 true = some (.hbm 8) ∧ (8, 3) ∈ pagesOf 8 3 ∧
    isEngineCmd (cmdD hostState 5) = true := by decide +kernel
/-- A bay's BAR2 reaches its own device memory (R391). -/
theorem test_bar2 : Answers (.bar2Write 1 8 [1, 2, 3] {}) hostState fun t => t.mem.hbm = [(8, 1), (9, 2), (10, 3)] := ⟨_, rfl, by decide +kernel⟩

/-- A pass over HBM or the scratchpads in slot 2, a poisoned block, lap 1 overdue, and a loaded model whose weights lie in the poisoned block; block 7 is free. -/
def passState (spad : Bool) : State :=
  { State.reset with
    boxes := { all := [(0, { ops := [(2, { kind := .scrub })] })] }
    bays := { all := [(0, { st := .attached, mem := { extents := [(0, { home := .hbm 0 })] },
                            strm := { models := [{ id := 4, weights := [(0, 4096, 0)] }], cache := [(6, true)], streams := [(6, { state := .idle })] } })] }
    mem := { poison := [(3, 1)], hbm := [(9, 9)] }
    ras := { pass := some { start := 0, len := 1048576, summaryVa := 4096, spad := spad, slot := 2 }, overdue := [1] } }
theorem wit_MemoryErrors :
    let s := passState false
    (tget 2 (mbx s 0).ops).isSome = true ∧ bit (mbx s 0).opDone 2 = false ∧ scrubHidden s { start := 0, len := 1048576, summaryVa := 4096 } = false ∧ poisonIn s 0 1048576 = [(3, 1)] ∧
    physReserved s (7 * 512) = false ∧ physReserved s (reservedBase s) = true ∧ reservedBase s % 512 = 0 ∧ reservedClass s (reservedBase s) = 4 ∧ 0 < streamsPerBay s ∧ (stream s 0 6).state ≠ .free ∧
    (blockClass s (7 * 512)).2 ≠ 7 ∧ (blockClass s (7 * 512)).2 ≠ 8 ∧ within 0 1048576 (7 * 512) 512 = true ∧ blockRead s (7 * 512) = true ∧ isLost s 0 = false ∧ (ash s 0).run = .idle ∧ tget 6 (bay s 0).strm.cache = some true ∧ tget (reservedBase s / 512) s.mem.poison = none ∧ ctxOn s 0 = none ∧ (panelIds (cmdD s (ash s 0).cid)).contains 0 = false ∧
    (model? s 0 4).any (fun m => segPoison s 0 m 0 != [] && !m.failedSegs.contains 0 && segPoison s 0 m 1 == []) = true ∧ model? s 0 9 = none ∧ bayCmds s 0 = [] ∧
    (model? s 0 4).any (fun m => (refetch s 0 m 0 {}).isNone) = true ∧ s.rst.now = none ∧ s.rst.want = none ∧ (stream s 0 6).state = .idle ∧ s.ras.overdue = [1] := by decide +kernel
/-- A pass over a share whose frame 9 is the home of context 4, and whose first staging frame holds what running command 5 has staged. -/
def homeState : State :=
  let s := passState false
  { s with
    cmds := { all := [(5, { cid := 5, bay := 0, queue := 0, st := .running, entry := 1 :: List.replicate 63 0, stageAt := [stagingBase s] })] }
    bays := { all := [(0, { st := .attached, strm := { ctxs := [{ handle := 4, w := 1, h := 1, home := [9] }] } })] }
    ras := { pass := some { start := 0, len := 2 ^ 40, summaryVa := 4096, slot := 2 } } }
/-- The first block of frame `f` of bay 0. -/
def frameBlock (f : Nat) : Nat := physOf homeState 0 f 0 / 512
theorem wit_MemoryErrors_share :
    let s := homeState
    let k := frameBlock (stagingBase s)
    [frameBlock 9, k].all (fun k => within 0 (2 ^ 40) (k * 512) 512 && blockRead s (k * 512) && (tget k s.mem.poison).isNone && !physReserved s (k * 512) &&
      bayOfPhys s (k * 512) == some 0 && (vaOfPhys s 0 (k * 512)).isNone) = true ∧
    (homeOf s 0 (frameBlock 9 * 512)).map (·.handle) = some 4 ∧ (bayCmds s 0).any (fun c => ctxOf c == 4) = false ∧ unmappedClass s 0 (k * 512) = 8 ∧
    bayCmds s 0 = [cmdD s 5] ∧ cmd? s 5 = some (cmdD s 5) ∧ stagedBy s 0 (k * 512) (cmdD s 5) = true := by decide +kernel

/-- A collective's running command and a quoin command on port 0, killed or not; perhaps an engine's reset, a compute-part reset, or an anchored collective. -/
def engineState (engines : List Engine) (now : Option Bool) (anchored killed : Bool) : State :=
  { State.reset with
    start := { powered := true, phase := 7, ready := true }
    fw := { running := true }
    cmds := { all := [(4, { cid := 4, bay := 0, queue := 0, st := if anchored then .anchored else .running, col := some { grp := 0, seq := 1 }, entry := [0x03] ++ List.replicate 63 0 }),
                      (5, { cid := 5, bay := 0, queue := 0, st := .running, entry := [0x02] ++ List.replicate 63 0 })], next := 6 }
    bays := { all := [(0, { st := .attached })] }
    dev := { fronts := [(0, { bay := 0, queue := 0 })] }
    quoin := [(0, { ready := true, registered := true, cid := if killed then none else some 5, killed := if killed then some 5 else none }), (1, {})]
    rst := { engines := engines.map fun e => { engine := e, time := 3 }, now := now.map fun f => { full := f, trigger := 1 } } }
theorem wit_EngineResets :
    (engineState [] none false true).start.powered = true ∧ engineOk (engineState [] none false true) (.quoin 0) = true ∧ anyAnchored (engineState [] none true true) = true ∧
    anyAnchored (engineState [] none false true) = false ∧ engineHits .arch (cmdD (engineState [] none false true) 4) = true ∧
    engineHits (.quoin 0) (cmdD (engineState [] none false true) 5) = true ∧ (qport (engineState [] none false true) 0).killed ≠ none ∧
    (qport (engineState [] none false false) 0).killed = none ∧ engineBack (engineState [.quoin 0] none false true) (.quoin 0) = true ∧
    engineBack (engineState [.quoin 1] none false true) (.quoin 1) = false ∧
    ((engineState [.arch] none false true).rst.engines.find? (fun r => r.engine == .arch)).isSome = true ∧ runsReset (engineState [.arch] (some false) false true) false = true ∧
    (engineState [.arch] (some false) false true).rst.want = none ∧ ctlKey 0x5AFE0003 = true ∧ ctlKey 0x5AFF0003 = false ∧ (0x5AFE0003 : BitVec 32).getLsbD 1 = true ∧
    (engineState [] none false true).fw.running = true ∧ (engineState [] none false true).start.ready = true ∧ State.reset.start.ready = false := by decide +kernel

/-- A serving block with a running command and a wanted or running reset. -/
def blockState (now want : Option (Bool × Nat)) (active : Bool) (histC : List Nat) : State :=
  let s := engineState [] none false false
  let r (x : Bool × Nat) : ResetNow := { full := x.1, trigger := x.2, counted := counts x.2 }
  { s with
    foot := { inForce := factoryOf s, record := factoryOf s }
    fw := { active := if active then some {} else none, staged := some { version := 5 }, running := true }
    bays := { count := 2, all := [(0, { st := .attached, strm := { keys := [(1, 0, 0)], models := [{ id := 2 }] } }), (1, { st := .resetting, toAbsent := true })] }
    boxes := { all := [(0, { ready := true, ops := [(1, { kind := .resetFull })] })] }
    rst := { now := now.map r, want := want.map r, histC := histC, histF := [0], named := [3, 4], time := 10 } }
theorem wit_BlockResets :
    let h := List.replicate 255 9
    (blockState none none true []).start.powered = true ∧ footFld (blockState none none true []) 0x28 1 ≤ withinWindow 10 (footFld (blockState none none true []) 0x2A 2 * 3600000000) ((10 :: h).take 255) ∧
    ¬ footFld (blockState none none true []) 0x28 1 ≤ withinWindow 10 (footFld (blockState none none true []) 0x2A 2 * 3600000000) (([10] : List Nat).take 255) ∧
    (blockState none (some (false, 1)) true []).rst.want = some { full := false, trigger := 1, counted := true } ∧ anyAnchored (blockState none (some (false, 1)) true []) = false ∧
    (blockState none (some (false, 1)) true []).kw.txns = [] ∧ shoredCmd (cmdD (blockState none none true []) 5) = true ∧ runsReset (blockState (some (true, 1)) none true []) true = true ∧
    runsReset (blockState (some (false, 1)) none true []) true = false ∧ (blockState (some (true, 9)) none true []).fw.staged.isSome = true ∧
    markFree (blockState none none true []) = true ∧ markFree { blockState none none true [] with kw := { markAt := some 9 } } = false ∧
    (blockState (some (true, 7)) none true []).fw.active.isSome = true ∧ (blockState (some (true, 7)) none false []).fw.active = none := by decide +kernel

/-- A block at 1,250 MHz with a running command, or in a phase of start-up. -/
def powerState (phase : Nat) (throttle : Option ThrottleCause) (trip : Bool) : State :=
  { engineState [] none false false with
    start := { powered := true, phase := phase, ready := phase == 8, perst := trip }
    hw := { State.reset.hw with stackGib := List.replicate 8 24 }
    lift := { serving := true, clk := 1250 }
    pwr := { throttle := throttle, trip := trip, vinMin := 40, vin := if trip then 30 else 50, wantClk := some 1000, req := 1250 } }
theorem wit_PowerAndStartUp :
    (powerState 2 none false).start.powered = true ∧ (powerState 2 none false).start.fail = 0 ∧ (powerState 2 none false).hw.stackGib.take (hbmPorts (powerState 2 none false)) =
      List.replicate (hbmPorts (powerState 2 none false)) 24 ∧ State.reset.hw.stackGib.take 8 = State.reset.hw.stackGib.take 8 ∧ (powerState 3 none false).start.phase = 3 ∧
    (powerState 7 none false).start.ready = false ∧ (powerState 2 none false).start.perst = false ∧ (powerState 2 none true).start.perst = true ∧
    (∀ e ∈ (powerState 8 none false).cmds.all, cmd? (powerState 8 none false) e.1 = some e.2 ∧ e.2.cid = e.1) ∧ (powerState 8 none false).stat.throttleKill ≤ 0xFF ∧
    800 < (powerState 8 none false).lift.clk ∧ State.reset.lift.clk ≤ 800 ∧ (powerState 8 (some .electrical) true).pwr.vin < 40 ∧ ¬ (powerState 8 (some .electrical) false).pwr.vin < 40 ∧
    (powerOff (powerState 8 none false)).start.powered = false ∧ (powerState 8 none false).pwr.wantClk = some 1000 ∧ bit 0x2000 13 = true ∧ hbmPorts (powerState 8 none false) = 8 := by
  decide +kernel

/-- The engine on port 0 runs command 5 of bay 0, whose input range is the first page and whose output range the second, with a staging extent of its own. -/
def portCmd : Cmd :=
  { cid := 5, bay := 0, queue := 0, st := .running, entry := [0x02] ++ List.replicate 63 0, stageVa := 2 ^ 30, stageAt := [0]
    desc := { ins := [{ va := 0, len := 4096 }], outs := [{ va := 4096, len := 4096 }] } }
def portState (q : QPort) : State :=
  { State.reset with
    bays := { all := [(0, { st := .attached, mem := { extents := [(0, { home := .hbm 0 })] }, eqi := { queues := [(0, {})] } })] }
    mem := { hbm := [(3, 7)] }
    cmds := { all := [(5, portCmd)], next := 6 }
    quoin := [(0, q)] }
theorem wit_QuoinPorts :
    let s := portState { ready := true, registered := true, cid := some 5, writes := [{ va := 4096, left := 64 }] }
    s.start.powered = true ∧ 0 < quoinPorts s ∧ cmd? s 5 = some portCmd ∧ (qport s 0).cid = some 5 ∧ (qport s 0).killed = none ∧ (qport s 0).scrub = false ∧ 0 < s.bays.count ∧
    bits (64 * 32) 17 5 = 64 ∧ bits (64 * 32 + 4096 * 2 ^ 30 + 1) 81 30 = 4096 ∧ bit (64 * 32 + 1) 0 = true ∧ inStaging portCmd (2 ^ 30) 64 = true ∧ inStaging portCmd 4096 64 = false ∧
    outsideOutputs portCmd (reqDesc 4096 64 true) = none ∧ outsideOutputs portCmd (reqDesc 0 64 true) = some 0 ∧ plainReq s portCmd 0 64 false = true ∧ plainReq s portCmd 4096 64 true = true ∧
    uncovered (portCmd.desc.ins ++ portCmd.desc.outs) 3 0 64 = none ∧ uncovered (portCmd.desc.ins ++ portCmd.desc.outs) 3 8192 64 = some 8192 ∧ poisonVa s 0 0 64 = none ∧ hostShut s 0 = false ∧
    (readVa (portXlate 0 portCmd (reqDesc 0 64 false) s) 0 {} true 0 64).isSome = true ∧ recordWrites s 0 (reqDesc 4096 64 true) [] = [] ∧ pagesOf 4096 32 = [(4096, 32)] ∧
    xlate s 0 4096 2 true = .ok (.hbm 4096) ∧ staged portCmd = false ∧ obxRecord s portCmd ([1] ++ List.replicate 63 0) = some (.signal 0 0) ∧
    obxRecord s portCmd ([4] ++ List.replicate 63 0) = none ∧ (queue? s 0 0).isSome = true ∧ regWordOk 4 1250 = true ∧ regWordOk 4 1251 = false ∧ regWordOk 7 0 = true := by
  decide +kernel

/-- A block in boot mode at the provisioning station. -/
def portOn (i : Ident) : State := { State.reset with hw := { State.reset.hw with kpEn := true }, start := { phase := 4 }, ident := i }
theorem wit_KeyPort :
    (portOn {}).start.powered = true ∧ (portOn {}).hw.kpEn = true ∧ 4 ≤ (portOn {}).start.phase ∧ (portOn {}).ident.uds = none ∧ (portOn {}).ident.locked = false ∧
    (portOn { uds := some 1, chain := [2], locked := true }).ident.locked = true ∧ (portOn { uds := some 1, chain := [2] }).ident.chain.length + 1024 ≤ 12288 := by decide +kernel

/-- A state that lists two bytes, and a step that stores one more. -/
theorem wit_MemoryCanonical :
    Memory.wf hostState.mem.hbm = true ∧ Memory.wf hostState.mem.win = true ∧ ∃ t, step { hostState with pending := [.bar2Write 1 7 [1] {}] } = .next t :=
  ⟨by decide, by decide, _, rfl⟩

theorem wit_ResetAndIdentity : windowOpen State.reset .manager = true := by decide

end Sys2Proof.Tests
end

section
/-! SUPPORT. The statements on the scope of the block (spec/00_scope.md). Both fail, each at one command: MSIX_UNMASK names a unit that
`present` passes over, and KEY_IMPORT drives a port that `reach` passes over. -/
namespace Sys2Proof.Proofs
open Sys2Proof.Machine

/-! ## The unit MSIX_UNMASK names -/

/-- A vector beyond the 8 of the physical function, or the 64 of a bay's, does not exist (R525). -/
theorem msixUnmask_absentVector {fn vec : Nat} {s : State} (h : (if fn = 0 then 8 else 64) ≤ vec) :
    exec (.msixUnmask fn vec) s = .fault (.absentUnit "MSI-X vector") := by
  show onUnit _ _ _ = _
  rw [decide_eq_false (p := vec < _) (Nat.not_lt.mpr h), Bool.and_false]
  rfl

/-- Refutes O2: `present` has MSIX_UNMASK name no unit, so it must answer a next state, but for vector 8 of the physical function, whose
vectors are 0 to 7, it stops with absentUnit. -/
theorem not_noCommandIsRefused : ¬ Obligations.NoCommandIsRefused := by
  unfold Obligations.NoCommandIsRefused
  rintro ⟨-, answers, -⟩
  obtain ⟨t, ht⟩ := answers (.msixUnmask 0 8) State.reset rfl
  have stops : exec (.msixUnmask 0 8) State.reset = .fault (.absentUnit "MSI-X vector") :=
    msixUnmask_absentVector (Nat.le_refl 8)
  rw [stops] at ht
  cases ht

/-! ## The reads of KEY_IMPORT -/

/-- A command whose footprint lacks `out` drives nothing. -/
theorem changesOnly_out {fp : List Grp} {s t : State} (h : ChangesOnly fp s t) (hout : .out ∉ fp) : t.out = s.out :=
  calc t.out = (keep fp s t).out := by rw [show keep fp s t = t from h]
    _ = s.out := by rw [keep_out, if_neg hout]

/-- Bay 0's mailbox has at the head of the order a KEY_IMPORT of 96 bytes at device address 0, whose page the bay has mapped to host
memory with read permission. -/
def blobInHost : State :=
  { State.reset with
    bays := { all := [(0, { st := .attached, mem := { maps := [{ page := 0, pages := 1, perm := 1, tgt := .host 0 }] } })] }
    boxes := { all := [(1, { ready := true, busy := true, area := [(0, 0x02), (1, 0x01), (3, 1), (8, 16), (0x48, 96)] })], order := [1] } }

/-- The host answers the read with 96 zero bytes. -/
def zeroBlob : Env := { host := (List.range 96).map fun i => (i, 0) }

/-- The blob is read over the host link (R392) before it is checked (R348): the read goes out at the port. -/
theorem keyImport_readsHost :
    ∃ t, exec (.keyImport 1 zeroBlob) blobInHost = .next t ∧ t.out.log = [.hostRead 1 0 96 none none] :=
  ⟨_, rfl, by decide +kernel⟩

/-- Refutes O3: `reach` lets KEY_IMPORT change mailboxes, bays and interrupts only, but the read of a blob in host memory changes `out`. -/
theorem not_reachOfCommands : ¬ Obligations.ReachOfCommands := by
  unfold Obligations.ReachOfCommands
  rintro ⟨leaves, -⟩
  obtain ⟨t, ht, read⟩ := keyImport_readsHost
  obtain ⟨changes, -, -⟩ := leaves _ _ _ ht
  have silent : t.out = blobInHost.out := changesOnly_out changes (by decide)
  rw [silent] at read
  cases read

end Sys2Proof.Proofs
end

section
/-! SUPPORT. What an instruction row answers on an ashlar that issues it, and what the operations on one ashlar leave of registers and
scratchpad: the rules the statements about single instructions are proved with. -/
namespace Sys2Proof.Proofs
open Sys2Proof.Machine

variable {s t : State} {a code : Nat} {w : W64} {c : Instr} {P : State → Prop}

/-! ## Ashlars of a state -/

@[simp] theorem ash_modAsh_same (a : Nat) (f : Ashlar → Ashlar) (s : State) : ash (modAsh a f s) a = f (ash s a) := by
  simp [ash, modAsh, tgetD, tget_tmod]

theorem ash_modAsh_ne {a b : Nat} (h : b ≠ a) (f : Ashlar → Ashlar) (s : State) : ash (modAsh a f s) b = ash s b := by
  simp [ash, modAsh, tgetD, tget_tmod, h]

@[simp] theorem ash_drewN (n b : Nat) (s : State) : ash (drewN n s) b = ash s b := rfl
@[simp] theorem ash_drewFree (b : Nat) (s : State) : ash (drewFree s) b = ash s b := rfl
@[simp] theorem ash_sendMsg (m : MMsg) (b : Nat) (s : State) : ash (sendMsg m s) b = ash s b := rfl
@[simp] theorem ash_sendCtl (k : CtlKind) (a c b : Nat) (s : State) : ash (sendCtl k a c s) b = ash s b := rfl
@[simp] theorem ash_modCmd (c : Nat) (f : Cmd → Cmd) (b : Nat) (s : State) : ash (modCmd c f s) b = ash s b := by simp [ash]

/-! ## The footprint of a command in flight holds the grid, the commands and the free values -/

@[simp] theorem ash_keepWork (s t : State) (b : Nat) : ash (keep fpWork s t) b = ash t b := rfl
@[simp] theorem grid_keepWork (s t : State) : (keep fpWork s t).grid = t.grid := rfl
@[simp] theorem cmds_keepWork (s t : State) : (keep fpWork s t).cmds = t.cmds := rfl
@[simp] theorem mem_keepWork (s t : State) : (keep fpWork s t).mem = t.mem := rfl
@[simp] theorem out_keepWork (s t : State) : (keep fpWork s t).out = t.out := rfl
@[simp] theorem rst_keepWork (s t : State) : (keep fpWork s t).rst = t.rst := rfl
@[simp] theorem cmd?_keepWork (s t : State) (k : Nat) : cmd? (keep fpWork s t) k = cmd? t k := rfl
@[simp] theorem cmdD_keepWork (s t : State) (k : Nat) : cmdD (keep fpWork s t) k = cmdD t k := rfl

/-- An effect on ashlar `a` alone leaves the other ashlars and everything else. -/
theorem onlyAsh_modAsh (a : Nat) (f : Ashlar → Ashlar) (s : State) : OnlyAsh a s (keep fpWork s (modAsh a f s)) :=
  ⟨rfl, fun _ hb => ash_modAsh_ne hb f s⟩

theorem OnlyAsh.others (h : OnlyAsh a s t) : ∀ b, b ≠ a → ash t b = ash s b := h.2

/-! ## Issue (R34, R66) -/

/-- An instruction row whose word the ashlar issues answers its effect, within the footprint of a command in flight. -/
theorem issue_of_issues (body : W64 → Ashlar → State → State) (h : issues s a w code = true) :
    issue code a body s = .next (keep fpWork s (body w (ash s a) s)) := by
  simp only [issues, Bool.and_eq_true, decide_eq_true_eq, beq_iff_eq, Bool.not_eq_true'] at h
  obtain ⟨⟨⟨⟨⟨⟨ha, hp⟩, ht⟩, hr⟩, hw⟩, hl⟩, hc⟩ := h
  simp [issue, onUnit, ha, run, hp, issueAt, hr, ht, hw, hl, hc]

theorem answers_issue {body : W64 → Ashlar → State → State} (hc : exec c s = issue code a body s) (h : issues s a w code = true)
    (hP : P (keep fpWork s (body w (ash s a) s))) : Answers c s P :=
  ⟨_, hc.trans (issue_of_issues body h), hP⟩

/-- An instruction whose effect, once issued, is `f` on its ashlar alone. -/
theorem answers_modAsh {body : W64 → Ashlar → State → State} {f : Ashlar → Ashlar} (hc : exec c s = issue code a body s)
    (h : issues s a w code = true) (hb : body w (ash s a) s = modAsh a f s)
    (hP : ∀ t, OnlyAsh a s t → ash t a = f (ash s a) → P t) : Answers c s P :=
  answers_issue hc h (by rw [hb]; exact hP _ (onlyAsh_modAsh a f s) (ash_modAsh_same a f s))

/-- The same of an instruction that the model writes as one on its ashlar. -/
theorem answers_issueAsh {f : W64 → Ashlar → Ashlar} (hc : exec c s = issueAsh code a f s) (h : issues s a w code = true)
    (hP : ∀ t, OnlyAsh a s t → ash t a = f w (ash s a) → P t) : Answers c s P := answers_modAsh hc h rfl hP

/-- A sequencer that waits stays at its instruction and counts the clock (R34). -/
theorem answers_stall {body : W64 → Ashlar → State → State} {k : Stall} (hc : exec c s = issue code a body s)
    (h : issues s a w code = true) (hb : body w (ash s a) s = modAsh a (stallFor k) s) :
    Answers c s fun t => OnlyAsh a s t ∧ ash t a = { ash s a with stall := k, cycle := (ash s a).cycle + 1 } :=
  answers_modAsh hc h hb fun _ ho ht => ⟨ho, ht⟩

/-! ## General registers -/

/-- g0 reads 0 and a write of it is discarded (R29). -/
theorem gr_setG (rd r : Nat) (v : W64) (x : Ashlar) : gr (setG rd v x) r = if r = rd ∧ r ≠ 0 then v else gr x r := by
  unfold gr setG
  by_cases h0 : r = 0
  · simp [h0]
  · by_cases hd : rd = 0
    · simp [h0, hd]
    · by_cases he : r = rd
      · simp [hd, he, tgetD]
      · simp [h0, hd, he, tgetD, tget_tput_ne he]

theorem gr_setG_same {rd : Nat} (h : rd ≠ 0) (v : W64) (x : Ashlar) : gr (setG rd v x) rd = v := by simp [gr_setG, h]

/-- A register write leaves every field of the ashlar but the registers. -/
theorem setG_changes (rd : Nat) (v : W64) (x : Ashlar) : setG rd v x = { x with g := (setG rd v x).g } := by
  unfold setG; split <;> rfl

@[simp] theorem gr_retire (x : Ashlar) (r : Nat) : gr (retire x) r = gr x r := rfl
@[simp] theorem gr_jump (n : Nat) (x : Ashlar) (r : Nat) : gr (jump n x) r = gr x r := rfl

/-- Writing a register and retiring is all that `WritesReg` says. -/
theorem writesReg_of_retire {rd : Nat} {v : W64} (ho : OnlyAsh a s t) (ht : ash t a = retire (setG rd v (ash s a))) :
    WritesReg a rd v s t := by
  refine ⟨ho, ?_, fun r => by rw [ht, gr_retire, gr_setG]⟩
  rw [ht, setG_changes]
  rfl

/-- An instruction that, once issued, writes one register and goes on. -/
theorem answers_writesReg {body : W64 → Ashlar → State → State} {rd : Nat} {v : W64} (hc : exec c s = issue code a body s)
    (h : issues s a w code = true) (hb : body w (ash s a) s = modAsh a (fun y => retire (setG rd v y)) s) :
    Answers c s (WritesReg a rd v s) :=
  answers_modAsh hc h hb fun _ => writesReg_of_retire

end Sys2Proof.Proofs
end

section
/-! SUPPORT. The scalar instructions (R33, R36, R41). -/
namespace Sys2Proof.Proofs
open Sys2Proof.Machine

variable {s : State} {a code : Nat} {w : W64} {c : Instr}

/-! ## Class 0x0 -/

theorem answers_alu {f : W64 → W64 → W64} (hc : exec c s = issueAsh code a (aluStep f) s) (h : issues s a w code = true) :
    Answers c s (WritesReg a (sRd w) (f (gr (ash s a) (sRs1 w)) (op2 w (ash s a))) s) :=
  answers_issueAsh hc h fun _ => writesReg_of_retire

/-- Settles O6: every operation of the class writes rd from rs1 and operand 2 and retires. -/
theorem scalarArithmetic : Obligations.ScalarArithmetic := by
  intro s a w p q n
  refine ⟨answers_alu rfl, answers_alu rfl, answers_alu rfl, answers_alu rfl, answers_alu rfl,
    answers_alu (f := fun p q => p <<< shAmt q) rfl, answers_alu (f := fun p q => p >>> shAmt q) rfl,
    answers_alu (f := fun p q => p.sshiftRight (shAmt q)) rfl, answers_alu rfl, fun h => ?_, fun h => ?_⟩
  · simpa [BitVec.slt] using answers_alu (f := fun p q => if p.slt q then 1 else 0) rfl h
  · simpa [BitVec.ult] using answers_alu (f := fun p q => if p.ult q then 1 else 0) rfl h

/-! ## Class 0x1 and GETS -/

/-- A branch takes its target where the comparison holds, and the next instruction where it does not (R34). -/
theorem answers_branch {cond : W64 → W64 → Bool} (hc : exec c s = issueAsh code a (branchStep cond) s) (h : issues s a w code = true) :
    (cond (gr (ash s a) (bRs1 w)) (gr (ash s a) (bRs2 w)) = true → Answers c s (GoesTo a (bTarget w) 3 s)) ∧
      (cond (gr (ash s a) (bRs1 w)) (gr (ash s a) (bRs2 w)) = false → Answers c s (GoesTo a ((ash s a).pc + 1) 1 s)) := by
  refine ⟨fun hk => ?_, fun hk => ?_⟩ <;>
  · refine answers_issueAsh hc h fun t ho ht => ⟨ho, ?_⟩
    simp only [branchStep, hk] at ht
    exact ht

/-- The same for a comparison given as a proposition. -/
theorem answers_branch_iff {cond : W64 → W64 → Bool} {taken : Prop} (hc : exec c s = issueAsh code a (branchStep cond) s)
    (ht : cond (gr (ash s a) (bRs1 w)) (gr (ash s a) (bRs2 w)) = true ↔ taken) (h : issues s a w code = true) :
    (taken → Answers c s (GoesTo a (bTarget w) 3 s)) ∧ (¬ taken → Answers c s (GoesTo a ((ash s a).pc + 1) 1 s)) := by
  obtain ⟨hyes, hno⟩ := answers_branch hc h
  exact ⟨fun k => hyes (ht.mpr k), fun k => hno (Bool.eq_false_iff.mpr (mt ht.mp k))⟩

/-- GETS of any special word but sw_cycle and sw_grefused (R33). -/
theorem answers_gets (h : issues s a w 0x010 = true) (h4 : bits (sImm w).toNat 7 0 ≠ 4) (h9 : bits (sImm w).toNat 7 0 ≠ 9) :
    Answers (.gets a) s (WritesReg a (sRd w) (special (ash s a) (bits (sImm w).toNat 7 0)) s) := by
  refine answers_modAsh (body := getsStep a) (f := fun _ => retire (setG (sRd w) (special (ash s a) (bits (sImm w).toNat 7 0)) (ash s a)))
    rfl h ?_ fun _ => writesReg_of_retire
  simp [getsStep, h4, h9]

/-- A read of sw_grefused clears it (R33). -/
theorem answers_gets_grefused (h : issues s a w 0x010 = true) (h9 : bits (sImm w).toNat 7 0 = 9) :
    Answers (.gets a) s fun t => OnlyAsh a s t ∧ (ash t a).grefused = 0 ∧
      (sRd w ≠ 0 → gr (ash t a) (sRd w) = BitVec.ofNat 64 (ash s a).grefused) ∧ (ash t a).pc = (ash s a).pc + 1 := by
  refine answers_modAsh (body := getsStep a)
    (f := fun _ => retire { setG (sRd w) (special (ash s a) 9) (ash s a) with grefused := 0 }) rfl h ?_ fun t ho ht => ?_
  · simp [getsStep, h9]
  · rw [ht]
    refine ⟨ho, rfl, fun hr => gr_setG_same hr (special (ash s a) 9) (ash s a), ?_⟩
    rw [setG_changes]
    rfl

/-- sw_cycle counts the clocks so far and those of waits, a free number (R33, log entry 10). -/
theorem answers_gets_cycle (h : issues s a w 0x010 = true) (h4 : bits (sImm w).toNat 7 0 = 4) :
    Answers (.gets a) s fun t => ∃ k, (sRd w ≠ 0 → gr (ash t a) (sRd w) = BitVec.ofNat 64 ((ash s a).cycle + k)) ∧
      (ash t a).pc = (ash s a).pc + 1 ∧ (ash t a).cycle = (ash s a).cycle + k + 1 := by
  refine answers_issue (body := getsStep a) rfl h ⟨(freeVal s).toNat, ?_⟩
  simp only [getsStep, h4, ash_keepWork, if_true, ash_drewFree, ash_modAsh_same, gr_retire]
  rw [setG_changes]
  exact ⟨fun hr => gr_setG_same hr _ _, rfl, rfl⟩

/-- JAL writes the address of the next instruction and jumps (R41). -/
theorem answers_jal (h : issues s a w 0x105 = true) : Answers (.jal a) s fun t => OnlyAsh a s t ∧
    ash t a = { ash s a with g := (ash t a).g, pc := bTarget w, cycle := (ash s a).cycle + 3, stall := .none } ∧
    ∀ r, gr (ash t a) r = if r = bRd w ∧ r ≠ 0 then BitVec.ofNat 64 ((ash s a).pc + 1) else gr (ash s a) r := by
  refine answers_issueAsh (f := fun w x => jump (bTarget w) (setG (bRd w) (BitVec.ofNat 64 (x.pc + 1)) x)) rfl h fun t ho ht => ?_
  refine ⟨ho, ?_, fun r => by rw [ht, gr_jump, gr_setG]⟩
  rw [ht, setG_changes]
  rfl

/-- JR goes to bits 12:0 of g[rs1] (R41). -/
theorem answers_jr (h : issues s a w 0x106 = true) :
    Answers (.jr a) s (GoesTo a ((gr (ash s a) (bRs1 w)).toNat % 8192) 3 s) := by
  refine answers_issueAsh (f := fun w x => jump (bits (gr x (bRs1 w)).toNat 12 0) x) rfl h fun t ho ht => ⟨ho, ?_⟩
  rw [ht]
  simp [jump, bits]

/-- Settles O7: GETS by the word it names, then the branches by their comparison, then the two jumps. -/
theorem scalarControl : Obligations.ScalarControl := by
  intro s a w x i p q branch
  exact ⟨answers_gets, answers_gets_grefused, answers_gets_cycle, answers_branch_iff rfl beq_iff_eq, answers_branch_iff rfl bne_iff_ne,
    answers_branch_iff rfl BitVec.slt_iff_toInt_lt, answers_branch_iff rfl (by simp [BitVec.slt, p, q, x]),
    answers_branch_iff rfl BitVec.ult_iff_lt, answers_jal, answers_jr⟩

end Sys2Proof.Proofs
end

section
/-! SUPPORT. The scratchpad of one ashlar: what a read of a run of bytes returns, and what a write leaves. -/
namespace Sys2Proof.Proofs
open Sys2Proof.Machine

/-! ## Byte strings -/

theorem mread_eq_map (m : Mem) (a n : Nat) : mread m a n = (List.range n).map fun i => mget m (a + i) := by
  induction n generalizing a with
  | zero => rfl
  | succ n ih =>
    rw [mread, ih, List.range_succ_eq_map, List.map_cons, List.map_map]
    simp [Nat.add_assoc, Nat.add_comm 1, Function.comp_def]

@[simp] theorem length_mread (m : Mem) (a n : Nat) : (mread m a n).length = n := by simp [mread_eq_map]

theorem getD_mread {n i : Nat} (h : i < n) (m : Mem) (a : Nat) : (mread m a n).getD i 0 = mget m (a + i) := by
  simp [mread_eq_map, h]

@[simp] theorem length_natLe (n x : Nat) : (natLe n x).length = n := by
  induction n generalizing x with
  | zero => rfl
  | succ n ih => simp [natLe, ih]

/-- A run written from what a memory holds at another place copies it. -/
theorem mget_mputs_mread (src m : Mem) (a b n k : Nat) :
    mget (mputs a (mread src b n) m) k = if a ≤ k ∧ k < a + n then mget src (b + (k - a)) else mget m k := by
  rw [mget_mputs, length_mread]
  split
  · next h => exact getD_mread (by omega) src b
  · rfl

/-! ## Reads of the scratchpad -/

/-- A load with no read under way returns the bytes (R61). -/
theorem ldBytes_of_idle {x : Ashlar} (h : x.tags = []) (k a n : Nat) : ldBytes x k a n = mread x.spad a n := by
  simp [ldBytes, inBusyRead, h, mread_eq_map]

/-- An operation sees the bytes as they stand where nothing has overwritten any and no read is under way (R60). -/
theorem seenBytes_of_quiet {x : Ashlar} (hh : x.hist = []) (ht : x.tags = []) (inc : Nat → Byte) (u h0 k a n : Nat) :
    seenBytes x inc u h0 k a n = mread x.spad a n := by
  simp [seenBytes, hh, ht]

/-! ## Writes of the scratchpad -/

theorem journalLine_changes (l : Nat) (x : Ashlar) : journalLine l x = { x with journal := (journalLine l x).journal } := by
  unfold journalLine; split <;> rfl

theorem journalLines_changes (ls : List Nat) (x : Ashlar) : ls.foldl (fun y l => journalLine l y) x =
    { x with journal := (ls.foldl (fun y l => journalLine l y) x).journal } := by
  induction ls generalizing x with
  | nil => rfl
  | cons l ls ih => rw [List.foldl_cons, ih, journalLine_changes]

/-- A scratchpad write lays the bytes, journals the lines and notes what it overwrote (R60, R139); the rest of the ashlar stays. -/
theorem spadWr_changes (u addr : Nat) (bs : List Byte) (x : Ashlar) : spadWr u addr bs x =
    { x with spad := mputs addr bs x.spad, journal := (spadWr u addr bs x).journal, hist := (spadWr u addr bs x).hist
             serial := (spadWr u addr bs x).serial } := by
  unfold spadWr noteBytes
  rw [journalLines_changes]

variable (u addr : Nat) (bs : List Byte) (x : Ashlar)

@[simp] theorem spadWr_spad : (spadWr u addr bs x).spad = mputs addr bs x.spad := by rw [spadWr_changes]
@[simp] theorem spadWr_run : (spadWr u addr bs x).run = x.run := by rw [spadWr_changes]
@[simp] theorem spadWr_cid : (spadWr u addr bs x).cid = x.cid := by rw [spadWr_changes]
@[simp] theorem spadWr_pc : (spadWr u addr bs x).pc = x.pc := by rw [spadWr_changes]
@[simp] theorem spadWr_g : (spadWr u addr bs x).g = x.g := by rw [spadWr_changes]
@[simp] theorem spadWr_v : (spadWr u addr bs x).v = x.v := by rw [spadWr_changes]
@[simp] theorem spadWr_acc : (spadWr u addr bs x).acc = x.acc := by rw [spadWr_changes]
@[simp] theorem spadWr_imem : (spadWr u addr bs x).imem = x.imem := by rw [spadWr_changes]
@[simp] theorem spadWr_tags : (spadWr u addr bs x).tags = x.tags := by rw [spadWr_changes]
@[simp] theorem spadWr_joints : (spadWr u addr bs x).joints = x.joints := by rw [spadWr_changes]
@[simp] theorem spadWr_credits : (spadWr u addr bs x).credits = x.credits := by rw [spadWr_changes]
@[simp] theorem spadWr_seqIn : (spadWr u addr bs x).seqIn = x.seqIn := by rw [spadWr_changes]
@[simp] theorem spadWr_mq : (spadWr u addr bs x).mq = x.mq := by rw [spadWr_changes]
@[simp] theorem spadWr_vq : (spadWr u addr bs x).vq = x.vq := by rw [spadWr_changes]

end Sys2Proof.Proofs
end

section
/-! SUPPORT. Scalar loads and stores (R36, R41, R58, R61, R97). -/
namespace Sys2Proof.Proofs
open Sys2Proof.Machine

variable {s : State} {a code n : Nat} {w : W64} {c : Instr}

/-- An instruction whose effect, once issued, is known outright. -/
theorem answers_eq {body : W64 → Ashlar → State → State} {u : State} (hc : exec c s = issue code a body s)
    (h : issues s a w code = true) (hb : body w (ash s a) s = u) : Answers c s fun t => t = keep fpWork s u :=
  answers_issue hc h (congrArg _ hb)

theorem spadOk_iff {addr : Nat} : spadOk addr n = true ↔ addr % n = 0 ∧ addr + n ≤ 0x80000 := by simp [spadOk]

/-- A load in range writes the bytes to rt, zero-extended, and draws the free values a load may need. -/
theorem answers_load (hc : exec c s = issue code a (loadStep n a false) s) (ht : (ash s a).tags = [])
    (hal : lAddr w (ash s a) % n = 0) (hin : lAddr w (ash s a) + n ≤ 0x80000) (h : issues s a w code = true) :
    Answers c s fun t =>
      (∀ r, gr (ash t a) r = if r = lRt w ∧ r ≠ 0 then BitVec.ofNat 64 (leNat (mread (ash s a).spad (lAddr w (ash s a)) n))
        else gr (ash s a) r) ∧
      ash t a = { ash s a with g := (ash t a).g, pc := (ash s a).pc + 1, cycle := (ash s a).cycle + 1, stall := .none } ∧
      (∀ b, b ≠ a → ash t b = ash s b) ∧ ChangesOnly [.grid, .out] s t := by
  have hb : loadStep n a false w (ash s a) s = drewN n (modAsh a (fun y => retire (setG (lRt w)
      (BitVec.ofNat 64 (leNat (mread (ash s a).spad (lAddr w (ash s a)) n))) y)) s) := by
    simp [loadStep, spadOk_iff.mpr ⟨hal, hin⟩, ldBytes_of_idle ht]
  refine answers_issue hc h ?_
  rw [hb]
  refine ⟨fun r => by simp [gr_setG], ?_, fun b hne => by simp [ash_modAsh_ne hne], rfl⟩
  rw [ash_keepWork, ash_drewN, ash_modAsh_same, setG_changes]
  rfl

/-- A load whose line shows an error is that detection (R97). -/
theorem answers_load_detect (hc : exec c s = issue code a (loadStep n a true) s) (hal : lAddr w (ash s a) % n = 0)
    (hin : lAddr w (ash s a) + n ≤ 0x80000) (h : issues s a w code = true) :
    Answers c s fun t => t = keep fpWork s (lineDetect a (lAddr w (ash s a)) s) :=
  answers_eq hc h (by simp [loadStep, spadOk_iff.mpr ⟨hal, hin⟩])

/-- A store in range and outside every joint lays the low bytes of rt and nothing else (R58). -/
theorem answers_store (hc : exec c s = issue code a (storeStep n a) s) (hj : inJoint (ash s a) (lAddr w (ash s a)) n = false)
    (hal : lAddr w (ash s a) % n = 0) (hin : lAddr w (ash s a) + n ≤ 0x80000) (h : issues s a w code = true) :
    Answers c s fun t => OnlyAsh a s t ∧
      (∀ k, mget (ash t a).spad k = if lAddr w (ash s a) ≤ k ∧ k < lAddr w (ash s a) + n then
        (natLe n (gr (ash s a) (lRt w)).toNat).getD (k - lAddr w (ash s a)) 0 else mget (ash s a).spad k) ∧
      (ash t a).pc = (ash s a).pc + 1 ∧ (ash t a).g = (ash s a).g ∧ (ash t a).acc = (ash s a).acc ∧ (ash t a).v = (ash s a).v := by
  refine answers_modAsh (f := fun y => retire (spadWr 0 (lAddr w (ash s a)) (natLe n (gr (ash s a) (lRt w)).toNat) y)) hc h ?_
    fun t ho ht => ⟨ho, fun k => ?_, ?_⟩
  · simp [storeStep, spadOk_iff.mpr ⟨hal, hin⟩, hj]
  · simp [ht, retire, mget_mputs]
  · simp [ht, retire]

/-- Settles O8: each size of load and store, then a load's detection. -/
theorem scalarMemory : Obligations.ScalarMemory := by
  intro s a w x addr load store found
  exact ⟨answers_load rfl, answers_load rfl, answers_load rfl, answers_load rfl, fun hj => answers_store rfl hj (Nat.mod_one _),
    answers_store rfl, answers_store rfl, answers_store rfl, answers_load_detect rfl (Nat.mod_one _), answers_load_detect rfl,
    answers_load_detect rfl, answers_load_detect rfl⟩

end Sys2Proof.Proofs
end

section
/-! SUPPORT. The matrix and vector instructions at issue (R34, R36, R40, R66, R81). -/
namespace Sys2Proof.Proofs
open Sys2Proof.Machine

variable {s : State} {a code : Nat} {w : W64} {c : Instr}

/-- The ashlar with `w` last in its matrix queue. -/
def mqWith (w : W64) (x : Ashlar) : Ashlar := { x with mq := x.mq ++ [{ word := w, h0 := x.serial }] }
/-- The ashlar with `w` last in its vector queue, with the base register as it stands. -/
def vqWith (w : W64) (x : Ashlar) : Ashlar := { x with vq := x.vq ++ [{ word := w, base := gr x (vBase w), h0 := x.serial }] }

/-- The head of the matrix queue is looked at the same whether or not the sequencer has gone on. -/
theorem headIllegal_retire (x : Ashlar) : headIllegal (retire x) = headIllegal x := rfl

/-- The unit looks at the head of its queue and finds nothing to refuse. -/
theorem headCheck_of_legal {t : State} (h : headIllegal (ash t a) = false) : headCheck a t = t := by simp [headCheck, h]

/-- A matrix instruction whose operands are in range joins a queue of fewer than 8, and waits at a full one (R34). -/
theorem answers_matrix {ok : W64 → Bool} (hc : exec c s = issue code a (fun w x t => if ok w then matrixIssue a w x t else illegal a t) s)
    (h : issues s a w code = true) :
    (ok w = true → (ash s a).mq.length < 8 → headIllegal (mqWith w (ash s a)) = false → Answers c s (HandsOver a (mqWith w (ash s a)) s)) ∧
      (ok w = true → (ash s a).mq.length = 8 →
        Answers c s fun t => OnlyAsh a s t ∧ ash t a = { ash s a with stall := .queue, cycle := (ash s a).cycle + 1 }) := by
  refine ⟨fun hok hlen hhead => answers_modAsh (f := fun y => retire (mqWith w y)) hc h ?_ fun t ho ht => ⟨ho, ht⟩,
    fun hok hlen => answers_stall hc h ?_⟩
  · have hhead' : headIllegal (ash (modAsh a (fun y => retire (mqWith w y)) s) a) = false := by
      rwa [ash_modAsh_same, headIllegal_retire]
    simp only [hok, if_true, matrixIssue, if_neg (Nat.not_le.mpr hlen)]
    exact headCheck_of_legal hhead'
  · simp [hok, matrixIssue, hlen]

/-- A vector instruction whose place is in range and outside every joint joins a queue of fewer than 16, and waits at a full one (R34). -/
theorem answers_vector (hc : exec c s = issue code a (vectorIssue a) s) (h : issues s a w code = true)
    (hp : vPlaceOk w (vAddr (gr (ash s a) (vBase w)) w) = true)
    (hj : inJoint (ash s a) (vAddr (gr (ash s a) (vBase w)) w) (64 * elemBytes (vType w)) = false) :
    ((ash s a).vq.length < 16 → Answers c s (HandsOver a (vqWith w (ash s a)) s)) ∧
      ((ash s a).vq.length = 16 →
        Answers c s fun t => OnlyAsh a s t ∧ ash t a = { ash s a with stall := .queue, cycle := (ash s a).cycle + 1 }) := by
  refine ⟨fun hlen => ?_, fun hlen => answers_stall hc h ?_⟩
  · refine answers_modAsh
      (f := fun y => retire { y with vq := y.vq ++ [{ word := w, base := gr (ash s a) (vBase w), h0 := y.serial }] })
      hc h ?_ fun t ho ht => ⟨ho, ht⟩
    simp [vectorIssue, hp, hj, Nat.not_le.mpr hlen]
  · simp [vectorIssue, hp, hj, hlen]

/-- Settles O9: each of the three matrix and the 17 vector instructions is handed over by its unit's rule. -/
theorem unitQueues : Obligations.UnitQueues := by
  intro s a w x mqd base vqd matrix vector
  exact ⟨answers_matrix rfl, answers_matrix rfl, answers_matrix rfl, answers_vector rfl, answers_vector rfl, answers_vector rfl,
    answers_vector rfl, answers_vector rfl, answers_vector rfl, answers_vector rfl, answers_vector rfl, answers_vector rfl,
    answers_vector rfl, answers_vector rfl, answers_vector rfl, answers_vector rfl, answers_vector rfl, answers_vector rfl,
    answers_vector rfl, answers_vector rfl⟩

end Sys2Proof.Proofs
end

section
/-! SUPPORT. Joints and credits (R48, R53 to R57, R66, R97). -/
namespace Sys2Proof.Proofs
open Sys2Proof.Machine

variable {s : State} {a code : Nat} {w : W64} {c : Instr} {x : Ashlar} {k : Credit} {j : Joint} {m : JMsg} {ms : List JMsg}
variable {wait : Ashlar → Ashlar} {done : W64 → Ashlar → Ashlar} {det : Bool}

/-! ## JCFG and GRANT -/

/-- JCFG configures the joint it names (R53). -/
theorem answers_jcfg (h : issues s a w 0x600 = true) (hal : (gr (ash s a) (xRa w)).toNat % 64 = 0) (hok : jointOk w (ash s a) = true) :
    Answers (.jcfg a) s fun t => OnlyAsh a s t ∧ ash t a = { ash s a with
      joints := tput (xSel w) (jointOf w (ash s a)) (ash s a).joints, pc := (ash s a).pc + 1, cycle := (ash s a).cycle + 1, stall := .none } := by
  refine answers_modAsh (f := fun y => retire { y with joints := tput (xSel w) (jointOf w (ash s a)) y.joints }) rfl h ?_
    fun t ho ht => ⟨ho, ht⟩
  simp [hal, hok]

/-- The CREDIT an ashlar sends for `n` credits of joint `xSel w` (R54, log entry 11). -/
def creditMsg (a : Nat) (w : W64) (x : Ashlar) (dst n : Nat) (j : Joint) : MMsg :=
  { kind := 1, src := a, dst := dst, payload := natLe 2 n ++ natLe 2 ((j.slotLines - 1) * 64) ++ natLe 1 (xSel w), cid := x.cid }

theorem sendCredit_eq (dx dy n : Nat) (j : Joint) (t : State) : sendCredit a x (xSel w) dx dy n ((j.slotLines - 1) * 64) t =
    sendMsg (creditMsg a w x (absId x a dx dy) n j) t := rfl

theorem net_sendMsg (m : MMsg) (s : State) : (sendMsg m s).grid.net = s.grid.net ++ [m] := rfl

/-- GRANT of slots that are free records the grant and sends the credits (R54). -/
theorem answers_grant (h : issues s a w 0x601 = true) (hj : tget (xSel w) (ash s a).joints = some j)
    (hp : inPanel (ash s a) (unpackXy (gr (ash s a) (xRa w))).1 (unpackXy (gr (ash s a) (xRa w))).2 = true)
    (hg : grantOk (ash s a) j (xSel w) (unpackXy (gr (ash s a) (xRa w))).1 (unpackXy (gr (ash s a) (xRa w))).2 (xN w) = true) :
    let p := unpackXy (gr (ash s a) (xRa w))
    Answers (.grant a) s fun t => t.grid.net = s.grid.net ++ [creditMsg a w (ash s a) (absId (ash s a) a p.1 p.2) (xN w) j] ∧
      (ash t a).grants = addGrant (xSel w) p.1 p.2 (xN w) (ash s a).grants ∧ (xRd w ≠ 0 → gr (ash t a) (xRd w) = 1) ∧
      (ash t a).pc = (ash s a).pc + 1 := by
  intro p
  refine answers_issue rfl h ?_
  simp only [hj, hp, hg, Bool.not_true, Bool.false_eq_true, if_false, if_true, sendCredit_eq, grid_keepWork, net_sendMsg, ash_keepWork,
    ash_sendMsg, ash_modAsh_same, gr_retire]
  refine ⟨rfl, ?_, fun hr => gr_setG_same hr _ _, ?_⟩ <;>
  · rw [setG_changes]
    rfl

/-! ## SEND and TSEND -/

/-- What SEND and TSEND need to transmit (R56): a target in the panel, a credit, a payload within the pair's limit and the scratchpad. -/
structure MaySend (x : Ashlar) (w : W64) (k : Credit) : Prop where
  panel : inPanel x (unpackXy (gr x (xRa w))).1 (unpackXy (gr x (xRa w))).2 = true
  credit : creditOf x (unpackXy (gr x (xRa w))).1 (unpackXy (gr x (xRa w))).2 (xSel w) = some k
  limit : xN w ≤ k.limit
  range : (gr x (xRb w)).toNat + xN w ≤ 0x80000

theorem sendStep_go (hs : MaySend x w k) : sendStep a false wait done w x s = sendGo a w x k (done w) s := by
  simp [sendStep, hs.panel, hs.credit, Nat.not_lt.mpr hs.limit, Nat.not_lt.mpr hs.range]

/-- The same with an error in the payload's line (R97). -/
theorem sendStep_detect (hs : MaySend x w k) (hn : 0 < xN w) :
    sendStep a true wait done w x s = lineDetect a (gr x (xRb w)).toNat s := by
  simp [sendStep, hs.panel, hs.credit, Nat.not_lt.mpr hs.limit, Nat.not_lt.mpr hs.range, hn]

/-- Without a credit the sender does what `wait` says (R56). -/
theorem sendStep_noCredit (hp : inPanel x (unpackXy (gr x (xRa w))).1 (unpackXy (gr x (xRa w))).2 = true)
    (hk : creditOf x (unpackXy (gr x (xRa w))).1 (unpackXy (gr x (xRa w))).2 (xSel w) = none) :
    sendStep a det wait done w x s = modAsh a wait s := by
  simp [sendStep, hp, hk]

/-- A target outside the panel, or a payload above the pair's limit, breaks a joint rule (R56, R66). -/
theorem sendStep_breaks (h : inPanel x (unpackXy (gr x (xRa w))).1 (unpackXy (gr x (xRa w))).2 = false ∨
      ∃ k, inPanel x (unpackXy (gr x (xRa w))).1 (unpackXy (gr x (xRa w))).2 = true ∧
        creditOf x (unpackXy (gr x (xRa w))).1 (unpackXy (gr x (xRa w))).2 (xSel w) = some k ∧ k.limit < xN w) :
    sendStep a det wait done w x s = violation a 0x12 0 0 s := by
  rcases h with hp | ⟨k, hp, hk, hl⟩
  · simp [sendStep, hp, jointRule]
  · simp [sendStep, hp, hk, hl, jointRule]

/-- The message SEND and TSEND put into the network (R48, R56). -/
def sentMsg (a : Nat) (w : W64) (x : Ashlar) (k : Credit) : MMsg :=
  { kind := 0, src := a, dst := absId x a (unpackXy (gr x (xRa w))).1 (unpackXy (gr x (xRa w))).2, joint := xSel w, seq := k.seq
    payload := mread x.spad (gr x (xRb w)).toNat (xN w), cid := x.cid }

/-- Ashlar `x` once it has taken the credit of the message `w` sends. -/
def creditTaken (w : W64) (x : Ashlar) : Ashlar := takeCreditTo (unpackXy (gr x (xRa w))).1 (unpackXy (gr x (xRa w))).2 (xSel w) x

/-- What a message that leaves does to network and sender; `f` is what the instruction does to its ashlar last. -/
theorem sendGo_net (f : Ashlar → Ashlar) (ht : (ash s a).tags = []) :
    (sendGo a w (ash s a) k f s).grid.net = s.grid.net ++ [sentMsg a w (ash s a) k] := by
  simp only [sendGo, ldBytes_of_idle ht]
  rfl

theorem ash_sendGo (f : Ashlar → Ashlar) : ash (sendGo a w (ash s a) k f s) a = f (creditTaken w (ash s a)) := by
  simp [sendGo, creditTaken]

/-- SEND and TSEND where a message leaves. -/
theorem answers_sendGo {wait : W64 → Ashlar → Ashlar} (hc : exec c s = issue code a (fun v => sendStep a false (wait v) done v) s)
    (h : issues s a w code = true) (hs : MaySend (ash s a) w k) (ht : (ash s a).tags = []) :
    Answers c s fun t => t.grid.net = s.grid.net ++ [sentMsg a w (ash s a) k] ∧ ash t a = done w (creditTaken w (ash s a)) :=
  answers_issue hc h (by rw [sendStep_go hs]; exact ⟨sendGo_net _ ht, ash_sendGo _⟩)

/-- SEND: one credit is taken, the message enters the network. -/
theorem answers_send (h : issues s a w 0x602 = true) (hs : MaySend (ash s a) w k) (ht : (ash s a).tags = []) :
    Answers (.send a false) s fun t => t.grid.net = s.grid.net ++ [sentMsg a w (ash s a) k] ∧
      (ash t a).credits = (creditTaken w (ash s a)).credits ∧ (ash t a).pc = (ash s a).pc + 1 := by
  have hc : exec (.send a false) s = issue 0x602 a (fun v => sendStep a false (stallFor .credit) (fun _ => retire) v) s := rfl
  obtain ⟨t, he, hn, hx⟩ := answers_sendGo (wait := fun _ => stallFor .credit) hc h hs ht
  refine ⟨t, he, hn, ?_⟩
  rw [hx]
  exact ⟨rfl, rfl⟩

/-- TSEND: the same, and rd says that it was sent. -/
theorem answers_tsend (h : issues s a w 0x603 = true) (hs : MaySend (ash s a) w k) (ht : (ash s a).tags = []) :
    Answers (.tsend a false) s fun t => t.grid.net = s.grid.net ++ [sentMsg a w (ash s a) k] ∧
      (ash t a).credits = (creditTaken w (ash s a)).credits ∧ (ash t a).pc = (ash s a).pc + 1 ∧
      (xRd w ≠ 0 → gr (ash t a) (xRd w) = 1) := by
  have hc : exec (.tsend a false) s = issue 0x603 a (fun v => sendStep a false (fun y => retire (setG (xRd v) 0 y))
    (fun v y => retire (setG (xRd v) 1 y)) v) s := rfl
  obtain ⟨t, he, hn, hx⟩ := answers_sendGo (wait := fun v y => retire (setG (xRd v) 0 y)) hc h hs ht
  refine ⟨t, he, hn, ?_⟩
  rw [hx]
  refine ⟨?_, ?_, fun hr => gr_setG_same hr _ _⟩ <;>
  · rw [setG_changes]
    rfl

/-! ## WAITJ, POP and JPOLL -/

/-- POP frees the head slot and sends its credit back (R57). -/
theorem answers_pop (h : issues s a w 0x605 = true) (hj : tget (xSel w) (ash s a).joints = some j) (hm : j.msgs = m :: ms) :
    Answers (.pop a) s fun t => tget (xSel w) (ash t a).joints = some { j with msgs := ms } ∧ (ash t a).pc = (ash s a).pc + 1 ∧
      t.grid.net = s.grid.net ++ [creditMsg a w (ash s a) (absId (ash s a) a m.dx m.dy) 1 j] := by
  refine answers_issue rfl h ?_
  simp only [hj, hm, sendCredit_eq, grid_keepWork, net_sendMsg, ash_keepWork, ash_sendMsg, ash_modAsh_same]
  exact ⟨tget_tput_same _ _ _, rfl, rfl⟩

theorem answers_waitj (h : issues s a w 0x604 = true) (hj : tget (xSel w) (ash s a).joints = some j) (hm : j.msgs = m :: ms) :
    Answers (.waitj a) s (WritesReg a (xRd w) (waitjWord j m) s) := answers_writesReg rfl h (by simp [hj, hm])

/-- WAITJ of an empty joint waits (R57). -/
theorem answers_waitj_empty (h : issues s a w 0x604 = true) (hj : tget (xSel w) (ash s a).joints = some j) (hm : j.msgs = []) :
    Answers (.waitj a) s fun t => OnlyAsh a s t ∧ ash t a = { ash s a with stall := .joint, cycle := (ash s a).cycle + 1 } :=
  answers_stall rfl h (by simp [hj, hm])

theorem answers_jpoll (h : issues s a w 0x606 = true) (hj : tget (xSel w) (ash s a).joints = some j) :
    Answers (.jpoll a) s (WritesReg a (xRd w) (BitVec.ofNat 64 j.msgs.length) s) := answers_writesReg rfl h (by simp [hj])

/-! ## Uses of a joint that the rules do not allow (R66, reason 0x12 of R485) -/

/-- Ashlar `a` breaks a joint rule with command `c`. -/
abbrev BreaksJointRule (a : Nat) (c : Instr) (s : State) : Prop := Answers c s fun t => t = keep fpWork s (violation a 0x12 0 0 s)

theorem jcfg_breaks (h : issues s a w 0x600 = true) (hal : (gr (ash s a) (xRa w)).toNat % 64 = 0) (hok : jointOk w (ash s a) = false) :
    BreaksJointRule a (.jcfg a) s := answers_eq rfl h (by simp [hal, hok, jointRule])

theorem grant_breaks (h : issues s a w 0x601 = true) (hb : tget (xSel w) (ash s a).joints = none ∨
    inPanel (ash s a) (unpackXy (gr (ash s a) (xRa w))).1 (unpackXy (gr (ash s a) (xRa w))).2 = false) : BreaksJointRule a (.grant a) s := by
  refine answers_eq rfl h ?_
  cases hj : tget (xSel w) (ash s a).joints with
  | none => rfl
  | some j => simp [hb.resolve_left (by simp [hj]), jointRule]

/-- A GRANT beyond the slots or the table writes 0 and records nothing (R54). -/
theorem answers_grant_refused (h : issues s a w 0x601 = true) (hj : tget (xSel w) (ash s a).joints = some j)
    (hp : inPanel (ash s a) (unpackXy (gr (ash s a) (xRa w))).1 (unpackXy (gr (ash s a) (xRa w))).2 = true)
    (hg : grantOk (ash s a) j (xSel w) (unpackXy (gr (ash s a) (xRa w))).1 (unpackXy (gr (ash s a) (xRa w))).2 (xN w) = false) :
    Answers (.grant a) s (WritesReg a (xRd w) 0 s) := answers_writesReg rfl h (by simp [hj, hp, hg])

/-- WAITJ, POP and JPOLL of a joint that is not configured. -/
theorem noJoint_breaks (hj : tget (xSel w) (ash s a).joints = none) : (issues s a w 0x604 = true → BreaksJointRule a (.waitj a) s) ∧
    (issues s a w 0x605 = true → BreaksJointRule a (.pop a) s) ∧ (issues s a w 0x606 = true → BreaksJointRule a (.jpoll a) s) :=
  ⟨fun h => answers_eq rfl h (by simp [hj, jointRule]), fun h => answers_eq rfl h (by simp [hj, jointRule]),
    fun h => answers_eq rfl h (by simp [hj, jointRule])⟩

theorem pop_empty_breaks (h : issues s a w 0x605 = true) (hj : tget (xSel w) (ash s a).joints = some j) (hm : j.msgs = []) :
    BreaksJointRule a (.pop a) s := answers_eq rfl h (by simp [hj, hm, jointRule])

/-- Settles O13: each joint instruction where the rules allow it, where it must wait, and where it breaks a rule. -/
theorem jointInstructions : Obligations.JointInstructions := by
  intro s a w x p from_ creditTo breaks
  refine ⟨answers_jcfg, fun j => answers_grant, ?send, ?detected, fun det h hp hk => answers_stall rfl h (sendStep_noCredit hp hk),
    fun det h hp hk => answers_writesReg rfl h (sendStep_noCredit hp hk),
    fun det hb => ⟨fun h => answers_eq rfl h (sendStep_breaks hb), fun h => answers_eq rfl h (sendStep_breaks hb)⟩,
    fun j m ms => answers_waitj, fun j => answers_waitj_empty, fun j m ms => answers_pop, fun j => answers_jpoll, jcfg_breaks, grant_breaks,
    fun j => answers_grant_refused, noJoint_breaks, fun j => pop_empty_breaks⟩
  case send =>
    rintro k c (⟨rfl, h⟩ | ⟨rfl, h⟩) hp hk hl hr ht
    · obtain ⟨t, he, hn, hcr, hpc⟩ := answers_send h ⟨hp, hk, hl, hr⟩ ht
      exact ⟨t, he, hn, hcr, hpc, nofun⟩
    · obtain ⟨t, he, hn, hcr, hpc, hrd⟩ := answers_tsend h ⟨hp, hk, hl, hr⟩ ht
      exact ⟨t, he, hn, hcr, hpc, fun _ => hrd⟩
  case detected =>
    rintro k c (⟨rfl, h⟩ | ⟨rfl, h⟩) hp hk hl hr hn <;> exact answers_eq rfl h (sendStep_detect ⟨hp, hk, hl, hr⟩ hn)

end Sys2Proof.Proofs
end

section
/-! SUPPORT. Four statements that fail. UNIT_OP_COMPLETE tells its operations apart by bits 59:52 alone, so it does for a word of another
class what the statement says of class 0x4 only; DMA waits while the bay's interface issues nothing, which `plainDma` does not rule out; and a
control message has its header, where two statements look for one without. -/
namespace Sys2Proof.Proofs
open Sys2Proof.Machine

/-- The state after reset with one ashlar, which runs. -/
def oneRunning (x : Ashlar) : State := { State.reset with grid := { ashlars := [(0, { x with run := .running })] } }

/-! ## UNIT_OP_COMPLETE -/

/-- Operation 3 in class 0: no word of VSTA. -/
def strayWord : W64 := encS 3 0 0 0 false 0
/-- An ashlar with that word at the head of its vector queue, and 7 in lane 0 of v0. -/
def strayVector : State := oneRunning { v := [(0, 7)], vq := [{ word := strayWord }] }

/-- The unit stores the lanes to accumulator row 0 all the same. -/
theorem strayVector_stores :
    ∃ t, exec (.unitOpComplete 0 .vector none) strayVector = .next t ∧ accE (ash t 0) 0 0 = 7 := ⟨_, rfl, by decide +kernel⟩

/-- Refutes O10: the accumulator must stay where the word at the head of the vector queue is not that of VSTA (code 0x403), but the unit
looks at the operation field alone and stores for code 0x003, too. -/
theorem not_unitResults : ¬ Obligations.UnitResults := by
  intro h
  obtain ⟨-, vector, -⟩ := h strayVector 0 (by decide) rfl
  obtain ⟨t, ht, -, -, -, rest⟩ := vector rfl (by decide) (by decide)
  obtain ⟨-, keepsAcc, -⟩ := rest strayWord 0 0 rfl
  obtain ⟨u, hu, stored⟩ := strayVector_stores
  obtain rfl : u = t := Host.Outcome.next.inj (hu.symm.trans ht)
  have kept : accE (ash u 0) 0 0 = accE (ash strayVector 0) 0 0 := congrArg (fun acc => tgetD 0 acc 0) (keepsAcc (by decide))
  rw [stored] at kept
  exact absurd kept (by decide)

/-! ## DMA -/

/-- A descriptor that reads 64 bytes at device address 0 into scratchpad address 0x400. -/
def descRead64 : List Byte := natLe 8 0 ++ natLe 4 1 ++ natLe 4 64 ++ natLe 8 0 ++ natLe 4 0x400 ++ natLe 4 0 ++ natLe 32 0
/-- DMA of the descriptor that g1 names, on tag 3. -/
def dmaWord : W64 := encX 5 0 1 0 0 3 0

/-- Ashlar 0 issues that DMA for a command of bay 0, whose extent 0 is in HBM and whose interface is locked (R355). -/
def lockedDma : State :=
  { oneRunning { g := [(1, 0x100)], spad := mputs 0x100 descRead64 [], imem := [(0, dmaWord)], imgLen := 1 } with
    cmds := { all := [(0, { cid := 0, bay := 0, queue := 0, st := .running })], next := 1 }
    bays := { all := [(0, { st := .attached, mem := { extents := [(0, { home := .hbm 0 })] } })] }
    sec := { tdi := [(0, { st := .locked })] } }

/-- The sequencer waits: tag 3 is not taken. -/
theorem lockedDma_waits : ∃ t, exec (.dma 0 false) lockedDma = .next t ∧ tget 3 (ash t 0).tags = none := ⟨_, rfl, by decide +kernel⟩

/-- Refutes O11: a plain DMA on an idle tag must take the tag, but while the interface of the ashlar's bay is locked it waits, even for
a descriptor that reaches no host page. -/
theorem not_dmaInstructions : ¬ Obligations.DmaInstructions := by
  intro h
  obtain ⟨starts, -⟩ := h lockedDma 0 dmaWord
  obtain ⟨t, ht, taken, -⟩ := starts (by decide) (by decide)
  obtain ⟨u, hu, idle⟩ := lockedDma_waits
  obtain rfl : u = t := Host.Outcome.next.inj (hu.symm.trans ht)
  rw [show xSel dmaWord = 3 by decide, idle] at taken
  cases taken

/-! ## The headers of control messages (R48, R50) -/

/-- The header of START, and that of HALTED, is not 0. -/
theorem start_hasHeader : ({ kind := .start, a := 0, cid := 0, hdr := ctlHdr 5 0 } : Ctl) ≠ { kind := .start, a := 0, cid := 0 } := by
  decide +kernel
theorem halted_hasHeader : ({ kind := .halted, a := 0, cid := 0, hdr := ctlHdr 8 0 } : Ctl) ≠ { kind := .halted, a := 0, cid := 0 } := by
  decide +kernel

/-- An ashlar at a HALT, its units and tags idle. -/
def atHalt : State := oneRunning { imem := [(0, encX 7 3 0 0 0 0 0)], imgLen := 1 }

theorem atHalt_sends :
    ∃ t, exec (.halt 0) atHalt = .next t ∧ tget 0 t.grid.ctl = some { kind := .halted, a := 0, cid := 0, hdr := ctlHdr 8 0 } :=
  ⟨_, rfl, by decide +kernel⟩

/-- Refutes O14: HALT must leave a HALTED whose header is 0, but it sends one with the header of R48. -/
theorem not_classSeven : ¬ Obligations.ClassSeven := by
  intro h
  obtain ⟨-, -, -, -, -, -, -, halts, -⟩ := h atHalt 0 (encX 7 3 0 0 0 0 0)
  obtain ⟨t, ht, -, -, -, bare, -⟩ := halts (by decide) rfl rfl rfl
  obtain ⟨u, hu, sent⟩ := atHalt_sends
  obtain rfl : u = t := Host.Outcome.next.inj (hu.symm.trans ht)
  exact halted_hasHeader (Option.some.inj (sent.symm.trans bare))

/-- A running LAUNCH of a panel of one ashlar whose image of one word is still to be loaded. -/
def loadingCmd : Cmd := { cid := 0, bay := 0, queue := 0, st := .running, placed := true, loading := true, words := [1], entry := [1, 0, 0, 0, 0, 0, 1, 1] }
def loadingState : State := { oneRunning {} with cmds := { all := [(0, loadingCmd)], next := 1 } }

theorem loadingState_starts :
    ∃ t, exec (.imageLoadComplete 0 {}) loadingState = .next t ∧ t.grid.ctl = [(0, { kind := .start, a := 0, cid := 0, hdr := ctlHdr 5 0 })] :=
  ⟨_, rfl, by decide +kernel⟩

/-- Refutes O17: the end of an image load must leave a START whose header is 0 under way, but the one START it sends has the header
of R48. -/
theorem not_panelAndImage : ¬ Obligations.PanelAndImage := by
  intro h
  obtain ⟨loads, -⟩ := h loadingState 0 loadingCmd rfl rfl
  obtain ⟨t, ht, -, started⟩ := loads [1] rfl rfl (.inl ⟨rfl, by decide⟩)
  obtain ⟨-, -, -, k, bare⟩ := started 0 (by decide)
  obtain ⟨u, hu, sent⟩ := loadingState_starts
  obtain rfl : u = t := Host.Outcome.next.inj (hu.symm.trans ht)
  rw [sent, tget_cons] at bare
  split at bare
  · exact start_hasHeader (Option.some.inj bare)
  · cases bare

end Sys2Proof.Proofs
end

section
/-! SUPPORT. What reset leaves, and the registers that identify the block (R26, R589, R590, log entries 31 and 57). -/
namespace Sys2Proof.Proofs
open Sys2Proof.Machine

variable {s : State} {off v : Nat}

/-- A register of the manager window that no area holds, whose read has no effect and which nothing writes. -/
structure PlainReg (off : Nat) : Prop where
  aligned : off % 4 = 0
  area : ∀ s, mgrArea s off = none
  belowView : off < 0x1000000
  reads : ∀ s, mgrReadArrays off (mgrReadEffect off s) = s
  writes : ∀ s v, mgrWrite off v s = s

/-- A read of such a register answers its word and changes nothing else (R581). -/
theorem plainReg_read (hr : PlainReg off) (hw : windowOpen s .manager = true) (hv : mgrWord s off = v) :
    Answers (.rcRead .manager off 4) s fun t => Read (natLe 4 v) s t ∧ ChangesOnly [.out] s t := by
  simp only [windowOpen, Bool.and_eq_true, Bool.not_eq_true'] at hw
  obtain ⟨hp, hd⟩ := hw
  have hread : windowRead .manager off 4 s = emit (.reply (natLe 4 v) false) s := by
    have h4 : off / 4 * 4 = off := Nat.div_mul_cancel (Nat.dvd_of_mod_eq_zero hr.aligned)
    simp [windowRead, areaBytes, hr.area, Nat.not_le.mpr hr.belowView, regRead, hr.aligned, h4, wordsRead, wordRead, hr.reads, hv, ceilDiv,
      List.take_of_length_le]
  refine ⟨emit (.reply (natLe 4 v) false) s, ?_, rfl, rfl⟩
  calc exec (.rcRead .manager off 4) s = run fpRegs (onPf (windowRead .manager off 4)) s := rfl
    _ = .next (keep fpRegs s (emit (.reply (natLe 4 v) false) s)) := by simp [run_powered hp, onPf, hd, hread]
    _ = .next (emit (.reply (natLe 4 v) false) s) := rfl

/-- A write of such a register changes nothing. -/
theorem plainReg_write (hr : PlainReg off) (hw : windowOpen s .manager = true) (w : Nat) :
    Answers (.registerWrite .manager off 4 w) s fun t => t = s := by
  simp only [windowOpen, Bool.and_eq_true, Bool.not_eq_true'] at hw
  obtain ⟨hp, hd⟩ := hw
  have hwrite : windowWrite .manager off 4 w s = s := by
    simp [windowWrite, areaBytes, hr.area, hr.aligned, each, wordWrite, hr.writes]
  refine ⟨s, ?_, rfl⟩
  calc exec (.registerWrite .manager off 4 w) s = run fpRegs (onPf (windowWrite .manager off 4 w)) s := rfl
    _ = .next s := by simp [run_powered hp, onPf, hd, hwrite]

theorem plainReg_blkId : PlainReg 0 := ⟨rfl, fun _ => rfl, by decide, fun _ => rfl, fun _ _ => rfl⟩
theorem plainReg_blkRev : PlainReg 4 := ⟨rfl, fun _ => rfl, by decide, fun _ => rfl, fun _ _ => rfl⟩
theorem plainReg_gridShape : PlainReg 0x608000 := ⟨rfl, fun _ => rfl, by decide, fun _ => rfl, fun _ _ => rfl⟩

/-- GRID_SHAPE reads the courses above the columns (R26). -/
theorem mgrWord_gridShape (s : State) : mgrWord s 0x608000 = if s.hw.config = .F then 0x2020 else 0x1020 := by
  have hw : mgrWord s 0x608000 = pack [(8, courses s), (0, 32)] := rfl
  rw [hw, courses, isF]
  cases s.hw.config <;> rfl

/-- Settles O60: the fields of the state after reset, then the three registers. -/
theorem resetAndIdentity : Obligations.ResetAndIdentity := by
  refine ⟨by decide, fun s hw => ?_⟩
  exact ⟨⟨plainReg_read plainReg_blkId hw rfl, plainReg_write plainReg_blkId hw⟩,
    ⟨plainReg_read plainReg_blkRev hw rfl, plainReg_write plainReg_blkRev hw⟩,
    ⟨plainReg_read plainReg_gridShape hw (mgrWord_gridShape s), plainReg_write plainReg_gridShape hw⟩⟩

end Sys2Proof.Proofs
end

section
/-! SUPPORT. Messages of programs and slices of a collective as they arrive (R48 to R50, R55, R57, R59, R432, R434, R441, R604). -/
namespace Sys2Proof.Proofs
open Sys2Proof.Machine

variable {s : State} {i kind : Nat} {m : MMsg} {j : Joint} {c : Instr} {rx : Option Rx} {P : State → Prop}

/-- A powered block answers the effect of a row within the footprint of a command in flight. -/
theorem answers_run {f : State → State} (hc : exec c s = run fpWork f s) (hp : s.start.powered = true) (hP : P (keep fpWork s (f s))) :
    Answers c s P := ⟨_, hc.trans (run_powered hp), hP⟩

/-- A row whose effect stays within the footprint answers it as it is. -/
theorem exec_run {f : State → State} {u : State} (hc : exec c s = run fpWork f s) (hp : s.start.powered = true) (hf : f s = u)
    (hk : keep fpWork s u = u) : exec c s = .next u := by rw [hc, run_powered hp, hf, hk]

/-! ## Messages -/

@[simp] theorem ash_netDrop (i b : Nat) (s : State) : ash (netDrop i s) b = ash s b := rfl

/-- A message for an ashlar that no longer runs its command leaves the network without effect (R604, log entry 12). -/
theorem arrive_stopped (hm : netMsg s i = some m) (hk : m.kind = kind) (ho : oldestOfPair s i m = true)
    (hx : (ash s m.dst).cid ≠ m.cid ∨ (ash s m.dst).run ≠ .running) : arrive kind i rx s = netDrop i s := by
  simp only [arrive, hm, hk, ho, bne_self_eq_false, Bool.not_true, Bool.or_self, Bool.false_eq_true, if_false]
  rw [if_pos (by simpa using hx)]

theorem creditArrive_stopped (hm : netMsg s i = some m) (hk : m.kind = 1)
    (hx : (ash s m.dst).cid ≠ m.cid ∨ (ash s m.dst).run ≠ .running) : creditArrive i rx s = netDrop i s := by
  simp only [creditArrive, hm, hk, bne_self_eq_false, Bool.false_eq_true, if_false]
  rw [if_pos (by simpa using hx)]

/-- A message that is intact and expected enters its joint (R50, R57). -/
theorem arrive_accepted (hm : netMsg s i = some m) (hk : m.kind = kind) (ho : oldestOfPair s i m = true)
    (hc : (ash s m.dst).cid = m.cid) (hr : (ash s m.dst).run = .running) (hb : badHeader (received m none) = false)
    (hh : hKind (received m none).hdr = m.kind)
    (hq : hSeq (received m none).hdr = tgetD (seqKey (hSrc (received m none).hdr) (hJoint (received m none).hdr)) (ash s m.dst).seqIn 0)
    (hj : tget (hJoint (received m none).hdr) (ash s m.dst).joints = some j) :
    arrive kind i none s = modAsh m.dst (fun y => intoJoint (received m none) y m.dst j) (netDrop i s) := by
  simp [arrive, hm, ho, hc, hr, hb, hh, ← hk, ← hq, hj]

/-- A CREDIT that is intact enters the sender's table (R55). -/
theorem creditArrive_accepted {cs : List Credit} (hm : netMsg s i = some m) (hk : m.kind = 1) (hc : (ash s m.dst).cid = m.cid)
    (hr : (ash s m.dst).run = .running) (hb : badHeader (received m none) = false) (hh : hKind (received m none).hdr = m.kind)
    (hcs : creditIn (m.src % 32 - (m.dst % 32 - (ash s m.dst).px)) (m.src / 32 - (m.dst / 32 - (ash s m.dst).py)) (fld m.payload 4 1)
      (fld m.payload 0 2) (fld m.payload 2 2) (freshSeq s m.dst m.src (fld m.payload 4 1)) (ash s m.dst).credits = some cs) :
    creditArrive i none s = modAsh m.dst (fun y => { y with credits := cs }) (netDrop i s) := by
  simp [creditArrive, hm, hk, hc, hr, hb, hh, show (received m none).payload = m.payload from rfl, hcs]

/-- What a message in a joint's next slot leaves of the ashlar, and where it lies (R57). -/
theorem intoJoint_effect (r : Rx) (x : Ashlar) (a : Nat) (j : Joint) :
    let y := intoJoint r x a j
    y.spad = mputs (slotAddr j j.head) (slotBytes r.hdr r.payload) x.spad ∧
    (∃ e, tget (hJoint r.hdr) y.joints = some { j with head := (j.head + 1) % j.slots, msgs := j.msgs ++ [e] } ∧
      e.slot = j.head ∧ e.len = r.payload.length) ∧
    tget (seqKey (hSrc r.hdr) (hJoint r.hdr)) y.seqIn = some ((hSeq r.hdr + 1) % 8) ∧ y.g = x.g ∧ y.pc = x.pc := by
  intro y
  refine ⟨spadWr_spad _ _ _ _, ⟨_, tget_tput_same _ _ _, rfl, rfl⟩, tget_tput_same _ _ _, ?_, ?_⟩ <;> simp [y, intoJoint]

/-- Settles O15: a message for an ashlar that has stopped, one that enters its joint, and a CREDIT. -/
theorem messagesArrive : Obligations.MessagesArrive := by
  intro s i m hp hm r x y
  refine ⟨?stopped, fun hc hr hb hh => ⟨?joint, fun cs hk hcs => ?credit⟩⟩
  case stopped =>
    rintro c rx (⟨rfl, hk⟩ | ⟨rfl, hk⟩ | ⟨rfl, hk⟩) ho hx
    · exact exec_run rfl hp (arrive_stopped hm hk ho hx) rfl
    · exact exec_run rfl hp (arrive_stopped hm hk ho hx) rfl
    · exact exec_run rfl hp (creditArrive_stopped hm hk hx) rfl
  case joint =>
    intro c j hcm ho hq hj
    obtain ⟨kind, hk, hexec⟩ : ∃ kind, m.kind = kind ∧ exec c s = run fpWork (arrive kind i none) s := by
      rcases hcm with ⟨rfl, hk⟩ | ⟨rfl, hk⟩ <;> exact ⟨_, hk, rfl⟩
    refine answers_run hexec hp ?_
    rw [arrive_accepted hm hk ho hc hr hb hh hq hj, ash_keepWork, ash_modAsh_same]
    obtain ⟨hspad, hjoint, hseq, hg, hpc⟩ := intoJoint_effect r x m.dst j
    exact ⟨rfl, hspad, hjoint, hseq, hg, hpc, rfl, fun b hne => ash_modAsh_ne hne _ _⟩
  case credit =>
    refine answers_run rfl hp ?_
    rw [creditArrive_accepted hm hk hc hr hb hh hcs, ash_keepWork, ash_modAsh_same]
    exact ⟨rfl, rfl, rfl, fun b hne => ash_modAsh_ne hne _ _⟩

end Sys2Proof.Proofs
end

section
/-! SUPPORT. Commands in the table, and the slices of a collective (R432, R434, R436, R441). -/
namespace Sys2Proof.Proofs
open Sys2Proof.Machine

variable {s : State} {cid a : Nat} {x : ColCtx} {c : Cmd}

/-! ## Commands in the table -/

theorem cmd?_modCmd_same (k : Nat) (f : Cmd → Cmd) (s : State) : cmd? (modCmd k f s) k = (cmd? s k).map f := by
  unfold modCmd
  cases h : cmd? s k with
  | none => simp [h]
  | some c => simp [cmd?]

theorem cmd?_modCmd_ne {j k : Nat} (h : j ≠ k) (f : Cmd → Cmd) (s : State) : cmd? (modCmd k f s) j = cmd? s j := by
  unfold modCmd
  cases cmd? s k with
  | none => rfl
  | some c => simp [cmd?, tget_tput_ne h]

theorem cmdD_of_cmd? {k : Nat} (h : cmd? s k = some c) : cmdD s k = c := by simp [cmdD, h]

/-! ## A command's collective -/

theorem colCtx_iff : colCtx s cid = some x ↔ cmd? s cid = some x.c ∧ x.c.col = some x.k ∧ group? s x.k.grp = some x.g := by
  obtain ⟨xc, xk, xg⟩ := x
  unfold colCtx
  cases hc : cmd? s cid with
  | none => simp
  | some c =>
    dsimp only
    constructor
    · intro h
      split at h
      · cases h
      next k hk =>
        obtain ⟨g, hg, he⟩ := Option.map_eq_some_iff.mp h
        cases he
        exact ⟨rfl, hk, hg⟩
    · rintro ⟨he, hk, hg⟩
      cases he
      simp [hk, hg]

/-- The command once its collective is `k`. -/
def withCol (x : ColCtx) (k : Col) : ColCtx := { x with c := { x.c with col := some k }, k := k }

/-- A change of a collective that keeps its group is seen in its context. -/
theorem colCtx_modCol (h : colCtx s cid = some x) (f : Col → Col) (hg : (f x.k).grp = x.k.grp) :
    colCtx (modCol cid f s) cid = some (withCol x (f x.k)) := by
  obtain ⟨hc, hk, hgrp⟩ := colCtx_iff.mp h
  refine colCtx_iff.mpr ⟨?_, rfl, ?_⟩
  · rw [modCol, cmd?_modCmd_same, hc]
    simp [withCol, hk]
  · show group? (modCol cid f s) (f x.k).grp = some x.g
    rw [hg]
    simpa [group?, modCol] using hgrp

@[simp] theorem ash_modCol (f : Col → Col) (s : State) : ash (modCol cid f s) a = ash s a := ash_modCmd _ _ _ _

/-- A member whose children have not all reported sends no COL_HS yet (R436). -/
theorem tryHs_waits (h : colCtx s cid = some x) (hk : x.k.children.length < (childrenOf x.g).length) : tryHs cid s = s := by
  simp [tryHs, h, hk]

/-- Before the verdict the data phase does not go on. -/
theorem inputReady_waits (h : colCtx s cid = some x) (hv : x.k.verdict = .none) : inputReady cid s = s := by
  simp [inputReady, h, hv]

/-- The end of a collective changes the command alone. -/
theorem ash_colFinish (s : State) (a : Nat) : ash (colFinish cid s) a = ash s a := by
  unfold colFinish
  split
  · split
    · exact ash_modCmd _ _ _ _
    · rfl
  · rfl

/-- The collective once ashlar `a`'s input slice is read (R432, R441). -/
def gathered (x : ColCtx) (a : Nat) (spad : Mem) (k : Col) : Col :=
  { k with
    inp := mputs (panelIndex x.c a * sliceBytes x.c (colIn x.c x.g.members x.g.rank))
      (mread spad (cf x.c 0x30 4) (sliceBytes x.c (colIn x.c x.g.members x.g.rank))) k.inp
    gathered := panelIndex x.c a :: k.gathered }

/-- A slice that comes while children have still to report is gathered, and nothing else happens. -/
theorem archData_gathers (h : colCtx s cid = some x) (hcid : x.c.cid = cid) (ha : a ∈ panelIds x.c) (hs : x.c.st = .running)
    (hg : panelIndex x.c a ∉ x.k.gathered) (hv : x.k.verdict = .none) (hk : x.k.children.length < (childrenOf x.g).length) :
    archDataGo cid a false none false s = modCol cid (gathered x a (ash s a).spad) s := by
  have hgather : gather x a s = modCol cid (gathered x a (ash s a).spad) s := by
    simp [gather, hg, hcid]
    rfl
  have hctx : colCtx (modCol cid (gathered x a (ash s a).spad) s) cid = some (withCol x (gathered x a (ash s a).spad x.k)) :=
    colCtx_modCol h _ rfl
  simp [archDataGo, h, ha, hs, hg, hgather, tryHs_waits hctx hk, inputReady_waits hctx hv]

/-- An output slice that is ready is written to the ashlar's scratchpad (R434). -/
theorem scatter_writes (hg : panelIndex x.c a ∉ x.k.scattered) (hv : x.k.verdict = .endpoint ∨ x.k.verdict = .inSwitch)
    (hr : colSmall x = true ∨ x.k.got.length = (recvsOf x x.k.verdict).length) (b : Nat) :
    ash (scatter x a s) b = ash (modAsh a (spadWr 3 (cf x.c 0x34 4) (mread x.k.out (panelIndex x.c a * sliceBytes x.c (colOut x.c x.g.members))
      (sliceBytes x.c (colOut x.c x.g.members)))) s) b := by
  have hready : ((x.k.verdict == .inSwitch || x.k.verdict == .endpoint) &&
      (colSmall x || x.k.got.length == (recvsOf x x.k.verdict).length)) = true := by
    rw [Bool.and_eq_true, Bool.or_eq_true, Bool.or_eq_true, beq_iff_eq, beq_iff_eq, beq_iff_eq]
    exact ⟨hv.symm, hr⟩
  simp only [scatter, hready, List.contains_eq_mem, hg, decide_false, Bool.not_true, Bool.or_self, Bool.false_eq_true, if_false]
  exact ash_modCol _ _

/-- ARCH_DATA on an ashlar the configuration has. -/
theorem answers_archData {toPanel : Bool} {P : State → Prop} (hp : s.start.powered = true) (ha : a < ashlars s)
    (hP : P (keep fpWork s (archDataGo cid a toPanel none false s))) : Answers (.archData cid a toPanel none false) s P := by
  refine answers_run (f := archDataGo cid a toPanel none false) ?_ hp hP
  show onUnit _ _ _ = _
  rw [decide_eq_true ha, onUnit_true]

/-- An ARCH_CTL that arrives intact does nothing. -/
theorem exec_archCtl_intact (hp : s.start.powered = true) (ha : a < ashlars s) : exec (.archCtl a cid none) s = .next s := by
  show onUnit _ _ _ = _
  rw [decide_eq_true ha, onUnit_true, run_powered hp, keep_self]

/-- Settles O18: an input slice is gathered, an output slice is written, a control message of the arch unit does nothing. -/
theorem slicesOfACollective : Obligations.SlicesOfACollective := by
  intro s cid a x hp ha hx hcid hpanel
  refine ⟨fun hs hg hv hk => answers_archData hp ha ?_, fun hs hg hv hr => answers_archData hp ha ?_, exec_archCtl_intact hp ha⟩
  · rw [archData_gathers hx hcid hpanel hs hg hv hk]
    exact ⟨⟨_, colCtx_modCol hx _ rfl, hs, rfl, rfl⟩, fun b => ash_modCol _ _⟩
  · have hgo : archDataGo cid a true none false s = colFinish cid (scatter x a s) := by simp [archDataGo, hx, hpanel, hs]
    rw [hgo]
    simp only [ash_keepWork, ash_colFinish, scatter_writes hg hv hr, ash_modAsh_same, spadWr_spad]
    exact ⟨trivial, fun b hne => ash_modAsh_ne hne _ _⟩

end Sys2Proof.Proofs
end

section
/-! SUPPORT. How a planned command starts (R31, R106, R113, R118, R434, R435, R559). -/
namespace Sys2Proof.Proofs
open Sys2Proof.Machine

variable {s t : State} {cid a : Nat} {c : Cmd}

/-! ## Clearing poison before a re-run writes device memory alone -/

/-- The commands, the outputs and the arch unit are those of another state. -/
structure SameWork (s t : State) : Prop where
  cmds : t.cmds = s.cmds
  out : t.out = s.out
  arch : t.arch = s.arch

theorem SameWork.trans {u : State} (h : SameWork s t) (k : SameWork t u) : SameWork s u :=
  ⟨k.cmds.trans h.cmds, k.out.trans h.out, k.arch.trans h.arch⟩

theorem sameWork_writePa (pa : Nat) (bs : List Byte) (s : State) : SameWork s (writePa pa bs s) := by
  unfold writePa
  split
  · rw [noteMove_changes]; exact ⟨rfl, rfl, rfl⟩
  · exact ⟨rfl, rfl, rfl⟩

theorem sameWork_zeroPoisoned (c : Cmd) (s : State) : SameWork s (zeroPoisoned c s) := by
  unfold zeroPoisoned
  split
  · exact ⟨rfl, rfl, rfl⟩
  · refine foldl_inv (SameWork s) _ _ (fun t p ht => ?_) s ⟨rfl, rfl, rfl⟩
    split
    · exact foldl_inv (SameWork s) _ _ (fun t e ht => ht.trans (sameWork_writePa _ _ t)) t ht
    · exact ht

theorem zeroPoisoned_clean (h : c.redet = false) (s : State) : zeroPoisoned c s = s := by simp [zeroPoisoned, h]

/-! ## The command is RUNNING -/

/-- A command that is RUNNING with nothing in its outbox but `o`, and holds its translations (R113, R395). -/
def asRunning (c : Cmd) (pages : List Nat) (o : List OutRec) (n : Nat) : Cmd :=
  { c with st := .running, halted := [], outbox := o, outCount := n, transPages := pages }

/-- A planned command of `s` goes to its part from a state in which it is RUNNING; what it does there reads nothing else that changed. -/
structure Started (s : State) (c : Cmd) (t : State) : Prop where
  cmd : ∃ o n, cmd? t c.cid = some (asRunning c ((outPages s c).map (·.1)) o n)
  out : t.out = s.out
  arch : t.arch = s.arch
  mem : c.redet = false → t.mem = s.mem

theorem started_withAdvance (h : Started s c t) : Started s c (withAdvance c t) := by
  unfold withAdvance
  split
  · split
    · obtain ⟨⟨o, n, hc⟩, ho, ha, hm⟩ := h
      exact ⟨⟨_, _, by rw [cmd?_modCmd_same, hc]; rfl⟩, by simpa using ho, by simpa using ha, fun hr => by simpa using hm hr⟩
    · exact h
  · exact h

/-- The state before the batch-advance record: the command RUNNING, the poison of its outputs cleared. -/
def runningNow (c : Cmd) (s : State) : State :=
  modCmd c.cid (fun x => { x with st := .running, halted := [], outbox := [], outCount := 0, transPages := (outPages s c).map (·.1) })
    (zeroPoisoned c s)

theorem started_runningNow (hc : cmd? s c.cid = some c) : Started s c (withAdvance c (runningNow c s)) := by
  obtain ⟨hcmds, hout, harch⟩ := sameWork_zeroPoisoned c s
  have hz : cmd? (zeroPoisoned c s) c.cid = some c := by simpa [cmd?, hcmds] using hc
  refine started_withAdvance ⟨⟨[], 0, by rw [runningNow, cmd?_modCmd_same, hz]; rfl⟩, ?_, ?_, fun hr => ?_⟩
  · simpa [runningNow] using hout
  · simpa [runningNow] using harch
  · simp [runningNow, zeroPoisoned_clean hr]

/-- A planned command that may start and whose pages are there starts (R118, R392, R395). -/
theorem answers_commandStart {P : State → Prop} (h : inFlight s cid c) (hm : mayStart s c = true) (hd : declFault s c = none)
    (ho : outFault s c = none) (ha : atsMiss s c.bay (outHost s c) = none) (hp : atsDenied s c.bay 2 (outHost s c) = none)
    (hP : P (keep fpWork s (startGo c s))) : Answers (.commandStart cid) s P := by
  obtain ⟨hpow, hc, rfl⟩ := h
  refine answers_run (f := commandStart c.cid) rfl hpow ?_
  have hgo : commandStart c.cid s = startGo c s := by
    simp only [commandStart, hc, hm, hd, ho, Bool.not_true, Bool.false_eq_true, if_false, Option.or_none]
    change (match atsMiss s c.bay (outHost s c) with
      | some p => _
      | none => match atsDenied s c.bay 2 (outHost s c) with
        | some p => _
        | none => startGo c s) = _
    rw [ha, hp]
  rwa [hgo]

/-- A command that is RUNNING goes to its part. -/
def toPart (x : Cmd) (t : State) : State :=
  if opc x = opQuoin then startQuoin x t else if opc x = opCollective then startCol x t else startProgram x t

theorem startGo_eq (c : Cmd) (s : State) :
    startGo c s = toPart (cmdD (withAdvance c (runningNow c s)) c.cid) (withAdvance c (runningNow c s)) := rfl

/-- A start goes out from a state in which the command is RUNNING. -/
theorem startGo_started (hc : cmd? s c.cid = some c) : ∃ t o n, Started s c t ∧
    cmd? t c.cid = some (asRunning c ((outPages s c).map (·.1)) o n) ∧ startGo c s = toPart (asRunning c ((outPages s c).map (·.1)) o n) t := by
  have hs := started_runningNow hc
  obtain ⟨o, n, ho⟩ := hs.cmd
  exact ⟨_, o, n, hs, ho, by rw [startGo_eq, cmdD_of_cmd? ho]⟩

/-! ## START to the ashlars of a panel (R31, R50) -/

/-- Control message START to ashlar `a`. -/
def startMsg (cid a : Nat) : Ctl := { kind := .start, a := a, cid := cid, hdr := ctlHdr 5 a }

/-- A message under way stays while STARTs are sent, and each ashlar has one. -/
theorem sendStarts_ctl (cid : Nat) (ids : List Nat) : ∀ s : State,
    let t := each ids (fun a t => sendCtl .start a cid t) s
    (∀ k, k < s.grid.nextCtl → tget k t.grid.ctl = tget k s.grid.ctl) ∧ ∀ a, a ∈ ids → ∃ k, tget k t.grid.ctl = some (startMsg cid a) := by
  induction ids with
  | nil => exact fun s => ⟨fun _ _ => rfl, by simp⟩
  | cons b ids ih =>
    intro s
    obtain ⟨hkeep, hall⟩ := ih (sendCtl .start b cid s)
    refine ⟨fun k hk => ?_, fun a ha => ?_⟩
    · exact (hkeep k (Nat.lt_succ_of_lt hk)).trans (tget_tput_ne (Nat.ne_of_lt hk) _ _)
    · rcases List.mem_cons.mp ha with rfl | ha
      · exact ⟨_, (hkeep _ (Nat.lt_succ_self _)).trans (tget_tput_same _ _ _)⟩
      · exact hall a ha

/-- STARTs leave the commands and the memories. -/
theorem sendStarts_keeps (cid : Nat) (ids : List Nat) (s : State) :
    (each ids (fun a t => sendCtl .start a cid t) s).cmds = s.cmds ∧ (each ids (fun a t => sendCtl .start a cid t) s).mem = s.mem :=
  each_inv (fun t => t.cmds = s.cmds ∧ t.mem = s.mem) ids (fun a t => sendCtl .start a cid t) (fun _ _ ht => ht) s ⟨rfl, rfl⟩

/-- A program whose image is there has a START under way to each ashlar of its panel; else its image loads (R31, R106). -/
theorem startProgram_effect {x : Cmd} (hx : cmd? t x.cid = some x) : ∃ l, cmd? (startProgram x t) x.cid = some { x with loading := l } ∧
    (startProgram x t).mem = t.mem ∧
    (l = true ∨ ∀ a, a ∈ panelIds x → ∃ k, tget k (startProgram x t).grid.ctl = some (startMsg x.cid a)) := by
  have hset : ∀ l, cmd? (modCmd x.cid (fun x => { x with loading := l }) t) x.cid = some { x with loading := l } := fun l => by
    rw [cmd?_modCmd_same, hx]
    rfl
  unfold startProgram startPanel
  rw [cmdD_of_cmd? hx]
  split
  · obtain ⟨hcmds, hmem⟩ := sendStarts_keeps x.cid (panelIds x) (modCmd x.cid (fun x => { x with loading := false }) t)
    refine ⟨false, ?_, by rw [hmem, modCmd_mem], .inr (sendStarts_ctl _ _ _).2⟩
    rw [cmd?, hcmds]
    exact hset false
  · exact ⟨true, hset true, modCmd_mem _ _ _, .inl rfl⟩

/-! ## The panel and the agreement of a collective -/

theorem cid_each_modAsh {f : Ashlar → Ashlar} (hf : ∀ x, (f x).cid = cid) (ids : List Nat) :
    ∀ s : State, ∀ a, a ∈ ids ∨ (ash s a).cid = cid → (ash (each ids (fun a t => modAsh a f t) s) a).cid = cid := by
  induction ids with
  | nil => exact fun s a h => h.resolve_left (by simp)
  | cons b ids ih =>
    intro s a h
    refine ih (modAsh b f s) a ?_
    by_cases hb : a = b
    · exact .inr (by rw [hb, ash_modAsh_same, hf])
    · rw [ash_modAsh_ne hb]
      simpa [hb] using h

theorem each_modAsh_keeps (f : Ashlar → Ashlar) (ids : List Nat) (s : State) : SameWork s (each ids (fun a t => modAsh a f t) s) :=
  each_inv (SameWork s) ids (fun a t => modAsh a f t) (fun _ _ ht => ht.trans ⟨rfl, rfl, rfl⟩) s ⟨rfl, rfl, rfl⟩

theorem tget_mapIf {α : Type} (i : Nat) (f : α → α) (l : Tbl α) :
    tget i (l.map fun e => (e.1, if e.1 = i then f e.2 else e.2)) = (tget i l).map f := by
  induction l with
  | nil => rfl
  | cons e l ih =>
    rw [List.map_cons, tget_cons, ih, show tget i (e :: l) = if e.1 = i then some e.2 else tget i l from rfl]
    split <;> rfl

theorem group?_modGroup_same (i : Nat) (f : Group → Group) (s : State) : group? (modGroup i f s) i = (group? s i).map f := tget_mapIf i f _

/-- A change of the group of a collective is seen in its context. -/
theorem colCtx_modGroup {x : ColCtx} (h : colCtx s cid = some x) (f : Group → Group) :
    colCtx (modGroup x.k.grp f s) cid = some { x with g := f x.g } := by
  obtain ⟨hc, hk, hg⟩ := colCtx_iff.mp h
  exact colCtx_iff.mpr ⟨hc, hk, by rw [group?_modGroup_same, hg]; rfl⟩

/-- The messages from children that came before the collective started (R439). -/
def earlyHs (x : ColCtx) : List ChildHs := (x.g.early.filter fun e => e.1 == x.k.seq % 16).map (·.2)

/-- The collective once it has its hash and the early messages. -/
def agreeing (x : ColCtx) (k : Col) : Col := { k with hash := colHash x.c x.g x.k.seq, children := k.children ++ earlyHs x }

/-- A collective that waits for children forms its hash and takes the early messages, and goes no further (R435, R439). -/
theorem colStart_waits {x : ColCtx} (h : colCtx s cid = some x) (ha : x.g.abandoned = []) (hv : x.g.verdicts = [])
    (hk : (x.k.children ++ earlyHs x).length < (childrenOf x.g).length) :
    colStart cid s = modGroup x.k.grp (fun g => { g with early := g.early.filter fun e => e.1 != x.k.seq % 16 }) (modCol cid (agreeing x) s) := by
  have hctx := colCtx_modGroup (colCtx_modCol h (agreeing x) rfl) fun g => { g with early := g.early.filter fun e => e.1 != x.k.seq % 16 }
  have hwait := tryHs_waits hctx hk
  simp only [colStart, h, ha, hv, List.find?_nil, List.contains_nil, Bool.false_eq_true, if_false]
  exact hwait

/-! ## The three parts -/

/-- A LAUNCH is RUNNING with its translations, and has its STARTs under way or its image loading. -/
theorem startGo_launch (hc : cmd? s c.cid = some c) (ho : opc c = opLaunch) : let t := startGo c s
    (cmdD t c.cid).st = .running ∧ (cmdD t c.cid).transPages = (outPages s c).map (·.1) ∧ (c.redet = false → t.mem = s.mem) ∧
      ((cmdD t c.cid).loading = true ∨ ∀ a, a ∈ panelIds c → ∃ k, tget k t.grid.ctl = some (startMsg c.cid a)) := by
  obtain ⟨t, o, n, ht, hx, hgo⟩ := startGo_started hc
  have hpart : ∀ u, toPart (asRunning c ((outPages s c).map (·.1)) o n) u = startProgram (asRunning c ((outPages s c).map (·.1)) o n) u := by
    intro u
    have hop : opc (asRunning c ((outPages s c).map (·.1)) o n) = 1 := ho
    simp [toPart, hop, opQuoin, opCollective]
  obtain ⟨l, hl, hmem, hstart⟩ := startProgram_effect (x := asRunning c ((outPages s c).map (·.1)) o n) hx
  dsimp only
  rw [hgo, hpart, cmdD_of_cmd? (k := c.cid) hl]
  exact ⟨rfl, rfl, fun hr => hmem.trans (ht.mem hr), hstart⟩

theorem qport_modQp_same (p : Nat) (f : QPort → QPort) (s : State) : qport (modQp p f s) p = f (qport s p) := by
  simp [qport, modQp, tgetD, tget_tmod]

theorem qport_emit (o : Out) (s : State) (p : Nat) : qport (emit o s) p = qport s p := rfl

theorem cid_startQuoin (x : Cmd) (s : State) : (qport (startQuoin x s) (wOf x)).cid = some x.cid := by
  simp only [startQuoin, qport_emit, qport_modQp_same]

/-- A QUOIN_LAUNCH is RUNNING and its record driven to the engine, which holds its number (R559). -/
theorem startGo_quoin (hc : cmd? s c.cid = some c) (ho : opc c = opQuoin) : let t := startGo c s
    (cmdD t c.cid).st = .running ∧ (qport t (wOf c)).cid = some c.cid ∧
      ∃ va, t.out.log = .quoinCmd (wOf c) (quoinBeats c va) :: s.out.log := by
  obtain ⟨t, o, n, ht, hx, hgo⟩ := startGo_started hc
  have hpart : toPart (asRunning c ((outPages s c).map (·.1)) o n) t = startQuoin (asRunning c ((outPages s c).map (·.1)) o n) t := if_pos ho
  rw [hgo, hpart]
  refine ⟨?_, ?_, (freeVal t).toNat, ?_⟩
  · have h : cmd? (modCmd c.cid (fun c => { c with stageVa := (freeVal t).toNat }) (drewFree t)) c.cid =
        some { asRunning c ((outPages s c).map (·.1)) o n with stageVa := (freeVal t).toNat } := by
      rw [cmd?_modCmd_same, show cmd? (drewFree t) c.cid = _ from hx]
      rfl
    exact congrArg Cmd.st (cmdD_of_cmd? h)
  · exact cid_startQuoin _ t
  · show .quoinCmd (wOf c) (quoinBeats c (freeVal t).toNat) :: (modCmd _ _ (drewFree t)).out.log = _
    rw [modCmd_out, show (drewFree t).out.log = t.out.log from rfl, ht.out]

/-- A COLLECTIVE that waits for children is RUNNING with its hash, and holds its panel (R434, R435). -/
theorem startGo_col {x : ColCtx} (hc : cmd? s c.cid = some c) (ho : opc c = opCollective) (hx : colCtx s c.cid = some x)
    (ha : x.g.abandoned = []) (hv : x.g.verdicts = []) (hk : (x.k.children ++ earlyHs x).length < (childrenOf x.g).length) :
    let t := startGo c s
    ∃ y, colCtx t c.cid = some y ∧ y.c.st = .running ∧ y.k.hash = colHash c x.g x.k.seq ∧ y.k.children = x.k.children ++ earlyHs x ∧
      ∀ a, a ∈ panelIds c → (ash t a).cid = c.cid := by
  obtain ⟨t, o, n, ht, hr, hgo⟩ := startGo_started hc
  obtain ⟨hxc, hxk, hxg⟩ := colCtx_iff.mp hx
  obtain rfl : c = x.c := Option.some.inj (hc.symm.trans hxc)
  have hop : opc (asRunning x.c ((outPages s x.c).map (·.1)) o n) = 3 := ho
  have hpart : toPart (asRunning x.c ((outPages s x.c).map (·.1)) o n) t = startCol (asRunning x.c ((outPages s x.c).map (·.1)) o n) t := by
    simp [toPart, hop, opQuoin, opCollective]
  have hsame := each_modAsh_keeps (fun y => { y with cid := x.c.cid, ctx := true, journal := [] }) (panelIds x.c) t
  have hctx : colCtx (each (panelIds x.c) (fun a t => modAsh a (fun y => { y with cid := x.c.cid, ctx := true, journal := [] }) t) t) x.c.cid =
      some { x with c := asRunning x.c ((outPages s x.c).map (·.1)) o n } := by
    refine colCtx_iff.mpr ⟨?_, hxk, ?_⟩
    · rw [cmd?, hsame.cmds]; exact hr
    · rw [group?, hsame.arch, ht.arch]; exact hxg
  rw [hgo, hpart]
  unfold startCol
  have hstart := colStart_waits hctx ha hv hk
  rw [show (asRunning x.c ((outPages s x.c).map (·.1)) o n).cid = x.c.cid from rfl,
    show panelIds (asRunning x.c ((outPages s x.c).map (·.1)) o n) = panelIds x.c from rfl, hstart]
  refine ⟨_, colCtx_modGroup (colCtx_modCol hctx _ rfl) _, rfl, rfl, rfl, fun a hm => ?_⟩
  have hash := cid_each_modAsh (f := fun y => { y with cid := x.c.cid, ctx := true, journal := [] }) (fun _ => rfl) (panelIds x.c) t a (.inl hm)
  exact (congrArg Ashlar.cid (ash_modCol _ _)).trans hash

/-- Settles O22: a planned command that may start and whose pages are there goes to its part. -/
theorem commandStarts : Obligations.CommandStarts := by
  intro s cid c h hm hd ho ha hp
  have hc := h.2.1
  obtain rfl : c.cid = cid := h.2.2
  refine ⟨fun hop => ?_, fun hop => ?_, fun x hop hx hab hv _ hk => ?_⟩ <;> refine answers_commandStart h hm hd ho ha hp ?_
  · exact startGo_launch hc hop
  · exact startGo_quoin hc hop
  · exact startGo_col hc hop hx hab hv hk

end Sys2Proof.Proofs
end

section
/-! SUPPORT. What a write of device memory leaves of its translations (R202, R386). -/
namespace Sys2Proof.Proofs
open Sys2Proof.Machine

variable {s t : State}

theorem bay_modBay (b c : Nat) (f : Bay → Bay) (s : State) : bay (modBay b f s) c = if c = b then f (bay s b) else bay s c := by
  simp only [bay, modBay, tgetD, tget_tmod]
  split <;> rfl

theorem tget_tmap {α β : Type} (k : Nat) (f : Nat → α → β) (l : Tbl α) : tget k (tmap f l) = (tget k l).map (f k) := by
  induction l with
  | nil => rfl
  | cons e l ih =>
    obtain ⟨j, v⟩ := e
    show (if j = k then some (f j v) else tget k (tmap f l)) = (if j = k then some v else tget k l).map (f k)
    split
    · next h => rw [h]; rfl
    · exact ih

/-- A translation depends on the geometry, the stream side of the bay, its mappings, and the homes and permissions of its extents. -/
theorem xlate_congr {b : Nat} (hp : ∀ f off, physOf t b f off = physOf s b f off) (hs : (bay t b).strm = (bay s b).strm)
    (hm : (bay t b).mem.maps = (bay s b).mem.maps) (ha : (bay t b).mem.awaiting = (bay s b).mem.awaiting)
    (he : ∀ k, (tget k (bay t b).mem.extents).map (fun e => (e.home, e.perm)) = (tget k (bay s b).mem.extents).map fun e => (e.home, e.perm))
    (va need : Nat) (stale : Bool) : xlate t b va need stale = xlate s b va need stale := by
  have harea : areaPa t b va = areaPa s b va := by simp only [areaPa, runPa, hs, hp]
  have hw : holdsWeights t b va = holdsWeights s b va := by simp only [holdsWeights, hs]
  have hh : homePlace t b = homePlace s b := by
    funext off h
    cases h with
    | hbm f => exact congrArg Place.hbm (hp f off)
    | win w f => rfl
  have hk := he (va / 2 ^ 21)
  unfold xlate
  simp only [harea, hw, hh, hm, ha]
  cases ht : tget (va / 2 ^ 21) (bay t b).mem.extents with
  | none =>
    rw [ht, Option.map_none, eq_comm, Option.map_eq_none_iff] at hk
    rw [hk]
  | some e =>
    rw [ht, Option.map_some, eq_comm, Option.map_eq_some_iff] at hk
    obtain ⟨e', hs', heq⟩ := hk
    obtain ⟨hhome, hperm⟩ := Prod.mk.inj heq
    rw [hs']
    dsimp only
    rw [hhome, hperm]

theorem bay_modBm_same (b : Nat) (f : BayMem → BayMem) (s : State) : bay (modBm b f s) b = { bay s b with mem := f (bay s b).mem } := by
  rw [modBm, bay_modBay, if_pos rfl]

theorem bay_modBm_ne {b c : Nat} (h : c ≠ b) (f : BayMem → BayMem) (s : State) : bay (modBm b f s) c = bay s c := by
  rw [modBm, bay_modBay, if_neg h]

/-- A note on the moves of extents leaves every translation. -/
theorem xlate_noteMove (b : Nat) (h : Home) (off n c va need : Nat) (stale : Bool) (s : State) :
    xlate (noteMove b h off n s) c va need stale = xlate s c va need stale := by
  unfold noteMove
  split
  · refine xlate_congr (s := s) (t := modBm b _ s) (fun _ _ => rfl) ?_ ?_ ?_ (fun k => ?_) va need stale <;> by_cases hb : c = b
    case pos | pos | pos =>
      subst hb
      rw [bay_modBm_same]
    case neg | neg | neg | neg => rw [bay_modBm_ne hb]
    case pos =>
      subst hb
      rw [bay_modBm_same]
      dsimp only
      rw [tget_tmap]
      cases tget k (bay s c).mem.extents with
      | none => rfl
      | some e => simp only [Option.map_some]; split <;> rfl
  · rfl

theorem xlate_writePa (pa : Nat) (bs : List Byte) (c va need : Nat) (stale : Bool) (s : State) :
    xlate (writePa pa bs s) c va need stale = xlate s c va need stale := by
  have hmem : ∀ (u : State) (m : MemSys), xlate { u with mem := m } c va need stale = xlate u c va need stale := fun _ _ => rfl
  unfold writePa
  rw [hmem]
  split
  · exact xlate_noteMove _ _ _ _ _ _ _ _ _
  · rfl

theorem hbm_writePa (pa : Nat) (bs : List Byte) (s : State) : (writePa pa bs s).mem.hbm = mputs pa bs s.mem.hbm := by
  unfold writePa
  split
  · simp
  · rfl

theorem grid_writePa (pa : Nat) (bs : List Byte) (s : State) : (writePa pa bs s).grid = s.grid := by
  unfold writePa
  split
  · rw [noteMove_changes]
  · rfl

end Sys2Proof.Proofs
end

section
/-! SUPPORT. Runs of bytes cut at pages and at lines (R42, R63). -/
namespace Sys2Proof.Proofs
open Sys2Proof.Machine

/-- A run within one page is one piece. -/
theorem pagesOf_inPage {va n : Nat} (hn : 0 < n) (h : va % 4096 + n ≤ 4096) : pagesOf va n = [(va, n)] := by
  have hm : min n (4096 - va % 4096) = n := by omega
  have hz : ∀ k v, pieces k v 0 = [] := fun k v => by cases k <;> rfl
  rw [pagesOf, pieces, if_neg (Nat.ne_of_gt hn)]
  simp only [hm, Nat.sub_self, hz]

/-- The bytes of the pieces of a run cut at lines are those of the run. -/
theorem cutFrom_append (bs : List Byte) (va0 : Nat) : ∀ k va n, va0 ≤ va → n = 0 ∨ n + va % 64 ≤ 64 * k →
    ((cutFrom k va n).flatMap fun p => (bs.drop (p.1 - va0)).take p.2) = (bs.drop (va - va0)).take n
  | 0, va, n, _, hk => by
    have : n = 0 := by omega
    simp [cutFrom, this]
  | k + 1, va, n, hva, hk => by
    unfold cutFrom
    split
    · next h => simp [h]
    next hn =>
    obtain ⟨m, hm⟩ : ∃ m, m = min n (64 - va % 64) := ⟨_, rfl⟩
    dsimp only
    rw [← hm, List.flatMap_cons, cutFrom_append bs va0 k (va + m) (n - m) (by omega) (by omega)]
    obtain ⟨r, rfl⟩ : ∃ r, n = m + r := ⟨n - m, by omega⟩
    rw [Nat.add_sub_cancel_left, List.take_add, List.drop_drop]
    congr 3
    omega

theorem cutLines_flatten (va : Nat) (bs : List Byte) :
    ((cutLines va bs.length).flatMap fun p => (bs.drop (p.1 - va)).take p.2) = bs := by
  rw [cutLines, cutFrom_append bs va _ va bs.length (Nat.le_refl va) (by omega)]
  simp

end Sys2Proof.Proofs
end

section
/-! SUPPORT. How DMA transfers end (R44, R63, R121, R382, R460). -/
namespace Sys2Proof.Proofs
open Sys2Proof.Machine

variable {s u : State} {a tag pa b : Nat} {d : DmaDesc} {x : DmaXfer} {c : Cmd}

/-- Every byte of a row of bay `b` translates to placed memory from `pa`. -/
def Placed (s : State) (b va n pa : Nat) : Prop := ∀ k, k < n → ∀ need stale, xlate s b (va + k) need stale = .ok (.hbm (pa + k))

/-! ## Reads of placed memory -/

theorem byteVa_of_placed {va n k : Nat} (h : Placed s b va n pa) (hk : k < n) (env : Env) (stale : Bool) :
    byteVa s b env stale (va + k) = some (mget s.mem.hbm (pa + k)) := by
  simp [byteVa, h k hk, placeByte]

theorem readVa_of_placed {va n : Nat} (h : Placed s b va n pa) (env : Env) (stale : Bool) : readVa s b env stale va n = some (mread s.mem.hbm pa n) := by
  induction n generalizing va pa with
  | zero => rfl
  | succ n ih =>
    have hnext : Placed s b (va + 1) n (pa + 1) := fun k hk need st => by
      rw [Nat.add_assoc, Nat.add_assoc, Nat.add_comm 1 k]
      exact h (k + 1) (by omega) need st
    rw [readVa, show byteVa s b env stale va = _ from byteVa_of_placed h (Nat.zero_lt_succ n) env stale, ih hnext]
    rfl

/-- With no MAC failure named, a read meets none. -/
theorem macFailures_clean (b va pa n : Nat) (s : State) : macFailures b va pa n {} s = s := rfl

theorem foldl_same {α β : Type} (l : List α) (z : β) : l.foldl (fun y _ => y) z = z := by
  induction l with
  | nil => rfl
  | cons _ l ih => exact ih

/-- No poisoned block, nothing a read could meet (R461). -/
theorem readPoison_clean (h : s.mem.poison = []) (b : Nat) (d : DmaDesc) : readPoison s b d = none := by
  rw [readPoison, List.findSome?_eq_none_iff]
  intro r _
  rw [poisonVa, List.findSome?_eq_none_iff]
  intro p _
  split <;> simp [poisonIn, h]

/-- With no write under way no new line may be in place yet (R63). -/
theorem newLines_idle (h : ∀ e ∈ s.grid.ashlars, ∀ g ∈ e.2.tags, g.2.d.toMem = false) (b l : Nat) (line : List Byte) : newLines s b l line = [] := by
  rw [newLines, List.flatMap_eq_nil_iff]
  intro e he
  split
  · rfl
  · rw [List.flatMap_eq_nil_iff]
    intro g hg
    simp [h e he g hg]

/-- A read with which no write runs concurrently brings the bytes as memory holds them (R63). -/
theorem readRow_quiet (h : ∀ e ∈ s.grid.ashlars, ∀ g ∈ e.2.tags, g.2.d.toMem = false) (ho : x.olds = []) (b va : Nat) (bs : List Byte) :
    readRow s b x va bs = bs := by
  have hline : ∀ va bs, readLine s b x s.out.free va bs = bs := fun va bs => by
    unfold readLine
    dsimp only
    split
    · rfl
    · rw [ho, newLines_idle h]; rfl
  simp only [readRow, hline]
  exact cutLines_flatten va bs

theorem memRows_one (h : d.rows = 1) : memRows d = [(d.vaddr, d.rowBytes)] := by simp [memRows, h]
theorem spadRows_one (h : d.rows = 1) : spadRows d = [(d.spadAddr, d.rowBytes)] := by simp [spadRows, h]

/-- A finished read of one row of placed memory, with nothing that could disturb it. -/
theorem dmaReadDone_row (ht : tget tag (ash s a).tags = some x) (hx : x.olds = [] ∧ x.todo = [] ∧ x.asked = 0) (hr : (ash s a).run = .running)
    (hd : x.d.toMem = false) (hrow : x.d.rows = 1) (hp : Placed s (cmdD s (ash s a).cid).bay x.d.vaddr x.d.rowBytes pa) (hpo : s.mem.poison = [])
    (hj : inJoint (ash s a) x.d.spadAddr x.d.rowBytes = false) (hw : ∀ e ∈ s.grid.ashlars, ∀ g ∈ e.2.tags, g.2.d.toMem = false) :
    dmaReadDone a tag {} s = drewN (2 ^ 28) (modAsh a (fun y =>
      spadWr 3 x.d.spadAddr (mread s.mem.hbm pa x.d.rowBytes) { y with tags := tdrop tag y.tags }) s) := by
  obtain ⟨hold, htodo, hasked⟩ := hx
  have hrun : ((ash s a).run == Run.frozen) = false := by rw [hr]; rfl
  simp only [dmaReadDone, ht, hd, hrun, htodo, hasked, List.isEmpty_nil, Bool.not_true, Nat.lt_irrefl, decide_false, Bool.or_self,
    Bool.false_eq_true, if_false, macFailures_clean, foldl_same, readPoison_clean hpo, memRows_one hrow, spadRows_one hrow, List.zip_cons_cons,
    List.zip_nil_left, rowBytes]
  simp [readVa_of_placed hp, readRow_quiet hw hold, hj]

/-! ## Writes in place -/

/-- A write in place that names no MAC failure merges nothing (R363, R460). -/
theorem mergeRows_clean (c : Cmd) (d : DmaDesc) (s : State) : mergeRows c d {} s = s := by
  have hm : ∀ b va pa n (s : State), mergeFailures b va pa n {} s = s := fun _ _ _ _ _ => rfl
  unfold mergeRows
  split
  · rfl
  · simp only [hm, foldl_same]

/-- Part of a row within one page, of placed memory, is written where it translates to (R121, R382). -/
theorem writeRow_inPlace {va : Nat} {bs : List Byte} (hc : staged c = false) (hn : 0 < bs.length) (hpg : va % 4096 + bs.length ≤ 4096)
    (hx : xlate s c.bay va 2 true = .ok (.hbm pa)) : writeRow c va bs s = writePa pa bs s := by
  simp [writeRow, pagesOf_inPage hn hpg, hx, hc]

theorem tget_mapKeeping {α : Type} (k : Nat) (f : Nat × α → Nat × α) (hf : ∀ e, (f e).1 = e.1) (l : Tbl α) :
    tget k (l.map f) = (tget k l).map fun v => (f (k, v)).2 := by
  induction l with
  | nil => rfl
  | cons e l ih =>
    obtain ⟨j, v⟩ := e
    rw [List.map_cons, show f (j, v) = (j, (f (j, v)).2) from Prod.ext (hf (j, v)) rfl, tget_cons, tget_cons, ih]
    split
    · next h => rw [h]; rfl
    · rfl

/-- An ashlar with no transfer takes no note of a landing write. -/
theorem ash_noteLanded_idle (h : (ash s a).tags = []) (b : Nat) (only : Option Nat) (l : Nat) : ash (noteLanded b only l s) a = ash s a := by
  unfold ash tgetD noteLanded at *
  dsimp only
  rw [tget_mapKeeping a _ (fun e => by cases only <;> (dsimp only; split <;> rfl))]
  cases hx : tget a s.grid.ashlars with
  | none => rfl
  | some x =>
    rw [hx] at h
    simp [show x.tags = [] from h]

/-- A piece of a write that clashes with none lands where it translates to (R63). -/
theorem landDone_inPlace {s0 : State} {va src n : Nat} (hc : staged c = false) (hx : x.clash = []) (hn : 0 < n) (hpg : va % 4096 + n ≤ 4096)
    (hq : xlate s c.bay va 2 true = .ok (.hbm pa)) (hh : (ash s0 a).hist = []) (ht : (ash s0 a).tags = []) :
    landDone c a x s0 (va, src, n) s = writePa pa (mread (ash s0 a).spad src n)
      (noteLanded c.bay (if inPlace s c va then none else some c.cid) (va / 64) s) := by
  have hl : (mread (ash s0 a).spad src n).length = n := length_mread _ _ _
  unfold landDone
  dsimp only
  rw [hx, List.contains_nil, Bool.false_and, if_neg (by simp), sourceBytes, seenBytes_of_quiet hh ht]
  exact writeRow_inPlace hc (by rwa [hl]) (by rwa [hl]) hq

/-- The pieces of a run within a page land one after another: the memory holds the source's bytes there, and nothing else has changed. -/
theorem landPieces {s0 : State} {va0 sp : Nat} (hc : staged c = false) (hx : x.clash = []) (hh : (ash s0 a).hist = []) (ht : (ash s0 a).tags = []) :
    ∀ k va n pa u, va0 ≤ va → (n = 0 ∨ n + va % 64 ≤ 64 * k) → va % 4096 + n ≤ 4096 → Placed u c.bay va n pa → ash u a = ash s0 a →
      let t := ((cutFrom k va n).map fun p => (p.1, sp + (p.1 - va0), p.2)).foldl (fun u p => landDone c a x s0 p u) u
      ash t a = ash s0 a ∧ ∀ j, mget t.mem.hbm j = if pa ≤ j ∧ j < pa + n then mget (ash s0 a).spad (sp + (va - va0) + (j - pa)) else mget u.mem.hbm j
  | 0, va, n, pa, u, _, hk, _, _, hu => by
    have : n = 0 := by omega
    refine ⟨hu, fun j => ?_⟩
    rw [if_neg (by omega)]
    rfl
  | k + 1, va, n, pa, u, hva, hk, hpg, hp, hu => by
    by_cases hn : n = 0
    · subst hn
      refine ⟨by simpa [cutFrom] using hu, fun j => ?_⟩
      rw [if_neg (by omega)]
      simp [cutFrom]
    obtain ⟨m, hm⟩ : ∃ m, m = min n (64 - va % 64) := ⟨_, rfl⟩
    obtain ⟨r, hr⟩ : ∃ r, n = m + r := ⟨n - m, by omega⟩
    have hland := landDone_inPlace (src := sp + (va - va0)) hc hx (by omega : 0 < m) (by omega)
      (show xlate u c.bay va 2 true = .ok (.hbm pa) from hp 0 (by omega) 2 true) hh ht
    obtain ⟨v, hv⟩ : ∃ v, v = landDone c a x s0 (va, sp + (va - va0), m) u := ⟨_, rfl⟩
    have hpv : Placed v c.bay (va + m) r (pa + m) := fun i hi need stale => by
      rw [hv, hland, xlate_writePa, Nat.add_assoc, Nat.add_assoc]
      exact hp (m + i) (by omega) need stale
    have hav : ash v a = ash s0 a := by
      have htu : (ash u a).tags = [] := by rw [hu]; exact ht
      rw [hv, hland, ash, grid_writePa, ← ash, ash_noteLanded_idle htu, hu]
    have hline : r = 0 ∨ r + (va + m) % 64 ≤ 64 * k := by
      have : r = 0 ∨ m = 64 - va % 64 := by omega
      omega
    have hpage : (va + m) % 4096 + r ≤ 4096 := by
      have : (va + m) % 4096 ≤ va % 4096 + m := by omega
      omega
    obtain ⟨hash, hmem⟩ := landPieces (va0 := va0) (sp := sp) hc hx hh ht k (va + m) r (pa + m) v (by omega) hline hpage hpv hav
    have hfold : ((cutFrom (k + 1) va n).map fun p => (p.1, sp + (p.1 - va0), p.2)).foldl (fun u p => landDone c a x s0 p u) u =
        ((cutFrom k (va + m) r).map fun p => (p.1, sp + (p.1 - va0), p.2)).foldl (fun u p => landDone c a x s0 p u) v := by
      rw [cutFrom, if_neg hn]
      simp only [← hm, show n - m = r by omega, List.map_cons, List.foldl_cons, ← hv]
    rw [hfold]
    refine ⟨hash, fun j => ?_⟩
    have hbm : mget v.mem.hbm j = if pa ≤ j ∧ j < pa + m then mget (ash s0 a).spad (sp + (va - va0) + (j - pa)) else mget u.mem.hbm j := by
      rw [hv, hland, hbm_writePa, mget_mputs_mread]
      rfl
    rw [hmem, hbm]
    by_cases h1 : pa + m ≤ j ∧ j < pa + m + r
    · rw [if_pos h1, if_pos (by omega)]
      congr 1
      omega
    · rw [if_neg h1]
      by_cases h2 : pa ≤ j ∧ j < pa + m
      · rw [if_pos h2, if_pos (by omega)]
      · rw [if_neg h2, if_neg (by omega)]

/-- A finished write in place of one line of placed memory puts the scratchpad's bytes there (R44, R121). -/
theorem dmaWriteDone_line (ht : (ash s a).tags = [(tag, x)]) (hcl : x.clash = []) (hr : (ash s a).run = .running) (hd : x.d.toMem = true)
    (hno : x.d.notifyEn = false) (hrow : x.d.rows = 1) (hn : x.d.rowBytes = 64) (hpg : x.d.vaddr % 4096 + 64 ≤ 4096)
    (hp : Placed s (cmdD s (ash s a).cid).bay x.d.vaddr 64 pa) (hh : (ash s a).hist = []) (hst : staged (cmdD s (ash s a).cid) = false) :
    let t := dmaWriteDone a tag {} s
    ash t a = { ash s a with tags := [] } ∧
      ∀ j, mget t.mem.hbm j = if pa ≤ j ∧ j < pa + 64 then mget (ash s a).spad (x.d.spadAddr + (j - pa)) else mget s.mem.hbm j := by
  obtain ⟨s0, hs0⟩ : ∃ s0, s0 = modAsh a (fun z => { z with tags := tdrop tag z.tags }) s := ⟨_, rfl⟩
  have hash0 : ash s0 a = { ash s a with tags := [] } := by
    rw [hs0, ash_modAsh_same, ht]
    simp [tdrop]
  have htag : tget tag (ash s a).tags = some x := by simp [ht, tget_cons]
  have hrun : ((ash s a).run == Run.frozen) = false := by rw [hr]; rfl
  have hpieces : xferPieces x.d = (cutFrom 3 x.d.vaddr 64).map fun p => (p.1, x.d.spadAddr + (p.1 - x.d.vaddr), p.2) := by
    simp [xferPieces, memRows_one hrow, spadRows_one hrow, hn, cutLines]
  have hgo : dmaWriteDone a tag {} s = drewN (2 ^ 28)
      (((cutFrom 3 x.d.vaddr 64).map fun p => (p.1, x.d.spadAddr + (p.1 - x.d.vaddr), p.2)).foldl
        (fun u p => landDone (cmdD s (ash s a).cid) a x s0 p u) s0) := by
    simp only [dmaWriteDone, htag, hd, hrun, hno, Bool.not_true, Bool.or_self, Bool.false_eq_true, if_false, mergeRows_clean, hpieces, ← hs0]
  have hp0 : Placed s0 (cmdD s (ash s a).cid).bay x.d.vaddr 64 pa := hs0 ▸ hp
  obtain ⟨hash, hmem⟩ := landPieces (s0 := s0) (a := a) (va0 := x.d.vaddr) (sp := x.d.spadAddr) hst hcl (by rw [hash0]; exact hh) (by rw [hash0]) 3 x.d.vaddr 64 pa s0
    (Nat.le_refl _) (by omega) hpg hp0 rfl
  rw [hgo]
  refine ⟨hash.trans hash0, fun j => ?_⟩
  have hj := hmem j
  rw [hash0, Nat.sub_self, Nat.add_zero] at hj
  rw [hs0] at hj ⊢
  exact hj

/-- Settles O12: one row of a read, one line of a write. -/
theorem dmaEnds : Obligations.DmaEnds := by
  intro s a tag pa d h0 ha hpow x c hr hrow hpg hn _ hp hpo ht
  have hexec : ∀ f, onUnit (decide (a < ashlars s)) "ashlar" (run fpWork f s) = run fpWork f s := fun f => by
    rw [decide_eq_true ha, onUnit_true]
  refine ⟨fun hd hj hw => ?_, fun hd hno h64 hh htags hst => ?_⟩
  · refine answers_run (f := dmaReadDone a tag {}) (hexec _) hpow ?_
    rw [dmaReadDone_row ht ⟨rfl, rfl, rfl⟩ hr hd hrow hp hpo hj hw]
    refine ⟨?_, fun b hb => ?_, rfl, fun k => ?_⟩
    · simp
    · exact ash_modAsh_ne hb _ _
    · simp only [ash_keepWork, ash_drewN, ash_modAsh_same, spadWr_spad]
      exact mget_mputs_mread _ _ _ _ _ _
  · refine answers_run (f := dmaWriteDone a tag {}) (hexec _) hpow ?_
    obtain ⟨hash, hmem⟩ := dmaWriteDone_line htags rfl hr hd hno hrow h64 (h64 ▸ hpg) (h64 ▸ hp) hh hst
    rw [ash_keepWork, hash]
    exact ⟨rfl, rfl, hmem⟩

end Sys2Proof.Proofs
end

section
/-! SUPPORT. What stopping and finishing a command leaves alone: the resets wanted, the repointing, and the count of the ashlars named
by hard faults (R65, R130, R238, R456, R467). -/
namespace Sys2Proof.Proofs
open Sys2Proof.Machine

variable {s t u : State} {b c q : Nat}

/-- The reset state, the security state and the count of named ashlars are as before. -/
structure Calm (s t : State) : Prop where
  rst : t.rst = s.rst
  sec : t.sec = s.sec
  named : t.grid.named = s.grid.named

theorem Calm.refl : Calm s s := ⟨rfl, rfl, rfl⟩
theorem Calm.trans (h : Calm s t) (g : Calm t u) : Calm s u := ⟨g.rst.trans h.rst, g.sec.trans h.sec, g.named.trans h.named⟩

theorem Calm.foldl {α : Type} {f : State → α → State} (hf : ∀ t x, Calm t (f t x)) (l : List α) : Calm s (l.foldl f s) :=
  foldl_inv (Calm s) l f (fun t x h => h.trans (hf t x)) s .refl

theorem Calm.each {α : Type} {f : α → State → State} (hf : ∀ x t, Calm t (f x t)) (l : List α) : Calm s (each l f s) :=
  each_inv (Calm s) l f (fun x t h => h.trans (hf x t)) s .refl

theorem Calm.of_fabric (h : FabricOnly s t) : Calm s t := by rw [h]; exact ⟨rfl, rfl, rfl⟩

/-! ## Records, interrupts and parts of a bay -/

theorem calm_raise (n : Nat) : Calm s (raise n s) := by rw [raise_changes]; exact ⟨rfl, rfl, rfl⟩
theorem calm_oweVector (v : Nat) : Calm s (oweVector b v s) := by rw [oweVector_changes]; exact ⟨rfl, rfl, rfl⟩
theorem calm_rasRec (kind cause bay cls space addr detail : Nat) : Calm s (rasRec kind cause bay cls space addr detail s) := by
  rw [rasRec_changes]; exact ⟨rfl, rfl, rfl⟩
theorem calm_plumbRec (p : PlumbRec) : Calm s (plumbRec p s) := by rw [plumbRec_changes]; exact ⟨rfl, rfl, rfl⟩
theorem calm_modBay (f : Bay → Bay) : Calm s (modBay b f s) := ⟨rfl, rfl, rfl⟩
theorem calm_progress : Calm s (progress b s) := calm_modBay _
theorem calm_modQueue (f : Queue → Queue) : Calm s (modQueue b q f s) := by
  unfold modQueue
  split
  · exact .refl
  · exact calm_modBay _
theorem calm_modCmd (f : Cmd → Cmd) : Calm s (modCmd c f s) := ⟨modCmd_rst _ _ _, modCmd_sec _ _ _, by rw [modCmd_grid]⟩
theorem calm_countDet (cause : Nat) : Calm s (countDet cause s) := ⟨rfl, rfl, rfl⟩

/-! ## Writes of memory -/

theorem calm_writePa (pa : Nat) (bs : List Byte) : Calm s (writePa pa bs s) := by
  unfold writePa
  split
  · rw [noteMove_changes]; exact ⟨rfl, rfl, rfl⟩
  · exact ⟨rfl, rfl, rfl⟩

theorem calm_noteMove (h : Home) (off n : Nat) : Calm s (noteMove b h off n s) := by rw [noteMove_changes]; exact ⟨rfl, rfl, rfl⟩

/-- A write of a backing window goes out, is noted by the moves, and its endpoint stores the bytes. -/
theorem calm_writeWin (k : Nat) (bs : List Byte) : Calm s (writeWin k bs s) := by
  have hmem : ∀ (t : State) (m : MemSys), Calm t { t with mem := m } := fun _ _ => ⟨rfl, rfl, rfl⟩
  unfold writeWin
  refine Calm.trans (Calm.trans ?_ (calm_noteMove _ _ _)) (hmem _ _)
  split
  · exact .of_fabric (ownJob_fabric _ _)
  · exact .refl

theorem calm_hostPut (iova : Nat) (bs : List Byte) : Calm s (hostPut b iova bs s) := ⟨rfl, rfl, rfl⟩

theorem calm_writeVa (va : Nat) (bs : List Byte) : Calm s (writeVa b va bs s) := by
  refine Calm.foldl (fun t p => ?_) _
  dsimp only
  split
  · exact calm_writePa _ _
  · exact calm_writeWin _ _
  · exact calm_hostPut _ _
  · exact .refl

/-! ## Error records and completion rings -/

theorem calm_errRecord (kind code q slot detail address : Nat) (entry : List Byte) (origin shape ashlar engines reruns : Nat) (est : List Byte) :
    Calm s (errRecord b kind code q slot detail address entry origin shape ashlar engines reruns est s) := by
  unfold errRecord
  extract_lets
  split
  · exact ⟨rfl, rfl, rfl⟩
  · exact ((calm_writeVa _ _).trans (calm_modBay _)).trans (calm_raise _)

theorem calm_cmdError (x : Cmd) (kind code detail address : Nat) (a : Option Nat) (st : Nat) :
    Calm s (cmdError x kind code detail address a st s) := calm_errRecord _ _ _ _ _ _ _ _ _ _ _ _ _

/-- A completion ring that cannot be written freezes its queue and is recorded. -/
theorem calm_cqFail (address : Nat) : Calm s (cqFail b q address s) := by
  have hfreeze : ∀ t : State, Calm t (freezeQueue b q t) := fun t => (calm_modQueue _).trans ⟨rfl, rfl, rfl⟩
  exact ((((calm_modQueue _).trans (hfreeze _)).trans (calm_errRecord _ _ _ _ _ _ _ _ _ _ _ _ _)).trans (calm_modQueue _)).trans (calm_plumbRec _)

theorem calm_atsAsk (page dev c need engine : Nat) : Calm s (atsAsk b page dev c need engine s) := by
  unfold atsAsk
  dsimp only
  split
  · exact .refl
  · exact ⟨rfl, rfl, rfl⟩

theorem calm_cqWrite : Calm s (cqWrite b q s) := by
  unfold cqWrite
  split
  · exact .refl
  split
  · exact .refl
  split
  · exact .refl
  extract_lets size phase fl bs at_ irq hp t t'
  have hput : Calm s t' := by
    refine (calm_modQueue _).trans (t := t) ?_
    dsimp only [t']
    split
    · exact calm_hostPut _ _
    · exact calm_writeVa _ _
  split
  · exact calm_atsAsk _ _ _ _ _
  split
  · exact calm_cqFail _
  split
  · exact hput.trans (calm_oweVector _)
  · exact hput

theorem calm_cqFlush (n : Nat) : Calm s (cqFlush n b q s) := by
  induction n generalizing s with
  | zero => exact .refl
  | succ n ih => exact calm_cqWrite.trans ih

theorem calm_cqPost : Calm s (cqPost b q s) := by
  unfold cqPost
  split
  · exact .refl
  · exact calm_cqFlush _

/-! ## A command reaches DONE -/

theorem calm_releaseAdmin (x : Cmd) : Calm s (releaseAdmin x s) := by
  unfold releaseAdmin
  split
  · exact calm_modBay _
  split
  · exact .refl
  · exact calm_modBay _

theorem calm_dropCmd : Calm s (dropCmd c s) := ⟨rfl, rfl, rfl⟩

theorem calm_finishTop (x : Cmd) (code result : Nat) (er : Bool) : Calm s (finishTop x code result er s) :=
  ((((calm_releaseAdmin x).trans (calm_modQueue _)).trans calm_dropCmd).trans calm_progress).trans calm_cqPost

theorem calm_signal (o v : Nat) : Calm s (signal b o v s) := by
  unfold signal
  split
  · exact (calm_modBay _).trans calm_progress
  · exact .refl

theorem calm_finishBody (pc : Nat) (x : Cmd) (code : Nat) (er : Bool) : Calm s (finishBody pc x code er s) := by
  unfold finishBody
  extract_lets t t'
  have ht : Calm s t' := (calm_dropCmd.trans calm_progress).trans (calm_modCmd _)
  split
  · exact ht
  split
  · exact ht
  extract_lets p code u
  have hu : Calm s u := by
    dsimp only [u]
    split
    · exact ht.trans (calm_signal _ _)
    · exact ht
  exact (hu.trans (calm_modBay _)).trans (calm_finishTop _ _ _ _)

theorem calm_streamLess (x : Cmd) : Calm s (streamLess x s) := by
  unfold streamLess
  split
  · exact calm_modBay _
  · exact .refl

theorem calm_owesHs (x : Cmd) : Calm s (owesHs x s) := by
  unfold owesHs
  split
  · split
    · exact .refl
    · exact ⟨rfl, rfl, rfl⟩
  · exact .refl

theorem calm_finish (code result : Nat) (er : Bool) : Calm s (finish c code result er s) := by
  unfold finish
  split
  · exact .refl
  next x _ =>
  split
  · exact (((calm_owesHs x).trans calm_dropCmd).trans calm_progress).trans (calm_modBay _)
  · exact (calm_owesHs x).trans (calm_finishBody _ _ _ _)
  · exact ((calm_owesHs x).trans (calm_streamLess x)).trans (calm_finishTop _ _ _ _)

/-! ## A command is stopped -/

theorem calm_noteLanded (only : Option Nat) (l : Nat) : Calm s (noteLanded b only l s) := ⟨rfl, rfl, rfl⟩

theorem calm_landSome (a : Nat) (ls : List (Nat × Nat × Nat × Nat)) : Calm s (landSome b a ls s) := by
  induction ls generalizing s with
  | nil => exact .refl
  | cons l ls ih =>
    have hdraw : ∀ t : State, Calm t (drewFree t) := fun _ => ⟨rfl, rfl, rfl⟩
    unfold landSome
    refine Calm.trans ?_ ih
    split
    · exact (hdraw s).trans (((calm_noteLanded _ _).trans (calm_writeVa _ _)).trans ⟨rfl, rfl, rfl⟩)
    · exact hdraw s

theorem calm_journalPending (h : Nat) : Calm s (journalPending b h s) := by
  unfold journalPending
  split
  · exact .refl
  · exact calm_modBay _

theorem calm_halt (keepAsh : Option Nat) : Calm s (halt c keepAsh s) := by
  unfold halt
  split
  · exact .refl
  next x _ =>
  extract_lets ids landed stopped quiet killed journalled told cleared
  have hstopped : Calm landed stopped := .each (fun a t => by split <;> exact ⟨rfl, rfl, rfl⟩) _
  have htold : Calm journalled told := by
    dsimp only [told]
    split
    · exact ⟨rfl, rfl, rfl⟩
    · exact .refl
  have hlanded : Calm s landed := .each (fun a t => calm_landSome _ _) _
  have hquiet : Calm s quiet := (hlanded.trans hstopped).trans ⟨rfl, rfl, rfl⟩
  have hkilled : Calm s killed := hquiet.trans (Calm.each (f := fun a t => sendCtl .kill a c t) (fun a t => ⟨rfl, rfl, rfl⟩) ids)
  exact (((hkilled.trans (calm_journalPending _)).trans htold).trans (calm_modCmd _)).trans ⟨rfl, rfl, rfl⟩

theorem calm_killDone (code : Nat) (er : Bool) : Calm s (killDone c code er s) := (calm_halt none).trans (calm_finish _ _ _)

theorem calm_toReady : Calm s (toReady c s) := calm_modCmd _

theorem calm_exhaust (cause address : Nat) (a : Option Nat) : Calm s (exhaust c cause address a s) := by
  unfold exhaust
  split
  · exact .refl
  · exact (((calm_halt none).trans (calm_cmdError _ _ _ _ _ _ _)).trans (calm_rasRec _ _ _ _ _ _ _)).trans (calm_finish _ _ _)

end Sys2Proof.Proofs
end

section
/-! SUPPORT. A hard fault names its ashlars and asks for a compute-part reset (R455, R456, R467, R500). -/
namespace Sys2Proof.Proofs
open Sys2Proof.Machine

variable {s t : State} {a : Nat} {as : List Nat}

/-! ## The ashlars it names -/

theorem mem_dedup : a ∈ dedup as ↔ a ∈ as := by
  induction as with
  | nil => simp [dedup]
  | cons x xs ih =>
    simp only [dedup, List.mem_cons, List.mem_filter, ih, bne_iff_ne]
    tauto

theorem nodup_dedup : (dedup as).Nodup := by
  induction as with
  | nil => exact List.nodup_nil
  | cons x xs ih => exact List.nodup_cons.mpr ⟨by simp, ih.filter _⟩

/-- Each occurrence in a list counts once. -/
theorem tgetD_countUp (l : List Nat) (T : Tbl Nat) : tgetD a (l.foldl (fun t a => tmod a 0 (· + 1) t) T) 0 = tgetD a T 0 + l.count a := by
  induction l generalizing T with
  | nil => simp
  | cons x l ih =>
    rw [List.foldl_cons, ih, List.count_cons]
    by_cases h : a = x
    · subst h
      simp [tgetD, tget_tmod]
      omega
    · simp [tgetD, tget_tmod, h, Ne.symm h]

theorem mem_sputs (l : List Nat) (m : List Nat) : a ∈ l.foldl (fun l a => sput a l) m ↔ a ∈ l ∨ a ∈ m := by
  induction l generalizing m with
  | nil => simp
  | cons x l ih =>
    rw [List.foldl_cons, ih, mem_sput, List.mem_cons]
    tauto

/-! ## The reset it asks for -/

/-- Asking for a reset keeps the ashlars that hard faults have named. -/
theorem wantReset_named (full : Bool) (trigger : Nat) (s : State) : (wantReset full trigger s).rst.named = s.rst.named := by
  have hcount : ∀ s : State, (countCompute trigger s).rst.named = s.rst.named := fun s => by unfold countCompute; split <;> rfl
  have habsorb : (absorbTrigger trigger s).rst.named = s.rst.named := by
    unfold absorbTrigger
    extract_lets _ _ r
    have hr : r.rst.named = s.rst.named := by dsimp only [r]; rw [resetRec_changes]; exact hcount s
    split
    · exact hr
    · exact hr
  unfold wantReset
  extract_lets on
  split_ifs
  · rfl
  · rfl
  · exact habsorb
  · rfl
  · rfl

/-- With no reset running, wanted or held back, a compute-part trigger is wanted (R500). -/
theorem wantReset_idle {trigger : Nat} (hn : s.rst.now = none) (hw : s.rst.want = none) (hr : s.sec.repointing = false) :
    wantReset false trigger s = setWant false trigger s := by
  simp [wantReset, hn, hw, hr]

/-- Ashlar `a` has been named by a hard fault once more, and where no reset runs or is wanted a compute-part reset with trigger 1 is. -/
structure Declared (s : State) (a : Nat) (t : State) : Prop where
  mem : a ∈ t.rst.named
  count : tgetD a t.grid.named 0 = tgetD a s.grid.named 0 + 1
  want : s.rst.now = none → s.rst.want = none → s.sec.repointing = false → ∃ r, t.rst.want = some r ∧ r.full = false ∧ r.trigger = 1

theorem Calm.declared {u : State} (h : Calm s t) (k : Declared t a u) : Declared s a u := by
  obtain ⟨hrst, hsec, hnamed⟩ := h
  obtain ⟨hm, hc, hw⟩ := k
  rw [hnamed] at hc
  rw [hrst, hsec] at hw
  exact ⟨hm, hc, hw⟩

/-- A hard fault names every ashlar of its list once (R467) and wants a compute-part reset (R456). -/
theorem declared_hardFault (h : a ∈ as) (cause b : Nat) : Declared s a (hardFault cause b as s) := by
  refine Calm.declared (calm_rasRec 3 cause b 0 1 (as.getLastD 0 * 0x80000) (as.getLastD 0)) ?_
  unfold hardFault
  extract_lets _ r t
  refine ⟨?_, ?_, fun hn hw hr => ?_⟩
  · rw [wantReset_named]
    exact (mem_sputs as _).mpr (.inl h)
  · rw [wantReset_changes]
    exact (tgetD_countUp (dedup as) _).trans (by rw [List.count_eq_one_of_mem nodup_dedup (mem_dedup.mpr h)])
  · have hidle := wantReset_idle (trigger := 1) (s := { t with rst := { t.rst with named := as.foldl (fun l a => sput a l) t.rst.named } }) hn hw hr
    rw [hidle]
    exact ⟨_, rfl, rfl, rfl⟩

/-- Any detection of cause 8 in a command that can still re-run or end is a hard fault (R455). -/
theorem declared_detect {c : Nat} {x : Cmd} (hc : cmd? s c = some x) (hx : (x.committed || x.st == .anchored || x.st == .frozen) = false)
    (space address : Nat) : Declared s a (detect c 8 (some a) space address s) := by
  have hmem : a ∈ x.detAt ++ (some a).toList := by simp
  have hrec : Calm s (rasRec 1 8 x.bay 0 space address (qslot s x) (countDet 8 s)) := (calm_countDet 8).trans (calm_rasRec _ _ _ _ _ _ _)
  have hhard : (x.dets ++ [8]).any hardCause = true := by simp [hardCause]
  simp only [detect, hc, hx, Bool.false_eq_true, if_false, if_true, hhard]
  split
  · exact (hrec.trans (calm_killDone _ _)).declared (declared_hardFault hmem _ _)
  split
  · exact (hrec.trans (calm_exhaust _ _ _)).declared (declared_hardFault hmem _ _)
  · exact ((((hrec.trans (calm_halt none)).trans (calm_modCmd _)).trans calm_toReady).trans (calm_modCmd _)).declared (declared_hardFault hmem _ _)

end Sys2Proof.Proofs
end

section
/-! SUPPORT. Control messages of the grid (R32, R50, R65, R120). -/
namespace Sys2Proof.Proofs
open Sys2Proof.Machine

variable {s : State} {i : Nat} {k : Ctl} {c : Cmd}

/-! ## Arrival -/

theorem ctlArrived_some (h : ctl? s i = some k) : ctlArrived i s =
    { s with grid := { s.grid with ctl := tput i { k with arrived := true } s.grid.ctl } } := by simp [ctlArrived, h]

/-- The message has arrived, and every other part of the network is as before. -/
def Seen (s : State) (i : Nat) (k : Ctl) (t : State) : Prop := t.grid.net = s.grid.net ∧ tget i t.grid.ctl = some { k with arrived := true }

theorem seen_ctlArrived (h : ctl? s i = some k) : Seen s i k (ctlArrived i s) := by
  rw [ctlArrived_some h]
  exact ⟨rfl, tget_tput_same _ _ _⟩

theorem ash_ctlArrived (i a : Nat) (s : State) : ash (ctlArrived i s) a = ash s a := by unfold ctlArrived; split <;> rfl
theorem cmds_ctlArrived (i : Nat) (s : State) : (ctlArrived i s).cmds = s.cmds := by unfold ctlArrived; split <;> rfl
theorem cmd?_ctlArrived (i c : Nat) (s : State) : cmd? (ctlArrived i s) c = cmd? s c := by rw [cmd?, cmds_ctlArrived, ← cmd?]

/-! ## What each message does -/

/-- What START leaves of the memories of an ashlar (R32, R138, R184). -/
theorem startMem_changes (c : Cmd) (x : Ashlar) : startMem c x = { x with
    spad := (startMem c x).spad, acc := (startMem c x).acc, journal := (startMem c x).journal, hist := (startMem c x).hist
    serial := (startMem c x).serial, ctx := (startMem c x).ctx } := by
  unfold startMem
  split
  · rfl
  · dsimp only
    split
    · rw [spadWr_changes]
    · rfl

theorem startArrive_running (h : ctl? s i = some k) (hk : k.kind = .start) (ha : k.arrived = false) (hc : cmd? s k.cid = some c)
    (hr : c.st = .running) : startArrive i s = modAsh k.a (startAsh c k.a) (ctlArrived i s) := by
  simp [startArrive, h, hk, ha, hc, hr]

theorem startArrive_other (h : ctl? s i = some k) (hk : k.kind = .start) (ha : k.arrived = false)
    (hc : ∀ d, cmd? s k.cid = some d → d.st ≠ .running) : startArrive i s = ctlArrived i s := by
  simp only [startArrive, h, hk, ha, bne_self_eq_false, Bool.or_self, Bool.false_eq_true, if_false]
  split
  · rfl
  · next d hd => rw [if_neg (by simpa using hc d hd)]

theorem killArrive_stops (h : ctl? s i = some k) (hk : k.kind = .kill) (ha : k.arrived = false) (hx : (ash s k.a).cid = k.cid)
    (hr : (ash s k.a).run = .running) (hc : (cmdD s k.cid).st ≠ .running) : killArrive i s = modAsh k.a stopAsh (ctlArrived i s) := by
  simp [killArrive, h, hk, ha, hx, hr, hc]

theorem killArrive_other (h : ctl? s i = some k) (hk : k.kind = .kill) (ha : k.arrived = false)
    (hx : (ash s k.a).cid ≠ k.cid ∨ (ash s k.a).run ≠ .running ∨ (cmdD s k.cid).st = .running) : killArrive i s = ctlArrived i s := by
  simp only [killArrive, h, hk, ha, bne_self_eq_false, Bool.or_self, Bool.false_eq_true, if_false]
  rw [if_neg]
  simp only [Bool.and_eq_true, decide_eq_true_eq, beq_iff_eq, bne_iff_ne]
  tauto

theorem outboxArrive_eq {r : OutRec} (h : ctl? s i = some k) (hk : k.kind = .outbox r) (ha : k.arrived = false) :
    outboxArrive i s = modCmd k.cid (fun c => { c with outbox := c.outbox ++ [r] }) (ctlArrived i s) := by
  simp [outboxArrive, h, hk, ha]

theorem haltedArrive_eq (h : ctl? s i = some k) (hk : k.kind = .halted) (ha : k.arrived = false) :
    haltedArrive i s = modCmd k.cid (fun c => { c with halted := sput k.a c.halted }) (ctlArrived i s) := by
  simp [haltedArrive, h, hk, ha]

theorem modCmd_none {f : Cmd → Cmd} {c : Nat} (h : cmd? s c = none) : modCmd c f s = s := by simp [modCmd, h]

/-! ## Messages that do nothing -/

theorem startArrive_ignored (h : ∀ k, ctl? s i = some k → k.kind ≠ .start ∨ k.arrived = true) : startArrive i s = s := by
  unfold startArrive
  split
  · rfl
  · next k hk => rw [if_pos (by simpa using h k hk)]

theorem killArrive_ignored (h : ∀ k, ctl? s i = some k → k.kind ≠ .kill ∨ k.arrived = true) : killArrive i s = s := by
  unfold killArrive
  split
  · rfl
  · next k hk => rw [if_pos (by simpa using h k hk)]

theorem outboxArrive_ignored (h : ∀ k, ctl? s i = some k → (∀ r, k.kind ≠ .outbox r) ∨ k.arrived = true) : outboxArrive i s = s := by
  unfold outboxArrive
  split
  · rfl
  next k hk =>
  split
  · next r hr => rw [if_pos ((h k hk).resolve_left fun h => h r hr)]
  · rfl

theorem haltedArrive_ignored (h : ∀ k, ctl? s i = some k → k.kind ≠ .halted ∨ k.arrived = true) : haltedArrive i s = s := by
  unfold haltedArrive
  split
  · rfl
  · next k hk => rw [if_pos (by simpa using h k hk)]

theorem ackArrive_ignored (h : ∀ k, ctl? s i = some k → k.arrived = false) : ackArrive i s = s := by
  unfold ackArrive
  split
  · rfl
  · next k hk => rw [h k hk]; rfl

/-! ## Time-outs -/

theorem lostCtl_changes (s : State) : ∃ n f, (n = s.grid.crcErr ∨ n = min 0xFFFF (s.grid.crcErr + 1)) ∧
    lostCtl s = { s with grid := { s.grid with crcErr := n }, out := { s.out with free := f } } := by
  unfold lostCtl
  split
  · exact ⟨_, _, .inr rfl, rfl⟩
  · exact ⟨_, _, .inl rfl, rfl⟩

/-- The first two time-outs send the message again (R50). -/
theorem resendCtl_again (h : ctl? s i = some k) (hk : k.resent < 2) : resendCtl i s =
    { lostCtl s with grid := { (lostCtl s).grid with ctl := tput i { k with resent := k.resent + 1 } (lostCtl s).grid.ctl } } := by
  simp [resendCtl, h, hk]

/-- The third is a hard fault of the ashlar (R50, R455). -/
theorem declared_resendCtl (h : ctl? s i = some k) (hk : 2 ≤ k.resent) : Declared s k.a (resendCtl i s) := by
  have hlost : Calm s { lostCtl s with grid := { (lostCtl s).grid with ctl := tdrop i (lostCtl s).grid.ctl } } := by
    obtain ⟨n, f, -, he⟩ := lostCtl_changes s
    rw [he]
    exact ⟨rfl, rfl, rfl⟩
  simp only [resendCtl, h, if_neg (Nat.not_lt.mpr hk)]
  refine hlost.declared ?_
  split
  · next c hc =>
    split
    · exact (calm_countDet 8).declared (declared_hardFault (by simp) _ _)
    · next hx => exact declared_detect hc (Bool.eq_false_iff.mpr hx) _ _
  · exact declared_hardFault (List.mem_singleton.mpr rfl) _ _

/-! ## The statement's clauses -/

/-- START sets the ashlar to its entry state (R32, R33, R86, R138). -/
theorem answers_start {c : Cmd} (hp : s.start.powered = true) (h : ctl? s i = some k) (hk : k.kind = .start) (ha : k.arrived = false)
    (hc : cmd? s k.cid = some c) (hr : c.st = .running) : Answers (.start i) s fun t =>
      let y := ash t k.a
      Seen s i k t ∧ y.run = .running ∧ y.cid = c.cid ∧ y.pc = 0 ∧ y.g = [(1, 0x7FF00)] ∧ y.v = [] ∧ y.mq = [] ∧ y.vq = [] ∧
      y.tags = [] ∧ y.joints = [] ∧ y.credits = [] ∧ y.imem = (ash s k.a).imem ∧ (ctxOf c = 0 → y.acc = [] ∧ y.spad = mputs 0x7FF00 (argBytes c) []) ∧
      ∀ b, b ≠ k.a → ash t b = ash s b := by
  refine answers_run (f := startArrive i) rfl hp ?_
  rw [startArrive_running h hk ha hc hr]
  dsimp only
  simp only [ash_keepWork, ash_modAsh_same, ash_ctlArrived]
  have hmem : ctxOf c = 0 → (startAsh c k.a (ash s k.a)).acc = [] ∧ (startAsh c k.a (ash s k.a)).spad = mputs 0x7FF00 (argBytes c) [] := fun h0 => by
    simp [startAsh, startMem, h0]
  have hothers : ∀ b, b ≠ k.a → ash (modAsh k.a (startAsh c k.a) (ctlArrived i s)) b = ash s b := fun b hb => by
    rw [ash_modAsh_ne hb, ash_ctlArrived]
  refine ⟨seen_ctlArrived h, ?_, ?_, ?_, ?_, ?_, ?_, ?_, ?_, ?_, ?_, ?_, hmem, hothers⟩ <;> rw [startAsh, startMem_changes]

/-- A message that only arrives. -/
theorem answers_onlyArrives {f : State → State} {m : Instr} (hm : exec m s = run fpWork f s) (hp : s.start.powered = true) (h : ctl? s i = some k)
    (hf : f s = ctlArrived i s) : Answers m s fun t => Seen s i k t ∧ t.cmds = s.cmds ∧ ∀ b, ash t b = ash s b := by
  refine answers_run hm hp ?_
  rw [hf]
  exact ⟨seen_ctlArrived h, cmds_ctlArrived i s, fun b => ash_ctlArrived i b s⟩

/-- A message whose arrival changes its command. -/
theorem answers_changesCmd {f : State → State} {g : Cmd → Cmd} {m : Instr} (hm : exec m s = run fpWork f s) (hp : s.start.powered = true)
    (h : ctl? s i = some k) (hc : cmd? s k.cid = some c) (hf : f s = modCmd k.cid g (ctlArrived i s)) :
    Answers m s fun t => Seen s i k t ∧ cmd? t k.cid = some (g c) ∧ ∀ b, ash t b = ash s b := by
  refine answers_run hm hp ?_
  rw [hf]
  refine ⟨?_, ?_, fun b => ?_⟩
  · rw [Seen, grid_keepWork, modCmd_grid]
    exact seen_ctlArrived h
  · rw [cmd?_keepWork, cmd?_modCmd_same, cmd?_ctlArrived, hc]
    rfl
  · rw [ash_keepWork, ash_modCmd, ash_ctlArrived]

theorem answers_mono {m : Instr} {P Q : State → Prop} (h : Answers m s P) (hPQ : ∀ t, P t → Q t) : Answers m s Q := by
  obtain ⟨t, ht, hP⟩ := h
  exact ⟨t, ht, hPQ t hP⟩

/-- A KILL stops the ashlar that still runs a command the block has ended (R65). -/
theorem answers_kill (hp : s.start.powered = true) (h : ctl? s i = some k) (hk : k.kind = .kill) (ha : k.arrived = false)
    (hx : (ash s k.a).cid = k.cid) (hr : (ash s k.a).run = .running) (hc : (cmdD s k.cid).st ≠ .running) : Answers (.kill i) s fun t =>
      Seen s i k t ∧ (ash t k.a).run = .idle ∧ (ash t k.a).tags = [] ∧ (ash t k.a).joints = [] ∧ (ash t k.a).spad = (ash s k.a).spad ∧
      ∀ b, b ≠ k.a → ash t b = ash s b := by
  refine answers_run (f := killArrive i) rfl hp ?_
  rw [killArrive_stops h hk ha hx hr hc]
  simp only [ash_keepWork, ash_modAsh_same, ash_ctlArrived]
  exact ⟨seen_ctlArrived h, rfl, rfl, rfl, rfl, fun b hb => by rw [ash_modAsh_ne hb, ash_ctlArrived]⟩

/-- OUTBOX and HALTED of a command that is gone only arrive. -/
theorem answers_gone {m : Nat → Instr} (hp : s.start.powered = true) (h : ctl? s i = some k) (ha : k.arrived = false) (hc : cmd? s k.cid = none)
    (hm : (∃ r, k.kind = .outbox r) ∧ m = .outbox ∨ k.kind = .halted ∧ m = .halted) :
    Answers (m i) s fun t => Seen s i k t ∧ t.cmds = s.cmds := by
  have hno : cmd? (ctlArrived i s) k.cid = none := by rw [cmd?_ctlArrived, hc]
  have hdone : ∀ {f : State → State}, exec (m i) s = run fpWork f s → f s = ctlArrived i s → Answers (m i) s fun t => Seen s i k t ∧ t.cmds = s.cmds :=
    fun hm hf => answers_mono (answers_onlyArrives hm hp h hf) fun t ht => ⟨ht.1, ht.2.1⟩
  rcases hm with ⟨⟨r, hk⟩, rfl⟩ | ⟨hk, rfl⟩
  · exact hdone (f := outboxArrive i) rfl (by rw [outboxArrive_eq h hk ha, modCmd_none hno])
  · exact hdone (f := haltedArrive i) rfl (by rw [haltedArrive_eq h hk ha, modCmd_none hno])

/-- CTL_ACK ends the repetition of a message that has arrived (R50). -/
theorem answers_ctlAck (hp : s.start.powered = true) (h : ctl? s i = some k) (ha : k.arrived = true) : Answers (.ctlAck i) s fun t =>
    t = { s with grid := { s.grid with ctl := tdrop i s.grid.ctl } } ∧ ctl? t i = none := by
  refine answers_run (f := ackArrive i) rfl hp ?_
  have hack : ackArrive i s = { s with grid := { s.grid with ctl := tdrop i s.grid.ctl } } := by simp [ackArrive, h, ha]
  rw [hack]
  exact ⟨rfl, tget_tdrop_same _ _⟩

/-- A time-out that sends the message again changes the message, the count of discarded ones and the free values alone. -/
theorem answers_resend (hp : s.start.powered = true) (h : ctl? s i = some k) (hk : k.resent < 2) : Answers (.ctlResendTimeout i) s fun t =>
    ∃ n f, (n = s.grid.crcErr ∨ n = min 0xFFFF (s.grid.crcErr + 1)) ∧
      t = { s with grid := { s.grid with ctl := tput i { k with resent := k.resent + 1 } s.grid.ctl, crcErr := n }, out := { s.out with free := f } } := by
  refine answers_run (f := resendCtl i) rfl hp ?_
  obtain ⟨n, f, hn, hl⟩ := lostCtl_changes s
  rw [resendCtl_again h hk, hl]
  exact ⟨n, f, hn, rfl⟩

/-- Settles O16: the messages that act, those that only arrive, those that do nothing, and the time-outs. -/
theorem controlMessages : Obligations.ControlMessages := by
  intro s i hp
  have hsame : ∀ {m : Instr} {f : State → State}, exec m s = run fpWork f s → f s = s → exec m s = .next s := fun hm hf =>
    exec_run hm hp hf (keep_self _ _)
  refine ⟨fun h f hf => ?absent, fun k h => ?present⟩
  case absent =>
    have hno : ∀ {p : Ctl → Prop}, ∀ k, ctl? s i = some k → p k := fun k hk => by rw [h] at hk; cases hk
    simp only [List.mem_cons, List.not_mem_nil, or_false] at hf
    rcases hf with rfl | rfl | rfl | rfl | rfl | rfl
    · exact hsame rfl (startArrive_ignored hno)
    · exact hsame rfl (killArrive_ignored hno)
    · exact hsame rfl (outboxArrive_ignored hno)
    · exact hsame rfl (haltedArrive_ignored hno)
    · exact hsame rfl (ackArrive_ignored hno)
    · exact hsame (f := resendCtl i) rfl (by simp [resendCtl, h])
  case present =>
    intro seen x c
    have hthis : ∀ {p : Ctl → Prop}, p k → ∀ l, ctl? s i = some l → p l := fun hk l hl => by rwa [← Option.some.inj (h.symm.trans hl)]
    refine ⟨answers_start hp h, answers_kill hp h, fun r hk ha hc => answers_changesCmd (f := outboxArrive i) rfl hp h hc (outboxArrive_eq h hk ha),
      fun hk ha hc => ?halted, fun hk ha hc => ?startGone, fun hk ha hx => ?killGone, fun r hk ha hc f hf hkind => ?gone,
      fun hk => hsame rfl (startArrive_ignored (hthis hk)), fun hk => hsame rfl (killArrive_ignored (hthis hk)),
      fun hk => hsame rfl (outboxArrive_ignored (hthis hk)), fun hk => hsame rfl (haltedArrive_ignored (hthis hk)),
      fun ha => hsame rfl (ackArrive_ignored (hthis ha)), fun hk => ?third, answers_ctlAck hp h, answers_resend hp h⟩
    case halted =>
      refine answers_mono (answers_changesCmd (f := haltedArrive i) rfl hp h hc (haltedArrive_eq h hk ha)) fun t ⟨hseen, hcmd, hash⟩ => ?_
      rw [cmdD_of_cmd? hcmd]
      exact ⟨hseen, rfl, (mem_sput _ _ _).mpr (.inl rfl), hash⟩
    case startGone =>
      exact answers_mono (answers_onlyArrives (f := startArrive i) rfl hp h (startArrive_other h hk ha hc)) fun t ⟨hseen, _, hash⟩ => ⟨hseen, hash⟩
    case killGone =>
      exact answers_mono (answers_onlyArrives (f := killArrive i) rfl hp h (killArrive_other h hk ha hx)) fun t ⟨hseen, _, hash⟩ => ⟨hseen, hash⟩
    case gone =>
      refine answers_gone hp h ha hc ?_
      simp only [List.mem_cons, List.not_mem_nil, or_false] at hf
      rcases hf with rfl | rfl
      · exact .inl ⟨⟨r, hk.resolve_right fun hh => nomatch hkind.mp hh⟩, rfl⟩
      · exact .inr ⟨hkind.mpr rfl, rfl⟩
    case third =>
      refine answers_run (f := resendCtl i) rfl hp ?_
      obtain ⟨hmem, hcount, hwant⟩ := declared_resendCtl h hk
      exact ⟨hmem, hcount, hwant⟩

end Sys2Proof.Proofs
end

section
/-! SUPPORT. The launch of a stored graph at the fetch limit of its bay (R232, R259). The statement that a GRAPH_LAUNCH takes one command
number for each body entry fails: at the limit the entries are held back. -/
namespace Sys2Proof.Proofs
open Sys2Proof.Machine

variable {s : State} {cid : Nat} {env : Env} {g : Graph}

/-- A GRAPH_LAUNCH that leaves WAITING, before its first body entry: RUNNING, with graph `g`'s current generation pinned (R259). -/
def launchedGraph (cid : Nat) (g : Graph) (s : State) : State :=
  modCmd cid (fun c => { c with st := .running, gen := g.gen })
    (modGraph (cmdD s cid).bay (cf (cmdD s cid) 0x18 4) (fun g => { g with pins := g.pins ++ [(cid, g.gen)] }) s)

theorem graphLaunch_of_graph (hg : graph? s (cmdD s cid).bay (cf (cmdD s cid) 0x18 4) = some g) (hs : (cmdD s cid).st ≠ .running) :
    graphLaunch env cid s = launchMore env cid g (launchedGraph cid g s) := by
  simp only [graphLaunch, hg, if_neg hs, launchedGraph]

/-- A launch fetches no body entry while its bay is at the limit (R232). -/
theorem launchMore_atLimit (h : ∀ p, cmd? s cid = some p → fetchLimit s ≤ heldCount s p.bay) : launchMore env cid g s = s := by
  refine each_inv (· = s) _ _ (fun i t ht => ?_) s rfl
  subst ht
  split
  · rfl
  · next p hp => exact if_neg fun hfetch => absurd hfetch.2 (Nat.not_lt.mpr (h p hp))

/-- A stored graph whose body is one EVENT. -/
def oneEvent : Graph := { handle := 0, body := [padTo 64 [0x16]] }

/-- A GRAPH_LAUNCH of it, the last entry fetched from a command ring of 65,536. -/
def lastEntry : Cmd := { cid := 0, bay := 0, queue := 0, pos := 65599, st := .waiting, entry := padTo 64 [0x04] }

/-- Bay 0, whose completion ring is full, has that command waiting and owes the completion entries `owed`. -/
def owing (owed : List (List Byte)) : State :=
  { State.reset with
    cmds := { all := [(0, lastEntry)], next := 1 }
    bays := { all := [(0, { st := .attached, strm := { graphs := [oneEvent] }
                            eqi := { major := 3, minor := 4, queues := [(0, { log2Ring := 16, wp := 65600, fetch := 65600, cqNext := 64, owed := owed })] } })] } }

theorem leavesRing_owing (owed : List (List Byte)) : leavesRing (owing owed) 0 lastEntry opGraphLaunch :=
  ⟨⟨⟨rfl, rfl, rfl⟩, rfl, rfl⟩, rfl, rfl, rfl⟩

/-- The launch counts with the commands that are owed their completion entry (R232). -/
theorem heldCount_launchedGraph_owing (owed : List (List Byte)) : heldCount (launchedGraph 0 oneEvent (owing owed)) 0 = 1 + owed.length := rfl

/-- One bay of configuration F holds 65,536 fetched commands (R232). -/
theorem fetchLimit_launchedGraph_owing (owed : List (List Byte)) : fetchLimit (launchedGraph 0 oneEvent (owing owed)) = 65536 := by
  have hF : isF (launchedGraph 0 oneEvent (owing owed)) = true := rfl
  have hcount : (launchedGraph 0 oneEvent (owing owed)).bays.count = 1 := rfl
  rw [fetchLimit, if_pos hF, hcount, Nat.div_one]

/-- Where they are 65,535, the bay is at the limit, and the launch takes no command number. -/
theorem graphLaunch_owing_next {owed : List (List Byte)} (h : owed.length = 65535) :
    ∃ t, exec (.graphLaunch 0 {}) (owing owed) = .next t ∧ t.cmds.next = 1 := by
  refine answers_run (f := onlyIf _ (graphLaunch {} 0)) rfl rfl ?_
  have hlimit : ∀ p, cmd? (launchedGraph 0 oneEvent (owing owed)) 0 = some p →
      fetchLimit (launchedGraph 0 oneEvent (owing owed)) ≤ heldCount (launchedGraph 0 oneEvent (owing owed)) p.bay := by
    intro p hp
    have hbay : p.bay = 0 := (congrArg Cmd.bay (Option.some.inj hp)).symm
    rw [hbay, fetchLimit_launchedGraph_owing, heldCount_launchedGraph_owing, h]
  have hwaits : (cmdD (owing owed) 0).st ≠ .running := show lastEntry.st ≠ .running by decide
  have hgo : graphLaunch {} 0 (owing owed) = launchedGraph 0 oneEvent (owing owed) :=
    (graphLaunch_of_graph rfl hwaits).trans (launchMore_atLimit hlimit)
  show (graphLaunch {} 0 (owing owed)).cmds.next = 1
  rw [hgo]
  rfl

/-- The completion entries of the 65,535 commands before the launch, each of which completed OK. -/
def owedBefore : List (List Byte) := (List.range 65535).map fun k => padTo 18 (natLe 2 ((64 + k) % 65536))

/-- Refutes O27: a GRAPH_LAUNCH must take one command number for each body entry, but where its bay holds as many fetched commands as
it may (R232), the launch of a graph of one entry takes none. -/
theorem not_launchesLeave : ¬ Obligations.LaunchesLeave := by
  unfold Obligations.LaunchesLeave
  intro h
  obtain ⟨-, -, -, -, -, launches, -⟩ := h (owing owedBefore) 0 lastEntry
  obtain ⟨t, ht, onePerEntry, -⟩ := launches oneEvent (leavesRing_owing owedBefore) Nat.zero_lt_one rfl
  obtain ⟨u, hu, noNumber⟩ := graphLaunch_owing_next (owed := owedBefore) (by simp only [owedBefore, List.length_map, List.length_range])
  obtain rfl : u = t := Host.Outcome.next.inj (hu.symm.trans ht)
  rw [noNumber] at onePerEntry
  cases onePerEntry

end Sys2Proof.Proofs
end

section
/-! SUPPORT. A batch-advance record in the outbox of a chunk that is not the last (R123, R178, R182). The statement that such a chunk's
command is READY for the next one fails where the record advances a batch the command itself is a step of: it is DONE then. -/
namespace Sys2Proof.Proofs
open Sys2Proof.Machine

/-- A walked command that commits chunk 0 of 2, with the advance of batch 0 in its outbox. -/
def chunkAdvancing : Cmd :=
  { cid := 0, bay := 0, queue := 0, st := .committing, entry := padTo 64 [0x01], outbox := [.batch 0], outCount := 1, copied := true
    walk := some { chunks := 2 } }

/-- Batch 0 of bay 0 has that command as the step of its one member. -/
def stepOfItself : State :=
  { State.reset with
    cmds := { all := [(0, chunkAdvancing)], next := 1 }
    bays := { all := [(0, { st := .attached, eqi := { major := 3, minor := 4, queues := [(0, { wp := 1, fetch := 1 })] }
                            strm := { batches := [{ id := 0, model := 0, members := [{ strm := 0, pos := 0, step := some 0 }] }] } })] } }

theorem commitPoint_stepOfItself : ∃ t, exec (.commitPoint 0 {}) stepOfItself = .next t ∧ cmd? t 0 = none := ⟨_, rfl, by decide +kernel⟩

/-- Refutes O23: with more chunks to come a command must be READY after its commit point, but one whose outbox advances a batch it is
itself a step of completes with the batch. -/
theorem not_commitPoint : ¬ Obligations.CommitPoint := by
  unfold Obligations.CommitPoint
  intro h
  obtain ⟨commits, -⟩ := h stepOfItself 0 chunkAdvancing ⟨rfl, rfl, rfl⟩ rfl
  obtain ⟨-, -, -, chunks, -⟩ := commits rfl rfl
  obtain ⟨t, ht, ready, -⟩ := chunks { chunks := 2 } (by decide +kernel) rfl rfl (by decide)
  obtain ⟨u, hu, gone⟩ := commitPoint_stepOfItself
  obtain rfl : u = t := Host.Outcome.next.inj (hu.symm.trans ht)
  rw [cmdD, gone] at ready
  cases ready

end Sys2Proof.Proofs
end

section
/-! SUPPORT. ABORT of a collective that has sent to its peers (R136, R250). The statement that an aborted command is gone or has its
abort flag set fails: such a collective is past the abort and has `abort_late` instead. -/
namespace Sys2Proof.Proofs
open Sys2Proof.Machine

/-- A COLLECTIVE of queue 1, the first entry of its ring, anchored. -/
def anchoredCol : Cmd := { cid := 1, bay := 0, queue := 1, st := .anchored, entry := padTo 64 [0x03] }

/-- An ABORT, the first entry of queue 0, of position 0 of queue 1. -/
def abortOther : Cmd := { cid := 0, bay := 0, queue := 0, st := .waiting, entry := padTo 64 (natLe 0x18 0x15 ++ natLe 2 1) }

/-- Bay 0 with the ABORT waiting and the collective anchored, each entry written and fetched. -/
def abortsCollective : State :=
  { State.reset with
    cmds := { all := [(0, abortOther), (1, anchoredCol)], next := 2 }
    bays := { all := [(0, { st := .attached, eqi := { major := 3, minor := 4, queues := [(0, { wp := 1, fetch := 1 }), (1, { wp := 1, fetch := 1 })] } })] } }

theorem leavesRing_abortsCollective : leavesRing abortsCollective 0 abortOther 0x15 := ⟨⟨⟨rfl, rfl, rfl⟩, by decide, by decide⟩, rfl, rfl, rfl⟩

/-- The ABORT leaves the collective in flight, and its abort flag clear. -/
theorem abort_abortsCollective :
    ∃ t, exec (.abort 0) abortsCollective = .next t ∧ cmd? t 1 ≠ none ∧ (cmdD t 1).abort = false ∧ (cmdD t 1).abortLate = true :=
  ⟨_, rfl, by decide +kernel⟩

/-- Refutes O29: an ABORT of a command in flight must leave it gone or with its abort flag set, but a collective that is anchored stays
with its abort flag clear and abort_late set. -/
theorem not_queuesAndEvents : ¬ Obligations.QueuesAndEvents := by
  unfold Obligations.QueuesAndEvents
  intro h
  obtain ⟨-, -, -, -, -, -, -, aborts, -⟩ := h abortsCollective 0 abortOther
  obtain ⟨-, -, -, inFlightToo⟩ := aborts { wp := 1, fetch := 1 } leavesRing_abortsCollective (by decide) (by decide)
  obtain ⟨t, ht, -, gone⟩ := inFlightToo anchoredCol (by decide) (by decide) (by decide) ⟨rfl, rfl, rfl⟩ (by decide)
  obtain ⟨u, hu, present, clear, -⟩ := abort_abortsCollective
  obtain rfl : u = t := Host.Outcome.next.inj (hu.symm.trans ht)
  rcases gone with gone | set
  · exact present gone
  · exact Bool.false_ne_true (clear.symm.trans set)

end Sys2Proof.Proofs
end

section
/-! SUPPORT. An engine reset kills by the list of commands, and the statement speaks of the commands that their numbers find. They
differ on a table that lists one number twice, which the statement does not exclude (R130, R494). -/
namespace Sys2Proof.Proofs
open Sys2Proof.Machine

/-- A command of bay 0, in state `st`, that carries number `cid`. -/
def numberedCmd (cid : Nat) (st : CmdState) : Cmd := { cid := cid, bay := 0, queue := 0, st := st }

/-- Number 0 is listed twice: the second entry, which `cmd?` never finds, is running and carries number 1. -/
def listedTwice : State :=
  { State.reset with cmds := { all := [(0, numberedCmd 0 .waiting), (0, numberedCmd 1 .running), (1, numberedCmd 1 .waiting)], next := 2 } }

theorem listedTwice_waiting {k : Nat} {c : Cmd} (h : cmd? listedTwice k = some c) : c.st = .waiting := by
  simp only [cmd?, listedTwice, tget_cons, tget_nil] at h
  split_ifs at h <;> cases h <;> rfl

/-- The reset of the panel of command 1 takes the waiting command of that number back to READY. -/
theorem engineReset_listedTwice :
    ∃ t, exec (.engineReset (.panel 1)) listedTwice = .next t ∧ (cmd? t 1).map (·.st) = some .ready := ⟨_, rfl, by decide +kernel⟩

/-- Refutes O54: an engine reset must leave every command that is not running, but on a table that lists a number twice it changes one
that waits. -/
theorem not_engineResets : ¬ Obligations.EngineResets := by
  unfold Obligations.EngineResets
  intro h
  obtain ⟨starts, -⟩ := h listedTwice (.panel 1) rfl rfl
  obtain ⟨t, ht, -, -, others, -⟩ := starts rfl (by simp) (by simp [listedTwice, State.reset])
  obtain ⟨u, hu, ready⟩ := engineReset_listedTwice
  obtain rfl : u = t := Host.Outcome.next.inj (hu.symm.trans ht)
  have same : cmd? u 1 = cmd? listedTwice 1 := others 1 fun k c hc hrun _ => by
    rw [listedTwice_waiting hc] at hrun
    cases hrun
  rw [same] at ready
  exact absurd ready (by decide)

end Sys2Proof.Proofs
end

section
/-! SUPPORT. Contexts: the one found by its handle, its journal put back, its image read and written (R139 to R141, R457, R460). -/
namespace Sys2Proof.Proofs
open Sys2Proof.Machine

variable {s t u : State} {b h : Nat} {x : Ctx}

/-! ## Footprints compose -/

theorem changesOnly_refl (fp : List Grp) (s : State) : ChangesOnly fp s s := keep_self fp s

theorem changesOnly_trans {fp : List Grp} (h : ChangesOnly fp s t) (g : ChangesOnly fp t u) : ChangesOnly fp s u := by
  unfold ChangesOnly at *
  rw [← g, ← h]
  simp only [keep]
  congr 1 <;> split <;> simp_all

/-- What an effect changes, its part within a footprint changes. -/
theorem changesOnly_within {fp : List Grp} (h : ChangesOnly fp s t) (wide : List Grp) : ChangesOnly fp s (keep wide s t) := by
  unfold ChangesOnly at *
  rw [← h]
  simp only [keep]
  congr 1 <;> split <;> simp_all

/-! ## The context with a handle -/

theorem find?_modFirst {α : Type} {p : α → Bool} {f : α → α} (hf : ∀ y, p y = true → p (f y) = true) (l : List α) :
    (modFirst p f l).find? p = (l.find? p).map f := by
  induction l with
  | nil => rfl
  | cons y l ih =>
    rw [modFirst]
    cases hy : p y with
    | true => simp [hf y hy, hy]
    | false => simp [hy, ih]

theorem ctx?_modCtx {f : Ctx → Ctx} (hf : ∀ y, (f y).handle = y.handle) (s : State) : ctx? (modCtx b h f s) b h = (ctx? s b h).map f := by
  rw [modCtx, modSt, ctx?, bay_modBay, if_pos rfl]
  exact find?_modFirst (fun y hy => by rw [hf]; exact hy) _

theorem ctx?_congr (ht : t.bays = s.bays) : ctx? t b h = ctx? s b h := by rw [ctx?, ctx?, bay, bay, ht]

theorem handle_of_ctx? (hx : ctx? s b h = some x) : x.handle = h := by
  have := List.find?_some hx
  simpa using this

/-! ## Effects on the ashlars of a panel -/

/-- An effect for each element that changes the ashlar it names changes the grid alone. -/
theorem changesOnly_modAshs {α : Type} (l : List α) (f : α → Nat) (g : α → Ashlar → Ashlar) (s : State) :
    ChangesOnly [.grid] s (l.foldl (fun t p => modAsh (f p) (g p) t) s) :=
  foldl_inv (ChangesOnly [.grid] s) l _ (fun t p h => changesOnly_trans h (t := t) (u := modAsh (f p) (g p) t) rfl) s (changesOnly_refl _ s)

theorem ash_modAshs_other {α : Type} (l : List α) (f : α → Nat) (g : α → Ashlar → Ashlar) {a : Nat} (ha : a ∉ l.map f) (s : State) :
    ash (l.foldl (fun t p => modAsh (f p) (g p) t) s) a = ash s a := by
  induction l generalizing s with
  | nil => rfl
  | cons p l ih =>
    rw [List.map_cons, List.mem_cons, not_or] at ha
    rw [List.foldl_cons, ih ha.2, ash_modAsh_ne ha.1]

/-- Each element that names an ashlar of its own changes it once. -/
theorem ash_modAshs_mem {α : Type} (l : List α) (f : α → Nat) (g : α → Ashlar → Ashlar) (hl : (l.map f).Nodup) {p : α} (hp : p ∈ l) (s : State) :
    ash (l.foldl (fun t p => modAsh (f p) (g p) t) s) (f p) = g p (ash s (f p)) := by
  induction l generalizing s with
  | nil => cases hp
  | cons q l ih =>
    rw [List.map_cons, List.nodup_cons] at hl
    rw [List.foldl_cons]
    rcases List.mem_cons.1 hp with rfl | hp
    · rw [ash_modAshs_other l f g hl.1, ash_modAsh_same]
    · rw [ih hl.2 hp, ash_modAsh_ne (fun hq => hl.1 (by rw [← hq]; exact List.mem_map_of_mem hp))]

/-- The table of a list, by index. -/
theorem tget_indexed {α : Type} (ids : List Nat) (f : Nat → α) {k a : Nat} (hk : ids[k]? = some a) :
    tget k (((List.range ids.length).zip ids).map fun p => (p.1, f p.2)) = some (f a) := by
  suffices H : ∀ (n : Nat) (l : List Nat) (k : Nat), l[k]? = some a →
      tget (n + k) (((List.range' n l.length).zip l).map fun p => (p.1, f p.2)) = some (f a) by
    have := H 0 ids k hk
    rwa [Nat.zero_add, ← List.range_eq_range'] at this
  intro n l
  induction l generalizing n with
  | nil => intro k hk; simp at hk
  | cons y l ih =>
    intro k hk
    rw [List.length_cons, List.range'_succ, List.zip_cons_cons, List.map_cons, tget_cons]
    cases k with
    | zero => simp_all
    | succ k =>
      have := ih (n + 1) k (by simpa using hk)
      rw [if_neg (by dsimp only; omega), ← this]
      congr 1
      omega

theorem mem_indexed {ids : List Nat} {k a : Nat} (hk : ids[k]? = some a) : (k, a) ∈ (List.range ids.length).zip ids := by
  obtain ⟨hlt, rfl⟩ := List.getElem?_eq_some_iff.1 hk
  rw [List.mem_iff_getElem]
  exact ⟨k, by simpa using hlt, by simp⟩

theorem tget_filterKeys {α : Type} (p : Nat → Bool) (k : Nat) (l : Tbl α) :
    tget k (l.filter fun e => p e.1) = if p k then tget k l else none := by
  induction l with
  | nil => simp
  | cons e l ih =>
    obtain ⟨j, v⟩ := e
    rw [List.filter_cons, tget_cons]
    by_cases hj : k = j
    · subst hj
      cases hp : p k <;> simp_all [tget_cons]
    · have hj' := Ne.symm hj
      cases hp : p j <;> simp_all [tget_cons]

/-! ## A journal read back -/

/-- A context whose journal has been put back, and one that is damaged. -/
def replayed (x : Ctx) : Ctx := { x with pending := false }
def harmedCtx (x : Ctx) : Ctx := { x with damaged := true }

/-- A context that has come onto a panel, and one that has left its own with its images. -/
def cameOnto (o : Nat × Nat) (x : Ctx) : Ctx := { x with resident := some o, switch := .none, slot := false }
def wentOut (images : Tbl CtxImage) (x : Ctx) : Ctx :=
  { x with resident := none, switch := .none, slot := false, blockedSince := none, images := images }

theorem replay_pending (hx : ctx? s b h = some x) (hp : x.pending = true) :
    replay b h s = modCtx b h replayed ((ctxIds x).foldl (fun t a => modAsh a replayAsh t) s) := by
  unfold replay
  rw [hx]
  simp only [hp, each]
  rfl

theorem bays_modAshs {α : Type} (l : List α) (f : α → Nat) (g : α → Ashlar → Ashlar) (s : State) :
    (l.foldl (fun t p => modAsh (f p) (g p) t) s).bays = s.bays :=
  (congrArg State.bays (changesOnly_modAshs l f g s)).symm

theorem ctx?_replay (hx : ctx? s b h = some x) (hp : x.pending = true) : ctx? (replay b h s) b h = some (replayed x) := by
  rw [replay_pending hx hp, ctx?_modCtx (f := replayed) (fun _ => rfl),
    ctx?_congr (t := (ctxIds x).foldl (fun t a => modAsh a replayAsh t) s) (bays_modAshs (ctxIds x) id (fun _ => replayAsh) s), hx]
  rfl

theorem mem_replay (hx : ctx? s b h = some x) (hp : x.pending = true) : (replay b h s).mem = s.mem := by
  rw [replay_pending hx hp]
  exact (congrArg State.mem (changesOnly_modAshs (ctxIds x) id (fun _ => replayAsh) s)).symm

theorem replayRead_pending (hx : ctx? s b h = some x) (hp : x.pending = true) (env : Env) :
    replayRead b h env s = replay b h (homeFailures b h (imageBytes x) (2 * imageBytes x) env s) := by
  unfold replayRead
  rw [hx]
  simp [hp]

theorem replayRead_idle (hx : ctx? s b h = some x) (hp : x.pending = false) (env : Env) : replayRead b h env s = s := by
  unfold replayRead
  rw [hx]
  simp [hp]

/-! ## A home region that fails its MAC -/

/-- The damage of a context none of whose commands is in flight is its mark. -/
theorem damageCtx_idle (hn : ((bayCmds s b).any fun c => ctxOf c == h) = false) :
    damageCtx b h s = modCtx b h harmedCtx s := by
  unfold damageCtx
  have hnone : ∀ t : State, ∀ c ∈ bayCmds s b, (if ctxOf c = h && (c.st == .waiting || c.st == .ready || c.st == .planned) then
      finish c.cid 0x23 0 false (unplan c.cid t) else t) = t := fun t c hc => by
    have := List.any_eq_false.1 hn c hc
    rw [if_neg (by simp_all)]
  exact (List.foldl_ext _ (fun t _ => t) _ hnone).trans (List.foldl_fixed _)

theorem homeFailures_one {blk lo hi o : Nat} (hx : ctx? s b h = some x) (ho : homeOff s b x blk = some o) (hlo : lo ≤ o) (hhi : o < hi)
    (hp : tget blk s.mem.poison = none) (hn : ((bayCmds s b).any fun c => ctxOf c == h) = false) :
    let t := homeFailures b h lo hi { bad := [(blk, false)] } s
    ctx? t b h = some (harmedCtx x) ∧ tget blk t.mem.poison = some 7 := by
  have hgo : homeFailures b h lo hi { bad := [(blk, false)] } s = damageCtx b h (poisonBlock b blk 7 s) := by
    simp [homeFailures, each, hx, ho, hlo, hhi, hp]
  have hpb : (poisonBlock b blk 7 s).bays = s.bays ∧ (poisonBlock b blk 7 s).cmds = s.cmds ∧
      (poisonBlock b blk 7 s).mem = { s.mem with poison := tput blk 7 s.mem.poison } := by
    rw [poisonBlock, rasRec_changes, raise_changes]
    exact ⟨rfl, rfl, rfl⟩
  obtain ⟨hbays, hcmds, hmem⟩ := hpb
  have hd : damageCtx b h (poisonBlock b blk 7 s) = _ := damageCtx_idle (by rw [bayCmds, hcmds]; exact hn)
  intro t
  rw [show t = _ from hgo.trans hd]
  refine ⟨?_, ?_⟩
  · rw [ctx?_modCtx (f := harmedCtx) (fun _ => rfl), ctx?_congr hbays, hx]
    rfl
  · show tget blk (poisonBlock b blk 7 s).mem.poison = _
    rw [hmem]
    exact tget_tput_same _ _ _

/-! ## Switches -/

/-- An index of the panel's images, with the ashlar that stands there. -/
abbrev indexed (ids : List Nat) : List (Nat × Nat) := (List.range ids.length).zip ids

/-- The images a context leaves its panel with. -/
def outImages (s : State) (x : Ctx) : Tbl CtxImage := (indexed (ctxIds x)).map fun p => (p.1, saveImage (ash s p.2))

/-- An ashlar with its image put back. -/
def withImage (i : CtxImage) (y : Ashlar) : Ashlar := { y with spad := i.spad, acc := i.acc, journal := i.journal }

/-- The images of a context on the ashlars of a panel. -/
def imagesOnto (x : Ctx) (ids : List Nat) (s : State) : State :=
  (indexed ids).foldl (fun t p => modAsh p.2 (withImage (tgetD p.1 x.images {})) t) s

theorem switchIn_eq {x0 y0 : Nat} {env : Env} : switchIn b x x0 y0 env s =
    modBay b (fun y => { y with swaps := satAdd 0xFFFF y.swaps 1 })
      (let t := modCtx b x.handle (cameOnto (x0, y0))
        (imagesOnto x (rectIds x0 y0 x.w x.h) (homeFailures b x.handle 0 (2 * imageBytes x) env s))
       { t with stat := { t.stat with swaps := satAdd 0xFFFF t.stat.swaps 1 } }) := rfl

theorem bays_imagesOnto (x : Ctx) (ids : List Nat) (s : State) : (imagesOnto x ids s).bays = s.bays :=
  bays_modAshs (indexed ids) Prod.snd (fun p => withImage (tgetD p.1 x.images {})) s

theorem ctx?_modBay {f : Bay → Bay} (hf : ∀ y, (f y).strm = y.strm) (s : State) : ctx? (modBay b f s) b h = ctx? s b h := by
  rw [ctx?, bay_modBay, if_pos rfl, hf]
  rfl

theorem ctx?_switchIn {x0 y0 : Nat} {env : Env} : ctx? (switchIn b x x0 y0 env s) b x.handle =
    (ctx? (homeFailures b x.handle 0 (2 * imageBytes x) env s) b x.handle).map (cameOnto (x0, y0)) := by
  rw [switchIn_eq]
  refine (ctx?_modBay (f := fun y => { y with swaps := satAdd 0xFFFF y.swaps 1 }) (fun _ => rfl) _).trans ?_
  refine (ctx?_modCtx (f := cameOnto (x0, y0)) (fun _ => rfl) _).trans ?_
  rw [ctx?_congr (bays_imagesOnto _ _ _)]

theorem mem_switchIn {x0 y0 : Nat} {env : Env} :
    (switchIn b x x0 y0 env s).mem = (homeFailures b x.handle 0 (2 * imageBytes x) env s).mem := by
  rw [switchIn_eq, imagesOnto, ← changesOnly_modAshs]
  rfl

/-- The bay's counter takes the switch (R153). -/
theorem swaps_switchIn {x0 y0 : Nat} {env : Env} : (bay (switchIn b x x0 y0 env s) b).swaps =
    min 0xFFFF ((bay (homeFailures b x.handle 0 (2 * imageBytes x) env s) b).swaps + 1) := by
  rw [switchIn_eq, bay_modBay, if_pos rfl]
  show min 0xFFFF ((bay (modCtx b x.handle _ (imagesOnto x _ _)) b).swaps + 1) = _
  rw [modCtx, modSt, bay_modBay, if_pos rfl, bay, bays_imagesOnto]
  rfl

/-- A read of a home region that meets no failure changes nothing. -/
theorem homeFailures_none (lo hi : Nat) (s : State) : homeFailures b h lo hi {} s = s := rfl

/-- Each ashlar of a panel takes the image of its index. -/
theorem ash_imagesOnto {ids : List Nat} (hn : ids.Nodup) {k a : Nat} (hk : ids[k]? = some a) (x : Ctx) (s : State) :
    ash (imagesOnto x ids s) a = withImage (tgetD k x.images {}) (ash s a) :=
  ash_modAshs_mem (indexed ids) Prod.snd (fun p => withImage (tgetD p.1 x.images {})) (by rwa [List.map_snd_zip (by simp)]) (mem_indexed hk) s

theorem mget_saveImage (y : Ashlar) (p : Nat) :
    mget (saveImage y).spad p = if 0x7FF00 ≤ p ∧ p < 0x80000 then 0 else mget y.spad p := by
  have hget : tget p (saveImage y).spad = _ := tget_filterKeys (fun k => !(decide (0x7FF00 ≤ k) && decide (k < 0x80000))) p y.spad
  rw [mget, tgetD, hget]
  by_cases hp : 0x7FF00 ≤ p ∧ p < 0x80000
  · simp [hp]
  · rw [if_neg hp, if_pos (by simp; omega)]
    rfl

/-- The poison that a written image ends. -/
theorem tget_imageWritten (hx : ctx? s b h = some x) (blk : Nat) :
    tget blk (imageWritten b h s).mem.poison =
      if (match homeOff s b x blk with | some o => decide (imageBytes x ≤ o) | none => true) then tget blk s.mem.poison else none := by
  unfold imageWritten
  rw [hx]
  exact tget_filterKeys (fun k => match homeOff s b x k with | some o => decide (imageBytes x ≤ o) | none => true) blk _

theorem imageWritten_mem (b h : Nat) (s : State) :
    imageWritten b h s = { s with mem := { s.mem with poison := (imageWritten b h s).mem.poison } } := by
  unfold imageWritten
  split <;> rfl

theorem bays_imageWritten (b h : Nat) (s : State) : (imageWritten b h s).bays = s.bays := by rw [imageWritten_mem]

theorem exec_journalReplayDone (hb : b < s.bays.count) (env : Env) :
    exec (.journalReplayDone b h env) s = run fpWork (onlyIf (fun t => !ctxBusy t b h) (replayRead b h env)) s := by
  show onUnit _ _ _ = _
  rw [decide_eq_true hb, onUnit_true]

theorem exec_contextSwitchDone (hb : b < s.bays.count) (env : Env) :
    exec (.contextSwitchDone b h env) s = run fpWork (switchDone b h env) s := by
  show onUnit _ _ _ = _
  rw [decide_eq_true hb, onUnit_true]

theorem switchDone_into {x0 y0 : Nat} (hx : ctx? s b h = some x) (hs : x.switch = .into x0 y0) (env : Env) :
    switchDone b h env s =
      if (bay s b).strm.ctxs.any fun y => y.handle != h && (ctxIds y).any ((rectIds x0 y0 x.w x.h).contains ·) then s
      else switchIn b x x0 y0 env s := by
  unfold switchDone
  rw [hx]
  dsimp only
  rw [hs]

theorem switchDone_out (hx : ctx? s b h = some x) (hs : x.switch = .out) (env : Env) : switchDone b h env s = switchOut b x env s := by
  unfold switchDone
  rw [hx]
  dsimp only
  rw [hs]

theorem onlyIf_true {p : State → Bool} (hp : p s = true) (f : State → State) : onlyIf p f s = f s := by rw [onlyIf, if_pos hp]

/-- Settles O24: what each of the two does to the context, its ashlars, its image and its home region. -/
theorem contexts : Obligations.Contexts := by
  intro s b h x hpow hb hx harmed
  obtain rfl := handle_of_ctx? hx
  have hjr : ∀ env, ctxBusy s b x.handle = false → x.pending = true → exec (.journalReplayDone b x.handle env) s =
      .next (keep fpWork s (replay b x.handle (homeFailures b x.handle (imageBytes x) (2 * imageBytes x) env s))) := fun env hbusy hpend => by
    rw [exec_journalReplayDone hb, run_powered hpow, onlyIf_true (by simp [hbusy]), replayRead_pending hx hpend]
  have hcs : ∀ env, exec (.contextSwitchDone b x.handle env) s = .next (keep fpWork s (switchDone b x.handle env s)) := fun env => by
    rw [exec_contextSwitchDone hb, run_powered hpow]
  refine ⟨fun hpend hbusy hn => ?_, fun blk o hpend hbusy ho hlo hhi hp hno => ?_, fun hs hpend => ?_, fun x0 y0 hs hany => ?_,
    fun x0 y0 hs hn hany => ?_, fun x0 y0 blk o hs hany ho hhi hp hno => ?_⟩
  · refine ⟨_, hjr {} hbusy hpend, ctx?_replay hx hpend, fun a ha => ?_, fun a ha => ?_, changesOnly_within ?_ _⟩
    all_goals rw [homeFailures_none, replay_pending hx hpend]
    · exact ash_modAshs_mem (ctxIds x) (fun a => a) (fun _ => replayAsh) (by simpa using hn) ha s
    · exact ash_modAshs_other (ctxIds x) (fun a => a) (fun _ => replayAsh) (by simpa using ha) s
    · have := changesOnly_modAshs (ctxIds x) (fun a => a) (fun _ => replayAsh) s
      rw [← this]
      rfl
  · obtain ⟨hc, hm⟩ := homeFailures_one hx ho hlo hhi hp hno
    refine ⟨_, hjr _ hbusy hpend, ?_, _, ctx?_replay hc (by exact hpend), rfl⟩
    rw [mem_keepWork, mem_replay hc (by exact hpend)]
    exact hm
  · have hgo : switchDone b x.handle {} s = modCtx b x.handle (wentOut (outImages s x)) (imageWritten b x.handle s) := by
      rw [switchDone_out hx hs]
      unfold switchOut
      rw [replayRead_idle hx hpend, imageWritten_mem]
      rfl
    refine ⟨_, (hcs {}).trans (by rw [hgo]), changesOnly_within ?_ _, ?_, fun blk => ?_, ?_⟩
    · rw [imageWritten_mem]
      rfl
    · rw [mem_keepWork]
      show (imageWritten b x.handle s).mem = _
      rw [imageWritten_mem]
      rfl
    · rw [mem_keepWork, show (modCtx b x.handle _ (imageWritten b x.handle s)).mem = (imageWritten b x.handle s).mem from rfl, tget_imageWritten hx]
      refine ⟨fun o ho hlt => ?_, fun hall => ?_⟩
      · rw [ho, if_neg (by simpa using hlt)]
      · cases ho : homeOff s b x blk with
        | none => rfl
        | some o => rw [if_pos (by simpa using hall o ho)]
    · refine ⟨wentOut (outImages s x) x, (ctx?_modCtx (f := wentOut (outImages s x)) (fun _ => rfl) _).trans ?_, rfl, rfl, rfl, fun k a hk => ?_⟩
      · rw [ctx?_congr (bays_imageWritten b x.handle s), hx]
        rfl
      · exact ⟨saveImage (ash s a), tget_indexed (ctxIds x) (fun a => saveImage (ash s a)) hk, rfl, mget_saveImage _⟩
  · rw [hcs, switchDone_into hx hs, if_pos hany, keep_self]
  · have hash : ∀ a, ash (switchIn b x x0 y0 {} s) a = ash (imagesOnto x (rectIds x0 y0 x.w x.h) s) a := fun _ => rfl
    refine ⟨_, (hcs {}).trans (by rw [switchDone_into hx hs, if_neg (by rw [hany]; decide)]), ?_, changesOnly_within ?_ _, ?_, ?_, fun k a hk => ?_⟩
    · refine (ctx?_switchIn (env := {})).trans ?_
      rw [homeFailures_none, hx]
      rfl
    · rw [switchIn_eq, homeFailures_none, imagesOnto, ← changesOnly_modAshs]
      rfl
    · show min 0xFFFF ((imagesOnto x _ s).stat.swaps + 1) = _
      rw [imagesOnto, ← changesOnly_modAshs]
      rfl
    · exact swaps_switchIn (env := {})
    · rw [ash_keepWork, hash, ash_imagesOnto hn hk]
      exact ⟨rfl, rfl, rfl⟩
  · obtain ⟨hc, hm⟩ := homeFailures_one hx ho (Nat.zero_le o) hhi hp hno
    have hgo := hcs { bad := [(blk, false)] }
    rw [switchDone_into hx hs, if_neg (by rw [hany]; decide)] at hgo
    refine ⟨_, hgo, ?_, _, ctx?_switchIn.trans (by rw [hc]; rfl), rfl⟩
    rw [mem_keepWork, mem_switchIn]
    exact hm

end Sys2Proof.Proofs
end

section
/-! SUPPORT. What writes, error records, the stop and the end of a command leave alone: the groups they do not reach, the lift but for
commands that leave its plan, and of each bay what is not its queues, memory, streams and events. -/
namespace Sys2Proof.Proofs
open Sys2Proof.Machine

variable {s t u : State} {b c q : Nat}

/-! ## The frame -/

/-- What the end of a command reaches. -/
def fpEnd : List Grp := [.lift, .grid, .cmds, .bays, .dev, .mem, .kw, .arch, .ras, .plumb, .irq, .quoin, .out]

/-- A bay but for its queues, memory, streams, events and progress. -/
def BayAside (y z : Bay) : Prop := z = { y with eqi := z.eqi, mem := z.mem, strm := z.strm, ev := z.ev, progress := z.progress }

/-- The queues of a bay and its cached host translations. -/
structure RingsAs (y z : Bay) : Prop where
  eqi : z.eqi = { y.eqi with errSeq := z.eqi.errSeq, errPos := z.eqi.errPos }
  atc : z.mem.atc = y.mem.atc
  ats : z.mem.atsEnable = y.mem.atsEnable

/-- Pending interrupts stay pending and what was driven out stays driven out. -/
structure Grows (s t : State) : Prop where
  pend : ∀ n ∈ s.irq.pend, n ∈ t.irq.pend
  log : s.out.log <:+ t.out.log

structure Leaves (s t : State) : Prop where
  only : ChangesOnly fpEnd s t
  lift : t.lift = { s.lift with plan := t.lift.plan }
  plan : ∀ i ∈ t.lift.plan, i ∈ s.lift.plan
  count : t.bays.count = s.bays.count
  bays : ∀ b, BayAside (bay s b) (bay t b)
  grows : Grows s t
  ports : ∀ p, (qport t p).cid = none ∨ (qport t p).cid = (qport s p).cid

/-- The same, with the rings of every bay and the plumb log as they were. -/
structure LeavesRings (s t : State) : Prop extends Leaves s t where
  rings : ∀ b, RingsAs (bay s b) (bay t b)
  plumb : t.plumb = s.plumb

/-- The same as the first, with the commands and the quoin ports as they were. -/
structure LeavesCmds (s t : State) : Prop extends Leaves s t where
  cmds : t.cmds = s.cmds
  quoin : t.quoin = s.quoin

/-- Both. -/
structure Wrote (s t : State) : Prop extends LeavesRings s t, LeavesCmds s t

theorem BayAside.trans {x y z : Bay} (h : BayAside x y) (g : BayAside y z) : BayAside x z := by
  unfold BayAside at *
  rw [g, h]

theorem RingsAs.trans {x y z : Bay} (h : RingsAs x y) (g : RingsAs y z) : RingsAs x z :=
  ⟨by rw [g.eqi, h.eqi], g.atc.trans h.atc, g.ats.trans h.ats⟩

theorem BayAside.refl (y : Bay) : BayAside y y := rfl
theorem RingsAs.refl (y : Bay) : RingsAs y y := ⟨rfl, rfl, rfl⟩

theorem Grows.refl : Grows s s := ⟨fun _ h => h, List.suffix_refl _⟩
theorem Grows.trans (h : Grows s t) (g : Grows t u) : Grows s u := ⟨fun n hn => g.pend n (h.pend n hn), h.log.trans g.log⟩
theorem grows_of (hi : t.irq = s.irq := by rfl) (ho : t.out.log = s.out.log := by rfl) : Grows s t :=
  ⟨by rw [hi]; exact fun _ h => h, by rw [ho]⟩
theorem grows_raise (n : Nat) : Grows s (raise n s) where
  pend k hk := by
    rw [raise_pend]
    split
    · exact hk
    · exact (mem_sput _ _ _).2 (.inr hk)
  log := by rw [raise_changes]
theorem grows_emit (o : Out) : Grows s (emit o s) := ⟨fun _ h => h, List.suffix_cons _ _⟩

/-- What reaches neither the lift, the bays, the commands, the ports nor the plumb log. -/
theorem wrote_of (only : ChangesOnly fpEnd s t := by rfl) (hl : t.lift = s.lift := by rfl) (hb : t.bays = s.bays := by rfl)
    (hc : t.cmds = s.cmds := by rfl) (hq : t.quoin = s.quoin := by rfl) (hp : t.plumb = s.plumb := by rfl) (hg : Grows s t := by exact grows_of) :
    Wrote s t where
  only := only
  lift := by rw [hl]
  plan := by rw [hl]; exact fun _ hi => hi
  count := by rw [hb]
  bays b := by rw [bay, bay, hb]; exact .refl _
  grows := hg
  ports p := .inr (by rw [qport, qport, hq])
  rings b := by rw [bay, bay, hb]; exact .refl _
  plumb := hp
  cmds := hc
  quoin := hq

theorem Wrote.refl : Wrote s s := wrote_of (changesOnly_refl _ s)
theorem LeavesRings.refl : LeavesRings s s := Wrote.refl.toLeavesRings
theorem LeavesCmds.refl : LeavesCmds s s := Wrote.refl.toLeavesCmds
theorem Leaves.refl : Leaves s s := LeavesRings.refl.toLeaves

theorem Leaves.trans (h : Leaves s t) (g : Leaves t u) : Leaves s u where
  only := changesOnly_trans h.only g.only
  lift := by rw [g.lift, h.lift]
  plan i hi := h.plan i (g.plan i hi)
  count := g.count.trans h.count
  bays b := (h.bays b).trans (g.bays b)
  grows := h.grows.trans g.grows
  ports p := by rcases g.ports p with hn | he; exacts [.inl hn, he ▸ h.ports p]

theorem LeavesRings.trans (h : LeavesRings s t) (g : LeavesRings t u) : LeavesRings s u where
  toLeaves := h.toLeaves.trans g.toLeaves
  rings b := (h.rings b).trans (g.rings b)
  plumb := g.plumb.trans h.plumb

theorem LeavesCmds.trans (h : LeavesCmds s t) (g : LeavesCmds t u) : LeavesCmds s u where
  toLeaves := h.toLeaves.trans g.toLeaves
  cmds := g.cmds.trans h.cmds
  quoin := g.quoin.trans h.quoin

theorem Wrote.trans (h : Wrote s t) (g : Wrote t u) : Wrote s u where
  toLeavesRings := h.toLeavesRings.trans g.toLeavesRings
  cmds := g.cmds.trans h.cmds
  quoin := g.quoin.trans h.quoin

theorem Leaves.each {α : Type} {f : α → State → State} (hf : ∀ x t, Leaves t (f x t)) (l : List α) : Leaves s (each l f s) :=
  each_inv (Leaves s) l f (fun x t h => h.trans (hf x t)) s .refl
theorem LeavesRings.each {α : Type} {f : α → State → State} (hf : ∀ x t, LeavesRings t (f x t)) (l : List α) : LeavesRings s (each l f s) :=
  each_inv (LeavesRings s) l f (fun x t h => h.trans (hf x t)) s .refl
theorem Wrote.each {α : Type} {f : α → State → State} (hf : ∀ x t, Wrote t (f x t)) (l : List α) : Wrote s (each l f s) :=
  each_inv (Wrote s) l f (fun x t h => h.trans (hf x t)) s .refl
theorem Wrote.foldl {α : Type} {f : State → α → State} (hf : ∀ t x, Wrote t (f t x)) (l : List α) : Wrote s (l.foldl f s) :=
  foldl_inv (Wrote s) l f (fun t x h => h.trans (hf t x)) s .refl

/-- A change of a bay that leaves what is aside. -/
theorem leaves_modBay {f : Bay → Bay} (hf : ∀ y, BayAside y (f y)) (s : State) : LeavesCmds s (modBay b f s) where
  only := rfl
  lift := rfl
  plan _ hi := hi
  count := rfl
  bays k := by
    rw [bay_modBay]
    split
    · next h => rw [h]; exact hf _
    · exact .refl _
  grows := grows_of
  ports _ := .inr rfl
  cmds := rfl
  quoin := rfl

/-- One that leaves its rings as well. -/
theorem wrote_modBay {f : Bay → Bay} (hf : ∀ y, BayAside y (f y)) (hr : ∀ y, RingsAs y (f y)) (s : State) : Wrote s (modBay b f s) where
  toLeaves := (leaves_modBay hf s).toLeaves
  rings k := by
    rw [bay_modBay]
    split
    · next h => rw [h]; exact hr _
    · exact .refl _
  plumb := rfl
  cmds := rfl
  quoin := rfl

/-! ## Frames on the fabric -/

theorem grows_turn (p : Nat) : Grows s (turn p s) := by
  unfold turn
  dsimp only
  split
  · exact grows_of
  · exact Grows.trans (t := modKw p turnKeys s) grows_of (grows_raise _)

theorem grows_sendOne (p : Nat) : Grows s (sendOne p s) := by
  unfold sendOne
  dsimp only
  split
  · exact grows_turn p
  split
  · exact grows_turn p
  split
  · exact grows_turn p
  · exact (grows_turn p).trans (Grows.trans grows_of (grows_emit _))

theorem grows_admitOne : Grows s (admitOne s) := by
  unfold admitOne
  split
  · exact .refl
  · exact Grows.trans (by exact grows_of) (grows_sendOne _)

theorem grows_flushPort (p : Nat) : Grows s (flushPort p s) :=
  Grows.trans (foldl_inv (Grows s) _ _ (fun _ _ h => h.trans (grows_sendOne p)) s .refl)
    (foldl_inv (Grows _) _ _ (fun _ _ h => h.trans grows_admitOne) _ .refl)

theorem grows_portSend (p : Nat) (e : Staged) : Grows s (portSend p e s) :=
  Grows.trans (t := { s with kw := { s.kw with waiting := s.kw.waiting ++ [(p, e)] } }) grows_of (grows_flushPort p)

theorem grows_kwSend (f : Frame) : Grows s (kwSend b f s) := by
  unfold kwSend
  split
  · exact grows_portSend _ _
  · exact .refl

theorem grows_sendReq (x : Txn) : Grows s (sendReq x s) := by
  unfold sendReq
  split
  · exact .refl
  · exact Grows.trans (by exact grows_of) (grows_kwSend _)

theorem grows_pumpOwn (n : Nat) : Grows s (pumpOwn n s) := by
  induction n generalizing s with
  | zero => exact .refl
  | succ n ih =>
    unfold pumpOwn
    split
    · exact .refl
    split
    · exact .refl
    split
    · exact .refl
    · exact (Grows.trans (by exact grows_of) (grows_sendReq _)).trans ih

theorem grows_ownJob (j : OwnJob) : Grows s (ownJob j s) := by
  unfold ownJob
  split
  · exact .refl
  · exact Grows.trans (t := { s with kw := { s.kw with own := s.kw.own ++ [j] } }) grows_of (grows_pumpOwn _)

theorem wrote_of_fabric (h : FabricOnly s t) (hg : Grows s t) : Wrote s t :=
  wrote_of (by rw [h]; rfl) (by rw [h]) (by rw [h]) (by rw [h]) (by rw [h]) (by rw [h]) hg

/-! ## Records and interrupts -/

theorem wrote_raise (n : Nat) : Wrote s (raise n s) := wrote_of_fabric (by rw [raise_changes]) (grows_raise n)
theorem wrote_oweVector (v : Nat) : Wrote s (oweVector b v s) := by
  unfold oweVector
  exact Wrote.trans (by exact wrote_of (hg := ⟨fun _ h => h, List.suffix_refl _⟩)) (wrote_raise _)
theorem wrote_emit (o : Out) : Wrote s (emit o s) := wrote_of_fabric rfl (grows_emit o)
theorem wrote_drewFree : Wrote s (drewFree s) := wrote_of
theorem wrote_progress : Wrote s (progress b s) :=
  wrote_modBay (f := fun y => { y with progress := (y.progress + 1) % 2 ^ 32 }) (fun _ => rfl) (fun _ => ⟨rfl, rfl, rfl⟩) s
theorem wrote_modSt (f : BayStream → BayStream) : Wrote s (modSt b f s) :=
  wrote_modBay (f := fun y => { y with strm := f y.strm }) (fun _ => rfl) (fun _ => ⟨rfl, rfl, rfl⟩) s
theorem wrote_modBm (f : BayMem → BayMem) (hc : ∀ m, (f m).atc = m.atc := by intro; rfl)
    (he : ∀ m, (f m).atsEnable = m.atsEnable := by intro; rfl) : Wrote s (modBm b f s) :=
  wrote_modBay (f := fun y => { y with mem := f y.mem }) (fun _ => rfl) (fun y => ⟨rfl, hc y.mem, he y.mem⟩) s
theorem wrote_modAsh (a : Nat) (f : Ashlar → Ashlar) : Wrote s (modAsh a f s) := wrote_of
theorem leaves_plumbRec (p : PlumbRec) : LeavesCmds s (plumbRec p s) := by
  unfold plumbRec
  exact LeavesCmds.trans (by exact ⟨⟨rfl, rfl, fun _ h => h, rfl, fun _ => .refl _, grows_of, fun _ => .inr rfl⟩, rfl, rfl⟩) (wrote_raise 10).toLeavesCmds
theorem leaves_modEqi (f : BayEqi → BayEqi) : LeavesCmds s (modEqi b f s) := leaves_modBay (f := fun y => { y with eqi := f y.eqi }) (fun _ => rfl) s
theorem leaves_modQueue (f : Queue → Queue) : LeavesCmds s (modQueue b q f s) := by
  unfold modQueue
  split
  · exact .refl
  · exact leaves_modEqi _
theorem leaves_modCmd (f : Cmd → Cmd) : LeavesRings s (modCmd c f s) := by
  unfold modCmd
  split
  · exact .refl
  · exact ⟨⟨rfl, rfl, fun _ h => h, rfl, fun _ => .refl _, grows_of, fun _ => .inr rfl⟩, fun _ => .refl _, rfl⟩

theorem qport_modQp (p k : Nat) (f : QPort → QPort) (s : State) : qport (modQp p f s) k = if k = p then f (qport s p) else qport s k := by
  simp only [qport, modQp, tgetD, tget_tmod]
  split <;> rfl

theorem leaves_modQp (p : Nat) {f : QPort → QPort} (hf : ∀ q, (f q).cid = none ∨ (f q).cid = q.cid) : LeavesRings s (modQp p f s) where
  only := rfl
  lift := rfl
  plan _ h := h
  count := rfl
  bays _ := .refl _
  grows := grows_of
  ports k := by
    rw [qport_modQp]
    split
    · next h => rw [h]; exact hf _
    · exact .inr rfl
  rings _ := .refl _
  plumb := rfl

/-! ## Writes of memory -/

theorem wrote_noteMove (h : Home) (off n : Nat) : Wrote s (noteMove b h off n s) := by
  unfold noteMove
  split
  · exact wrote_modBm _
  · exact .refl

theorem wrote_mem (m : MemSys) : Wrote s { s with mem := m } := wrote_of

theorem wrote_writePa (pa : Nat) (bs : List Byte) : Wrote s (writePa pa bs s) := by
  unfold writePa
  refine Wrote.trans ?_ (wrote_mem _)
  split
  · exact wrote_noteMove _ _ _
  · exact .refl

theorem wrote_writeWin (k : Nat) (bs : List Byte) : Wrote s (writeWin k bs s) := by
  unfold writeWin
  refine Wrote.trans (Wrote.trans ?_ (wrote_noteMove _ _ _)) (wrote_mem _)
  split
  · exact wrote_of_fabric (ownJob_fabric _ _) (grows_ownJob _)
  · exact .refl

theorem wrote_writeVa (va : Nat) (bs : List Byte) : Wrote s (writeVa b va bs s) := by
  refine Wrote.foldl (fun t p => ?_) _
  dsimp only
  split
  · exact wrote_writePa _ _
  · exact wrote_writeWin _ _
  · exact wrote_emit _
  · exact .refl

theorem wrote_errRecord (kind code q slot detail address : Nat) (entry : List Byte) (origin shape ashlar engines reruns : Nat) (est : List Byte) :
    Wrote s (errRecord b kind code q slot detail address entry origin shape ashlar engines reruns est s) := by
  have hseq : ∀ (f : BayEqi → BayEqi) (t : State), (∀ e, f e = { e with errSeq := (f e).errSeq, errPos := (f e).errPos }) → Wrote t (modEqi b f t) :=
    fun f t hf => wrote_modBay (f := fun y => { y with eqi := f y.eqi }) (fun _ => rfl) (fun y => ⟨hf _, rfl, rfl⟩) t
  unfold errRecord
  extract_lets
  split
  · exact (hseq _ s (fun _ => rfl)).trans wrote_of
  · exact ((wrote_writeVa _ _).trans (hseq _ _ (fun _ => rfl))).trans (wrote_raise _)

theorem wrote_cmdError (x : Cmd) (kind code detail address : Nat) (a : Option Nat) (st : Nat) :
    Wrote s (cmdError x kind code detail address a st s) := wrote_errRecord _ _ _ _ _ _ _ _ _ _ _ _ _

/-! ## A command is stopped -/

theorem wrote_landSome (a : Nat) (ls : List (Nat × Nat × Nat × Nat)) : Wrote s (landSome b a ls s) := by
  induction ls generalizing s with
  | nil => exact .refl
  | cons l ls ih =>
    unfold landSome
    refine Wrote.trans ?_ ih
    split
    · exact wrote_drewFree.trans (Wrote.trans (t := noteLanded b _ _ (drewFree s)) wrote_of ((wrote_writeVa _ _).trans wrote_of))
    · exact wrote_drewFree

theorem wrote_journalPending (h : Nat) : Wrote s (journalPending b h s) := by
  unfold journalPending
  split
  · exact .refl
  · exact wrote_modSt _

theorem cmds_modCmd_congr (h : t.cmds = s.cmds) (c : Nat) (f : Cmd → Cmd) : (modCmd c f t).cmds = (modCmd c f s).cmds := by
  unfold modCmd cmd?
  rw [h]
  split
  · exact h
  · rfl

/-- A command that a stop has gone over. -/
def stoppedCmd (x : Cmd) : Cmd :=
  { x with outbox := [], outCount := 0, copied := false, stage := [], stageAt := [], direct := [], halted := [], hostPages := [], transPages := []
           walk := x.walk.map fun w => { w with prod := [], pieces := [], ahead := [] } }

/-- A command that stops leaves the plan; its panel, its engine and its traffic stop. -/
theorem halt_spec (keepAsh : Option Nat) : LeavesRings s (halt c keepAsh s) ∧ (halt c keepAsh s).cmds = (modCmd c stoppedCmd s).cmds := by
  unfold halt
  split
  · next hn => exact ⟨.refl, by simp [modCmd, hn]⟩
  next x hx =>
  extract_lets ids landed stopped quiet killed journalled told cleared
  have hlanded : Wrote s landed := .each (fun a t => wrote_landSome _ _) _
  have hstopped : Wrote landed stopped := .each (fun a t => by split; exacts [wrote_modAsh _ _, .refl]) _
  have hkilled : Wrote quiet killed := .each (f := fun a t => sendCtl .kill a c t) (fun a t => wrote_of) _
  have hj : Wrote s journalled := hlanded.trans (hstopped.trans ((wrote_of : Wrote stopped quiet).trans (hkilled.trans (wrote_journalPending _))))
  have htold : LeavesRings journalled told ∧ told.cmds = journalled.cmds := by
    dsimp only [told]
    split
    · exact ⟨(leaves_modQp _ (fun _ => .inl rfl)).trans (wrote_emit _).toLeavesRings, rfl⟩
    · exact ⟨.refl, rfl⟩
  have hcleared : LeavesRings s cleared := hj.toLeavesRings.trans (htold.1.trans (leaves_modCmd _))
  refine ⟨hcleared.trans ⟨⟨rfl, rfl, fun i hi => (List.mem_filter.1 hi).1, rfl, fun _ => .refl _, grows_of, fun _ => .inr rfl⟩, fun _ => .refl _, rfl⟩, ?_⟩
  exact cmds_modCmd_congr (htold.2.trans hj.cmds) _ _

theorem leaves_halt (keepAsh : Option Nat) : LeavesRings s (halt c keepAsh s) := (halt_spec keepAsh).1

theorem leaves_killReady : LeavesRings s (killReady c s) := (leaves_halt none).trans (leaves_modCmd _)

/-! ## Completion rings -/

theorem leaves_freezeQueue : LeavesCmds s (freezeQueue b q s) := 
  (leaves_modQueue _).trans (wrote_of (t := freezeQueue b q s)).toLeavesCmds

theorem leaves_cqFail (address : Nat) : LeavesCmds s (cqFail b q address s) :=
  ((((leaves_modQueue _).trans leaves_freezeQueue).trans (wrote_errRecord _ _ _ _ _ _ _ _ _ _ _ _ _).toLeavesCmds).trans (leaves_modQueue _)).trans
    (leaves_plumbRec _)

theorem leaves_atsAsk (page dev c need engine : Nat) : LeavesCmds s (atsAsk b page dev c need engine s) := by
  unfold atsAsk
  dsimp only
  split
  · exact .refl
  · exact ((wrote_modBm _).trans (wrote_emit _)).toLeavesCmds

theorem leaves_cqWrite : LeavesCmds s (cqWrite b q s) := by
  unfold cqWrite
  split
  · exact .refl
  split
  · exact .refl
  split
  · exact .refl
  extract_lets size phase fl bs at_ irq hp t t'
  have hput : LeavesCmds s t' := by
    refine (leaves_modQueue _).trans (t := t) ?_
    dsimp only [t']
    split
    · exact (wrote_emit _).toLeavesCmds
    · exact (wrote_writeVa _ _).toLeavesCmds
  split
  · exact leaves_atsAsk _ _ _ _ _
  split
  · exact leaves_cqFail _
  split
  · exact hput.trans (wrote_oweVector _).toLeavesCmds
  · exact hput

theorem leaves_cqFlush (n : Nat) : LeavesCmds s (cqFlush n b q s) := by
  induction n generalizing s with
  | zero => exact .refl
  | succ n ih => exact leaves_cqWrite.trans ih

theorem leaves_cqPost : LeavesCmds s (cqPost b q s) := by
  unfold cqPost
  split
  · exact .refl
  · exact leaves_cqFlush _

/-! ## A command reaches DONE -/

theorem leaves_releaseAdmin (x : Cmd) : LeavesCmds s (releaseAdmin x s) := by
  unfold releaseAdmin
  split
  · exact leaves_modEqi _
  split
  · exact .refl
  · exact (wrote_modSt _).toLeavesCmds

theorem leaves_dropCmd : LeavesRings s (dropCmd c s) :=
  ⟨⟨rfl, rfl, fun _ h => h, rfl, fun _ => .refl _, grows_of, fun _ => .inr rfl⟩, fun _ => .refl _, rfl⟩

theorem leaves_finishTop (x : Cmd) (code result : Nat) (er : Bool) : Leaves s (finishTop x code result er s) :=
  ((((leaves_releaseAdmin x).trans (leaves_modQueue _)).toLeaves.trans leaves_dropCmd.toLeaves).trans wrote_progress.toLeaves).trans leaves_cqPost.toLeaves

theorem leaves_signal (o v : Nat) : LeavesCmds s (signal b o v s) := by
  unfold signal
  split
  · exact (leaves_modEqi _).trans wrote_progress.toLeavesCmds
  · exact .refl

theorem leaves_finishBody (pc : Nat) (x : Cmd) (code : Nat) (er : Bool) : Leaves s (finishBody pc x code er s) := by
  unfold finishBody
  extract_lets t t'
  have ht : Leaves s t' := ((leaves_dropCmd.trans wrote_progress.toLeavesRings).trans (leaves_modCmd _)).toLeaves
  split
  · exact ht
  split
  · exact ht
  extract_lets p code u
  have hu : Leaves s u := by
    dsimp only [u]
    split
    · exact ht.trans (leaves_signal _ _).toLeaves
    · exact ht
  exact (hu.trans (wrote_modSt _).toLeaves).trans (leaves_finishTop _ _ _ _)

theorem wrote_streamLess (x : Cmd) : Wrote s (streamLess x s) := by
  unfold streamLess
  split
  · exact wrote_modSt _
  · exact .refl

theorem wrote_owesHs (x : Cmd) : Wrote s (owesHs x s) := by
  unfold owesHs
  split
  · split
    · exact .refl
    · exact wrote_of
  · exact .refl

theorem leaves_finish (code result : Nat) (er : Bool) : Leaves s (finish c code result er s) := by
  unfold finish
  split
  · exact .refl
  next x _ =>
  have ho := (wrote_owesHs x (s := s)).toLeaves
  split
  · exact ((ho.trans leaves_dropCmd.toLeaves).trans wrote_progress.toLeaves).trans (wrote_modSt _).toLeaves
  · exact ho.trans (leaves_finishBody _ _ _ _)
  · exact (ho.trans (wrote_streamLess x).toLeaves).trans (leaves_finishTop _ _ _ _)

end Sys2Proof.Proofs
end


section
/-! SUPPORT. The end of a command of a ring (R230, R237, R238, R402): its queue owes one entry more, or has written it. -/
namespace Sys2Proof.Proofs
open Sys2Proof.Machine

variable {s t u : State} {b q code result : Nat} {er : Bool} {c x : Cmd} {y z : Queue}

/-! ## A queue in its bay -/

theorem queue?_of_rings (h : RingsAs (bay s b) (bay t b)) : queue? t b q = queue? s b q := by rw [queue?, queue?, h.eqi]

theorem queue?_modEqi (f : BayEqi → BayEqi) : queue? (modEqi b f s) b q = tget q (f (bay s b).eqi).queues := by
  rw [queue?, show modEqi b f s = modBay b (fun y => { y with eqi := f y.eqi }) s from rfl, bay_modBay, if_pos rfl]

theorem queue?_modQueue (h : queue? s b q = some y) (f : Queue → Queue) : queue? (modQueue b q f s) b q = some (f y) := by
  unfold modQueue
  rw [h]
  exact (queue?_modEqi _).trans (tget_tput_same _ _ _)

/-- The host side of a bay: its interface, its stream and its cached translations. -/
structure HostAs (s t : State) (b : Nat) : Prop where
  sec : t.sec = s.sec
  hw : t.hw = s.hw
  atc : (bay t b).mem.atc = (bay s b).mem.atc
  ats : (bay t b).mem.atsEnable = (bay s b).mem.atsEnable

theorem HostAs.shut (h : HostAs s t b) : hostShut t b = hostShut s b := by rw [hostShut, hostShut, tdi, tdi, h.sec]
theorem HostAs.req (h : HostAs s t b) (n : Nat) : reqT t n = reqT s n := by rw [reqT, reqT, tdi, tdi, h.sec]
theorem HostAs.xl (h : HostAs s t b) (a : Nat) : hostXl t b a = hostXl s b a := by rw [hostXl, hostXl, isF, isF, h.hw, h.atc, h.ats]
theorem HostAs.miss (h : HostAs s t b) (l : List (Nat × Nat)) : atsMiss t b l = atsMiss s b l := by rw [atsMiss, atsMiss, isF, isF, h.hw, h.atc, h.ats]
theorem HostAs.denied (h : HostAs s t b) (n : Nat) (l : List (Nat × Nat)) : atsDenied t b n l = atsDenied s b n l := by
  rw [atsDenied, atsDenied, isF, isF, h.hw, h.atc, h.ats]
theorem HostAs.trans (h : HostAs s t b) (g : HostAs t u b) : HostAs s u b :=
  ⟨g.sec.trans h.sec, g.hw.trans h.hw, g.atc.trans h.atc, g.ats.trans h.ats⟩

theorem LeavesRings.host (h : LeavesRings s t) (b : Nat) : HostAs s t b :=
  ⟨(congrArg State.sec h.only).symm, (congrArg State.hw h.only).symm, (h.rings b).atc, (h.rings b).ats⟩

/-- A change of the bay that leaves its memory side leaves its host side. -/
theorem hostAs_modBay {f : Bay → Bay} (hf : ∀ y, (f y).mem = y.mem) (k : Nat) (s : State) : HostAs s (modBay k f s) b := by
  have hm : (bay (modBay k f s) b).mem = (bay s b).mem := by
    rw [bay_modBay]
    split
    · next h => rw [hf, h]
    · rfl
  exact ⟨rfl, rfl, by rw [hm], by rw [hm]⟩

theorem hostAs_modEqi (f : BayEqi → BayEqi) (k : Nat) : HostAs s (modEqi k f s) b := hostAs_modBay (f := fun y => { y with eqi := f y.eqi }) (fun _ => rfl) k s

theorem hostAs_modQueue (f : Queue → Queue) : HostAs s (modQueue b q f s) b := by
  unfold modQueue
  split
  · exact ⟨rfl, rfl, rfl, rfl⟩
  · exact hostAs_modEqi _ _

/-- Entries owed and written of a queue: their sum counts its completions. -/
def posted (y : Queue) : Nat := y.cqNext + y.owed.length

/-- A queue is there, with so many completions. -/
def HasPosted (s : State) (b q n : Nat) : Prop := ∃ y, queue? s b q = some y ∧ posted y = n

theorem HasPosted.rings {n : Nat} (h : HasPosted s b q n) (hr : RingsAs (bay s b) (bay t b)) : HasPosted t b q n := by
  obtain ⟨y, hy, hn⟩ := h
  exact ⟨y, (queue?_of_rings hr).trans hy, hn⟩

theorem HasPosted.modQueue {n : Nat} (h : HasPosted s b q n) {f : Queue → Queue} (hf : ∀ y, posted (f y) = posted y) : HasPosted (modQueue b q f s) b q n := by
  obtain ⟨y, hy, hn⟩ := h
  exact ⟨f y, queue?_modQueue hy f, (hf y).trans hn⟩

theorem rings_plumbRec (p : PlumbRec) : RingsAs (bay s b) (bay (plumbRec p s) b) := by
  rw [plumbRec_changes]
  exact .refl _

/-- A queue whose completion ring cannot be written keeps what it owes. -/
theorem hasPosted_cqFail {n : Nat} (h : HasPosted s b q n) (a : Nat) : HasPosted (cqFail b q a s) b q n := by
  have h1 : HasPosted (freezeQueue b q _) b q n := (h.modQueue (f := fun x => { x with ringFailed := true }) fun _ => rfl).modQueue (f := fun x => { x with frozen := true }) fun _ => rfl
  have h2 := h1.rings ((wrote_errRecord 0x04 0x33 q 0xFFFF 0 a [] 0xFFFF 0xFFFF 0xFFFF 0 0 [] (b := b)).rings b)
  have h3 := h2.modQueue (f := fun x => { x with viol := (0x02, 0xFFFF, 0) }) fun _ => rfl
  exact h3.rings (rings_plumbRec _)

/-- Writing the oldest owed entry counts it among the written ones. -/
theorem hasPosted_cqWrite {n : Nat} (h : HasPosted s b q n) : HasPosted (cqWrite b q s) b q n := by
  obtain ⟨y, hy, hn⟩ := h
  have h : HasPosted s b q n := ⟨y, hy, hn⟩
  unfold cqWrite
  split
  · exact h
  next x hx =>
  obtain rfl := Option.some.inj (hy.symm.trans hx)
  split
  · exact h
  next e rest ho =>
  split
  · exact h
  extract_lets size phase fl bs at_ irq hp t t'
  split
  · unfold atsAsk
    dsimp only
    split
    · exact h
    · exact h.rings (((wrote_modBm _).trans (wrote_emit _)).rings b)
  split
  · exact hasPosted_cqFail h _
  have ht : HasPosted t b q n := ⟨_, queue?_modQueue hy _, by rw [← hn]; simp [posted, ho]; omega⟩
  have ht' : HasPosted t' b q n := by
    dsimp only [t']
    split
    · exact ht.rings ((wrote_emit _).rings b)
    · exact ht.rings ((wrote_writeVa _ _).rings b)
  split
  · exact ht'.rings ((wrote_oweVector _).rings b)
  · exact ht'

theorem hasPosted_cqFlush {n : Nat} (k : Nat) (h : HasPosted s b q n) : HasPosted (cqFlush k b q s) b q n := by
  induction k generalizing s with
  | zero => exact h
  | succ k ih => exact ih (hasPosted_cqWrite h)

/-- A queue without a free slot in its completion ring writes nothing. -/
theorem cqWrite_full (h : queue? s b q = some y) (hf : cqFree y = false) : cqWrite b q s = s := by
  unfold cqWrite
  rw [h]
  dsimp only
  split
  · rfl
  · rw [if_pos (by simp [hf])]

theorem cqFlush_full (n : Nat) (h : queue? s b q = some y) (hf : cqFree y = false) : cqFlush n b q s = s := by
  induction n with
  | zero => rfl
  | succ n ih => rw [cqFlush, cqWrite_full h hf, ih]

/-- The 16 bytes written of an owed entry. -/
def written (fl : Byte) (e : List Byte) : List Byte := e.take 4 ++ [fl] ++ (e.drop 5).take 11

/-- Where the next completion entry of a queue goes. -/
def cqSlot (y : Queue) : Nat := y.cqAddr + 16 * (y.cqNext % 2 ^ y.log2Cq)

/-- A completion ring in host memory that can be written takes its entry at the host link. -/
theorem cqWrite_host {e : List Byte} (h : queue? s b q = some y) (ho : y.owed = [e]) (hf : cqFree y = true) (hr : y.ringFailed = false)
    (hb : bit y.qflags 1 = true) (hs : hostShut s b = false) (hm : atsMiss s b [(cqSlot y / 4096, cqSlot y)] = none)
    (hd : atsDenied s b 2 [(cqSlot y / 4096, cqSlot y)] = none) :
    ∃ fl, .hostWrite (b + 1) (cqSlot y) (written fl e) (reqT s (b + 1)) (hostXl s b (cqSlot y)) ∈ (cqWrite b q s).out.log := by
  unfold cqSlot at hm hd
  unfold cqWrite
  simp only [h, ho, hf, hr, hb, hs, hm, hd, Bool.not_true, Bool.or_self, Bool.and_false, Bool.false_eq_true, if_false, if_true, Option.isSome_none,
    Bool.false_and]
  have ht : ∀ bs f, .hostWrite (b + 1) (cqSlot y) bs (reqT s (b + 1)) (hostXl s b (cqSlot y)) ∈ (hostPut b (cqSlot y) bs (modQueue b q f s)).out.log := fun bs f => by
    have hst : HostAs s (modQueue b q f s) b := hostAs_modQueue _
    rw [← hst.req, ← hst.xl]
    exact List.mem_cons_self
  refine ⟨BitVec.ofNat 8 ((if y.cqNext / 2 ^ y.log2Cq % 2 = 0 then 1 else 0) + ((e.drop 4).headD 0).toNat), ?_⟩
  split
  · exact (wrote_oweVector _).grows.log.subset (ht _ _)
  · exact ht _ _

/-! ## The entry and what it names (R237) -/

/-- An entry that names the slot, the code and the result. -/
def Names (slot code result : Nat) (e : List Byte) : Prop := fld e 0 2 = slot % 65536 ∧ fld e 2 2 = code % 65536 ∧ fld e 8 4 = result % 2 ^ 32

theorem names_cqEntry : Names (slotOf s x) code result (cqEntry s x code result er) := by
  refine ⟨?_, ?_, ?_⟩
  all_goals simp [cqEntry, fld, natLe, leNat]
  all_goals omega

theorem names_written (fl : Byte) : Names (slotOf s x) code result (written fl (cqEntry s x code result er)) := by
  refine ⟨?_, ?_, ?_⟩
  all_goals simp [cqEntry, written, fld, natLe, leNat]
  all_goals omega

/-! ## DONE -/

/-- What waits for a command does not concern the completions of its queue. -/
theorem queue?_releaseAdmin (h : queue? s x.bay q = some y) : ∃ d, queue? (releaseAdmin x s) x.bay q = some { y with destroyer := d } := by
  unfold releaseAdmin
  split
  · exact ⟨_, (queue?_modEqi _).trans (by rw [tget_tmap]; exact congrArg _ h)⟩
  split
  · exact ⟨_, h⟩
  · exact ⟨_, (queue?_of_rings ((wrote_modSt _).rings _)).trans h⟩

theorem hostAs_releaseAdmin : HostAs s (releaseAdmin x s) b := by
  unfold releaseAdmin
  split
  · exact hostAs_modEqi _ _
  split
  · exact ⟨rfl, rfl, rfl, rfl⟩
  · exact (wrote_modSt _).host b

/-- The state in which a finished command's queue owes its entry and the command has left the table. -/
def endedCmd (x : Cmd) (code result : Nat) (er : Bool) (s : State) : State :=
  progress x.bay (dropCmd x.cid (modQueue x.bay x.queue (fun q => { q with
    owed := q.owed ++ [cqEntry s x code result er]
    cqReserved := if x.committed then q.cqReserved - 1 else q.cqReserved }) (releaseAdmin x s)))

theorem finishTop_eq (x : Cmd) (code result : Nat) (er : Bool) (s : State) : finishTop x code result er s = cqPost x.bay x.queue (endedCmd x code result er s) := rfl

theorem queue?_endedCmd (h : queue? s x.bay x.queue = some y) : ∃ d n, queue? (endedCmd x code result er s) x.bay x.queue =
    some { y with destroyer := d, cqReserved := n, owed := y.owed ++ [cqEntry s x code result er] } := by
  obtain ⟨d, hd⟩ := queue?_releaseAdmin h
  exact ⟨d, _, (queue?_of_rings ((wrote_progress (b := x.bay)).rings _)).trans (queue?_modQueue hd _)⟩

theorem hostAs_endedCmd : HostAs s (endedCmd x code result er s) x.bay :=
  (hostAs_releaseAdmin.trans (hostAs_modQueue _)).trans ((leaves_dropCmd.trans wrote_progress.toLeavesRings).host _)

/-- What the end of a ring command does to its completions: one more, owed where the ring is full, and driven out at once where the ring
is in host memory and may be written. -/
theorem posts_finishTop (h : queue? s x.bay x.queue = some y) :
    let t := finishTop x code result er s
    HasPosted t x.bay x.queue (posted y + 1) ∧
    (cqFree y = false → ∃ z, queue? t x.bay x.queue = some z ∧ z.owed = y.owed ++ [cqEntry s x code result er]) ∧
    (y.owed = [] → cqFree y = true → y.ringFailed = false → bit y.qflags 1 = true → hostShut s x.bay = false →
      atsMiss s x.bay [(cqSlot y / 4096, cqSlot y)] = none → atsDenied s x.bay 2 [(cqSlot y / 4096, cqSlot y)] = none →
      ∃ fl, .hostWrite (x.bay + 1) (cqSlot y) (written fl (cqEntry s x code result er)) (reqT s (x.bay + 1)) (hostXl s x.bay (cqSlot y)) ∈ t.out.log) := by
  obtain ⟨d, n, hq⟩ := queue?_endedCmd (code := code) (result := result) (er := er) h
  have hst : HostAs s (endedCmd x code result er s) x.bay := hostAs_endedCmd
  have hpost : cqPost x.bay x.queue (endedCmd x code result er s) = cqFlush (y.owed.length + 1) x.bay x.queue (endedCmd x code result er s) := by
    simp [cqPost, hq]
  intro t
  rw [show t = _ from finishTop_eq x code result er s, hpost]
  refine ⟨hasPosted_cqFlush _ ⟨_, hq, by simp [posted]; omega⟩, fun hf => ?_, fun ho hf hr hb hs hm hd => ?_⟩
  · rw [cqFlush_full _ hq hf]
    exact ⟨_, hq, rfl⟩
  · rw [ho]
    have := cqWrite_host hq (by rw [ho]; rfl) hf hr hb (by rw [hst.shut, hs]) (by rw [hst.miss]; exact hm) (by rw [hst.denied]; exact hd)
    rw [hst.req, hst.xl] at this
    exact this

/-- A command of a ring that is done has left the table and its queue has one completion more. -/
theorem completesWith_finish (hr : RingsAs (bay s c.bay) (bay u c.bay)) (hw : u.hw = s.hw) (hsec : u.sec = s.sec) (hx : cmd? u c.cid = some x)
    (hp : x.parent = none) (hn : x.batch = none) (hb : x.bay = c.bay) (hq : x.queue = c.queue) (ho : x.pos = c.pos) (hi : x.cid = c.cid) :
    CompletesWith s c code (if opc x = opCollective then x.result else result) (finish c.cid code result er u) := by
  obtain ⟨v, hv⟩ : ∃ v, v = streamLess x (owesHs x u) := ⟨_, rfl⟩
  have hwrote : Wrote u v := hv ▸ (wrote_owesHs x).trans (wrote_streamLess x)
  obtain ⟨r, hres⟩ : ∃ r, r = if opc x = opCollective then x.result else result := ⟨_, rfl⟩
  have hgo : finish c.cid code result er u = finishTop x code r er v := by
    unfold finish
    rw [hx, hv, hres]
    dsimp only
    rw [hn, hp]
  have hrings : RingsAs (bay s c.bay) (bay v c.bay) := hr.trans (hwrote.rings _)
  have hhost : HostAs s v c.bay := HostAs.trans ⟨hsec, hw, hr.atc, hr.ats⟩ (hwrote.host _)
  rw [hgo, ← hres]
  refine ⟨?_, fun y hy => ?_⟩
  · rw [finishTop_eq, cmd?, leaves_cqPost.cmds, ← hi]
    exact tget_tdrop_same _ _
  have hqv : queue? v c.bay c.queue = some y := (queue?_of_rings hrings).trans hy
  have hslot : slotOf v x = slotOf s c := by simp [slotOf, hb, hq, ho, hy, hqv]
  rw [← hb, ← hq] at hqv
  obtain ⟨⟨z, hz, hsum⟩, hfull, hfree⟩ := posts_finishTop (code := code) (result := r) (er := er) hqv
  refine ⟨z, by rw [← hb, ← hq]; exact hz, hsum, fun hf => ?_, fun hown hf hrf hbit hs hm hd => ?_⟩
  · obtain ⟨z', hz', hown⟩ := hfull hf
    obtain rfl := Option.some.inj (hz.symm.trans hz')
    exact ⟨_, hown, hslot ▸ names_cqEntry⟩
  · rw [hb, hhost.shut, hhost.miss, hhost.denied, hhost.req, hhost.xl] at hfree
    obtain ⟨fl, hfl⟩ := hfree hown hf hrf hbit hs hm hd
    exact ⟨_, hslot ▸ names_written fl, hfl⟩

/-- What comes after and leaves the rings does not undo a completion. -/
theorem completesWith_after (h : CompletesWith s c code result t) (hl : LeavesRings t u) (hn : cmd? u c.cid = none) : CompletesWith s c code result u := by
  obtain ⟨-, hq⟩ := h
  refine ⟨hn, fun y hy => ?_⟩
  obtain ⟨r, hr, hsum, hfull, hfree⟩ := hq y hy
  refine ⟨r, (queue?_of_rings (hl.rings _)).trans hr, hsum, hfull, fun ho hf hrf hbit hs hm hd => ?_⟩
  obtain ⟨e, he, hlog⟩ := hfree ho hf hrf hbit hs hm hd
  exact ⟨e, he, hl.grows.log.subset hlog⟩

end Sys2Proof.Proofs
end


section
/-! SUPPORT. The windows of a lift (R103, R118, R130 to R132). -/
namespace Sys2Proof.Proofs
open Sys2Proof.Machine

variable {s t u : State} {c : Cmd} {k : Nat}

theorem BayAside.overrun {y z : Bay} (h : BayAside y z) : z.overrun = y.overrun := by
  unfold BayAside at h
  rw [h]

/-! ## Commands that did not start -/

theorem leaves_unstart (i : PlanItem) : LeavesRings s (unstart i s) := leaves_modCmd _
theorem leaves_unstarts (l : List PlanItem) : LeavesRings s (each l unstart s) := .each (fun i _ => leaves_unstart i) l

/-- A command that is not planned, or gone, stays as it is. -/
theorem cmd?_unstart (h : ∀ c, cmd? s k = some c → c.st ≠ .planned) (i : PlanItem) : cmd? (unstart i s) k = cmd? s k := by
  by_cases hk : k = i.cid
  · subst hk
    unfold unstart
    rw [cmd?_modCmd_same]
    cases hc : cmd? s i.cid with
    | none => rfl
    | some c => rw [Option.map_some, if_neg fun hp => h c hc hp.1]
  · exact cmd?_modCmd_ne hk _ _

theorem cmd?_unstarts (h : ∀ c, cmd? s k = some c → c.st ≠ .planned) (l : List PlanItem) : cmd? (each l unstart s) k = cmd? s k :=
  each_inv (fun t => cmd? t k = cmd? s k) l unstart (fun i _ ht => (cmd?_unstart (by rwa [ht]) i).trans ht) s rfl

theorem grid_unstarts (l : List PlanItem) : (each l unstart s).grid = s.grid :=
  each_inv (fun t => t.grid = s.grid) l unstart (fun _ _ h => (modCmd_grid _ _ _).trans h) s rfl

/-! ## A kill for overrun -/

/-- The counts of an overrun: the block's, the bay's and the command's. -/
def overran (c : Cmd) (s : State) : State :=
  modCmd c.cid (fun c => { c with overruns := c.overruns + 1 }) (modBay c.bay (fun y => { y with overrun := satAdd 0xFFFF y.overrun 1 })
    { s with stat := { s.stat with overrun := satAdd 0xFFFF s.stat.overrun 1 } })

theorem killOverrun_again (h : c.solo = false) : killOverrun c s = killReady c.cid (overran c s) := by
  simp [killOverrun, h, overran]

theorem killOverrun_solo (h : c.solo = true) : ∃ d, killOverrun c s =
    finish c.cid 0x31 0 true (halt c.cid none (cmdError c 0x05 0x31 d 0 none 2 (drewFree (overran c s)))) := by
  refine ⟨(freeVal (overran c s)).toNat % ((overran c s).lift.budget + 1), ?_⟩
  simp only [killOverrun, h, if_true]
  rfl

theorem leaves_killOverrun (c : Cmd) (s : State) : Leaves (overran c s) (killOverrun c s) := by
  cases h : c.solo with
  | false => rw [killOverrun_again h]; exact leaves_killReady.toLeaves
  | true =>
    obtain ⟨d, hd⟩ := killOverrun_solo (s := s) h
    rw [hd]
    exact (((wrote_drewFree.trans (wrote_cmdError _ _ _ _ _ _ _)).toLeavesRings.trans (leaves_halt _)).toLeaves).trans (leaves_finish _ _ _)

theorem overran_stat (c : Cmd) (s : State) : (overran c s).stat = { s.stat with overrun := satAdd 0xFFFF s.stat.overrun 1 } := modCmd_stat _ _ _
theorem overran_lift (c : Cmd) (s : State) : (overran c s).lift = s.lift := modCmd_lift _ _ _

theorem overran_overrun (c : Cmd) (s : State) : (bay (overran c s) c.bay).overrun = min 0xFFFF ((bay s c.bay).overrun + 1) := by
  have : (overran c s).bays = _ := modCmd_bays _ _ _
  rw [bay, this, ← bay, bay_modBay, if_pos rfl]
  rfl

theorem cmd?_overran (h : cmd? s c.cid = some c) : cmd? (overran c s) c.cid = some { c with overruns := c.overruns + 1 } := by
  rw [overran, cmd?_modCmd_same]
  exact congrArg _ h

theorem rings_overran (c : Cmd) (s : State) (b : Nat) : RingsAs (bay s b) (bay (overran c s) b) := by
  have : (overran c s).bays = _ := modCmd_bays _ _ _
  rw [bay, bay, this, ← bay, ← bay, bay_modBay]
  split
  · next h => rw [h]; exact ⟨rfl, rfl, rfl⟩
  · exact .refl _

theorem cmd?_halt (keepAsh : Option Nat) (s : State) (k : Nat) : cmd? (halt k keepAsh s) k = (cmd? s k).map stoppedCmd := by
  rw [cmd?, (halt_spec keepAsh).2, ← cmd?, cmd?_modCmd_same]

/-- A command that overruns with others placed beside it waits READY, with one overrun more. -/
theorem cmd?_killOverrun_again (h : cmd? s c.cid = some c) (hs : c.solo = false) :
    ∃ d, cmd? (killOverrun c s) c.cid = some d ∧ d.st = .ready ∧ d.overruns = c.overruns + 1 := by
  rw [killOverrun_again hs, killReady, toReady, cmd?_modCmd_same, cmd?_halt, cmd?_overran h]
  exact ⟨_, rfl, rfl, rfl⟩

/-- One placed alone completes BOUND_EXCEEDED. -/
theorem completes_killOverrun (h : cmd? s c.cid = some c) (hs : c.solo = true) (hp : c.parent = none) (hn : c.batch = none) :
    CompletesWith s c 0x31 (if opc c = opCollective then c.result else 0) (killOverrun c s) := by
  obtain ⟨d, hd⟩ := killOverrun_solo (s := s) hs
  rw [hd]
  obtain ⟨v, hv⟩ : ∃ v, v = cmdError c 0x05 0x31 d 0 none 2 (drewFree (overran c s)) := ⟨_, rfl⟩
  have hw : Wrote (overran c s) v := hv ▸ wrote_drewFree.trans (wrote_cmdError _ _ _ _ _ _ _)
  have hl : LeavesRings (overran c s) (halt c.cid none v) := hw.toLeavesRings.trans (leaves_halt none)
  have hx : cmd? (halt c.cid none v) c.cid = some (stoppedCmd { c with overruns := c.overruns + 1 }) := by
    rw [cmd?_halt, cmd?, hw.cmds, ← cmd?, cmd?_overran h]
    rfl
  rw [← hv]
  have hhost := hl.host c.bay
  exact completesWith_finish (x := stoppedCmd { c with overruns := c.overruns + 1 }) ((rings_overran c s _).trans (hl.rings _)) (hhost.hw.trans (modCmd_hw _ _ _)) (hhost.sec.trans (modCmd_sec _ _ _)) hx hp hn
    rfl rfl rfl rfl

/-! ## The closing window -/

/-- The window closes: what overran is stopped, and what has not started leaves the plan. -/
def closed (t : State) : State := { t with lift := { t.lift with window := .closing } }

theorem closeWindow_eq (s : State) :
    closeWindow s = closed (each s.lift.plan unstart (each ((s.cmds.all.map Prod.snd).filter (overruns s)) killOverrun s)) := rfl

theorem answers_closeWindow {P : State → Prop} (hp : s.start.powered = true) (hs : s.lift.serving = true) (hw : s.lift.window = .run)
    (h : P (keep fpWork s (closeWindow s))) : Answers .closingWindowOpen s P :=
  answers_run (f := closeWindow) (by
    show run fpWork (onlyIf _ closeWindow) s = _
    rw [run_powered hp, run_powered hp, onlyIf_true (by rw [hs, hw]; rfl)]) hp h

/-- One overrun is counted once, by the block and by its bay. -/
theorem counts_closeWindow (h : (s.cmds.all.map Prod.snd).filter (overruns s) = [c]) :
    (closeWindow s).stat.overrun = min 0xFFFF (s.stat.overrun + 1) ∧ (bay (closeWindow s) c.bay).overrun = min 0xFFFF ((bay s c.bay).overrun + 1) := by
  have hl : Leaves (overran c s) (each s.lift.plan unstart (killOverrun c s)) := (leaves_killOverrun c s).trans (leaves_unstarts _).toLeaves
  rw [closeWindow_eq, h]
  refine ⟨?_, ?_⟩
  · have hs := congrArg State.stat hl.only
    exact (congrArg Stat.overrun hs).symm.trans (congrArg Stat.overrun (overran_stat c s))
  · exact (hl.bays c.bay).overrun.trans (overran_overrun c s)

/-- Settles O20: the windows, and what an overrun of one command does. -/
theorem windowsOfALift : Obligations.WindowsOfALift := by
  intro s hpow hserv
  refine ⟨fun hw => ?_, fun hw => answers_closeWindow hpow hserv hw ?_, fun hw hno => answers_closeWindow hpow hserv hw ?_,
    fun c hw hc hone hsolo => answers_closeWindow hpow hserv hw ?_, fun c hw hc hone hsolo hp hn => answers_closeWindow hpow hserv hw ?_⟩
  · show run [.lift] (onlyIf _ _) s = _
    rw [run_powered hpow, onlyIf_true (by rw [hserv, hw]; rfl)]
    rfl
  · rw [closeWindow_eq]
    have hkill : (each ((s.cmds.all.map Prod.snd).filter (overruns s)) killOverrun s).lift.num = s.lift.num :=
      each_inv (fun t => t.lift.num = s.lift.num) _ killOverrun (fun c t ht => by rw [(leaves_killOverrun c t).lift, overran_lift]; exact ht) s rfl
    exact ⟨rfl, (congrArg Lift.num (leaves_unstarts _).lift).trans hkill⟩
  · rw [closeWindow_eq, hno]
    exact ⟨(congrArg State.stat (leaves_unstarts s.lift.plan).only).symm, grid_unstarts _⟩
  · obtain ⟨d, hd, hst, hn⟩ := cmd?_killOverrun_again hc.2.1 hsolo
    have hk : cmd? (each s.lift.plan unstart (killOverrun c s)) c.cid = some d :=
      (cmd?_unstarts (fun e he => by rw [hd] at he; cases he; rw [hst]; decide) _).trans hd
    have hfin : cmdD (keep fpWork s (closeWindow s)) c.cid = d := by
      rw [closeWindow_eq, hone]
      exact cmdD_of_cmd? hk
    rw [hfin]
    exact ⟨hst, hn, (counts_closeWindow hone).1, (counts_closeWindow hone).2⟩
  · have hdone := completes_killOverrun hc.2.1 hsolo hp hn
    have hgone : cmd? (each s.lift.plan unstart (killOverrun c s)) c.cid = none :=
      (cmd?_unstarts (fun e he => by rw [hdone.1] at he; cases he) _).trans hdone.1
    have hfin := completesWith_after hdone (leaves_unstarts s.lift.plan) hgone
    obtain ⟨hstat, hbay⟩ := counts_closeWindow hone
    refine ⟨?_, hstat, hbay⟩
    rw [closeWindow_eq, hone]
    exact hfin

end Sys2Proof.Proofs
end

section
/-! SUPPORT. The adaptive loops (R213, R214, R568): what refreshing them can change. -/
namespace Sys2Proof.Proofs
open Sys2Proof.Machine

variable {s t u : State} {b : Nat}

/-- What the adaptive loops reach: the limits, the rate of a pass, and the conflicts raised and cleared. -/
structure Loops (s t : State) : Prop where
  only : ChangesOnly [.pwr, .dev, .irq, .mem, .bays, .ras] s t
  pwr : t.pwr = { s.pwr with allow := t.pwr.allow, limit := t.pwr.limit, floorConflict := t.pwr.floorConflict, capConflict := t.pwr.capConflict }
  ras : t.ras = { s.ras with rate := t.ras.rate, conflict := t.ras.conflict }
  grows : Grows s t

theorem Loops.trans (h : Loops s t) (g : Loops t u) : Loops s u :=
  ⟨changesOnly_trans h.only g.only, by rw [g.pwr, h.pwr], by rw [g.ras, h.ras], h.grows.trans g.grows⟩

theorem Loops.refl : Loops s s := ⟨changesOnly_refl _ s, rfl, rfl, .refl⟩

theorem Loops.each {α : Type} {f : α → State → State} (hf : ∀ x t, Loops t (f x t)) (l : List α) : Loops s (each l f s) :=
  each_inv (Loops s) l f (fun x t h => h.trans (hf x t)) s .refl

/-- A conflict raised or cleared touches neither the limits nor the pass. -/
structure Told (s t : State) : Prop extends Loops s t where
  pwr' : t.pwr = s.pwr
  ras' : t.ras = s.ras

theorem Told.trans (h : Told s t) (g : Told t u) : Told s u := ⟨h.toLoops.trans g.toLoops, g.pwr'.trans h.pwr', g.ras'.trans h.ras'⟩
theorem Told.refl : Told s s := ⟨.refl, rfl, rfl⟩

theorem told_raise (n : Nat) : Told s (raise n s) :=
  ⟨⟨by rw [raise_changes]; rfl, by rw [raise_changes], by rw [raise_changes], grows_raise n⟩, by rw [raise_changes], by rw [raise_changes]⟩

theorem told_mgrEvent (code h w x : Nat) : Told s (mgrEvent code h w x s) := by
  unfold mgrEvent
  exact Told.trans (by exact ⟨⟨rfl, rfl, rfl, grows_of⟩, rfl, rfl⟩) (told_raise 12)

theorem told_bayEvent (code h w x : Nat) : Told s (bayEvent b code h w x s) := by
  unfold bayEvent
  exact Told.trans (by exact ⟨⟨rfl, rfl, rfl, grows_of⟩, rfl, rfl⟩) (told_raise (srcBayEvent b))

theorem told_partyEvent (byMgr : Bool) (code h w x : Nat) : Told s (partyEvent b byMgr code h w x s) := by
  cases byMgr with
  | false => exact told_bayEvent _ _ _ _
  | true => exact told_mgrEvent _ _ _ _

theorem told_conflict (end_ : Bool) (code loop limit : Nat) (byMgr : Bool) (handle detail : Nat) :
    Told s (conflict end_ code loop limit b byMgr handle detail s) := by
  have hm : Told s (if end_ then s else { s with mem := { s.mem with conflRaised := satAdd 0xFFFF s.mem.conflRaised 1 } }) := by
    split
    · exact .refl
    · exact ⟨⟨rfl, rfl, rfl, grows_of⟩, rfl, rfl⟩
  exact hm.trans (told_partyEvent _ _ _ _ _)

theorem told_pinConflicts : Told s (pinConflicts b s) := by
  refine each_inv (Told s) _ _ (fun p t h => h.trans ?_) s .refl
  dsimp only
  split
  · exact .refl
  · exact Told.trans (by exact ⟨⟨rfl, rfl, rfl, grows_of⟩, rfl, rfl⟩) (told_conflict _ _ _ _ _ _ _)

/-- The limits as they stand now: the clock allowed, and what sets it. -/
theorem refreshLimits_spec (s : State) : Loops s (refreshLimits s) ∧ (refreshLimits s).pwr.allow = (allowed s).1 ∧
    (refreshLimits s).pwr.limit = (allowed s).2 ∧ (refreshLimits s).ras = s.ras := by
  have hfloor : ∀ s, Loops s (floorConflict s) ∧ (floorConflict s).pwr.allow = s.pwr.allow ∧ (floorConflict s).pwr.limit = s.pwr.limit ∧
      (floorConflict s).ras = s.ras := fun s => by
    unfold floorConflict
    extract_lets p now
    split
    · exact ⟨.refl, rfl, rfl, rfl⟩
    · obtain ⟨hl, hp, hr⟩ := told_conflict (s := { s with pwr := { p with floorConflict := now } }) (b := 0) (!now) 0x111 1 p.limit true p.floorHandle
        (min (max 800 s.lift.clk) p.allow)
      exact ⟨Loops.trans (by exact ⟨rfl, rfl, rfl, grows_of⟩) hl, by rw [hp], by rw [hp], by rw [hr]⟩
  have hcap : ∀ s, Loops s (capConflict s) ∧ (capConflict s).pwr.allow = s.pwr.allow ∧ (capConflict s).pwr.limit = s.pwr.limit ∧
      (capConflict s).ras = s.ras := fun s => by
    unfold capConflict
    extract_lets p high low
    split
    · exact ⟨.refl, rfl, rfl, rfl⟩
    · obtain ⟨hl, hp, hr⟩ := told_conflict (s := { s with pwr := { p with capConflict := high || low } }) (b := 0) (!(high || low)) 0x112 2
        (if high then 2 else 3) true p.capHandle (capInForce s)
      exact ⟨Loops.trans (by exact ⟨rfl, rfl, rfl, grows_of⟩) hl, by rw [hp], by rw [hp], by rw [hr]⟩
  unfold refreshLimits
  extract_lets a
  obtain ⟨fl, fa, fm, fr⟩ := hfloor { s with pwr := { s.pwr with allow := a.1, limit := a.2 } }
  obtain ⟨cl, ca, cm, cr⟩ := hcap (floorConflict { s with pwr := { s.pwr with allow := a.1, limit := a.2 } })
  exact ⟨(Loops.trans (by exact ⟨rfl, rfl, rfl, grows_of⟩) fl).trans cl, ca.trans fa, cm.trans fm, cr.trans fr⟩

/-- The rate of the pass in progress. -/
theorem refreshScrub_spec (s : State) : Loops s (refreshScrub s) ∧ (refreshScrub s).pwr = s.pwr ∧
    (refreshScrub s).ras.rate = if s.ras.pass.isSome then rateInForce s else 0 := by
  unfold refreshScrub
  extract_lets on r t now
  have ht : Loops s t := ⟨rfl, rfl, rfl, grows_of⟩
  split
  · exact ⟨ht, rfl, rfl⟩
  · obtain ⟨hl, hp, hr⟩ := told_conflict (s := { t with ras := { t.ras with conflict := now } }) (b := 0) (!now) 0x113 3 3 true t.ras.reqHandle t.ras.rate
    exact ⟨(ht.trans (by exact ⟨rfl, rfl, rfl, grows_of⟩)).trans hl, hp, by rw [hr]⟩

theorem told_pins (l : List Nat) : Told s (each l pinConflicts s) := each_inv (Told s) l pinConflicts (fun _ _ h => h.trans told_pinConflicts) s .refl

theorem refreshLoops_spec (s : State) : Loops s (refreshLoops s) ∧ (refreshLoops s).pwr.allow = (allowed s).1 ∧ (refreshLoops s).pwr.limit = (allowed s).2 := by
  obtain ⟨hl, ha, hm, -⟩ := refreshLimits_spec s
  obtain ⟨gl, gp, -⟩ := refreshScrub_spec (refreshLimits s)
  have hp := told_pins (s := refreshScrub (refreshLimits s)) (List.range (refreshScrub (refreshLimits s)).bays.count)
  exact ⟨(hl.trans gl).trans hp.toLoops, (congrArg Pwr.allow (hp.pwr'.trans gp)).trans ha, (congrArg Pwr.limit (hp.pwr'.trans gp)).trans hm⟩

end Sys2Proof.Proofs
end

section
/-! SUPPORT. What leaves the lift alone: its number, window, period, clock, budget and sealed plan, with a plan that only loses items, and
the clock request (R102 to R106). -/
namespace Sys2Proof.Proofs
open Sys2Proof.Machine

variable {s t u : State} {b c q : Nat}

/-- The lift runs on as it was but for its plan and the turns of its queues; the power side is as before. -/
structure Lifted (s t : State) : Prop where
  lift : t.lift = { s.lift with plan := t.lift.plan, rr := t.lift.rr }
  plan : ∀ i ∈ t.lift.plan, i ∈ s.lift.plan
  pwr : t.pwr = s.pwr
  ident : t.ident = s.ident

theorem lifted_of (hl : t.lift = s.lift := by rfl) (hp : t.pwr = s.pwr := by rfl) (hi : t.ident = s.ident := by rfl) : Lifted s t :=
  ⟨by rw [hl], by rw [hl]; exact fun _ h => h, hp, hi⟩

theorem Lifted.refl : Lifted s s := lifted_of
theorem Lifted.trans (h : Lifted s t) (g : Lifted t u) : Lifted s u :=
  ⟨by rw [g.lift, h.lift], fun i hi => h.plan i (g.plan i hi), g.pwr.trans h.pwr, g.ident.trans h.ident⟩
theorem Lifted.each {α : Type} {f : α → State → State} (hf : ∀ x t, Lifted t (f x t)) (l : List α) : Lifted s (each l f s) :=
  each_inv (Lifted s) l f (fun x t h => h.trans (hf x t)) s .refl
theorem Lifted.foldl {α : Type} {f : State → α → State} (hf : ∀ t x, Lifted t (f t x)) (l : List α) : Lifted s (l.foldl f s) :=
  foldl_inv (Lifted s) l f (fun t x h => h.trans (hf t x)) s .refl

theorem Lifted.foldlFst {α β : Type} {f : State × β → α → State × β} (hf : ∀ p x, Lifted p.1 (f p x).1) (l : List α) (p : State × β) :
    Lifted p.1 (l.foldl f p).1 := by
  induction l generalizing p with
  | nil => exact .refl
  | cons x l ih => exact (hf p x).trans (ih _)

theorem Leaves.lifted (h : Leaves s t) : Lifted s t where
  lift := by rw [h.lift]
  plan := h.plan
  pwr := (congrArg State.pwr h.only).symm
  ident := (congrArg State.ident h.only).symm

theorem lifted_of_fabric (h : FabricOnly s t) : Lifted s t := by rw [h]; exact lifted_of

theorem lifted_raise (n : Nat) : Lifted s (raise n s) := (wrote_raise n).toLeaves.lifted
theorem lifted_modSt (f : BayStream → BayStream) : Lifted s (modSt b f s) := lifted_of
theorem lifted_modStream (k : Nat) (f : Stream → Stream) : Lifted s (modStream b k f s) := lifted_modSt _
theorem lifted_modCmd (f : Cmd → Cmd) : Lifted s (modCmd c f s) := (leaves_modCmd f).toLeaves.lifted
theorem lifted_modAsh (a : Nat) (f : Ashlar → Ashlar) : Lifted s (modAsh a f s) := lifted_of
theorem lifted_finish (code result : Nat) (er : Bool) : Lifted s (finish c code result er s) := (leaves_finish _ _ _).lifted
theorem lifted_bayEvent (code h w x : Nat) : Lifted s (bayEvent b code h w x s) := by rw [bayEvent_changes]; exact lifted_of

/-! ## Requests that wait for a tag (R422, R427) -/

theorem lifted_sendReq (x : Txn) : Lifted s (sendReq x s) := lifted_of_fabric (sendReq_fabric s x)

theorem lifted_pumpAgain : Lifted s (pumpAgain s) := by
  unfold pumpAgain
  refine Lifted.trans (t := { s with kw := { s.kw with again := [] } }) lifted_of (.foldl (fun t x => ?_) _)
  split
  · exact .refl
  split
  · exact lifted_of
  · exact lifted_sendReq _

theorem lifted_pumpEffects : Lifted s (pumpEffects c s) := by
  unfold pumpEffects
  split
  · exact .refl
  split
  · exact .refl
  refine Lifted.trans ?_ (lifted_modCmd _)
  refine Lifted.foldlFst (fun p x => ?_) _ (s, [])
  split
  · exact .refl
  · exact lifted_sendReq _

theorem lifted_pumpOne (a tag : Nat) : Lifted s (pumpOne c a tag s) := by
  unfold pumpOne
  split
  · exact .refl
  split
  · exact .refl
  dsimp only
  split
  · split
    · exact .refl
    · exact (lifted_modAsh _ _).trans (lifted_sendReq _)
  · exact .refl
  · exact lifted_modAsh _ _

theorem lifted_pumpDma (a tag : Nat) : Lifted s (pumpDma c a tag s) := by
  unfold pumpDma
  split
  · exact .refl
  · exact .foldl (fun _ _ => lifted_pumpOne _ _) _

theorem lifted_pumpBay : Lifted s (pumpBay b s) := by
  unfold pumpBay
  extract_lets t u
  have ht : Lifted s t := lifted_pumpAgain.trans (.each (fun _ _ => lifted_pumpEffects) _)
  have hu : Lifted s u := ht.trans (lifted_of_fabric (pumpOwn_fabric _ _))
  exact hu.trans (.each (fun e _ => .each (fun _ _ => lifted_pumpDma _ _) _) _)

/-! ## What the boundary looks after -/

theorem lifted_unstart (i : PlanItem) : Lifted s (unstart i s) := lifted_modCmd _

theorem lifted_carryAnchored : Lifted s (carryAnchored s) := by
  refine .each (fun x t => ?_) _
  dsimp only
  split
  · exact .refl
  · split
    · exact (lifted_modCmd _).trans lifted_of
    · exact lifted_modCmd _

theorem lifted_colMsg (kind dst gid seq low : Nat) (data : List Byte) : Lifted s (colMsg kind dst gid seq low data s) := lifted_of_fabric (kwSend_fabric _ _ _)

theorem lifted_flushOwed : Lifted s (flushOwed s) := by
  refine .foldl (fun t e => ?_) _
  split
  · exact .refl
  refine Lifted.trans (t := modGroup e.1 (fun g => { g with owedHs := [] }) t) lifted_of (.each (fun seq u => ?_) _)
  unfold sendOwedHs
  split
  · exact .each (fun _ _ => lifted_colMsg _ _ _ _ _ _) _
  · exact lifted_colMsg _ _ _ _ _ _

theorem lifted_sweepBounds (p : Nat) : Lifted s (sweepBounds p s) := by
  refine .each (fun x t => ?_) _
  split
  · exact (lifted_finish _ _ _).trans lifted_flushOwed
  · exact .refl

theorem lifted_compact : Lifted s (compact b s) := by
  refine .foldl (fun t r => ?_) _
  split
  · split
    · exact lifted_of
    · exact .refl
  · exact .refl

theorem lifted_compactWanted : Lifted s (compactWanted s) := by
  refine .each (fun b t => ?_) _
  unfold onlyIf
  split
  · exact lifted_compact.trans (lifted_modSt _)
  · exact .refl

theorem lifted_countUnbound : Lifted s (countUnbound s) := .each (fun _ _ => lifted_of) _

theorem lifted_evalDeadlines : Lifted s (evalDeadlines s) := by
  have hmiss : ∀ b k x (t : State), Lifted t (missStream b k x t) := fun b k x t => by
    unfold missStream
    split
    · exact lifted_modStream _ _
    extract_lets u
    split
    · exact lifted_modStream _ _
    · exact (lifted_modStream _ _).trans (lifted_bayEvent _ _ _ _)
  refine .each (fun b t => .each (fun k u => ?_) _) _
  unfold evalStream
  extract_lets x low need proj v
  split
  · exact lifted_modStream _ _
  split
  · exact Lifted.trans (t := v) lifted_of (hmiss _ _ _ _)
  · exact Lifted.trans (t := v) lifted_of (lifted_modStream _ _)

theorem lifted_plumbRec (p : PlumbRec) : Lifted s (plumbRec p s) := (leaves_plumbRec p).toLeaves.lifted

theorem lifted_detectHangs : Lifted s (detectHangs s) := by
  have hdecl : ∀ b t, Lifted t (declareHang b t) := fun b t => by
    unfold declareHang
    extract_lets n qs t1 t2 t3
    have h2 : Lifted t t2 := Lifted.trans (t := t1) lifted_of (.each (fun e u => by split; exacts [(wrote_cmdError _ _ _ _ _ _ _).toLeaves.lifted, .refl]) _)
    have h3 : Lifted t t3 := h2.trans (lifted_plumbRec _)
    exact (h3.trans (by exact lifted_of)).trans (lifted_raise _)
  unfold detectHangs
  extract_lets bs t hung all n u v
  have ht : Lifted s t := .each (fun _ _ => lifted_of) _
  have hu : Lifted s u := ht.trans (.each hdecl _)
  split
  · exact (hu.trans (lifted_plumbRec _ : Lifted u v)).trans (by exact lifted_of)
  · exact hu

/-! ## The boundary (R106) -/

/-- What the DVFS step does not reach. -/
theorem dvfsStep_lift (s : State) : (dvfsStep s).lift = s.lift ∧ (dvfsStep s).ident = s.ident := by
  have hl := (refreshLoops_spec s).1.only
  have hlift : (refreshLoops s).lift = s.lift := (congrArg State.lift hl).symm
  have hident : (refreshLoops s).ident = s.ident := (congrArg State.ident hl).symm
  unfold dvfsStep
  extract_lets t clk want u
  split
  · exact ⟨hlift, hident⟩
  · exact ⟨hlift, hident⟩

/-- Period and clock of the lift that begins. -/
def newPeriod (s : State) : Nat := if s.lift.pending then s.lift.next else s.lift.period
def newClock (s : State) : Nat := if s.pwr.req ≠ 0 ∧ s.pwr.ack = true then s.pwr.req else s.lift.clk

theorem applyPeriod_spec (s : State) : Lifted { s with lift := { s.lift with period := newPeriod s, pending := false } } (applyPeriod s) := by
  unfold applyPeriod newPeriod
  split
  · dsimp only
    split
    · exact lifted_sweepBounds _
    · exact .refl
  · next h =>
    have hf : s.lift.pending = false := by simpa using h
    exact lifted_of (by rw [← hf])

/-- The strobe reaches the clock of the lift and the voltage. -/
theorem applyClock_spec (s : State) : (applyClock s).1.lift = { s.lift with clk := newClock s } ∧ (applyClock s).1.ident = s.ident := by
  unfold applyClock newClock
  dsimp only
  by_cases h : s.pwr.req = s.lift.clk ∨ s.pwr.req = 0
  · rw [if_pos h]
    refine ⟨?_, rfl⟩
    rcases h with h | h
    · rw [h, ite_self]
    · rw [if_neg (fun hr => hr.1 h)]
  rw [if_neg h]
  rw [not_or] at h
  by_cases ha : s.pwr.ack = true
  · rw [if_neg (by simp [ha]), if_pos (show s.pwr.req ≠ 0 ∧ s.pwr.ack = true from ⟨h.2, ha⟩)]
    by_cases hlt : s.pwr.req < s.lift.clk
    · rw [if_pos hlt]
      exact ⟨rfl, rfl⟩
    · rw [if_neg hlt]
      exact ⟨rfl, rfl⟩
  · rw [if_pos (by simpa using ha), if_neg (fun hr => ha hr.2)]
    exact ⟨rfl, rfl⟩

/-- The released plan holds what fits the budget, and no plan is sealed any more. -/
theorem releasePlan_spec (start : Bool) (s : State) : (releasePlan start s).lift = { s.lift with plan := (releasePlan start s).lift.plan, sealed := none, rr := (releasePlan start s).lift.rr } ∧
    (∀ i ∈ (releasePlan start s).lift.plan, i.offset + i.charge ≤ s.lift.budget) ∧ (releasePlan start s).ident = s.ident := by
  unfold releasePlan
  extract_lets l ok
  have h : Lifted { s with lift := { s.lift with plan := ok, sealed := none } } _ := Lifted.each (fun i _ => lifted_unstart i) (l.filter fun i => !ok.contains i)
  refine ⟨h.lift, fun i hi => ?_, h.ident⟩
  have := (List.mem_filter.1 (h.plan i hi)).2
  simp only [Bool.and_eq_true, decide_eq_true_eq] at this
  exact this.2

/-- The seal point reaches of the lift its sealed plan alone. -/
theorem sealDeadline_lift (s : State) : (sealDeadline s).lift = { s.lift with sealed := (sealDeadline s).lift.sealed } ∧ (sealDeadline s).ident = s.ident := by
  unfold sealDeadline
  extract_lets t u
  have ht : t.lift = s.lift ∧ t.ident = s.ident := by dsimp only [t]; rw [raise_changes]; exact ⟨rfl, rfl⟩
  split
  · rw [ht.1]
    exact ⟨rfl, ht.2⟩
  · rw [mgrEvent_changes]
    refine ⟨?_, ht.2⟩
    show { t.lift with sealed := some [] } = _
    rw [ht.1]

/-- The parts of the boundary: the old plan over, period and clock of the new lift, its number, window and budget, its plan. -/
def beforeClock (s : State) : State := applyPeriod (carryAnchored (each s.lift.plan unstart s))
def lateAt (s : State) : Bool := s.lift.sealed.isNone
def newLift (s : State) : State := { s with lift := { s.lift with
  num := (s.lift.num + 1) % 2 ^ 64, window := .opening, throttled := false, clkFixed := s.lift.clk, budget := budgetAt s.lift.period s.lift.clk } }
def afterPlan (s : State) : State := dvfsStep (detectHangs (evalDeadlines (countUnbound (each (List.range s.bays.count) pumpBay s))))

theorem nextLift_eq (s : State) : nextLift s =
    let c := applyClock (beforeClock s)
    let n := newLift c.1
    let t := if lateAt s && !n.rst.shored then sealDeadline n else n
    raise srcLiftBoundary (afterPlan (releasePlan (c.2 && !(compactWanted t).rst.shored) (compactWanted t))) := rfl

/-- The lift stands, and the seal point has passed where its plan was late. -/
theorem nextLift_cases (s : State) : ∃ t start, nextLift s = raise srcLiftBoundary (afterPlan (releasePlan start (compactWanted t))) ∧
    (t = sealDeadline (newLift (applyClock (beforeClock s)).1) ∨ t = newLift (applyClock (beforeClock s)).1) := by
  rw [nextLift_eq]
  generalize applyClock (beforeClock s) = c
  dsimp only
  split
  · exact ⟨_, _, rfl, .inl rfl⟩
  · exact ⟨_, _, rfl, .inr rfl⟩

theorem afterPlan_spec (s : State) : (∀ i ∈ (afterPlan s).lift.plan, i ∈ s.lift.plan) ∧
    (afterPlan s).lift = { s.lift with plan := (afterPlan s).lift.plan, rr := (afterPlan s).lift.rr } ∧ (afterPlan s).ident = s.ident := by
  unfold afterPlan
  obtain ⟨hl, hi⟩ := dvfsStep_lift (detectHangs (evalDeadlines (countUnbound (each (List.range s.bays.count) pumpBay s))))
  have h : Lifted s (detectHangs (evalDeadlines (countUnbound (each (List.range s.bays.count) pumpBay s)))) :=
    (((Lifted.each (fun _ _ => lifted_pumpBay) _).trans lifted_countUnbound).trans lifted_evalDeadlines).trans lifted_detectHangs
  rw [hl, hi]
  exact ⟨h.plan, h.lift, h.ident⟩

/-- The lift that begins, before its plan: period, clock, number, window and budget. -/
theorem newLift_spec (s : State) : let n := newLift (applyClock (beforeClock s)).1
    n.lift = { s.lift with period := newPeriod s, pending := false, clk := newClock s, num := (s.lift.num + 1) % 2 ^ 64, window := .opening,
                           throttled := false, clkFixed := newClock s, budget := budgetAt (newPeriod s) (newClock s), plan := n.lift.plan, rr := n.lift.rr } ∧
    n.ident = s.ident := by
  have h1 : Lifted s (carryAnchored (each s.lift.plan unstart s)) := (Lifted.each (fun i _ => lifted_unstart i) _).trans lifted_carryAnchored
  have h2 := applyPeriod_spec (carryAnchored (each s.lift.plan unstart s))
  obtain ⟨h3, h4⟩ := applyClock_spec (beforeClock s)
  have hp : newPeriod (carryAnchored (each s.lift.plan unstart s)) = newPeriod s := by rw [newPeriod, newPeriod, h1.lift]
  have hb : (beforeClock s).lift = { s.lift with period := newPeriod s, pending := false, plan := (beforeClock s).lift.plan, rr := (beforeClock s).lift.rr } := by
    refine h2.lift.trans ?_
    rw [hp, h1.lift]
    rfl
  have hpwr : (beforeClock s).pwr = s.pwr := h2.pwr.trans h1.pwr
  have hc : newClock (beforeClock s) = newClock s := by rw [newClock, newClock, hpwr, hb]
  rw [hc, hb] at h3
  refine ⟨?_, h4.trans (h2.ident.trans h1.ident)⟩
  unfold newLift
  rw [h3]

/-- What follows once the lift stands: the plan released, and what the boundary looks after. -/
theorem released_spec (start : Bool) (t : State) : let u := afterPlan (releasePlan start (compactWanted t))
    u.lift = { t.lift with plan := u.lift.plan, sealed := none, rr := u.lift.rr } ∧ (∀ i ∈ u.lift.plan, i.offset + i.charge ≤ t.lift.budget) ∧
    u.ident = t.ident := by
  have hw : Lifted t (compactWanted t) := lifted_compactWanted
  obtain ⟨hr, hfit, hri⟩ := releasePlan_spec start (compactWanted t)
  obtain ⟨hsub, hu, hui⟩ := afterPlan_spec (releasePlan start (compactWanted t))
  have hb : (compactWanted t).lift.budget = t.lift.budget := by rw [hw.lift]
  exact ⟨by rw [hu, hr, hw.lift], fun i hi => hb ▸ hfit i (hsub i hi), hui.trans (hri.trans hw.ident)⟩

/-- The boundary ends with its interrupt, on the lift that begins. -/
theorem nextLift_spec (s : State) : ∃ u, nextLift s = raise srcLiftBoundary u ∧
    u.lift = { s.lift with period := newPeriod s, pending := false, clk := newClock s, num := (s.lift.num + 1) % 2 ^ 64, window := .opening,
                           throttled := false, clkFixed := newClock s, budget := budgetAt (newPeriod s) (newClock s),
                           plan := u.lift.plan, sealed := none, rr := u.lift.rr } ∧
    (∀ i ∈ u.lift.plan, i.offset + i.charge ≤ budgetAt (newPeriod s) (newClock s)) ∧ u.ident = s.ident := by
  obtain ⟨hn, hni⟩ := newLift_spec s
  obtain ⟨t, start, hgo, hcase⟩ := nextLift_cases s
  generalize newLift (applyClock (beforeClock s)).1 = n at hn hni hcase
  have ht : t.lift = { n.lift with sealed := t.lift.sealed } ∧ t.ident = n.ident := by
    rcases hcase with rfl | rfl
    · exact sealDeadline_lift n
    · exact ⟨rfl, rfl⟩
  obtain ⟨hl, hfit, hi⟩ := released_spec start t
  have hb : t.lift.budget = budgetAt (newPeriod s) (newClock s) := by rw [ht.1, hn]
  refine ⟨_, hgo, ?_, fun i hp => hb ▸ hfit i hp, hi.trans (ht.2.trans hni)⟩
  rw [hl, ht.1, hn]

/-- Settles O19: the lift that begins. -/
theorem liftBoundary : Obligations.LiftBoundary := by
  intro s hpow hserv
  refine ⟨_, (show exec .liftBoundary s = run _ (onlyIf _ nextLift) s from rfl).trans (run_powered hpow), ?_⟩
  obtain ⟨u, hu, hl, hfit, hi⟩ := nextLift_spec s
  have hr : (raise srcLiftBoundary u).lift = u.lift ∧ (raise srcLiftBoundary u).ident = s.ident := by rw [raise_changes]; exact ⟨rfl, hi⟩
  have hpend : srcLiftBoundary ∈ (raise srcLiftBoundary u).irq.pend := by
    rw [raise_pend, if_neg (by simp [srcReserved, srcLiftBoundary])]
    exact (mem_sput _ _ _).2 (.inl rfl)
  have hb : budgetAt (newPeriod s) (newClock s) = newPeriod s * newClock s - 12000 := rfl
  obtain ⟨v, hv⟩ : ∃ v, v = keep (.pwr :: .plumb :: fpWork) s (raise srcLiftBoundary u) := ⟨_, rfl⟩
  have hvl : v.lift = u.lift := by rw [hv, keep_lift, if_pos (by decide), hr.1]
  have hvi : v.ident = s.ident := by rw [hv, keep_ident, if_neg (by decide)]
  have hvp : srcLiftBoundary ∈ v.irq.pend := by rw [hv, keep_irq, if_pos (by decide)]; exact hpend
  rw [onlyIf_true hserv, hu, ← hv, hvl, hvi]
  have hf : u.lift.budget = budgetAt (newPeriod s) (newClock s) := by rw [hl]
  refine ⟨by rw [hl], by rw [hl], by rw [hl], by rw [hl], by rw [hl]; rfl, by rw [hl]; rfl, ?_, by rw [hl], fun i hp => hf ▸ hfit i hp, hvp, rfl⟩
  rw [hf, hb, hl]

end Sys2Proof.Proofs
end

section
/-! SUPPORT. Gathering and planning leave the lift alone but for its plan (R105, R114 to R118, R173 to R176). -/
namespace Sys2Proof.Proofs
open Sys2Proof.Machine

variable {s t u : State} {b c q : Nat}

theorem lifted_ite {p : Prop} [Decidable p] {t u : State} (ht : Lifted s t) (hu : Lifted s u) : Lifted s (if p then t else u) := by
  split
  · exact ht
  · exact hu

theorem lifted_modBatch (n : Nat) (f : Batch → Batch) : Lifted s (modBatch b n f s) := lifted_modSt _
theorem lifted_modSlab (k : Nat) (f : Slab → Slab) : Lifted s (modSlab b k f s) := lifted_modSt _
theorem lifted_writeVa (va : Nat) (bs : List Byte) : Lifted s (writeVa b va bs s) := (wrote_writeVa va bs).toLeaves.lifted
theorem lifted_areaWrite (va : Nat) (bs : List Byte) : Lifted s (areaWrite b va bs s) := lifted_writeVa va bs
theorem lifted_cmdError (x : Cmd) (kind code detail address : Nat) (a : Option Nat) (st : Nat) : Lifted s (cmdError x kind code detail address a st s) :=
  (wrote_cmdError _ _ _ _ _ _ _).toLeaves.lifted
theorem lifted_killReady : Lifted s (killReady c s) := leaves_killReady.toLeaves.lifted

/-! ## Streams and batches -/

theorem lifted_touchStream (k : Nat) (dirty : Bool) : Lifted s (touchStream b k dirty s) := by
  unfold touchStream
  extract_lets l _ t
  split
  · exact lifted_modSt _
  split
  · exact Lifted.trans (t := t) lifted_of (lifted_modSt _)
  split
  · exact lifted_of
  · extract_lets t'
    have ht : Lifted s t' := by
      dsimp only [t']
      split
      · exact lifted_of
      · exact lifted_of
    exact ht.trans (lifted_modSt _)

theorem lifted_maskStream (k : Nat) : Lifted s (maskStream b k s) := by
  refine .foldl (fun t x => ?_) _
  split
  · exact .refl
  refine .foldl (fun t i => ?_) _
  split
  · split
    · exact (lifted_modBatch _ _).trans (lifted_areaWrite _ _)
    · exact .refl
  · exact .refl

theorem lifted_loseStream (k : Nat) : Lifted s (loseStream b k s) := by
  unfold loseStream
  split
  · exact .refl
  extract_lets t u _ v
  have hu : Lifted s u := (lifted_maskStream k).trans (lifted_modStream _ _)
  have hv : Lifted u v := Lifted.trans (by exact lifted_of) (lifted_bayEvent _ _ _ _)
  exact (hu.trans hv).trans (.each (fun _ _ => lifted_finish _ _ _) _)

theorem lifted_leaveBatch (k : Nat) : Lifted s (leaveBatch b k s) := lifted_modStream _ _

theorem lifted_cleanRegen (k : Nat) : Lifted s (cleanRegen b k s) := by
  unfold cleanRegen
  split
  · exact .refl
  · exact lifted_modStream _ _

theorem lifted_recount (k : Nat) : Lifted s (recount b k s) := lifted_modStream _ _

theorem lifted_releaseMembers (x : Batch) (p : Member → Bool) : Lifted s (releaseMembers b x p s) := by
  refine .each (fun m t => ?_) _
  have ht : Lifted t (if x.kind = .regen ∨ m.appended then t else leaveBatch b m.strm t) := by
    split
    · exact .refl
    · exact lifted_leaveBatch _
  dsimp only
  split
  · exact ht.trans (lifted_modCmd _)
  · exact ht

theorem lifted_failBatch (x : Batch) : Lifted s (failBatch b x s) := by
  unfold failBatch
  extract_lets t
  have ht : Lifted s t := by
    refine .each (fun m t => ?_) _
    extract_lets u
    have hu : Lifted t u := by
      dsimp only [u]
      split
      · split
        · exact .refl
        · exact lifted_finish _ _ _
      · exact .refl
    split
    · exact hu.trans (lifted_loseStream _)
    · exact hu
  exact (ht.trans (lifted_releaseMembers _ _)).trans (lifted_modSt _)

theorem lifted_sweepBatches : Lifted s (sweepBatches b s) := by
  refine .foldl (fun t x => ?_) _
  split
  · exact .refl
  split
  · exact lifted_failBatch _
  split
  · exact lifted_modSt _
  · exact .refl

/-! ## The commands of a batch -/

theorem lifted_numberCol (x : Cmd) : Lifted s (numberCol x s).2 := by
  unfold numberCol
  split
  · split
    · dsimp only
      unfold takeSeq
      split
      · exact lifted_of
      · exact .refl
    · exact .refl
  · exact .refl

theorem lifted_accept (x : Cmd) : Lifted s (accept x s) := by
  unfold accept
  extract_lets _ t
  split
  · exact Lifted.trans (t := t) lifted_of (lifted_modStream _ _)
  · exact lifted_of

theorem lifted_owesHs (x : Cmd) : Lifted s (owesHs x s) := (wrote_owesHs x).toLeaves.lifted

theorem lifted_gatherRefuse (x : Cmd) (r : Refuse) (n : Nat) : Lifted s (gatherRefuse x r n s) := by
  unfold gatherRefuse
  extract_lets t
  have ht : Lifted s t := by
    dsimp only [t]
    split
    · exact .refl
    · exact lifted_cmdError _ _ _ _ _ _ _
  exact (ht.trans (lifted_owesHs _)).trans (lifted_modBatch _ _)

theorem lifted_gatherEntry (x : Batch) (m : Model) (g : Graph) (q pos i : Nat) : Lifted s (gatherEntry b x m g q pos i s) := by
  unfold gatherEntry
  extract_lets e k _ t
  have ht : Lifted s t := lifted_of
  split
  · extract_lets _ _ _ r refused
    have hr : Lifted s r.2 := ht.trans (lifted_numberCol _)
    cases refused with
    | some k => exact hr.trans (lifted_gatherRefuse _ _ _)
    | none => exact hr.trans (lifted_accept _)
  · exact (ht.trans (lifted_numberCol _)).trans (lifted_gatherRefuse _ _ _)
  · exact ht.trans (lifted_gatherRefuse _ _ _)

theorem lifted_withSeed : Lifted s (withSeed c s) := by
  unfold withSeed
  split
  · exact .refl
  split
  · exact .refl
  extract_lets lo hi r
  split
  · exact lifted_modCmd _
  · exact Lifted.trans (t := drewRandom s) lifted_of (lifted_modCmd _)

theorem lifted_wakeBatch (n : Nat) : Lifted s (wakeBatch b n s) := by
  refine .each (fun cid t => ?_) _
  split
  · refine Lifted.trans ?_ (lifted_modCmd _)
    split
    · exact lifted_withSeed
    · exact .refl
  · exact .refl

theorem lifted_gatherMore (n : Nat) : Lifted s (gatherMore b n s) := by
  unfold gatherMore
  split
  · exact .refl
  split
  · exact .refl
  split
  · exact .refl
  refine Lifted.trans (.each (fun i t => ?_) _) (lifted_wakeBatch _)
  split
  · exact (lifted_modBatch _ _).trans (lifted_gatherEntry _ _ _ _ _ _)
  · exact .refl

theorem lifted_sealBatch (d : Draft) (h : sealBatch b d s = some t) : Lifted s t := by
  unfold sealBatch at h
  split at h
  · cases h
  split at h
  · cases h
  extract_lets id at h
  split at h
  · cases h
  extract_lets _ x u v w z at h
  obtain rfl := Option.some.inj h
  have hv : Lifted s v := Lifted.trans (t := u) (lifted_modSt _) (lifted_areaWrite _ _)
  have hw : Lifted s w := by
    dsimp only [w]
    split
    · exact hv
    · exact hv.trans (lifted_areaWrite _ _)
  have hz : Lifted s z := by
    refine hw.trans (.each (fun k t => ?_) _)
    extract_lets t'
    have ht' : Lifted t t' := (lifted_modStream _ _).trans (lifted_touchStream _ _)
    split
    · exact ht'.trans (lifted_modCmd _)
    · exact ht'
  exact hz.trans (lifted_gatherMore _)

theorem lifted_trySeal (d : Draft) : Lifted s (trySeal b d s) := by
  unfold trySeal
  cases h : sealBatch b d s with
  | none => exact .refl
  | some t => exact lifted_sealBatch d h

/-! ## Rows of the slab map -/

theorem lifted_fillRow (k : Nat) (butt : Bool) (n : Nat) (l : List Nat) (h : fillRow b k butt n l s = some t) : Lifted s t := by
  induction l generalizing s with
  | nil => cases h; exact .refl
  | cons i l ih =>
    unfold fillRow at h
    split at h
    · cases h
    · exact ((lifted_modSlab _ _).trans (lifted_recount _)).trans (ih h)

theorem lifted_linkRow (k : Nat) (butt : Bool) (len r : Nat) : Lifted s (linkRow b k butt len r s) := by
  unfold linkRow
  extract_lets x tail u
  have hu : Lifted s u := by
    dsimp only [u]
    split
    · exact .refl
    · exact .each (fun _ _ => lifted_modSlab _ _) _
  exact hu.trans (lifted_modStream _ _)

/-- The state an allocation gives leaves the lift alone. -/
def AllocLifted (s : State) : Alloc → Prop
  | .done t => Lifted s t
  | .wait t => Lifted s t
  | .fail => True

theorem lifted_newRow (k : Nat) (butt : Bool) (m : Model) : AllocLifted s (newRow b k butt m s) := by
  unfold newRow
  split
  · split
    · trivial
    · exact lifted_modSt _
  · extract_lets row
    split
    · trivial
    · next h => exact ((lifted_fillRow _ _ _ _ h).trans (lifted_linkRow _ _ _ _)).trans (lifted_modSt _)

theorem lifted_ensureRows (k : Nat) (butt : Bool) (m : Model) (n p : Nat) : AllocLifted s (ensureRows b k butt m n p s) := by
  induction n generalizing s with
  | zero => exact Lifted.refl
  | succ n ih =>
    unfold ensureRows
    split
    · exact Lifted.refl
    have hr := lifted_newRow (s := s) (b := b) k butt m
    split
    · next u hu =>
      rw [hu] at hr
      have hn := ih (s := u)
      revert hn
      cases ensureRows b k butt m n p u with
      | done t => exact fun hn => Lifted.trans hr hn
      | wait t => exact fun hn => Lifted.trans hr hn
      | fail => exact fun _ => trivial
    · exact hr

theorem AllocLifted.done (h : AllocLifted s a) (ha : a = .done t) : Lifted s t := by rw [ha] at h; exact h
theorem AllocLifted.wait (h : AllocLifted s a) (ha : a = .wait t) : Lifted s t := by rw [ha] at h; exact h

/-! ## The gatherer -/

theorem lifted_emptyRebuilt (k : Nat) (butt : Bool) (i : Nat) : Lifted s (emptyRebuilt b k butt i s) := by
  unfold emptyRebuilt
  split
  · exact ((Lifted.each (fun _ _ => lifted_modSlab _ _) _).trans (lifted_recount _)).trans (lifted_cleanRegen _)
  · exact .refl

theorem lifted_gatherRegens : Lifted s (gatherRegens b s) := by
  refine .foldl (fun t e => lifted_ite .refl ?_) _
  extract_lets pick k
  rcases pick with _ | ⟨butt, i, ls⟩
  · exact lifted_cleanRegen _
  dsimp only
  split
  · exact .refl
  · exact lifted_ite (lifted_emptyRebuilt _ _ _) (lifted_trySeal _)

theorem lifted_gatherCatchups : Lifted s (gatherCatchups b s) := by
  refine .foldl (fun t e => ?_) _
  extract_lets k butt len n
  split
  · exact .refl
  next m _ =>
  refine lifted_ite .refl ?_
  have hr := lifted_ensureRows (s := t) (b := b) e.1 butt m ((len + n) / 256 + 2) (len + n - 1)
  split
  · exact .refl
  · next h => exact hr.wait h
  · next h => exact (hr.done h).trans (lifted_trySeal _)

theorem lifted_gatherFills : Lifted s (gatherFills b s) := by
  refine .foldl (fun t e => ?_) _
  extract_lets k butt
  split
  · next x m _ _ =>
    extract_lets n
    refine lifted_ite .refl ?_
    split
    · exact lifted_finish _ _ _
    refine lifted_ite .refl ?_
    have hr := lifted_ensureRows (s := t) (b := b) e.1 butt m ((k.position + n) / 256 + 2) (k.position + n - 1)
    split
    · exact lifted_finish _ _ _
    · next h => exact hr.wait h
    · next h => exact (hr.done h).trans (lifted_trySeal _)
  · exact .refl

theorem lifted_gatherButtress : Lifted s (gatherButtress b s) := by
  unfold gatherButtress
  refine lifted_ite .refl (.foldl (fun t e => ?_) _)
  extract_lets k n
  split
  · exact .refl
  next m _ =>
  refine lifted_ite .refl ?_
  have hr := lifted_ensureRows (s := t) (b := b) e.1 true m ((k.bLen + n) / 256 + 2) (k.bLen + n - 1)
  split
  · exact .refl
  · next h => exact hr.wait h
  · next h => exact (hr.done h).trans (lifted_trySeal _)

theorem lifted_roomFor (l acc : List (Nat × Cmd)) : Lifted s (roomFor b l acc s).2 := by
  induction l generalizing s acc with
  | nil => exact .refl
  | cons x l ih =>
    unfold roomFor
    extract_lets k butt
    split
    · exact (lifted_finish _ _ _).trans (ih _)
    · exact ih _
    next m _ _ =>
    split
    · exact .refl
    have hr := lifted_ensureRows (s := s) (b := b) x.1 butt m (k.position / 256 + 2) k.position
    split
    · exact (lifted_finish _ _ _).trans (ih _)
    · next h => exact (hr.wait h).trans (ih _)
    · next h => exact (hr.done h).trans (ih _)

theorem lifted_sealSteps (m : Model) (butt : Bool) (l : List (Nat × Cmd)) : Lifted s (sealSteps b m butt l s) := .each (fun _ _ => lifted_trySeal _) _

theorem lifted_gatherSteps : Lifted s (gatherSteps b s) := by
  unfold gatherSteps
  exact (lifted_roomFor _ _).trans (.each (fun _ _ => (lifted_sealSteps _ _ _).trans (lifted_sealSteps _ _ _)) _)

theorem lifted_gatherBay : Lifted s (gatherBay b s) := by
  unfold gatherBay
  extract_lets t u
  have hu : Lifted s u := lifted_sweepBatches.trans (.each (fun _ _ => lifted_gatherMore _) _)
  exact ((((hu.trans lifted_gatherRegens).trans lifted_gatherCatchups).trans lifted_gatherFills).trans lifted_gatherSteps).trans lifted_gatherButtress

theorem lifted_gatherMoves : Lifted s (gatherMoves b s) := by
  refine .foldl (fun t e => ?_) _
  refine .foldl (fun t p => .foldl (fun t butt => ?_) _) _
  split
  · refine .foldl (fun t i => lifted_ite .refl ?_) _
    split
    · exact .refl
    · exact lifted_modSlab _ _
  · exact .refl

/-! ## Planning -/

theorem lifted_tryPlan {x : Cmd} {solo : Bool} {after : List Nat} {l : Load} {r : Load × State} (h : tryPlan x solo after l s = some r) : Lifted s r.2 := by
  unfold tryPlan at h
  extract_lets from_ slice pool at h
  split at h
  · cases h
  split at h
  · split at h
    · cases h
      exact lifted_modCmd _
    · cases h
  split at h
  · cases h
  split at h
  · cases h
  · cases h
    exact lifted_modCmd _

theorem lifted_tried (x : Cmd) (solo : Bool) (after : List Nat) (p : Load × State) : Lifted p.2 ((tryPlan x solo after p.1 p.2).getD p).2 := by
  cases h : tryPlan x solo after p.1 p.2 with
  | none => exact .refl
  | some r => exact lifted_tryPlan h

theorem Lifted.foldlSnd {α β : Type} {f : β × State → α → β × State} (hf : ∀ p x, Lifted p.2 (f p x).2) (l : List α) (p : β × State) :
    Lifted p.2 (l.foldl f p).2 := by
  induction l generalizing p with
  | nil => exact .refl
  | cons x l ih => exact (hf p x).trans (ih _)

theorem lifted_planAll (solo : Bool) (cs : List Cmd) (p : Load × State) : Lifted p.2 (planAll solo cs p).2 := .foldlSnd (fun _ _ => lifted_tried _ _ _ _) _ _

theorem lifted_planPrio (cs : List Cmd) (r : Load × State) (p : Nat) : Lifted r.2 (planPrio b cs r p).2 := by
  unfold planPrio
  extract_lets turns v
  have hv : Lifted r.2 v.2 := lifted_planAll _ _ _
  split
  · exact hv.trans ⟨rfl, fun _ h => h, rfl, rfl⟩
  · exact hv

theorem lifted_planReady (p : Load × State) : Lifted p.2 (planReady b p).2 := by
  unfold planReady
  extract_lets cs back cs rerun cs old cs solo cs regen cs isSolo p1 p2 p3
  have h1 : Lifted p.2 p1.2 := .foldlSnd (fun _ _ => lifted_tried _ _ _ _) _ _
  have h2 : Lifted p1.2 p2.2 := (lifted_planAll _ _ _).trans (lifted_planAll _ _ _)
  have h3 : Lifted p2.2 p3.2 := .foldlSnd (fun _ _ => lifted_planPrio _ _ _) _ _
  exact ((h1.trans h2).trans h3).trans (.foldlSnd (fun _ _ => lifted_tried _ _ _ _) _ _)

theorem lifted_chainOne (p : Load × State) (x : Cmd) : Lifted p.2 (chainOne p x).2 := by
  unfold chainOne
  split
  · exact .refl
  split
  · exact .refl
  next d _ =>
  extract_lets t
  have ht : Lifted p.2 t := by
    dsimp only [t]
    split
    · exact lifted_withSeed
    · exact .refl
  cases h : tryPlan (cmdD t x.cid) false (dedup (d :: aheadOf p.2 p.1 x)) p.1 t with
  | none => exact .refl
  | some r => exact ht.trans (lifted_tryPlan h)

theorem lifted_planChained (p : Load × State) : Lifted p.2 (planChained b p).2 := .foldlSnd lifted_chainOne _ _

theorem lifted_dropUnplaceable : Lifted s (dropUnplaceable b s) := by
  refine .foldl (fun t x => ?_) _
  split
  · exact lifted_finish _ _ _
  · exact .refl

theorem lifted_noteBlocked : Lifted s (noteBlocked b s) := lifted_modSt _

theorem lifted_planBay (p : Load × State) : Lifted p.2 (planBay p b).2 := by
  unfold planBay
  extract_lets t l r
  have ht : Lifted p.2 t := (lifted_gatherBay.trans lifted_dropUnplaceable).trans lifted_noteBlocked
  have hr : Lifted t r.2 := (lifted_planReady (b := b) ({ l with shut := shutIds t, held := heldIds t }, t)).trans (lifted_planChained _)
  split
  · exact (ht.trans hr).trans lifted_gatherMoves
  · exact ht.trans hr

/-! ## Switches, and the commands left READY -/

theorem lifted_passOver (l : Load) (x : Cmd) : Lifted s (passOver l x s) := by
  unfold passOver
  extract_lets n t
  exact lifted_ite ((lifted_modCmd _ : Lifted s t).trans (lifted_bayEvent _ _ _ _)) (lifted_modCmd _)

theorem lifted_modCtx (h : Nat) (f : Ctx → Ctx) : Lifted s (modCtx b h f s) := lifted_modSt _

theorem lifted_evict (forced : Bool) (x : Ctx) : Lifted s (evict b forced x s) := by
  unfold evict
  extract_lets t t1 _
  have ht : Lifted s t := .each (fun _ _ => lifted_killReady) _
  have h1 : Lifted s t1 := ht.trans (lifted_modCtx _ _)
  exact lifted_ite (lifted_modCtx _ _) (h1.trans lifted_of)

theorem lifted_switchFor (l : Load) (forced : Bool) (x : Cmd) : Lifted s (switchFor b l forced s x) := by
  unfold switchFor
  refine lifted_ite .refl ?_
  extract_lets h
  split
  · next y _ =>
    refine lifted_ite .refl ?_
    split
    · exact lifted_ite .refl (lifted_evict _ _)
    · split
      · exact .refl
      · exact (Lifted.each (fun _ _ => lifted_evict _ _) _).trans (lifted_modCtx _ _)
  · refine lifted_ite .refl ?_
    split
    · exact .refl
    · exact .each (fun _ _ => lifted_evict _ _) _

theorem lifted_switchBay (l : Load) : Lifted s (switchBay l b s) := .foldl (fun _ _ => lifted_switchFor _ _ _) _

/-! ## The seal (R105) -/

/-- The clock of the next lift is fixed and, where it is a new one, requested. -/
theorem requestClock_spec (s : State) : (requestClock s).lift = { s.lift with nextClk := nextClock s } ∧ (requestClock s).bays = s.bays := by
  unfold requestClock
  extract_lets n t
  split
  · exact ⟨rfl, rfl⟩
  · exact ⟨rfl, rfl⟩

/-- What a seal leaves of the lift: everything but the plans, the turns and the clock of the next one. -/
structure Sealing (s t : State) : Prop where
  lift : t.lift = { s.lift with plan := t.lift.plan, rr := t.lift.rr, sealed := t.lift.sealed, nextClk := nextClock s }

theorem askClock_lift (l : Load) (bs : List Nat) : (askClock l bs s).lift = s.lift := rfl

theorem lifted_readyAfter (l : Load) (bs : List Nat) : Lifted s (each bs (switchBay l) (each bs (fun b u => each (readyCmds u b) (passOver l) u) s)) :=
  (Lifted.each (fun _ _ => .each (fun _ _ => lifted_passOver _ _) _) _).trans (.each (fun _ _ => lifted_switchBay _) _)

theorem lifted_plans (bs : List Nat) (p : Load × State) : Lifted p.2 (bs.foldl planBay p).2 := .foldlSnd (f := planBay) (fun _ _ => lifted_planBay _) bs p

/-- Two states whose lifts differ from a third's in plan and turns only. -/
theorem lift_bound {t v : State} (h : Lifted t v) (hu : u.lift = { v.lift with plan := u.lift.plan, rr := u.lift.rr }) :
    u.lift = { t.lift with plan := u.lift.plan, rr := u.lift.rr } := by
  rw [hu, h.lift]

theorem lift_afterAsk {v : State} {l : Load} {bs : List Nat} (hu : Lifted (askClock l bs v) u) :
    u.lift = { v.lift with plan := u.lift.plan, rr := u.lift.rr } := by
  have h := hu.lift
  rw [askClock_lift] at h
  exact h

/-- The plan that is sealed, and the state with its commands bound. -/
theorem sealPlan_eq (s : State) : ∃ (l : Load) (p : Load × State) (u : State), sealPlan s = { u with lift := { u.lift with sealed := some p.1.items } } ∧
    u.lift = { (requestClock s).lift with plan := u.lift.plan, rr := u.lift.rr } ∧ p = (plannedBays (requestClock s)).foldl planBay (l, requestClock s) ∧
    l.items = [] := by
  exact ⟨_, _, _, rfl, lift_bound (lifted_plans _ (_, requestClock s)) (lift_afterAsk (lifted_readyAfter _ _)), rfl, rfl⟩

/-- The plan sealed from the load of the bays planned for. -/
theorem sealPlan_spec (s : State) : Sealing s (sealPlan s) ∧ (sealPlan s).lift.sealed.isSome = true ∧
    (plannedBays s = [] → (sealPlan s).lift.sealed = some []) := by
  obtain ⟨hl, hb⟩ := requestClock_spec s
  have hbays : plannedBays (requestClock s) = plannedBays s := by simp only [plannedBays, bay, hb]
  obtain ⟨l, p, u, hs, hu, hpl, hno⟩ := sealPlan_eq s
  rw [hs]
  refine ⟨⟨?_⟩, rfl, fun h => ?_⟩
  · show { u.lift with sealed := some p.1.items } = _
    rw [hu, hl]
  · rw [hpl, hbays, h]
    exact congrArg some hno

theorem exec_planSeal (hp : s.start.powered = true) : exec .planSeal s =
    .next (keep (.pwr :: fpWork) s (onlyIf (fun t => t.lift.serving && !t.rst.shored && t.lift.sealed.isNone) sealPlan s)) := run_powered hp

theorem exec_planSealDeadline (hp : s.start.powered = true) (hs : s.lift.serving = true) : exec .planSealDeadline s = .next (keep fpWork s (sealDeadline s)) :=
  (run_powered (f := onlyIf (fun t => t.lift.serving) sealDeadline) hp).trans (by rw [onlyIf_true hs])

theorem pend_sealPoint (s : State) : srcSealPoint ∈ (raise srcSealPoint s).irq.pend := by
  rw [raise_pend, if_neg (by simp [srcReserved, srcSealPoint])]
  exact (mem_sput _ _ _).2 (.inl rfl)

/-- The late plan of a lift: an empty one, counted and told. -/
theorem sealDeadline_late (h : s.lift.sealed = none) (hs : s.rst.shored = false) : ∃ u, sealDeadline s = mgrEvent 0x100 0 0 0 u ∧
    srcSealPoint ∈ u.irq.pend ∧ u.lift = { s.lift with sealed := some [] } ∧ u.stat.latePlan = satAdd 0xFF s.stat.latePlan 1 ∧ u.dev = s.dev ∧
    u.cmds = s.cmds := by
  obtain ⟨t, ht⟩ : ∃ t, t = raise srcSealPoint s := ⟨_, rfl⟩
  have hr : t.lift = s.lift ∧ t.rst = s.rst ∧ t.stat = s.stat ∧ t.dev = s.dev ∧ t.cmds = s.cmds := by
    rw [ht, raise_changes]; exact ⟨rfl, rfl, rfl, rfl, rfl⟩
  obtain ⟨hl, hr, hst, hd, hc⟩ := hr
  refine ⟨{ t with lift := { t.lift with sealed := some [] }, stat := { t.stat with latePlan := satAdd 0xFF t.stat.latePlan 1 } },
    ?_, by rw [ht]; exact pend_sealPoint s, by rw [hl], by rw [hst], hd, hc⟩
  unfold sealDeadline
  rw [← ht]
  dsimp only
  rw [if_neg (by simp [hl, hr, h, hs])]

/-- Settles O21: the seal and its deadline. -/
theorem planSeals : Obligations.PlanSeals := by
  intro s hpow hserv
  refine ⟨fun hno => ?_, fun hs hn => ?_, fun hno => ?_, fun hn hs => ?_⟩
  · rw [exec_planSeal hpow, onlyIf, if_neg, keep_self]
    rcases hno with h | h
    · simp [h]
    · simp [Option.isNone_iff_eq_none, h]
  · obtain ⟨⟨hl⟩, hsome, hempty⟩ := sealPlan_spec s
    refine ⟨_, exec_planSeal hpow, ?_⟩
    rw [onlyIf_true (by simp [hserv, hs, hn])]
    show (sealPlan s).lift.sealed.isSome = true ∧ (sealPlan s).lift.nextClk = _ ∧ (sealPlan s).lift.num = _ ∧ (sealPlan s).lift.window = _ ∧
      (sealPlan s).lift.period = _ ∧ (sealPlan s).lift.budget = _ ∧ (plannedBays s = [] → (sealPlan s).lift.sealed = _)
    exact ⟨hsome, by rw [hl], by rw [hl], by rw [hl], by rw [hl], by rw [hl], hempty⟩
  · have hgo : sealDeadline s = raise srcSealPoint s := by
      have hr : (raise srcSealPoint s).lift = s.lift ∧ (raise srcSealPoint s).rst = s.rst := by rw [raise_changes]; exact ⟨rfl, rfl⟩
      unfold sealDeadline
      dsimp only
      rw [hr.1, hr.2, if_pos]
      rcases hno with h | h
      · simp [Option.isSome_iff_ne_none, h]
      · simp [h]
    refine ⟨_, exec_planSealDeadline hpow hserv, ?_⟩
    rw [hgo]
    exact ⟨changesOnly_within (by rw [raise_changes]; rfl) _, pend_sealPoint s⟩
  · refine ⟨_, exec_planSealDeadline hpow hserv, ?_⟩
    obtain ⟨u, hu, hpend, hl, hst, hd, hc⟩ := sealDeadline_late hn hs
    have hm : (mgrEvent 0x100 0 0 0 u).lift = u.lift ∧ (mgrEvent 0x100 0 0 0 u).stat = u.stat ∧ (mgrEvent 0x100 0 0 0 u).cmds = u.cmds ∧
        (mgrEvent 0x100 0 0 0 u).dev.mgrEv.prod = (u.dev.mgrEv.prod + 1) % 2 ^ 32 := by
      unfold mgrEvent
      rw [raise_changes]
      exact ⟨rfl, rfl, rfl, rfl⟩
    rw [hu]
    obtain ⟨hml, hms, hmc, hmd⟩ := hm
    refine ⟨(told_mgrEvent (s := u) 0x100 0 0 0).grows.1 _ hpend, ?_⟩
    show (mgrEvent 0x100 0 0 0 u).lift.sealed = _ ∧ (mgrEvent 0x100 0 0 0 u).stat.latePlan = _ ∧
      (mgrEvent 0x100 0 0 0 u).dev.mgrEv.prod = _ ∧ (mgrEvent 0x100 0 0 0 u).cmds = _ ∧ (mgrEvent 0x100 0 0 0 u).lift.plan = _
    rw [hml, hms, hmc, hmd, hl, hst, hd]
    exact ⟨rfl, rfl, rfl, hc, rfl⟩

end Sys2Proof.Proofs
end

section
/-! SUPPORT. Mailboxes: the response half that a request leaves (R282, R283) and the slot that a long one takes (R286). -/
namespace Sys2Proof.Proofs
open Sys2Proof.Machine

variable {s t u : State} {x y m : Nat} {r : Req}

/-! ## The response half -/

theorem mbx_modMbx_same (f : Mbx → Mbx) : mbx (modMbx x f s) x = f (mbx s x) := by simp [mbx, modMbx, tgetD, tget_tmod]

theorem mbx_modMbx_ne (h : y ≠ x) (f : Mbx → Mbx) : mbx (modMbx x f s) y = mbx s y := by simp [mbx, modMbx, tgetD, tget_tmod, h]

/-- A run of bytes read within one that was written. -/
theorem mread_mputs (a o n : Nat) (bs : List Byte) (m : Mem) (h : o + n ≤ bs.length) : mread (mputs a bs m) (a + o) n = (bs.drop o).take n := by
  apply List.ext_getElem
  · simp; omega
  · intro i h1 h2
    have hi : i < n := by simpa using h1
    rw [← List.getD_eq_getElem _ 0 h1, getD_mread hi, mget_mputs, if_pos (by omega), List.getElem_take, List.getElem_drop]
    rw [List.getD_eq_getElem _ 0 (by omega)]
    congr 1
    omega

/-- The header of a response (R282). -/
def respHeader (msg code tag len slot opId bound : Nat) : List Byte :=
  padTo 64 (natLe 2 msg ++ natLe 2 code ++ natLe 4 tag ++ natLe 4 len ++ natLe 1 slot ++ natLe 1 opId ++ natLe 2 0 ++ natLe 4 bound)

theorem length_respHeader (msg code tag len slot opId bound : Nat) : (respHeader msg code tag len slot opId bound).length = 64 := by
  simp [respHeader, padTo]

/-- The fields of the header. -/
theorem fld_respHeader (msg code tag len slot opId bound : Nat) :
    let h := respHeader msg code tag len slot opId bound
    fld h 0 2 = msg % 65536 ∧ fld h 2 2 = code % 65536 ∧ fld h 4 4 = tag % 2 ^ 32 ∧ fld h 8 4 = len % 2 ^ 32 ∧ fld h 0xC 1 = slot % 256 ∧
      fld h 0xD 1 = opId % 256 ∧ fld h 0x10 4 = bound % 2 ^ 32 := by
  refine ⟨?_, ?_, ?_, ?_, ?_, ?_, ?_⟩
  all_goals simp [respHeader, padTo, fld, natLe, leNat]
  all_goals omega

/-- Mailbox `x` holds a response to request `r`. -/
def Holds (r : Req) (code slot opId bound : Nat) (p : List Byte) (m : Mbx) : Prop :=
  m.busy = false ∧ m.done = true ∧ ∃ a, m.area = mputs 0x800 (respHeader r.msg code r.tag p.length slot opId bound ++ p) a

theorem responded_of_holds {code slot opId bound : Nat} {p : List Byte} (h : Holds (reqOf s x) code slot opId bound p (mbx t x))
    (ho : x ∉ t.boxes.order) : Responded s x code slot opId bound p t := by
  obtain ⟨hb, hd, a, ha⟩ := h
  obtain ⟨e, he⟩ : ∃ e, e = respHeader (reqOf s x).msg code (reqOf s x).tag p.length slot opId bound := ⟨_, rfl⟩
  have hlen : e.length = 64 := he ▸ length_respHeader _ _ _ _ _ _ _
  rw [← he] at ha
  have hh : mread (mbx t x).area 0x800 64 = e := by
    rw [ha, ← Nat.add_zero 0x800, mread_mputs _ _ _ _ _ (by simp [hlen]), List.drop_zero, List.take_append_of_le_length (by omega), ← hlen,
      List.take_length]
  have hp : mread (mbx t x).area 0x840 p.length = p := by
    rw [ha, show 0x840 = 0x800 + 64 from rfl, mread_mputs _ _ _ _ _ (by simp [hlen]), ← hlen, List.drop_left, List.take_length]
  obtain ⟨h0, h2, h4, h8, hC, hD, h10⟩ := fld_respHeader (reqOf s x).msg code (reqOf s x).tag p.length slot opId bound
  rw [← he] at h0 h2 h4 h8 hC hD h10
  unfold Responded
  dsimp only
  rw [hh]
  exact ⟨hb, hd, ho, h0, h2, h4, h8, hC, hD, h10, hp⟩

/-! ## What a response leaves -/

theorem respondWith_only {code slot opId bound : Nat} {p : List Byte} : ChangesOnly [.boxes, .irq] s (respondWith x code slot opId bound p s) := by
  unfold respondWith
  rw [raise_changes]
  rfl

theorem respondWith_order {code slot opId bound : Nat} {p : List Byte} :
    (respondWith x code slot opId bound p s).boxes.order = s.boxes.order.filter (· != x) := by
  unfold respondWith
  rw [raise_changes]
  rfl

theorem mbx_raise (n : Nat) : mbx (raise n s) y = mbx s y := by rw [raise_changes]; rfl

/-- A mailbox with its request answered. -/
def answered (r : Req) (code slot opId bound : Nat) (p : List Byte) (m : Mbx) : Mbx :=
  { m with busy := false, done := true, area := mputs 0x800 (respHeader r.msg code r.tag p.length slot opId bound ++ p) (mzero 0x800 2048 m.area) }

theorem mbx_answered {code slot opId bound : Nat} {p : List Byte} :
    mbx (respondWith x code slot opId bound p s) y = mbx (modMbx x (answered (reqOf s x) code slot opId bound p) s) y := by
  simp only [respondWith, mbx_raise]
  simp only [mbx, modMbx]
  have heta : answered (reqOf s x) code slot opId bound p = fun m => answered (reqOf s x) code slot opId bound p m := rfl
  rw [heta]
  simp only [answered, respHeader]

theorem mbx_respondWith_ne {code slot opId bound : Nat} {p : List Byte} (h : y ≠ x) : mbx (respondWith x code slot opId bound p s) y = mbx s y := by
  rw [mbx_answered, mbx_modMbx_ne h]

theorem holds_answered {code slot opId bound : Nat} {p : List Byte} {m : Mbx} : Holds r code slot opId bound p (answered r code slot opId bound p m) :=
  ⟨by simp only [answered], by simp only [answered], mzero 0x800 2048 m.area, by simp only [answered]⟩

theorem mbx_respondWith {code slot opId bound : Nat} {p : List Byte} :
    Holds (reqOf s x) code slot opId bound p (mbx (respondWith x code slot opId bound p s) x) ∧
    (mbx (respondWith x code slot opId bound p s) x).ops = (mbx s x).ops ∧ (mbx (respondWith x code slot opId bound p s) x).nextOp = (mbx s x).nextOp := by
  rw [mbx_answered, mbx_modMbx_same]
  exact ⟨holds_answered, by simp only [answered], by simp only [answered]⟩

/-- Refusing requests with a reserved code leaves the mailboxes that have no request in the order. -/
theorem flushBoxes_spec (n : Nat) (s : State) (h : y ∉ s.boxes.order) :
    ChangesOnly [.boxes, .irq] s (flushBoxes n s) ∧ mbx (flushBoxes n s) y = mbx s y ∧ y ∉ (flushBoxes n s).boxes.order := by
  induction n generalizing s with
  | zero => exact ⟨changesOnly_refl _ s, rfl, h⟩
  | succ n ih =>
    unfold flushBoxes
    split
    · exact ⟨changesOnly_refl _ s, rfl, h⟩
    next x l ho =>
    split
    · have hx : y ≠ x := fun e => h (by rw [ho, e]; exact List.mem_cons_self)
      obtain ⟨hc, hm, hn⟩ := ih (respondWith x 0x21 0xFF 0 0 [] s) (by rw [respondWith_order]; exact fun hy => h (List.mem_filter.1 hy).1)
      exact ⟨changesOnly_trans respondWith_only hc, hm.trans (mbx_respondWith_ne hx), hn⟩
    · exact ⟨changesOnly_refl _ s, rfl, h⟩

/-! ## The request at the head -/

/-- A state with the mailboxes of another has its requests. -/
theorem reqOf_congr (h : t.boxes = s.boxes) : reqOf t x = reqOf s x := by simp only [reqOf, mbx, h]

/-- A response from a state with the mailboxes of `s` answers the request, and leaves all but mailboxes and interrupts. -/
theorem respond_spec (hb : t.boxes = s.boxes) (code : Nat) (p : List Byte) :
    Replied s x code p (respond x code p t) ∧ ChangesOnly [.boxes, .irq] t (respond x code p t) := by
  obtain ⟨u, hu⟩ : ∃ u, u = respondWith x code 0xFF 0 0 p t := ⟨_, rfl⟩
  have hnot : x ∉ u.boxes.order := by rw [hu, respondWith_order]; simp
  obtain ⟨hc, hm, hn⟩ := flushBoxes_spec u.boxes.order.length u hnot
  have hgo : respond x code p t = flushBoxes u.boxes.order.length u := by rw [hu]; rfl
  rw [hgo]
  refine ⟨responded_of_holds ?_ hn, changesOnly_trans (hu ▸ respondWith_only) hc⟩
  rw [hm, hu, ← reqOf_congr hb]
  exact mbx_respondWith.1

/-- What stands in the changes of a response and a keep that lets it through. -/
theorem replied_keep {fp : List Grp} {code : Nat} {p : List Byte} (h : Replied s x code p t) : Replied s x code p (keep ([.boxes, .irq] ++ fp) s t) := h

/-- Slot `i` of a mailbox, taken by an operation of kind `k`. -/
def tookOp (i : Nat) (k : OpKind) (m : Mbx) : Mbx :=
  { m with ops := tput i { opId := m.nextOp, kind := k } m.ops, nextOp := if m.nextOp = 255 then 1 else m.nextOp + 1 }

/-- A long request that finds a slot takes it, and its work starts in a state that differs from `s` in mailboxes and interrupts. -/
theorem accepted_spec {k : OpKind} {bound i : Nat} {go : Nat → State → State} (hf : freeSlot s x = some i) (hgo : ∀ t, (go i t).boxes = t.boxes) :
    ∃ u, ChangesOnly [.boxes, .irq] s u ∧ ChangesOnly [.boxes, .irq] (go i u) (accepted x k bound go s) ∧
      TookSlot s x i bound (accepted x k bound go s) ∧ opRuns (accepted x k bound go s) x i k := by
  obtain ⟨v, hv⟩ : ∃ v, v = modMbx x (tookOp i k) s := ⟨_, rfl⟩
  have hvx : mbx v x = tookOp i k (mbx s x) := hv ▸ mbx_modMbx_same _
  obtain ⟨u, hu⟩ : ∃ u, u = respondWith x 1 i (mbx s x).nextOp bound [] v := ⟨_, rfl⟩
  obtain ⟨hholds, hops, hnext⟩ := mbx_respondWith (s := v) (x := x) (code := 1) (slot := i) (opId := (mbx s x).nextOp) (bound := bound) (p := [])
  rw [← hu, hvx] at hops hnext
  rw [← hu] at hholds
  have hnot : x ∉ (go i u).boxes.order := by rw [hgo, hu, respondWith_order]; simp
  obtain ⟨hc, hm, hn⟩ := flushBoxes_spec (go i u).boxes.order.length (go i u) hnot
  have hacc : accepted x k bound go s = flushBoxes (go i u).boxes.order.length (go i u) := by
    unfold accepted
    rw [hf, hu, hv]
    rfl
  have hmx : mbx (go i u) x = mbx u x := by rw [mbx, mbx, hgo]
  have hreq : reqOf v x = reqOf s x := by
    unfold reqOf
    rw [hvx]
    rfl
  refine ⟨u, changesOnly_trans (hv ▸ rfl) (hu ▸ respondWith_only), ?_, ⟨responded_of_holds ?_ ?_, ?_⟩, ?_⟩
  · rw [hacc]; exact hc
  · rw [hacc, hm, hmx, ← hreq]; exact hholds
  · rw [hacc]; exact hn
  · rw [hacc, hm, hmx, hnext]; rfl
  · rw [hacc]
    refine ⟨{ opId := (mbx s x).nextOp, kind := k }, ?_, rfl, rfl⟩
    rw [hm, hmx, hops]
    exact tget_tput_same _ _ _

/-- A message that is served acts. -/
theorem boxRow_serves {fp : List Grp} {f : Req → State → State} (h : serves s x m r) : boxRow fp m x f s = .next (keep ([.boxes, .irq] ++ fp) s (f r s)) := by
  obtain ⟨⟨hp, hx, hh, hr, hm⟩, hno⟩ := h
  unfold boxRow
  rw [decide_eq_true hx, onUnit_true, run_powered hp, onlyIf_true (by simp [hh, hr, hm])]
  simp only [hr, hno]

/-- A message that a case of R287 refuses is answered with its code. -/
theorem boxRow_refused {fp : List Grp} {f : Req → State → State} {code : Nat} (h : atHead s x m r) (hno : refusal s x r = some code) :
    boxRow fp m x f s = .next (keep ([.boxes, .irq] ++ fp) s (reply x code s)) := by
  obtain ⟨hp, hx, hh, hr, hm⟩ := h
  unfold boxRow
  rw [decide_eq_true hx, onUnit_true, run_powered hp, onlyIf_true (by simp [hh, hr, hm])]
  simp only [hr, hno]

end Sys2Proof.Proofs
end

section
/-! SUPPORT. The manager's settings (R102, R213, R471, R472, R568). -/
namespace Sys2Proof.Proofs
open Sys2Proof.Machine

variable {s t u : State} {r : Req}

/-- The next handle of the manager is taken. -/
def tookHandle (s : State) : State := { s with pwr := { s.pwr with nextHandle := s.pwr.nextHandle + 1 } }

theorem takeHandle_mgr (s : State) : takeHandle 0 true s = (s.pwr.nextHandle, tookHandle s) := rfl

theorem Loops.boxes (h : Loops s t) : t.boxes = s.boxes := by rw [← h.only]; rfl

/-- The registers of power that keep what a loop does not settle. -/
theorem Loops.pwr' (h : Loops s t) : t.pwr.floor = s.pwr.floor ∧ t.pwr.cap = s.pwr.cap ∧ t.pwr.floorHandle = s.pwr.floorHandle ∧
    t.pwr.capHandle = s.pwr.capHandle ∧ t.pwr.nextHandle = s.pwr.nextHandle := by
  rw [h.pwr]
  exact ⟨rfl, rfl, rfl, rfl, rfl⟩

theorem pwr_of_reply (h : ChangesOnly [.boxes, .irq] s t) : t.pwr = s.pwr ∧ t.ras = s.ras ∧ t.lift = s.lift := by
  rw [← h]; exact ⟨rfl, rfl, rfl⟩

/-- A new floor under the manager's next handle. -/
theorem clockFloor_spec (s : State) (r : Req) : ∃ u, clockFloorGo 0 r s = respond 0 0 (natLe 4 s.pwr.nextHandle) u ∧ u.boxes = s.boxes ∧
    u.pwr.floor = fld r.p 0 2 ∧ u.pwr.floorHandle = s.pwr.nextHandle ∧ u.pwr.nextHandle = s.pwr.nextHandle + 1 ∧ u.pwr.cap = s.pwr.cap := by
  obtain ⟨t0, ht0⟩ : ∃ t, t = { tookHandle s with pwr := { (tookHandle s).pwr with floor := 0 } } := ⟨_, rfl⟩
  have hl : Loops t0 (refreshLimits t0) := (refreshLimits_spec t0).1
  obtain ⟨t1, ht1⟩ : ∃ t, t = { refreshLimits t0 with pwr := { (refreshLimits t0).pwr with floor := fld r.p 0 2, floorHandle := s.pwr.nextHandle } } := ⟨_, rfl⟩
  have hg : Loops t1 (refreshLoops t1) := (refreshLoops_spec t1).1
  obtain ⟨-, hc0, -, -, hn0⟩ := hl.pwr'
  obtain ⟨hf, hc, hh, -, hn⟩ := hg.pwr'
  refine ⟨refreshLoops t1, ?_, ?_, by rw [hf, ht1], by rw [hh, ht1], ?_, ?_⟩
  · rw [ht1, ht0]; rfl
  · rw [hg.boxes, ht1]; exact hl.boxes.trans (by rw [ht0]; rfl)
  · rw [hn, ht1]; exact hn0.trans (by rw [ht0]; rfl)
  · rw [hc, ht1]; exact hc0.trans (by rw [ht0]; rfl)

/-- A new cap under the manager's next handle. -/
theorem powerCap_spec (s : State) (r : Req) : ∃ u, powerCapGo 0 r s = respond 0 0 (natLe 4 s.pwr.nextHandle) u ∧ u.boxes = s.boxes ∧
    u.pwr.cap = fld r.p 0 2 ∧ u.pwr.capHandle = s.pwr.nextHandle ∧ u.pwr.nextHandle = s.pwr.nextHandle + 1 ∧ u.pwr.floor = s.pwr.floor := by
  obtain ⟨t0, ht0⟩ : ∃ t, t = { tookHandle s with pwr := { (tookHandle s).pwr with cap := 0 } } := ⟨_, rfl⟩
  have hl : Loops t0 (refreshLimits t0) := (refreshLimits_spec t0).1
  obtain ⟨t1, ht1⟩ : ∃ t, t = { refreshLimits t0 with pwr := { (refreshLimits t0).pwr with cap := fld r.p 0 2, capHandle := s.pwr.nextHandle } } := ⟨_, rfl⟩
  have hg : Loops t1 (refreshLoops t1) := (refreshLoops_spec t1).1
  obtain ⟨hf0, -, -, -, hn0⟩ := hl.pwr'
  obtain ⟨hf, hc, -, hh, hn⟩ := hg.pwr'
  refine ⟨refreshLoops t1, ?_, ?_, by rw [hc, ht1], by rw [hh, ht1], ?_, ?_⟩
  · rw [ht1, ht0]; rfl
  · rw [hg.boxes, ht1]; exact hl.boxes.trans (by rw [ht0]; rfl)
  · rw [hn, ht1]; exact hn0.trans (by rw [ht0]; rfl)
  · rw [hf, ht1]; exact hf0.trans (by rw [ht0]; rfl)

theorem Loops.ras' (h : Loops s t) : t.ras.required = s.ras.required ∧ t.ras.reqHandle = s.ras.reqHandle ∧ t.ras.pass = s.ras.pass := by
  rw [h.ras]
  exact ⟨rfl, rfl, rfl⟩

/-- A new scrub rate under the manager's next handle. -/
theorem scrubRate_spec (s : State) (r : Req) (hok : rateTooHigh s (fld r.p 0 4) = false) : ∃ u, scrubRateGo 0 r s = respond 0 0 (natLe 4 s.pwr.nextHandle) u ∧
    u.boxes = s.boxes ∧ u.ras.required = some (fld r.p 0 4) ∧ u.ras.reqHandle = s.pwr.nextHandle ∧ u.ras.pass = s.ras.pass := by
  obtain ⟨t0, ht0⟩ : ∃ t, t = { tookHandle s with ras := { (tookHandle s).ras with required := some 0 } } := ⟨_, rfl⟩
  have hl : Loops t0 (refreshScrub t0) := (refreshScrub_spec t0).1
  obtain ⟨t1, ht1⟩ : ∃ t, t = { refreshScrub t0 with ras := { (refreshScrub t0).ras with required := some (fld r.p 0 4), reqHandle := s.pwr.nextHandle } } := ⟨_, rfl⟩
  have hg : Loops t1 (refreshScrub t1) := (refreshScrub_spec t1).1
  obtain ⟨-, -, hp0⟩ := hl.ras'
  obtain ⟨hq, hh, hp⟩ := hg.ras'
  refine ⟨refreshScrub t1, ?_, ?_, by rw [hq, ht1], by rw [hh, ht1], ?_⟩
  · unfold scrubRateGo
    dsimp only
    rw [if_neg (by rw [hok]; decide), ht1, ht0]
    rfl
  · rw [hg.boxes, ht1]; exact hl.boxes.trans (by rw [ht0]; rfl)
  · rw [hp, ht1]; exact hp0.trans (by rw [ht0]; rfl)

/-- The pass of a SCRUB_RANGE. -/
def passOf (r : Req) (i : Nat) : Scrub :=
  { start := fld r.p 0 8, len := fld r.p 8 8, summaryVa := fld r.p 0x10 8, spad := fld r.p 0x18 1 == 1, slot := i }

/-- A pass starts at the rate in force. -/
def startPass (p : Scrub) (s : State) : State := refreshScrub { s with ras := { s.ras with pass := some p } }

theorem startPass_spec (p : Scrub) (s : State) : (startPass p s).boxes = s.boxes ∧ (startPass p s).ras.pass = some p ∧
    (startPass p s).ras.rate = rateInForce s := by
  obtain ⟨t, ht⟩ : ∃ t, t = { s with ras := { s.ras with pass := some p } } := ⟨_, rfl⟩
  obtain ⟨hl, -, hr⟩ := refreshScrub_spec t
  have hgo : startPass p s = refreshScrub t := by rw [ht]; rfl
  rw [hgo, hl.ras'.2.2, hr, hl.boxes, ht]
  exact ⟨rfl, rfl, rfl⟩

/-- The rate in force does not hang on mailboxes and interrupts. -/
theorem rateInForce_reply (h : ChangesOnly [.boxes, .irq] s t) : rateInForce t = rateInForce s := by rw [← h]; rfl

theorem scrubRange_starts (hno : s.ras.pass = none) (hrep : s.sec.repointing = false) : scrubRangeGo 0 r s =
    accepted 0 .scrub (scrubBound s (fld r.p 0x18 1 == 1) (fld r.p 8 8)) (fun i t => startPass (passOf r i) t) s := by
  unfold scrubRangeGo
  dsimp only
  rw [if_neg (by simp [hno, hrep])]
  rfl

/-- A SCRUB_RANGE whose range breaks the rules is refused for its format (R471). -/
theorem refusal_scrubRange (hm : r.msg = 0x403) (hboot : (mbx s 0).boot = false) (hmaj : r.major = 1) (hmin : r.minor ≤ 2)
    (hbad : scrubRangeOk s (fld r.p 0x18 1 == 1) (fld r.p 0 8) (fld r.p 8 8) = false) : refusal s 0 r = some 0x20 := by
  have hinfo : msgInfo r.msg = some ⟨1, false, 0⟩ := by rw [hm]; rfl
  have hpay : payloadOk s r.msg r.p = false := by simp [hm, payloadOk, hbad]
  unfold refusal
  simp only [hinfo, hboot, hmaj, hpay]
  simp [hm, hmin]

/-- Settles O41. -/
theorem managerSettings : Obligations.ManagerSettings := by
  intro s r late h spad
  refine ⟨fun hs hl => ?_, fun hs hl => ?_, fun hs => ?_, fun hs => ?_, fun i hs hr hno hrep hi => ?_, fun hs hboot hmaj hmin hr => ?_, fun hs hr hbusy => ?_,
    fun hs hl => ?_, fun hs hl => ?_⟩
  case refine_1 =>
    obtain ⟨hrep, honly⟩ := respond_spec (x := 0)
      (t := { s with lift := { s.lift with next := fld r.p 0 2, pending := fld r.p 0 2 != s.lift.period } }) (s := s) rfl 0 []
    refine ⟨_, boxRow_serves hs, ?_⟩
    rw [liftPeriodGo, if_neg (by simpa [late] using hl)]
    exact ⟨replied_keep hrep, (pwr_of_reply honly).2.2⟩
  case refine_2 =>
    obtain ⟨hrep, honly⟩ := respond_spec (x := 0) (t := s) rfl 0x23 []
    refine ⟨_, boxRow_serves hs, ?_⟩
    rw [liftPeriodGo, if_pos hl]
    exact ⟨replied_keep hrep, (pwr_of_reply honly).2.2⟩
  case refine_3 =>
    obtain ⟨u, hu, hb, hf, hh, hn, hc⟩ := clockFloor_spec s r
    obtain ⟨hrep, honly⟩ := respond_spec (x := 0) hb 0 (natLe 4 s.pwr.nextHandle)
    refine ⟨_, boxRow_serves hs, ?_⟩
    rw [hu]
    have hp := (pwr_of_reply honly).1
    exact ⟨replied_keep hrep, (congrArg _ hp).trans hf, (congrArg _ hp).trans hh, (congrArg _ hp).trans hn, (congrArg _ hp).trans hc⟩
  case refine_4 =>
    obtain ⟨u, hu, hb, hf, hh, hn, hc⟩ := powerCap_spec s r
    obtain ⟨hrep, honly⟩ := respond_spec (x := 0) hb 0 (natLe 4 s.pwr.nextHandle)
    refine ⟨_, boxRow_serves hs, ?_⟩
    rw [hu]
    have hp := (pwr_of_reply honly).1
    exact ⟨replied_keep hrep, (congrArg _ hp).trans hf, (congrArg _ hp).trans hh, (congrArg _ hp).trans hn, (congrArg _ hp).trans hc⟩
  case refine_5 =>
    obtain ⟨u, hu, hv, hslot, hrun⟩ := accepted_spec (k := .scrub) (bound := scrubBound s spad (fld r.p 8 8)) (go := fun i t => startPass (passOf r i) t) hi
      (fun t => (startPass_spec _ t).1)
    refine ⟨_, boxRow_serves hs, ?_⟩
    rw [scrubRange_starts hno hrep]
    obtain ⟨-, hpass, hrate⟩ := startPass_spec (passOf r i) u
    have hras := (pwr_of_reply hv).2.1
    exact ⟨hslot, hrun, (congrArg _ hras).trans hpass, (congrArg _ hras).trans (hrate.trans (rateInForce_reply hu))⟩
  case refine_6 =>
    obtain ⟨hrep, honly⟩ := respond_spec (x := 0) (t := s) rfl 0x20 []
    exact ⟨_, boxRow_refused hs (refusal_scrubRange hs.2.2.2.2 hboot hmaj hmin hr), replied_keep hrep, (pwr_of_reply honly).2.1⟩
  case refine_7 =>
    obtain ⟨hrep, honly⟩ := respond_spec (x := 0) (t := s) rfl 0x28 []
    refine ⟨_, boxRow_serves hs, ?_⟩
    rw [scrubRangeGo]
    dsimp only
    rw [if_pos (by simpa [Option.isSome_iff_ne_none] using hbusy)]
    exact ⟨replied_keep hrep, (pwr_of_reply honly).2.1⟩
  case refine_8 =>
    obtain ⟨u, hu, hb, hq, hh, hn⟩ := scrubRate_spec s r hl
    obtain ⟨hrep, honly⟩ := respond_spec (x := 0) hb 0 (natLe 4 s.pwr.nextHandle)
    refine ⟨_, boxRow_serves hs, ?_⟩
    rw [hu]
    have hp := (pwr_of_reply honly).2.1
    exact ⟨replied_keep hrep, (congrArg _ hp).trans hq, (congrArg _ hp).trans hh, (congrArg _ hp).trans hn⟩
  case refine_9 =>
    obtain ⟨hrep, honly⟩ := respond_spec (x := 0) (t := s) rfl 0x23 []
    refine ⟨_, boxRow_serves hs, ?_⟩
    rw [scrubRateGo]
    dsimp only
    rw [if_pos hl]
    exact ⟨replied_keep hrep, (pwr_of_reply honly).2.1⟩

end Sys2Proof.Proofs
end

section
/-! SUPPORT. The signals of a quoin port (R119, R366, R557 to R561): registration, breaches and freezes, the end of a command. -/
namespace Sys2Proof.Proofs
open Sys2Proof.Machine

variable {s t u : State} {c : Cmd} {p cid k : Nat}

theorem cmd?_of_cmds (h : t.cmds = s.cmds) (j : Nat) : cmd? t j = cmd? s j := by rw [cmd?, cmd?, h]

theorem qport_of_quoin (h : t.quoin = s.quoin) (j : Nat) : qport t j = qport s j := by rw [qport, qport, h]

/-- A row of a quoin port. -/
theorem onQuoin_powered {f : State → State} (hp : s.start.powered = true) (hq : p < quoinPorts s) :
    onQuoin p f s = .next (keep (.boxes :: fpWork) s (f s)) := by
  unfold onQuoin
  rw [decide_eq_true hq, onUnit_true, run_powered hp]

/-- A row of a quoin port that does nothing. -/
theorem onQuoin_same {f : State → State} (hp : s.start.powered = true) (hq : p < quoinPorts s) (hf : f s = s) : onQuoin p f s = .next s := by
  rw [onQuoin_powered hp hq, hf, keep_self]

/-- The sources of a quoin port are there. -/
theorem pend_quoin (h : p < quoinPorts s) (hk : k < 4) : 144 + 4 * p + k ∈ (raise (srcQuoin p k) s).irq.pend := by
  have hp : p < 4 := by
    unfold quoinPorts at h
    split at h <;> omega
  have hres : srcReserved s (srcQuoin p k) = false := by
    have h1 : srcQuoin p k / 32 = 4 := by unfold srcQuoin; omega
    have h2 : srcQuoin p k % 32 = 16 + 4 * p + k := by unfold srcQuoin; omega
    have h3 : ¬512 ≤ srcQuoin p k := by unfold srcQuoin; omega
    have h4 : ¬quoinPorts s ≤ (16 + 4 * p + k - 16) / 4 := by omega
    unfold srcReserved
    dsimp only
    rw [h1, h2, if_neg h3, if_neg (by omega), if_neg (by omega)]
    simp [h4]
    omega
  rw [raise_pend, hres, if_neg (by simp)]
  exact (mem_sput _ _ _).2 (.inl (by unfold srcQuoin; omega))

/-! ## Violations and breaches -/

theorem plumbRec_prod (r : PlumbRec) : (plumbRec r s).plumb.log.prod = (s.plumb.log.prod + 1) % 2 ^ 32 := by
  unfold plumbRec
  rw [raise_changes]
  rfl

/-- A violation of an engine freezes its command. -/
theorem frozenBy_violation {master reason strm address : Nat} (hx : cmd? s cid = some c) :
    FrozenBy p cid master reason strm address s (quoinViolation p strm master reason address cid s) := by
  unfold quoinViolation
  rw [hx]
  dsimp only
  obtain ⟨r, hr⟩ : ∃ r : PlumbRec, r = {
    kind := 1, master := master, bay := c.bay, reason := reason, queue := c.queue, slot := slotOf s c, unit := p * 4096 + strm, address := address } := ⟨_, rfl⟩
  obtain ⟨v, hv⟩ : ∃ v, v = plumbRec r s := ⟨_, rfl⟩
  rw [← hr, ← hv]
  obtain ⟨w, hw⟩ : ∃ w, w = cmdError c 0x03 0x30 0 address none 3 v := ⟨_, rfl⟩
  rw [← hw]
  have hvw : Wrote v w := hw ▸ wrote_cmdError _ _ _ _ _ _ _
  have hcw : cmd? w cid = some c := (cmd?_of_cmds hvw.cmds cid).trans ((cmd?_of_cmds (hv ▸ (leaves_plumbRec _).cmds) cid).trans hx)
  refine ⟨⟨{ stoppedCmd c with st := .frozen, viol := some { master := master, reason := reason, unit := p * 4096 + strm, address := address } }, ?_, rfl, rfl⟩, ?_⟩
  · rw [cmd?_modCmd_same, cmd?_of_cmds (modQp_cmds _ _ _), cmd?_halt, hcw]
    rfl
  · rw [modCmd_plumb, modQp_plumb, (halt_spec none).1.plumb, hvw.plumb, hv, plumbRec_prod]

/-- A breach of a running command's engine freezes it. -/
theorem frozenBy_breach (hx : cmd? s cid = some c) (hid : c.cid = cid) (hcm : c.committed = false) (hst : c.st = .running) :
    FrozenBy p cid 3 0x22 0 0 s (breach p (some cid) s) := by
  have hr : Wrote s (raise (srcQuoin p 3) s) := wrote_raise _
  have hxr : cmd? (raise (srcQuoin p 3) s) cid = some c := (cmd?_of_cmds hr.cmds cid).trans hx
  have hgo : breach p (some cid) s = quoinViolation p 0 3 0x22 0 cid (raise (srcQuoin p 3) s) := by
    unfold breach
    simp only [Option.bind_some, hxr, hcm, hst, hid]
    rfl
  obtain ⟨hd, hp⟩ := frozenBy_violation (p := p) (master := 3) (reason := 0x22) (strm := 0) (address := 0) hxr
  rw [hgo]
  exact ⟨hd, by rw [hp, hr.plumb]⟩

/-- A breach with no command. -/
theorem bareBreach (hq : p < quoinPorts s) : BareBreach p s (breach p none s) := by
  have hgo : breach p none s = plumbRec { kind := 1, master := 3, reason := 0x22, unit := p * 4096 } (raise (srcQuoin p 3) s) := rfl
  have hr : Wrote s (raise (srcQuoin p 3) s) := wrote_raise _
  rw [hgo]
  refine ⟨?_, by rw [plumbRec_prod, hr.plumb], (leaves_plumbRec _).grows.pend _ (pend_quoin hq (by omega))⟩
  unfold plumbRec
  rw [raise_changes, raise_changes]
  rfl

/-- What a breach changes lies within the footprint of a port's row. -/
theorem bareBreach_keep (h : BareBreach p s t) : BareBreach p s (keep (.boxes :: fpWork) s t) := by
  obtain ⟨honly, hp, hs⟩ := h
  exact ⟨changesOnly_within honly _, hp, hs⟩

/-- A signal that presupposes a command finds it. -/
theorem withHeld_some {f : Cmd → State → State} (hh : (qport s p).heldReset = false) (hc : (qport s p).cid = some cid) (hx : cmd? s cid = some c) :
    withHeld p f s = f c s := by
  simp [withHeld, hh, hc, cmdD_of_cmd? hx]

theorem withHeld_held {f : Cmd → State → State} (hh : (qport s p).heldReset = true) : withHeld p f s = s := by simp [withHeld, hh]

theorem withHeld_breach {f : Cmd → State → State} (hh : (qport s p).heldReset = false) (hc : (qport s p).cid = none) (hk : (qport s p).killed = none)
    (hd : (qport s p).doneOf = none) : withHeld p f s = breach p none s := by simp [withHeld, hh, hc, hk, hd]

theorem withHeld_killed {f : Cmd → State → State} (hh : (qport s p).heldReset = false) (hc : (qport s p).cid = none) (hk : (qport s p).killed ≠ none) :
    withHeld p f s = s := by simp [withHeld, hh, hc, Option.isSome_iff_ne_none, hk]

/-! ## Registration (R558) -/

theorem calm_killReady : Calm s (killReady k s) := (calm_halt none).trans calm_toReady

/-- Killing what a condition holds for leaves the reset unit and the lift's number. -/
theorem killWhere_spec (f : Cmd → Bool) : Calm s (killWhere f s) ∧ Lifted s (killWhere f s) :=
  ⟨.each (fun _ _ => calm_killReady) _, .each (fun _ _ => lifted_killReady) _⟩

theorem qport_resetQuoin : qport (resetQuoin p s) p = { qport s p with
    ready := false, words := [], registered := false, cid := none, killed := none, doneOf := none, writes := [], stat := [] } := by
  unfold resetQuoin
  rw [qport_modQp_same, qport_emit, qport_emit]

/-- The engine drops ready: its port is as a reset leaves it, the engine reset is noted, and the next domain's reset is wanted. -/
theorem readyFalls_spec (hnow : s.rst.now = none) (hwant : s.rst.want = none) (hrep : s.sec.repointing = false) (hno : ∀ r ∈ s.rst.engines, r.engine ≠ .quoin p) :
    (qport (readyFalls p s) p).ready = false ∧ (qport (readyFalls p s) p).cid = none ∧ (readyFalls p s).rst.want = some (resetAt false 4 s) ∧
      (readyFalls p s).rst.engines = { engine := .quoin p, time := s.rst.time, lift := s.lift.num } :: s.rst.engines := by
  obtain ⟨v, hv⟩ : ∃ v, v = modQp p (fun q => { q with ready := false, words := [], registered := false }) s := ⟨_, rfl⟩
  obtain ⟨w, hw⟩ : ∃ w, w = { v with rst := { v.rst with engines := { engine := .quoin p, time := v.rst.time, lift := v.lift.num } :: v.rst.engines } } := ⟨_, rfl⟩
  obtain ⟨x, hx⟩ : ∃ x, x = killWhere (fun c => opc c == opQuoin && wOf c == p) w := ⟨_, rfl⟩
  obtain ⟨y, hy⟩ : ∃ y, y = tlbClear (3 + p) (resetQuoin p x) := ⟨_, rfl⟩
  obtain ⟨hcalm, hlift⟩ := killWhere_spec (s := w) (fun c => opc c == opQuoin && wOf c == p)
  rw [← hx] at hcalm hlift
  have hvr : v.rst = s.rst := by rw [hv]; rfl
  have hvl : v.lift = s.lift := by rw [hv]; rfl
  have hwr : w.rst = { s.rst with engines := { engine := .quoin p, time := s.rst.time, lift := s.lift.num } :: s.rst.engines } := by rw [hw, hvr, hvl]
  have hyr : y.rst = w.rst := by rw [hy]; exact hcalm.rst
  have hys : y.sec = s.sec := by
    rw [hy]
    exact hcalm.sec.trans (by rw [hw, hv]; rfl)
  have hyl : y.lift.num = s.lift.num := by
    have hxw : x.lift.num = w.lift.num := by rw [hlift.lift]
    rw [hy]
    exact hxw.trans (by rw [hw, hv]; rfl)
  have hreset : engineReset (.quoin p) v = y := by
    unfold engineReset
    rw [hvr, hnow, if_neg (by simp), if_neg (by simp), if_neg (by simpa using hno), hy, hx, hw, hvr]
    rfl
  have hport : qport y p = { qport x p with
      ready := false, words := [], registered := false, cid := none, killed := none, doneOf := none, writes := [], stat := [] } := by
    rw [hy]
    exact qport_resetQuoin
  have hwantY : wantReset false 4 y = setWant false 4 y := by
    unfold wantReset
    simp [hyr, hwr, hnow, hwant, hys, hrep]
  have hgo : readyFalls p s = setWant false 4 y := by
    unfold readyFalls
    dsimp only
    rw [← hv, hvr, hnow, if_neg (by simp), hreset, ← hwantY]
    simp [runsReset, hyr, hwr, hnow]
  rw [hgo]
  refine ⟨(congrArg QPort.ready hport), (congrArg QPort.cid hport), ?_, ?_⟩
  · show some (resetAt false 4 y) = _
    simp [resetAt, hyr, hwr, hyl]
  · show y.rst.engines = _
    rw [hyr, hwr]

/-! ## The end of a command (R559) -/

/-- The engine has said done. -/
def saidDone (p cid : Nat) (s : State) : State := modQp p (fun q => { q with cid := none, doneOf := some cid, writes := [] }) s

theorem qport_saidDone : qport (saidDone p cid s) p = { qport s p with cid := none, doneOf := some cid, writes := [] } := qport_modQp_same _ _ _

/-- An engine that meets a detection: its command waits READY again. -/
theorem detect_again (hx : cmd? s cid = some c) (hcm : c.committed = false) (hst : c.st = .running) (hab : c.abort = false) (hdets : c.dets.length < 2) :
    (∃ d, cmd? (detect cid 7 none 4 0 s) cid = some d ∧ d.st = .ready ∧ d.dets = c.dets ++ [7] ∧ d.reruns = c.reruns + 1) ∧
    Calm s (detect cid 7 none 4 0 s) ∧ Grows s (detect cid 7 none 4 0 s) ∧
    ∀ j, (qport (detect cid 7 none 4 0 s) j).cid = none ∨ (qport (detect cid 7 none 4 0 s) j).cid = (qport s j).cid := by
  obtain ⟨v, hv⟩ : ∃ v, v = rasRec 1 7 c.bay 0 4 0 (qslot s c) (countDet 7 s) := ⟨_, rfl⟩
  have hsv : Wrote s v := by
    rw [hv]
    unfold rasRec
    exact Wrote.trans (by exact wrote_of) (wrote_raise 9)
  have hcv : Calm s v := hv ▸ (calm_countDet 7).trans (calm_rasRec _ _ _ _ _ _ _)
  obtain ⟨w, hw⟩ : ∃ w, w = halt cid none v := ⟨_, rfl⟩
  have hvw : LeavesRings v w := hw ▸ (halt_spec none).1
  have hxw : cmd? w cid = some (stoppedCmd c) := by
    rw [hw, cmd?_halt, cmd?_of_cmds hsv.cmds, hx]
    rfl
  have hlen : ¬3 ≤ (c.dets ++ [7]).length := by simp; omega
  have hgo : detect cid 7 none 4 0 s = modCmd cid (fun x => { x with redet := true }) (toReady cid (modCmd cid (fun x => { x with
      dets := c.dets ++ [7], detAt := c.detAt ++ [], reruns := x.reruns + 1 }) w)) := by
    unfold detect
    simp only [hx, hcm, hst, hab]
    rw [if_neg (by decide), if_neg (by simp), if_neg hlen, if_neg (by decide), hw, hv]
    rfl
  have hl : ∀ (f : Cmd → Cmd) (u : State), LeavesRings u (modCmd cid f u) := fun f u => leaves_modCmd f
  have hall : LeavesRings w (modCmd cid (fun x => { x with redet := true }) (toReady cid (modCmd cid (fun x => { x with
      dets := c.dets ++ [7], detAt := c.detAt ++ [], reruns := x.reruns + 1 }) w))) := ((hl _ _).trans (hl _ _)).trans (hl _ _)
  rw [hgo]
  refine ⟨?_, ?_, (hsv.toLeavesRings.trans hvw).grows.trans hall.grows, ((hsv.toLeavesRings.trans hvw).trans hall).ports⟩
  · unfold toReady
    rw [cmd?_modCmd_same, cmd?_modCmd_same, cmd?_modCmd_same, hxw]
    exact ⟨_, rfl, rfl, rfl, rfl⟩
  · exact (hcv.trans (hw ▸ calm_halt none)).trans (((calm_modCmd _).trans calm_toReady).trans (calm_modCmd _))

/-- An engine error ends a command of a ring. -/
theorem completesWith_killDone (hx : cmd? s cid = some c) (hid : c.cid = cid) (hp : c.parent = none) (hb : c.batch = none) (hr : ∀ b, RingsAs (bay s b) (bay t b))
    (hw : t.hw = s.hw) (hsec : t.sec = s.sec) (hc : t.cmds = s.cmds) :
    CompletesWith s c 0x30 (if opc c = opCollective then c.result else 0) (killDone cid 0x30 false t) := by
  subst hid
  obtain ⟨v, hv⟩ : ∃ v, v = halt c.cid none t := ⟨_, rfl⟩
  have htv : LeavesRings t v := hv ▸ (halt_spec none).1
  have hxv : cmd? v c.cid = some (stoppedCmd c) := by
    rw [hv, cmd?_halt, cmd?_of_cmds hc, hx]
    rfl
  have hfp : v.hw = t.hw ∧ v.sec = t.sec := by rw [← htv.only]; exact ⟨rfl, rfl⟩
  unfold killDone
  rw [← hv]
  exact completesWith_finish (x := stoppedCmd c) ((hr _).trans (htv.rings _)) (hfp.1.trans hw) (hfp.2.trans hsec) hxv hp hb rfl rfl rfl rfl

end Sys2Proof.Proofs
end

section
/-! SUPPORT. Memory requests of a quoin engine (R389, R390, R561): what a port's translations leave, and a request that translates to placed
memory. -/
namespace Sys2Proof.Proofs
open Sys2Proof.Machine

variable {s t u : State} {c : Cmd} {p b : Nat}

/-! ## A port's translations (R389) -/

/-- The same state but for what the translation caches hold, and the free values drawn for it. -/
structure CachedAs (s t : State) : Prop where
  only : t = { s with bays := t.bays, out := t.out }
  log : t.out.log = s.out.log
  count : t.bays.count = s.bays.count
  bay : ∀ b, bay t b = { bay s b with mem := { (bay s b).mem with tlbs := (bay t b).mem.tlbs } }

theorem CachedAs.refl : CachedAs s s := ⟨rfl, rfl, rfl, fun _ => rfl⟩

theorem CachedAs.trans (h : CachedAs s t) (g : CachedAs t u) : CachedAs s u :=
  ⟨by rw [g.only, h.only], g.log.trans h.log, g.count.trans h.count, fun b => by rw [g.bay b, h.bay b]⟩

theorem cachedAs_modBm (f : BayMem → BayMem) (hf : ∀ m, f m = { m with tlbs := (f m).tlbs }) : CachedAs s (modBm b f s) where
  only := rfl
  log := rfl
  count := rfl
  bay k := by
    by_cases h : k = b
    · subst h
      rw [bay_modBm_same, hf]
    · rw [bay_modBm_ne h]

theorem cachedAs_tlbFill (k : Nat) (pages : List Nat) (s : State) : CachedAs s (tlbFill b k pages s) := by
  unfold tlbFill
  induction pages generalizing s with
  | nil => exact .refl
  | cons pg pages ih =>
    refine CachedAs.trans (CachedAs.trans ?_ (cachedAs_modBm _ fun _ => rfl)) (ih _)
    unfold tlbDraw
    split
    · exact ⟨rfl, rfl, rfl, fun _ => rfl⟩
    · exact .refl

theorem cachedAs_portXlate (d : DmaDesc) (s : State) : CachedAs s (portXlate p c d s) := cachedAs_tlbFill _ _ _

/-- Cached translations do not bear on where an address leads. -/
theorem CachedAs.xlate (h : CachedAs s t) (b va need : Nat) (stale : Bool) : xlate t b va need stale = xlate s b va need stale := by
  have hw : t.hw = s.hw := by rw [h.only]
  refine xlate_congr (fun f off => ?_) ?_ ?_ ?_ (fun k => ?_) va need stale
  · unfold physOf shareBytes shareExtents physTop installedGib hbmPorts reservedBytes isF
    rw [hw, h.count]
  all_goals rw [h.bay b]

theorem CachedAs.cmds (h : CachedAs s t) : t.cmds = s.cmds := by rw [h.only]
theorem CachedAs.mem (h : CachedAs s t) : t.mem = s.mem := by rw [h.only]
theorem CachedAs.quoin (h : CachedAs s t) : t.quoin = s.quoin := by rw [h.only]

theorem CachedAs.poisonVa (h : CachedAs s t) (b va n : Nat) : poisonVa t b va n = poisonVa s b va n := by
  simp only [Machine.poisonVa, h.xlate, poisonIn, h.mem]

theorem CachedAs.recordWrites (h : CachedAs s t) (b : Nat) (d : DmaDesc) (ob : List OutRec) : recordWrites t b d ob = recordWrites s b d ob := by
  simp only [Machine.recordWrites, h.xlate]

/-! ## A request that translates to placed memory (R390) -/

variable {va n : Nat} {wr : Bool}

theorem memRows_req : memRows (reqDesc va n wr) = [(va, n)] := by simp [memRows, reqDesc]

/-- A plain request does not fault, and none of its pages is the host's. -/
theorem plainReq_spec (h : plainReq s c va n wr = true) (stale : Nat → Bool) : dmaFault c.batch.isSome s c.bay (reqDesc va n wr) stale = none ∧
    hostPagesOf s c.bay (memRows (reqDesc va n wr)) (if wr then 2 else 1) stale = [] := by
  simp only [plainReq, List.all_cons, List.all_nil, Bool.and_true, Bool.and_eq_true, Option.isNone_iff_eq_none, List.isEmpty_iff, dmaFault, hostPagesOf,
    firstFaultIn, List.findSome?_eq_none_iff, List.flatMap_eq_nil_iff, List.filterMap_eq_nil_iff] at h ⊢
  obtain ⟨⟨ht, ht'⟩, hf, hf'⟩ := h
  refine ⟨fun r hr q hq => ?_, fun r hr q hq => ?_⟩
  · cases stale (q.1 / 4096) with
    | true => exact ht r hr q hq
    | false => exact hf r hr q hq
  · cases stale (q.1 / 4096) with
    | true => exact ht' r hr q hq
    | false => exact hf' r hr q hq

/-- A plain request of a bay whose interface issues is served. -/
theorem translated_plain {f : State → State} (h : plainReq s c va n wr = true) (hs : hostShut s c.bay = false) :
    translated p c (reqDesc va n wr) f s = f (portXlate p c (reqDesc va n wr) s) := by
  obtain ⟨hno, hhost⟩ := plainReq_spec h (portHit s p c)
  have hto : (reqDesc va n wr).toMem = wr := rfl
  unfold translated
  simp only [hno, hto, hhost, hs]
  simp [atsMiss, atsDenied]

theorem macFailures_none {env : Env} (h : env.bad = []) (b va pa n : Nat) (s : State) : macFailures b va pa n env s = s := by simp [macFailures, badBlocks, h]

theorem foldl_macFailures {env : Env} (h : env.bad = []) (l : List (Nat × Nat × Nat)) (s : State) :
    l.foldl (fun u q => macFailures b q.1 q.2.1 q.2.2 env u) s = s := by
  simp only [macFailures_none h]
  exact foldl_same _ _

theorem mergeRows_none {env : Env} (h : env.bad = []) (d : DmaDesc) (s : State) : mergeRows c d env s = s := by
  have hm : ∀ b va pa n (s : State), mergeFailures b va pa n env s = s := fun b va pa n s => macFailures_none (by simp [h]) b va pa n s
  unfold mergeRows
  split
  · rfl
  · simp only [hm, foldl_same]

/-! ## What counting and asking leave -/

/-- The same state but for the bays. -/
def BaysOnly (s t : State) : Prop := t = { s with bays := t.bays }

theorem baysOnly_countLines (va k : Nat) (wr : Bool) : BaysOnly s (countLines b va k wr s) := by
  unfold countLines modExtent
  split
  · exact rfl
  · exact rfl

theorem BaysOnly.trans (h : BaysOnly s t) (g : BaysOnly t u) : BaysOnly s u := by
  unfold BaysOnly at *
  rw [g, h]

theorem baysOnly_countRange (va n : Nat) (wr : Bool) : BaysOnly s (countRange b va n wr s) := by
  unfold countRange
  split
  · exact rfl
  split
  · exact baysOnly_countLines _ _ _
  · exact foldl_inv (BaysOnly s) _ _ (fun t q h => BaysOnly.trans h (baysOnly_countLines _ _ _)) _ rfl

/-- The reads a range takes of others leave the block's memory, commands and ports. -/
theorem fabric_askVa (va n : Nat) : FabricOnly s (askVa b va n s) := by
  unfold askVa
  refine foldl_inv (FabricOnly s) _ _ (fun t q h => FabricOnly.trans h ?_) _ rfl
  split
  · unfold askWin
    split
    · exact ownJob_fabric _ _
    · rfl
  · rfl
  · exact ownJob_fabric _ _
  · rfl

/-! ## The rows of an engine's signals -/

variable {cid : Nat}

theorem held_enginesCmd {f : Cmd → State → State} (h : enginesCmd s p cid c) (hq : p < quoinPorts s) :
    onQuoin p (withHeld p f) s = .next (keep (.boxes :: fpWork) s (f c s)) := by
  obtain ⟨⟨hpow, hx, hid⟩, hh, hc, -⟩ := h
  rw [onQuoin_powered hpow hq, withHeld_some hh hc hx]

theorem frozen_breach (h : enginesCmd s p cid c) : FrozenBy p cid 3 0x22 0 0 s (breach p (some cid) s) := by
  obtain ⟨⟨-, hx, hid⟩, -, -, hcm, hst, -⟩ := h
  exact frozenBy_breach hx hid hcm hst

theorem frozenBy_keep {master reason unit addr : Nat} (h : FrozenBy p cid master reason unit addr s t) :
    FrozenBy p cid master reason unit addr s (keep (.boxes :: fpWork) s t) := h

/-- A read of placed memory that nothing disturbs answers the bytes. -/
theorem serveRead_clean {env : Env} {strm va n : Nat} {bs : List Byte} (hdet : env.det = none) (hce : env.ce = none) (hbad : env.bad = [])
    (hpo : poisonVa s c.bay va n = none) (hrd : readVa s c.bay env true va n = some bs) :
    serveRead p strm va n env c s = emit (.quoinRdata p strm 0 bs) (askVa c.bay va n (countRange c.bay va n false s)) := by
  unfold serveRead
  simp only [hce, foldl_macFailures hbad, hdet, hpo, hrd]

/-- A write request of placed memory adds no outbox record. -/
theorem acceptWrite_plain {va n : Nat} (hx : cmd? s c.cid = some c) (hrec : recordWrites s c.bay (reqDesc va n true) c.outbox = c.outbox) (hout : c.outCount ≤ 512) :
    ∃ t, acceptWrite p va n c s = countRange c.bay va n true (modQp p (fun q => { q with writes := q.writes ++ [{ va := va, left := n }] }) t) ∧
      cmd? t c.cid = some c ∧ t.mem = s.mem ∧ t.quoin = s.quoin := by
  have hgrow : outboxGrowth c.outbox c.outbox = 0 := Nat.sub_self _
  refine ⟨modCmd c.cid (fun x => { x with outbox := c.outbox, outCount := x.outCount + 0 }) s, ?_, ?_, modCmd_mem _ _ _, modCmd_quoin _ _ _⟩
  · unfold acceptWrite
    dsimp only
    rw [hrec, hgrow, if_neg (by omega)]
  · rw [cmd?_modCmd_same, hx]
    rfl

end Sys2Proof.Proofs
end

section
/-! SUPPORT. The signals of a quoin port, assembled (R558 to R561). -/
namespace Sys2Proof.Proofs
open Sys2Proof.Machine

variable {s t u : State} {c : Cmd} {p cid : Nat}

/-! ## Registration words (R558) -/

/-- The port after a good registration word. -/
theorem qport_regWord {w : W64} (hh : (qport s p).heldReset = false) (hr : (qport s p).ready = true) (hn : (qport s p).registered = false)
    (hok : regWordOk (qport s p).words.length w = true) : ChangesOnly [.quoin] s (quoinRegWord p w s) ∧
    qport (quoinRegWord p w s) p = registered { qport s p with words := (qport s p).words ++ [w] } := by
  have hgo : quoinRegWord p w s = modQp p (fun q => registered { q with words := q.words ++ [w] }) s := by simp [quoinRegWord, hh, hr, hn, hok]
  rw [hgo, qport_modQp_same]
  exact ⟨rfl, rfl⟩

theorem quoinRegWord_ignored {w : W64} (h : (qport s p).heldReset = true ∨ (qport s p).ready = false ∨ (qport s p).registered = true) :
    quoinRegWord p w s = s := by
  unfold quoinRegWord
  dsimp only
  rw [if_pos]
  rcases h with h | h | h <;> simp [h]

/-! ## Signals out of turn -/

theorem frozen_stopped (h : enginesCmd s p cid c) (hk : (qport s p).killed = none) (stat : List W64) : FrozenBy p cid 3 0x22 0 0 s (quoinStopped p stat s) := by
  have hgo : quoinStopped p stat s = breach p (some cid) s := by simp [quoinStopped, h.2.1, h.2.2.1, hk]
  rw [hgo]
  exact frozen_breach h

theorem frozen_scrubAck (h : enginesCmd s p cid c) (hk : (qport s p).scrub = false) : FrozenBy p cid 3 0x22 0 0 s (scrubAck p s) := by
  have hgo : scrubAck p s = breach p (some cid) s := by simp [scrubAck, h.2.1, h.2.2.1, hk]
  rw [hgo]
  exact frozen_breach h

/-! ## The done word (R559) -/

theorem doneWord_again {w : W64} (h : enginesCmd s p cid c) (hq : p < quoinPorts s) (hw : bits w.toNat 7 0 = 1) (hab : c.abort = false) (hdets : c.dets.length < 2) :
    let t := doneWord p w c s
    (qport t p).cid = none ∧ (∃ d, cmd? t cid = some d ∧ d.st = .ready ∧ d.dets = c.dets ++ [7] ∧ d.reruns = c.reruns + 1) ∧ t.rst = s.rst ∧
      144 + 4 * p + 2 ∈ t.irq.pend := by
  obtain ⟨⟨hpow, hx, hid⟩, hh, hc, hcm, hst, hbay⟩ := h
  obtain ⟨v, hv⟩ : ∃ v, v = saidDone p cid s := ⟨_, rfl⟩
  obtain ⟨r, hr⟩ : ∃ r, r = raise (srcQuoin p 2) v := ⟨_, rfl⟩
  have hvr : Wrote v r := hr ▸ wrote_raise _
  have hxr : cmd? r cid = some c := (cmd?_of_cmds hvr.cmds cid).trans (by rw [hv]; exact hx)
  obtain ⟨⟨d, hd, hrest⟩, hcalm, hgrow, hports⟩ := detect_again hxr hcm hst hab hdets
  have hgo : doneWord p w c s = detect cid 7 none 4 0 r := by
    unfold doneWord
    dsimp only
    rw [hw, if_neg (by decide), if_pos rfl, hid, ← saidDone, ← hv, ← hr]
    unfold resetIfExhausted
    rw [hid, hd]
    simp
  have hcid : (qport r p).cid = none := by
    rw [qport_of_quoin hvr.quoin, hv, qport_saidDone]
  dsimp only
  rw [hgo]
  refine ⟨?_, ⟨d, hd, hrest⟩, ?_, hgrow.pend _ ?_⟩
  · rcases hports p with hp | hp
    · exact hp
    · exact hp.trans hcid
  · exact hcalm.rst.trans ((hr ▸ calm_raise _ : Calm v r).rst.trans (by rw [hv]; rfl))
  · rw [hr]
    exact pend_quoin (by rw [hv]; exact hq) (by omega)

theorem doneWord_error {w : W64} (h : enginesCmd s p cid c) (hw : 2 ≤ bits w.toNat 7 0) (hpar : c.parent = none) (hbat : c.batch = none) :
    let t := doneWord p w c s
    CompletesWith s c 0x30 (if opc c = opCollective then c.result else 0) t ∧ (qport t p).cid = none := by
  obtain ⟨⟨hpow, hx, hid⟩, hh, hc, hcm, hst, hbay⟩ := h
  obtain ⟨v, hv⟩ : ∃ v, v = saidDone p cid s := ⟨_, rfl⟩
  have hgo : doneWord p w c s = killDone cid 0x30 false v := by
    unfold doneWord
    dsimp only
    rw [if_neg (by omega), if_neg (by omega), hid, ← saidDone, ← hv]
  have hcid : (qport v p).cid = none := by rw [hv, qport_saidDone]
  have hleaves : Leaves v (killDone cid 0x30 false v) := (halt_spec none).1.toLeaves.trans (leaves_finish _ _ _)
  dsimp only
  rw [hgo]
  refine ⟨completesWith_killDone hx hid hpar hbat (fun _ => by rw [hv]; exact .refl _) (by rw [hv]; rfl) (by rw [hv]; rfl) (by rw [hv]; rfl), ?_⟩
  rcases hleaves.ports p with hp | hp
  · exact hp
  · exact hp.trans hcid

/-! ## Memory requests (R561) -/

variable {r : BitVec 128} {env : Env}

/-- A request of a good length on a stream that is not frozen. -/
structure GoodReq (s : State) (p : Nat) (c : Cmd) (w : Nat) : Prop where
  low : 64 ≤ bits w 17 5
  high : bits w 17 5 ≤ 4096
  lines : bits w 17 5 % 64 = 0
  open_ : (qport s p).frozenStreams.contains (c.bay, bits w 4 1) = false

theorem quoinReq_length (h : ¬(64 ≤ bits r.toNat 17 5 ∧ bits r.toNat 17 5 ≤ 4096 ∧ bits r.toNat 17 5 % 64 = 0)) :
    quoinReq p r env c s = breach p (some c.cid) s := by
  unfold quoinReq
  dsimp only
  rw [if_pos (by omega)]

theorem quoinReq_frozen (h1 : 64 ≤ bits r.toNat 17 5) (h2 : bits r.toNat 17 5 ≤ 4096) (h3 : bits r.toNat 17 5 % 64 = 0)
    (h : (qport s p).frozenStreams.contains (c.bay, bits r.toNat 4 1) = true) : quoinReq p r env c s = s := by
  unfold quoinReq
  dsimp only
  rw [if_neg (by omega), if_pos h]

variable {va n strm : Nat}

/-- A write request, by where it goes. -/
theorem quoinReq_write (h : GoodReq s p c r.toNat) (hwr : bit r.toNat 0 = true) (hva : va = bits r.toNat 81 30) (hn : n = bits r.toNat 17 5)
    (hstrm : strm = bits r.toNat 4 1) :
    (inStaging c va n = true → quoinReq p r env c s = modQp p (fun q => { q with writes := q.writes ++ [{ va := va, left := n }] }) s) ∧
    (inStaging c va n = false → ∀ a, outsideOutputs c (reqDesc va n true) = some a → quoinReq p r env c s = quoinViolation p strm 3 0x20 a c.cid s) ∧
    (inStaging c va n = false → outsideOutputs c (reqDesc va n true) = none →
      quoinReq p r env c s = translated p c (reqDesc va n true) (fun t => acceptWrite p va n c (mergeRows c (reqDesc va n true) env t)) s) := by
  obtain ⟨h1, h2, h3, hopen⟩ := h
  unfold quoinReq
  dsimp only
  rw [if_neg (by omega), if_neg (by simpa using hopen), if_pos hwr, ← hva, ← hn, ← hstrm]
  refine ⟨fun hin => if_pos hin, fun hin a ha => ?_, fun hin ha => ?_⟩
  · rw [if_neg (by simp [hin]), ha]
  · rw [if_neg (by simp [hin]), ha]

/-- A read request, by whether the declared ranges cover it. -/
theorem quoinReq_read (h : GoodReq s p c r.toNat) (hwr : bit r.toNat 0 = false) (hva : va = bits r.toNat 81 30) (hn : n = bits r.toNat 17 5)
    (hstrm : strm = bits r.toNat 4 1) :
    (∀ a, uncovered (c.desc.ins ++ c.desc.outs) ((c.desc.ins ++ c.desc.outs).length + 1) va n = some a →
      quoinReq p r env c s = quoinViolation p strm 4 0x30 a c.cid s) ∧
    (uncovered (c.desc.ins ++ c.desc.outs) ((c.desc.ins ++ c.desc.outs).length + 1) va n = none →
      quoinReq p r env c s = translated p c (reqDesc va n false) (serveRead p strm va n env c) s) := by
  obtain ⟨h1, h2, h3, hopen⟩ := h
  unfold quoinReq
  dsimp only
  rw [if_neg (by omega), if_neg (by simpa using hopen), if_neg (by simp [hwr]), ← hva, ← hn, ← hstrm]
  exact ⟨fun a ha => by rw [ha], fun ha => by rw [ha]⟩

/-- A plain read's bytes go to the engine, and nothing of commands, memory and ports changes. -/
theorem translated_read {bs : List Byte} (hdet : env.det = none) (hce : env.ce = none) (hbad : env.bad = []) (hs : hostShut s c.bay = false)
    (hplain : plainReq s c va n false = true) (hpo : poisonVa s c.bay va n = none)
    (hrd : readVa (portXlate p c (reqDesc va n false) s) c.bay env true va n = some bs) :
    let t := translated p c (reqDesc va n false) (serveRead p strm va n env c) s
    .quoinRdata p strm 0 bs ∈ t.out.log ∧ t.cmds = s.cmds ∧ t.mem.hbm = s.mem.hbm ∧ t.quoin = s.quoin := by
  obtain ⟨v, hv⟩ : ∃ v, v = portXlate p c (reqDesc va n false) s := ⟨_, rfl⟩
  have hc : CachedAs s v := hv ▸ cachedAs_portXlate _ _
  rw [← hv] at hrd
  obtain ⟨w, hw⟩ : ∃ w, w = countRange c.bay va n false v := ⟨_, rfl⟩
  have hvw : BaysOnly v w := hw ▸ baysOnly_countRange _ _ _
  obtain ⟨x, hx⟩ : ∃ x, x = askVa c.bay va n w := ⟨_, rfl⟩
  have hwx : FabricOnly w x := hx ▸ fabric_askVa _ _
  dsimp only
  rw [translated_plain hplain hs, ← hv, serveRead_clean hdet hce hbad ((hc.poisonVa _ _ _).trans hpo) hrd, ← hw, ← hx]
  refine ⟨List.mem_cons_self, ?_, ?_, ?_⟩
  · show x.cmds = _
    rw [hwx, hvw]
    exact hc.cmds
  · show x.mem.hbm = _
    rw [hwx, hvw]
    exact congrArg _ hc.mem
  · show x.quoin = _
    rw [hwx, hvw]
    exact hc.quoin

/-- A plain write request waits for its data, and nothing of the command and memory changes. -/
theorem translated_write (hx : cmd? s c.cid = some c) (hbad : env.bad = []) (hs : hostShut s c.bay = false) (hplain : plainReq s c va n true = true)
    (hrec : recordWrites s c.bay (reqDesc va n true) c.outbox = c.outbox) (hout : c.outCount ≤ 512) :
    let t := translated p c (reqDesc va n true) (fun t => acceptWrite p va n c (mergeRows c (reqDesc va n true) env t)) s
    qport t p = { qport s p with writes := (qport s p).writes ++ [{ va := va, left := n }] } ∧ cmd? t c.cid = some c ∧ t.mem.hbm = s.mem.hbm := by
  obtain ⟨v, hv⟩ : ∃ v, v = portXlate p c (reqDesc va n true) s := ⟨_, rfl⟩
  have hc : CachedAs s v := hv ▸ cachedAs_portXlate _ _
  obtain ⟨w, hgo, hcw, hmw, hqw⟩ := acceptWrite_plain (p := p) ((cmd?_of_cmds hc.cmds c.cid).trans hx) ((hc.recordWrites _ _ _).trans hrec) hout
  obtain ⟨x, hx⟩ : ∃ x, x = modQp p (fun q => { q with writes := q.writes ++ [{ va := va, left := n }] }) w := ⟨_, rfl⟩
  have hxy : BaysOnly x (countRange c.bay va n true x) := baysOnly_countRange _ _ _
  dsimp only
  rw [translated_plain hplain hs, ← hv, mergeRows_none hbad, hgo, ← hx]
  have hq : (countRange c.bay va n true x).quoin = x.quoin := by rw [hxy]
  have hcm : (countRange c.bay va n true x).cmds = x.cmds := by rw [hxy]
  have hm : (countRange c.bay va n true x).mem = x.mem := by rw [hxy]
  refine ⟨?_, ?_, ?_⟩
  · rw [qport_of_quoin hq, hx, qport_modQp_same, qport_of_quoin (hqw.trans hc.quoin)]
  · rw [cmd?_of_cmds hcm, hx]
    exact hcw
  · rw [hm, hx]
    exact congrArg _ (hmw.trans hc.mem)

/-! ## Write data (R561) -/

/-- Data that lands in the staging extent. -/
theorem landData_staging {d : List Byte} (hx : cmd? s c.cid = some c) (hin : inStaging c va d.length = true) :
    (landData c va d s).mem = s.mem ∧ (landData c va d s).quoin = s.quoin ∧ cmd? (landData c va d s) c.cid = some { c with direct := mputs (va - c.stageVa) d c.direct } := by
  unfold landData
  rw [if_pos hin]
  exact ⟨modCmd_mem _ _ _, modCmd_quoin _ _ _, by rw [cmd?_modCmd_same, hx]; rfl⟩

/-- Data that lands in memory. -/
theorem landData_inPlace {d : List Byte} {pa : Nat} (hin : inStaging c va d.length = false) (hst : staged c = false) (hpg : pagesOf va d.length = [(va, d.length)])
    (hxl : xlate s c.bay va 2 true = .ok (.hbm pa)) :
    (landData c va d s).cmds = s.cmds ∧ (landData c va d s).quoin = s.quoin ∧ (landData c va d s).mem.hbm = mputs pa d s.mem.hbm := by
  obtain ⟨v, hv⟩ : ∃ v, v = each (cutLines va d.length) (fun p t => noteLanded c.bay (if inPlace s c p.1 then none else some c.cid) (p.1 / 64) t) s := ⟨_, rfl⟩
  have hsv : v = { s with grid := v.grid } := by
    rw [hv]
    exact each_inv (fun t => t = { s with grid := t.grid }) _ _ (fun q t h => by rw [h]; rfl) s rfl
  have hxv : xlate v c.bay va 2 true = .ok (.hbm pa) := by rw [hsv]; exact hxl
  have hgo : landData c va d s = writePa pa d v := by
    unfold landData
    rw [if_neg (by simp [hin]), ← hv]
    simp [writeRow, hpg, hxv, hst]
  have hw : Wrote v (writePa pa d v) := wrote_writePa _ _
  rw [hgo]
  refine ⟨hw.cmds.trans (by rw [hsv]), hw.quoin.trans (by rw [hsv]), ?_⟩
  rw [hbm_writePa, hsv]

/-- What is left to come of the open write requests. -/
def restOf (w : QWrite) (ws : List QWrite) (d : List Byte) : List QWrite :=
  if w.left = d.length then ws else { va := w.va + d.length, left := w.left - d.length } :: ws

theorem quoinWdata_lands {d : List Byte} {w : QWrite} {ws : List QWrite} (hw : (qport s p).writes = w :: ws) (hd : d.length ≤ w.left) :
    quoinWdata p d c s = landData c w.va d (modQp p (fun q => { q with writes := restOf w ws d }) s) := by
  unfold quoinWdata
  rw [hw]
  dsimp only
  rw [if_neg (by omega)]
  rfl

theorem frozen_wdata {d : List Byte} (h : enginesCmd s p cid c)
    (hd : (qport s p).writes = [] ∨ ∃ w ws, (qport s p).writes = w :: ws ∧ w.left < d.length) : FrozenBy p cid 3 0x22 0 0 s (quoinWdata p d c s) := by
  have hgo : quoinWdata p d c s = breach p (some cid) s := by
    unfold quoinWdata
    rcases hd with hd | ⟨w, ws, hd, hl⟩
    · rw [hd, h.1.2.2]
    · rw [hd]
      dsimp only
      rw [if_pos hl, h.1.2.2]
  rw [hgo]
  exact frozen_breach h

/-! ## Outbox records (R561) -/

theorem frozen_obx {d : List Byte} (h : enginesCmd s p cid c) (hd : obxRecord s c d = none ∨ 512 ≤ c.outCount) :
    FrozenBy p cid 3 0x21 0 0 s (quoinObx p d c s) := by
  have hgo : quoinObx p d c s = quoinViolation p 0 3 0x21 0 cid s := by
    rw [quoinObx, h.1.2.2]
    rcases hd with hd | hd
    · rw [hd]
    · cases obxRecord s c d with
      | none => rfl
      | some r => exact if_pos hd
  rw [hgo]
  exact frozenBy_violation h.1.2.1

end Sys2Proof.Proofs
end

section
/-! SUPPORT. The rows of a quoin port (R558 to R561). -/
namespace Sys2Proof.Proofs
open Sys2Proof.Machine

variable {s t u : State} {c : Cmd} {p cid : Nat}

/-- A row of a quoin port that changes the port alone. -/
theorem keep_modQp (f : QPort → QPort) : ChangesOnly [.quoin] s (keep (.boxes :: fpWork) s (modQp p f s)) ∧
    qport (keep (.boxes :: fpWork) s (modQp p f s)) p = f (qport s p) :=
  ⟨changesOnly_within (by rfl) _, qport_modQp_same p f s⟩

/-- The signals that presuppose a command, while the engine is held in reset or has none. -/
theorem signals_idle (hpow : s.start.powered = true) (hq : p < quoinPorts s) (stat : List W64) (w : W64) (r : BitVec 128) (env : Env) (d x : List Byte) :
    ∀ i ∈ [Instr.quoinStopped p stat, .quoinScrubAck p, .quoinDone p w, .quoinReq p r env, .quoinWdata p d, .quoinObx p x],
      ((qport s p).heldReset = true → Answers i s fun t => t = s) ∧
      ((qport s p).heldReset = false → (qport s p).cid = none → (qport s p).doneOf = none → (qport s p).killed = none → (qport s p).scrub = false →
        Answers i s (BareBreach p s)) := by
  have hheld : ∀ f, (qport s p).heldReset = true → onQuoin p (withHeld p f) s = .next s := fun f hh => onQuoin_same hpow hq (withHeld_held hh)
  have hbare : ∀ f, f s = breach p none s → onQuoin p f s = .next (keep (.boxes :: fpWork) s (breach p none s)) := fun f hf => by
    rw [onQuoin_powered hpow hq, hf]
  have hb := bareBreach_keep (bareBreach hq)
  simp only [List.forall_mem_cons, List.not_mem_nil, false_imp_iff, implies_true, and_true]
  refine ⟨⟨fun hh => ⟨s, onQuoin_same hpow hq (by simp [quoinStopped, hh]), rfl⟩, fun hh hc hd hk _ => ⟨_, hbare _ (by simp [quoinStopped, hh, hc, hd, hk]), hb⟩⟩,
    ⟨fun hh => ⟨s, onQuoin_same hpow hq (by simp [scrubAck, hh]), rfl⟩, fun hh hc hd _ hs => ⟨_, hbare _ (by simp [scrubAck, hh, hc, hd, hs]), hb⟩⟩,
    ⟨fun hh => ⟨s, hheld _ hh, rfl⟩, fun hh hc hd hk _ => ⟨_, hbare _ (withHeld_breach hh hc hk hd), hb⟩⟩,
    ⟨fun hh => ⟨s, hheld _ hh, rfl⟩, fun hh hc hd hk _ => ⟨_, hbare _ (withHeld_breach hh hc hk hd), hb⟩⟩,
    ⟨fun hh => ⟨s, hheld _ hh, rfl⟩, fun hh hc hd hk _ => ⟨_, hbare _ (withHeld_breach hh hc hk hd), hb⟩⟩,
    ⟨fun hh => ⟨s, hheld _ hh, rfl⟩, fun hh hc hd hk _ => ⟨_, hbare _ (withHeld_breach hh hc hk hd), hb⟩⟩⟩

/-- The signals of an engine whose kill is pending. -/
theorem signals_killed (hpow : s.start.powered = true) (hq : p < quoinPorts s) (w : W64) (r : BitVec 128) (env : Env) (d x : List Byte) :
    ∀ i ∈ [Instr.quoinDone p w, .quoinReq p r env, .quoinWdata p d, .quoinObx p x], (qport s p).heldReset = false → (qport s p).cid = none →
      (qport s p).killed ≠ none → Answers i s fun t => t = s := by
  have hsame : ∀ f, (qport s p).heldReset = false → (qport s p).cid = none → (qport s p).killed ≠ none → onQuoin p (withHeld p f) s = .next s :=
    fun f hh hc hk => onQuoin_same hpow hq (withHeld_killed hh hc hk)
  simp only [List.forall_mem_cons, List.not_mem_nil, false_imp_iff, implies_true, and_true]
  exact ⟨fun hh hc hk => ⟨s, hsame _ hh hc hk, rfl⟩, fun hh hc hk => ⟨s, hsame _ hh hc hk, rfl⟩, fun hh hc hk => ⟨s, hsame _ hh hc hk, rfl⟩,
    fun hh hc hk => ⟨s, hsame _ hh hc hk, rfl⟩⟩

/-- The done word of OK starts the commit. -/
theorem doneWord_ok {w : W64} (h : enginesCmd s p cid c) (hw : bits w.toNat 7 0 = 0) :
    let t := doneWord p w c s
    ChangesOnly [.cmds, .quoin] s t ∧ (qport t p).cid = none ∧ (qport t p).doneOf = some cid ∧
      cmd? t cid = some { c with st := .committing, result := bits w.toNat 63 32 } ∧ ∀ j, j ≠ cid → cmd? t j = cmd? s j := by
  obtain ⟨⟨hpow, hx, hid⟩, -⟩ := h
  have hgo : doneWord p w c s = modCmd cid (fun x => { x with st := .committing, result := bits w.toNat 63 32 }) (saidDone p cid s) := by
    unfold doneWord
    dsimp only
    rw [if_pos hw, hid, ← saidDone]
  have hxv : cmd? (saidDone p cid s) cid = some c := hx
  dsimp only
  rw [hgo, qport_of_quoin (modCmd_quoin _ _ _), qport_saidDone, cmd?_modCmd_same, hxv]
  refine ⟨?_, rfl, rfl, rfl, fun j hj => cmd?_modCmd_ne hj _ _⟩
  unfold modCmd
  rw [hxv]
  rfl

/-- A memory request of an engine that holds a command (R561). -/
theorem request_answers (h : enginesCmd s p cid c) (hq : p < quoinPorts s) (r : BitVec 128) (env : Env) :
    let q := qport s p
    let rs := c.desc.ins ++ c.desc.outs
    let n := bits r.toNat 17 5
    let va := bits r.toNat 81 30
    let strm := bits r.toNat 4 1
    let wr := bit r.toNat 0
    let ok := 64 ≤ n ∧ n ≤ 4096 ∧ n % 64 = 0
    (¬ok → Answers (.quoinReq p r env) s (FrozenBy p cid 3 0x22 0 0 s)) ∧
    (ok → q.frozenStreams.contains (c.bay, strm) = true → Answers (.quoinReq p r env) s fun t => t = s) ∧
    (ok → q.frozenStreams.contains (c.bay, strm) = false →
      (∀ a, wr = true → inStaging c va n = false → outsideOutputs c (reqDesc va n true) = some a → Answers (.quoinReq p r env) s (FrozenBy p cid 3 0x20 strm a s)) ∧
      (∀ a, wr = false → uncovered rs (rs.length + 1) va n = some a → Answers (.quoinReq p r env) s (FrozenBy p cid 4 0x30 strm a s)) ∧
      (∀ bs, env.det = none → env.ce = none → env.bad = [] → hostShut s c.bay = false → wr = false → uncovered rs (rs.length + 1) va n = none →
        plainReq s c va n false = true → poisonVa s c.bay va n = none → readVa (portXlate p c (reqDesc va n false) s) c.bay env true va n = some bs →
        Answers (.quoinReq p r env) s fun t => .quoinRdata p strm 0 bs ∈ t.out.log ∧ t.cmds = s.cmds ∧ t.mem.hbm = s.mem.hbm ∧ qport t p = q) ∧
      (wr = true → inStaging c va n = true → Answers (.quoinReq p r env) s fun t => ChangesOnly [.quoin] s t ∧
        qport t p = { q with writes := q.writes ++ [{ va := va, left := n }] }) ∧
      (wr = true → inStaging c va n = false → outsideOutputs c (reqDesc va n true) = none → plainReq s c va n true = true →
        recordWrites s c.bay (reqDesc va n true) c.outbox = c.outbox → c.outCount ≤ 512 → env.bad = [] → hostShut s c.bay = false →
        Answers (.quoinReq p r env) s fun t => qport t p = { q with writes := q.writes ++ [{ va := va, left := n }] } ∧ cmd? t cid = some c ∧
          t.mem.hbm = s.mem.hbm)) := by
  intro q rs n va strm wr ok
  have hrow : exec (.quoinReq p r env) s = .next (keep (.boxes :: fpWork) s (quoinReq p r env c s)) := held_enginesCmd h hq
  have hx : cmd? s c.cid = some c := h.1.2.2 ▸ h.1.2.1
  have hid : c.cid = cid := h.1.2.2
  refine ⟨fun hno => ?_, fun ⟨h1, h2, h3⟩ hf => ?_, fun ⟨h1, h2, h3⟩ hf => ⟨fun a hw hin ha => ?_, fun a hw ha => ?_,
    fun bs hdet hce hbad hs hw ha hpl hpo hrd => ?_, fun hw hin => ?_, fun hw hin ha hpl hrec hout hbad hs => ?_⟩⟩
  · refine ⟨_, hrow, frozenBy_keep ?_⟩
    rw [quoinReq_length hno, hid]
    exact frozen_breach h
  · exact ⟨s, by rw [hrow, quoinReq_frozen h1 h2 h3 hf, keep_self], rfl⟩
  · refine ⟨_, hrow, frozenBy_keep ?_⟩
    rw [(quoinReq_write ⟨h1, h2, h3, hf⟩ hw rfl rfl rfl).2.1 hin a ha, hid]
    exact frozenBy_violation h.1.2.1
  · refine ⟨_, hrow, frozenBy_keep ?_⟩
    rw [(quoinReq_read ⟨h1, h2, h3, hf⟩ hw rfl rfl rfl).1 a ha, hid]
    exact frozenBy_violation h.1.2.1
  · refine ⟨_, hrow, ?_⟩
    rw [(quoinReq_read ⟨h1, h2, h3, hf⟩ hw rfl rfl rfl).2 ha]
    obtain ⟨hlog, hcm, hm, hqu⟩ := translated_read (p := p) (strm := strm) hdet hce hbad hs hpl hpo hrd
    exact ⟨hlog, hcm, hm, qport_of_quoin hqu p⟩
  · refine ⟨_, hrow, ?_⟩
    rw [(quoinReq_write ⟨h1, h2, h3, hf⟩ hw rfl rfl rfl).1 hin]
    exact keep_modQp _
  · refine ⟨_, hrow, ?_⟩
    rw [(quoinReq_write ⟨h1, h2, h3, hf⟩ hw rfl rfl rfl).2.2 hin ha]
    obtain ⟨hqp, hcm, hm⟩ := translated_write (p := p) hx hbad hs hpl hrec hout
    exact ⟨hqp, hid ▸ hcm, hm⟩

/-- Settles O57 (its name is that of the title, since `quoinPorts` is the number of ports): the rows of a quoin port, one after another. -/
theorem quoinPortSignals : Obligations.QuoinPorts := by
  intro s p hpow hq q full
  refine ⟨fun rise h => ?_, fun hh hr => ?_, fun hh hr hnow hwant hrep hno => ?_, fun w h => ?_, fun w hh hr hn hok => ?_, fun w hh hr hn hok => ?_,
    fun stat hh hk => ?_, fun hh hs => ?_, fun stat w r env d x => signals_idle hpow hq stat w r env d x,
    fun w r env d x => signals_killed hpow hq w r env d x, fun cid c h => ?_⟩
  · refine ⟨s, onQuoin_same hpow hq ?_, rfl⟩
    unfold quoinReady
    dsimp only
    rw [if_pos]
    rcases h with h | h
    · simp [show (qport s p).heldReset = true from h]
    · simp [show (qport s p).ready = rise from h]
  · refine ⟨_, onQuoin_powered hpow hq, ?_⟩
    obtain ⟨v, hv⟩ : ∃ v, v = modQp p (fun q => { q with ready := true, words := [], registered := false }) s := ⟨_, rfl⟩
    have hgo : quoinReady p true s = raise (srcQuoin p 0) v := by
      unfold quoinReady
      dsimp only
      rw [if_neg (by simp [show (qport s p).heldReset = false from hh, show (qport s p).ready = false from hr]), if_pos rfl, hv]
    have hw : Wrote v (raise (srcQuoin p 0) v) := wrote_raise _
    have honly : ChangesOnly [.quoin, .irq] s (raise (srcQuoin p 0) v) := by
      rw [raise_changes, hv]
      rfl
    have hport : ∀ k, qport (raise (srcQuoin p 0) v) k = qport v k := qport_of_quoin hw.quoin
    rw [hgo]
    refine ⟨changesOnly_within honly _, (hport p).trans (by rw [hv, qport_modQp_same]), pend_quoin (by rw [hv]; exact hq) (by omega), fun k hk =>
      (hport k).trans (by rw [hv, qport_modQp, if_neg hk])⟩
  · refine ⟨_, onQuoin_powered hpow hq, ?_⟩
    have hgo : quoinReady p false s = readyFalls p s := by
      unfold quoinReady
      dsimp only
      rw [if_neg (by simp [show (qport s p).heldReset = false from hh, show (qport s p).ready = true from hr]), if_neg (by decide)]
    rw [hgo]
    exact readyFalls_spec hnow hwant hrep hno
  · exact ⟨s, onQuoin_same hpow hq (quoinRegWord_ignored h), rfl⟩
  · obtain ⟨honly, hport⟩ := qport_regWord hh hr hn hok
    refine ⟨_, onQuoin_powered hpow hq, changesOnly_within honly _, hport.trans ?_⟩
    simp [registered, full, q]
  · refine ⟨_, onQuoin_powered hpow hq, ?_⟩
    have hgo : quoinRegWord p w s = holdQuoin p s := by
      simp [quoinRegWord, show (qport s p).heldReset = false from hh, show (qport s p).ready = true from hr, show (qport s p).registered = false from hn,
        show regWordOk (qport s p).words.length w = false from hok]
    have hport : qport (holdQuoin p s) p = { qport s p with ready := false, words := [], registered := false, heldReset := true, identity := [], mhz := 0 } := by
      unfold holdQuoin
      rw [qport_emit, qport_modQp_same]
    rw [hgo]
    exact ⟨changesOnly_within (by rfl) _, congrArg QPort.heldReset hport, congrArg QPort.ready hport, rfl⟩
  · refine ⟨_, onQuoin_powered hpow hq, ?_⟩
    obtain ⟨v, hv⟩ : ∃ v, v = modQp p (fun q => { q with killed := none, stat := stat.take 8 }) s := ⟨_, rfl⟩
    have hgo : quoinStopped p stat s = raise (srcQuoin p 1) v := by
      simp [quoinStopped, show (qport s p).heldReset = false from hh, Option.isSome_iff_ne_none, show (qport s p).killed ≠ none from hk, hv]
    have hw : Wrote v (raise (srcQuoin p 1) v) := wrote_raise _
    have honly : ChangesOnly [.quoin, .irq] s (raise (srcQuoin p 1) v) := by
      rw [raise_changes, hv]
      rfl
    rw [hgo]
    exact ⟨changesOnly_within honly _, (qport_of_quoin hw.quoin p).trans (by rw [hv, qport_modQp_same]), pend_quoin (by rw [hv]; exact hq) (by omega)⟩
  · refine ⟨_, onQuoin_powered hpow hq, ?_⟩
    have hgo : scrubAck p s = modQp p (fun q => { q with scrub := false }) s := by
      simp [scrubAck, show (qport s p).heldReset = false from hh, show (qport s p).scrub = true from hs]
    rw [hgo]
    exact keep_modQp _
  · have hid : c.cid = cid := h.1.2.2
    have hx : cmd? s c.cid = some c := hid ▸ h.1.2.1
    refine ⟨fun stat hk => ⟨_, onQuoin_powered hpow hq, frozenBy_keep (frozen_stopped h hk stat)⟩,
      fun hs => ⟨_, onQuoin_powered hpow hq, frozenBy_keep (frozen_scrubAck h hs)⟩, fun w hw => ?_,
      fun w hw hab hd => ⟨_, held_enginesCmd h hq, doneWord_again h hq hw hab hd⟩, fun w hw hpar hbat _ => ⟨_, held_enginesCmd h hq, doneWord_error h hw hpar hbat⟩,
      fun r env => request_answers h hq r env, fun d hd => ⟨_, held_enginesCmd h hq, frozenBy_keep (frozen_wdata h hd)⟩,
      fun d w ws hw hd => ⟨fun hin => ?_, fun pa hin hst hpg hxl => ?_⟩,
      fun d hd => ⟨_, held_enginesCmd h hq, frozenBy_keep (frozen_obx h hd)⟩, fun d r hr hc => ?_⟩
    · obtain ⟨honly, hrest⟩ := doneWord_ok h hw
      exact ⟨_, held_enginesCmd h hq, changesOnly_within honly _, hrest⟩
    · refine ⟨_, held_enginesCmd h hq, ?_⟩
      obtain ⟨v, hv⟩ : ∃ v, v = modQp p (fun q => { q with writes := restOf w ws d }) s := ⟨_, rfl⟩
      obtain ⟨hm, hqu, hcm⟩ := landData_staging (s := v) (va := w.va) (c := c) (by rw [hv]; exact hx) hin
      rw [quoinWdata_lands hw hd, ← hv]
      refine ⟨(qport_of_quoin hqu p).trans (by rw [hv, qport_modQp_same]; rfl), hm.trans (by rw [hv]; rfl), _, hid ▸ hcm, fun a => ?_⟩
      exact mget_mputs _ _ _ _
    · refine ⟨_, held_enginesCmd h hq, ?_⟩
      obtain ⟨v, hv⟩ : ∃ v, v = modQp p (fun q => { q with writes := restOf w ws d }) s := ⟨_, rfl⟩
      obtain ⟨hcm, hqu, hm⟩ := landData_inPlace (s := v) hin hst hpg (by rw [hv]; exact hxl)
      rw [quoinWdata_lands hw hd, ← hv]
      refine ⟨(qport_of_quoin hqu p).trans (by rw [hv, qport_modQp_same]; rfl), (cmd?_of_cmds hcm cid).trans (by rw [hv]; exact h.1.2.1), fun a => ?_⟩
      show mget (landData c w.va d v).mem.hbm a = _
      rw [hm, hv]
      exact mget_mputs _ _ _ _
    · have hgo : quoinObx p d c s = modCmd cid (fun x => { x with outbox := x.outbox ++ [r], outCount := x.outCount + 1 }) s := by
        rw [quoinObx, hr, hid]
        exact if_neg (by omega)
      refine ⟨_, held_enginesCmd h hq, ?_⟩
      have hcm : cmd? (modCmd cid (fun x => { x with outbox := x.outbox ++ [r], outCount := x.outCount + 1 }) s) cid = _ := cmd?_modCmd_same _ _ _
      rw [hgo]
      refine ⟨changesOnly_within ?_ _, hcm.trans (by rw [h.1.2.1]; rfl)⟩
      unfold modCmd
      rw [h.1.2.1]
      rfl

end Sys2Proof.Proofs
end


section
/-! SUPPORT. What the removal of a bay leaves (R311, R323): start-up, security but the interfaces, and what the host sees of every other
bay. -/
namespace Sys2Proof.Proofs
open Sys2Proof.Machine

variable {s t u : State} {b c k : Nat}

/-- What the host and the life of a bay see of it. -/
def face (y : Bay) : BayState × Bool × Bool × Nat × Bool := (y.st, y.toAbsent, y.memSpace, y.bar, y.mem.atc.isEmpty)

/-- Start-up, security, the number of bays, VF Enable and the face of every bay are as before. -/
structure FaceAs (s t : State) : Prop where
  start : t.start = s.start
  sec : t.sec = s.sec
  count : t.bays.count = s.bays.count
  vf : t.bays.vfEnable = s.bays.vfEnable
  face : ∀ b, face (bay t b) = face (bay s b)

theorem FaceAs.refl : FaceAs s s := ⟨rfl, rfl, rfl, rfl, fun _ => rfl⟩
theorem FaceAs.trans (h : FaceAs s t) (g : FaceAs t u) : FaceAs s u :=
  ⟨g.start.trans h.start, g.sec.trans h.sec, g.count.trans h.count, g.vf.trans h.vf, fun b => (g.face b).trans (h.face b)⟩

theorem FaceAs.foldl {α : Type} {f : State → α → State} (hf : ∀ t x, FaceAs t (f t x)) (l : List α) : FaceAs s (l.foldl f s) :=
  foldl_inv (FaceAs s) l f (fun t x h => h.trans (hf t x)) s .refl

theorem FaceAs.each {α : Type} {f : α → State → State} (hf : ∀ x t, FaceAs t (f x t)) (l : List α) : FaceAs s (each l f s) :=
  each_inv (FaceAs s) l f (fun x t h => h.trans (hf x t)) s .refl

/-- What reaches neither start-up, security nor the bays. -/
theorem faceAs_of (hst : t.start = s.start := by rfl) (hsec : t.sec = s.sec := by rfl) (hb : t.bays = s.bays := by rfl) : FaceAs s t :=
  ⟨hst, hsec, by rw [hb], by rw [hb], fun b => by rw [bay, bay, hb]⟩

theorem faceAs_mem (m : MemSys) : FaceAs s { s with mem := m } := faceAs_of

theorem faceAs_of_fabric (h : FabricOnly s t) : FaceAs s t := by rw [h]; exact faceAs_of

theorem faceAs_modBay {f : Bay → Bay} (hf : ∀ y, face (f y) = face y) (s : State) : FaceAs s (modBay b f s) where
  start := rfl
  sec := rfl
  count := rfl
  vf := rfl
  face k := by
    rw [bay_modBay]
    split
    · next h => rw [hf, h]
    · rfl

theorem faceAs_modBm {f : BayMem → BayMem} (hf : ∀ m, (f m).atc = m.atc) (s : State) : FaceAs s (modBm b f s) :=
  faceAs_modBay (f := fun y => { y with mem := f y.mem }) (fun y => by simp only [Proofs.face, hf]) s

/-! ## A command is discarded (R135) -/

theorem faceAs_raise (n : Nat) : FaceAs s (raise n s) := faceAs_of_fabric (by rw [raise_changes])
theorem faceAs_plumbRec (r : PlumbRec) : FaceAs s (plumbRec r s) := by rw [plumbRec_changes]; exact faceAs_of
theorem faceAs_colMsg (kind dst gid seq low : Nat) (data : List Byte) : FaceAs s (colMsg kind dst gid seq low data s) := faceAs_of_fabric (kwSend_fabric _ _ _)
theorem faceAs_noteMove (h : Home) (off n : Nat) : FaceAs s (noteMove b h off n s) := by
  unfold noteMove
  split
  · exact faceAs_modBm (by intro m; rfl) s
  · exact .refl

theorem faceAs_writePa (pa : Nat) (bs : List Byte) : FaceAs s (writePa pa bs s) := by
  unfold writePa
  refine FaceAs.trans ?_ (faceAs_mem _)
  split
  · exact faceAs_noteMove _ _ _
  · exact .refl

theorem faceAs_writeWin (k : Nat) (bs : List Byte) : FaceAs s (writeWin k bs s) := by
  unfold writeWin
  refine FaceAs.trans (FaceAs.trans ?_ (faceAs_noteMove _ _ _)) (faceAs_mem _)
  split
  · exact faceAs_of_fabric (ownJob_fabric _ _)
  · exact .refl

theorem faceAs_writeVa (va : Nat) (bs : List Byte) : FaceAs s (writeVa b va bs s) := by
  refine .foldl (fun t p => ?_) _
  dsimp only
  split
  · exact faceAs_writePa _ _
  · exact faceAs_writeWin _ _
  · exact faceAs_of
  · exact .refl

theorem faceAs_drewFree : FaceAs s (drewFree s) := faceAs_of
theorem faceAs_drewN (n : Nat) : FaceAs s (drewN n s) := faceAs_of
theorem faceAs_noteLanded (only : Option Nat) (l : Nat) : FaceAs s (noteLanded b only l s) := faceAs_of

theorem faceAs_landSome (a : Nat) (ls : List (Nat × Nat × Nat × Nat)) : FaceAs s (landSome b a ls s) := by
  induction ls generalizing s with
  | nil => exact .refl
  | cons l ls ih =>
    unfold landSome
    refine FaceAs.trans ?_ ih
    split
    · exact faceAs_drewFree.trans ((faceAs_noteLanded _ _).trans ((faceAs_writeVa _ _).trans (faceAs_drewN _)))
    · exact faceAs_drewFree

theorem faceAs_journalPending (h : Nat) : FaceAs s (journalPending b h s) := by
  unfold journalPending
  split
  · exact .refl
  · exact faceAs_modBay (by intro y; rfl) s

theorem faceAs_modCmd (f : Cmd → Cmd) : FaceAs s (modCmd c f s) := by
  unfold modCmd
  split
  · exact .refl
  · exact faceAs_of

theorem faceAs_lift (l : Lift) : FaceAs s { s with lift := l } := faceAs_of
theorem faceAs_grid (g : Grid) : FaceAs s { s with grid := g } := faceAs_of
theorem faceAs_emit (o : Out) : FaceAs s (emit o s) := faceAs_of
theorem faceAs_modQp (f : QPort → QPort) : FaceAs s (modQp k f s) := faceAs_of

theorem faceAs_halt (keepAsh : Option Nat) : FaceAs s (halt c keepAsh s) := by
  unfold halt
  split
  · exact .refl
  next x _ =>
  extract_lets ids landed stopped quiet killed journalled told cleared
  have hlanded : FaceAs s landed := .each (fun a t => faceAs_landSome _ _) _
  have hstopped : FaceAs landed stopped := .each (fun a t => by
    split
    · exact faceAs_grid _
    · exact .refl) _
  have hkilled : FaceAs quiet killed := .each (f := fun a t => sendCtl .kill a c t) (fun a t => faceAs_grid _) ids
  have htold : FaceAs journalled told := by
    dsimp only [told]
    split
    · exact (faceAs_modQp _).trans (faceAs_emit _)
    · exact .refl
  have hquiet : FaceAs stopped quiet := faceAs_grid _
  exact ((((((hlanded.trans hstopped).trans hquiet).trans hkilled).trans (faceAs_journalPending _)).trans htold).trans (faceAs_modCmd _)).trans (faceAs_lift _)

theorem faceAs_owesHs (x : Cmd) : FaceAs s (owesHs x s) := by
  unfold owesHs
  split
  · split
    · exact .refl
    · exact faceAs_of
  · exact .refl

theorem faceAs_abandonAll (gi seq code : Nat) : FaceAs s (abandonAll gi seq code s) := by
  unfold abandonAll
  split
  · exact .refl
  split
  · exact .refl
  next g _ _ =>
  exact FaceAs.trans (t := modGroup gi (fun g => { g with abandoned := (seq % 16, code) :: g.abandoned.take 7 }) s) faceAs_of
    (.each (fun _ _ => faceAs_colMsg _ _ _ _ _ _) _)

theorem faceAs_discardCmd (x : Cmd) : FaceAs s (discardCmd x s) := by
  unfold discardCmd
  extract_lets t
  have ht : FaceAs s t := by
    dsimp only [t]
    split
    · split
      · exact (faceAs_abandonAll _ _ _).trans faceAs_of
      · exact faceAs_owesHs _
    · exact .refl
  exact (ht.trans (faceAs_halt _)).trans faceAs_of

theorem faceAs_masterRecs (kind : Nat) : FaceAs s (masterRecs kind b s) :=
  ((FaceAs.each (fun _ _ => faceAs_plumbRec _) _).trans (.each (fun _ _ => faceAs_plumbRec _) _)).trans (.each (fun _ _ => faceAs_plumbRec _) _)

theorem faceAs_flushOwed : FaceAs s (flushOwed s) := by
  refine .foldl (fun t e => ?_) _
  split
  · exact .refl
  refine FaceAs.trans (t := modGroup e.1 (fun g => { g with owedHs := [] }) t) faceAs_of (.each (fun seq u => ?_) _)
  unfold sendOwedHs
  split
  · exact .each (fun _ _ => faceAs_colMsg _ _ _ _ _ _) _
  · exact faceAs_colMsg _ _ _ _ _ _

theorem faceAs_discardAll : FaceAs s (discardAll b s) := by
  unfold discardAll
  extract_lets t u _ _ v
  have hu : FaceAs s u := (faceAs_masterRecs 3).trans (.each (fun _ _ => faceAs_discardCmd _) _)
  have hv : FaceAs u v := faceAs_of
  exact (((hu.trans hv).trans (faceAs_modBay (f := fun y => { y with eqi := {} }) (fun _ => rfl) v)).trans faceAs_of).trans faceAs_flushOwed

/-! ## The work of R323 -/

theorem faceAs_modExtent (e : Nat) (f : Extent → Extent) : FaceAs s (modExtent b e f s) := by
  unfold modExtent
  split
  · exact .refl
  · exact faceAs_modBm (by intro m; rfl) s

theorem faceAs_zeroHome (h : Home) : FaceAs s (zeroHome b h s) := by
  unfold zeroHome
  split
  · exact faceAs_mem _
  · exact faceAs_mem _

theorem faceAs_abandonMove (e : Nat) : FaceAs s (abandonMove b e s) := by
  unfold abandonMove
  split
  · exact .refl
  split
  · exact .refl
  extract_lets t _ u w
  have hu : FaceAs s u := FaceAs.trans (t := t) (faceAs_modExtent _ _) (faceAs_mem _)
  have hw : FaceAs u w := .each (fun x v => FaceAs.trans (t := { v with mem := { v.mem with abandoned := satAdd 0xFFFF v.mem.abandoned 1 } }) faceAs_of
    (faceAs_modExtent _ _)) _
  split
  · exact hu.trans hw
  · exact (hu.trans hw).trans (faceAs_zeroHome _)

theorem faceAs_opEnd (x i code : Nat) : FaceAs s (opEnd x i code s) := by
  unfold opEnd
  split
  · exact .refl
  split
  · exact .refl
  · exact FaceAs.trans (t := modMbx x _ s) faceAs_of (faceAs_raise _)

theorem faceAs_mgrEvent (code h w x : Nat) : FaceAs s (mgrEvent code h w x s) := by
  unfold mgrEvent
  exact FaceAs.trans (by exact faceAs_of) (faceAs_raise _)

theorem faceAs_bayEvent (code h w x : Nat) : FaceAs s (bayEvent b code h w x s) := by
  unfold bayEvent
  exact FaceAs.trans (by exact faceAs_modBay (by intro y; rfl) s) (faceAs_raise _)

theorem faceAs_pinEvent (byMgr : Bool) (code handle w : Nat) : FaceAs s (pinEvent b byMgr code handle w s) := by
  unfold pinEvent
  split
  · exact faceAs_mgrEvent _ _ _ _
  · exact faceAs_bayEvent _ _ _ _

theorem faceAs_endPins (w : Nat) : FaceAs s (endPins b w s) := by
  refine .each (fun p t => ?_) _
  split
  · exact .refl
  · exact (faceAs_modBm (by intro m; rfl) t).trans (faceAs_pinEvent _ _ _ _)

theorem faceAs_windowsEmptied : FaceAs s (windowsEmptied b s) := by
  refine .foldl (fun t e => ?_) _
  split
  · exact .refl
  extract_lets u
  have hu : FaceAs t u := faceAs_endPins _
  split
  · exact hu
  · exact (hu.trans (faceAs_modBm (by intro m; rfl) u)).trans (faceAs_opEnd _ _ _)

end Sys2Proof.Proofs
end

section
/-! SUPPORT. PERST_ASSERT: every IDE stream Insecure, every function's PCIe state reset, every bay removed (R311, R352, R553). -/
namespace Sys2Proof.Proofs
open Sys2Proof.Machine

variable {s t u : State} {b c k : Nat}

/-! ## Interfaces (R355) -/

/-- An interface that neither is locked nor runs. -/
def TdiOut (s : State) (b : Nat) : Prop := (tdi s b).st ≠ .locked ∧ (tdi s b).st ≠ .run

theorem tdi_tdiError (b k : Nat) (s : State) : tdi (tdiError b s) k =
    if k = b then (if (tdi s b).st = .locked ∨ (tdi s b).st = .run then { tdi s b with st := .error } else tdi s b) else tdi s k := by
  simp only [tdi, tdiError, modTdi, tgetD, tget_tmod]
  split <;> rfl

theorem tdiOut_tdiError (b : Nat) (s : State) : TdiOut (tdiError b s) b := by
  unfold TdiOut
  rw [tdi_tdiError, if_pos rfl]
  split
  · exact ⟨by simp, by simp⟩
  · next h => exact ⟨fun he => h (.inl he), fun he => h (.inr he)⟩

theorem TdiOut.tdiError (h : TdiOut s k) (b : Nat) : TdiOut (Machine.tdiError b s) k := by
  by_cases hk : k = b
  · subst hk
    exact tdiOut_tdiError k s
  · unfold TdiOut
    rw [tdi_tdiError, if_neg hk]
    exact h

theorem TdiOut.congr (h : TdiOut s k) (hs : t.sec = s.sec) : TdiOut t k := by
  unfold TdiOut at *
  rw [tdi, hs]
  exact h

theorem ide_tdiError (b k : Nat) (s : State) : ide (tdiError b s) k = ide s k := rfl

/-! ## The work of a removal (R323) -/

/-- What the work of a bay's removal leaves: the other bays' faces, and all of its own but the translations it holds. -/
structure ClearAs (b : Nat) (s t : State) : Prop where
  start : t.start = s.start
  sec : t.sec = s.sec
  count : t.bays.count = s.bays.count
  vf : t.bays.vfEnable = s.bays.vfEnable
  other : ∀ k, k ≠ b → face (bay t k) = face (bay s k)
  self : face (bay t b) = ((bay s b).st, (bay s b).toAbsent, (bay s b).memSpace, (bay s b).bar, true)

theorem FaceAs.clear (h : FaceAs s t) (g : ClearAs b t u) : ClearAs b s u where
  start := g.start.trans h.start
  sec := g.sec.trans h.sec
  count := g.count.trans h.count
  vf := g.vf.trans h.vf
  other k hk := (g.other k hk).trans (h.face k)
  self := by
    rw [g.self]
    have hf := h.face b
    simp only [Proofs.face, Prod.mk.injEq] at hf
    obtain ⟨h1, h2, h3, h4, -⟩ := hf
    rw [h1, h2, h3, h4]

theorem ClearAs.trans_face (h : ClearAs b s t) (g : FaceAs t u) : ClearAs b s u where
  start := g.start.trans h.start
  sec := g.sec.trans h.sec
  count := g.count.trans h.count
  vf := g.vf.trans h.vf
  other k hk := (g.face k).trans (h.other k hk)
  self := (g.face b).trans h.self

theorem clearAs_modBay {f : Bay → Bay} (hf : ∀ y, face (f y) = (y.st, y.toAbsent, y.memSpace, y.bar, true)) (s : State) : ClearAs b s (modBay b f s) where
  start := rfl
  sec := rfl
  count := rfl
  vf := rfl
  other k hk := by rw [bay_modBay, if_neg hk]
  self := by rw [bay_modBay, if_pos rfl, hf]

theorem faceAs_clearBytes : FaceAs s (clearBytes b s) := faceAs_mem _
theorem faceAs_clearGrid : FaceAs s (clearGrid b s) := faceAs_grid _

theorem clearAs_clearBay (keys : Bool) : ClearAs b s (clearBay keys b s) := by
  unfold clearBay
  extract_lets t u v w
  have hu : FaceAs s u := faceAs_discardAll.trans (.each (fun _ _ => faceAs_abandonMove _) _)
  have hv : FaceAs u v := faceAs_clearGrid.trans faceAs_clearBytes
  have hw : ClearAs b v w := clearAs_modBay (fun _ => rfl) v
  exact ((hu.trans hv).clear hw).trans_face faceAs_windowsEmptied

/-! ## The removal of a bay (R311) -/

/-- What the removal of bay `b` does. -/
structure Removed (b : Nat) (s t : State) : Prop where
  start : t.start = s.start
  ide : ∀ k, ide t k = ide s k
  count : t.bays.count = s.bays.count
  vf : t.bays.vfEnable = s.bays.vfEnable
  other : ∀ k, k ≠ b → face (bay t k) = face (bay s k)
  self : (bay t b).memSpace = (bay s b).memSpace ∧ (bay t b).bar = (bay s b).bar ∧ ((bay s b).mem.atc = [] → (bay t b).mem.atc = [])
  gone : (bay t b).st = .absent ∨ (bay t b).st = .resetting ∧ (bay t b).toAbsent = true
  out : (bay s b).st ≠ .absent → TdiOut t b
  stays : ∀ k, TdiOut s k → TdiOut t k
  absent : (bay s b).st = .absent → face (bay t b) = face (bay s b)

theorem bay_shutBox (x k : Nat) (s : State) : bay (shutBox x s) k = bay s k := rfl

/-- A bay is marked as removed by force, its interface in ERROR. -/
def forcedOut (b : Nat) (s : State) : State := tdiError b (modBay b (fun y => { y with forced := true }) s)

theorem face_forcedOut (b k : Nat) (s : State) : face (bay (forcedOut b s) k) = face (bay s k) := by
  have h : bay (forcedOut b s) k = bay (modBay b (fun y => { y with forced := true }) s) k := rfl
  rw [h, bay_modBay]
  split
  · next h => rw [h]; rfl
  · rfl

theorem faceAs_endQuiesces (code : Nat) : FaceAs s (endQuiesces b code s) :=
  (FaceAs.each (fun i t => faceAs_opEnd 0 i code) _).trans (faceAs_modBay (by intro y; rfl) _)

theorem stays_forcedOut (h : TdiOut s k) : TdiOut (forcedOut b s) k := TdiOut.tdiError (TdiOut.congr (t := modBay b _ s) h rfl) b

theorem out_forcedOut : TdiOut (forcedOut b s) b := tdiOut_tdiError b _

/-- A bay that is neither gone nor in its reset work is cleared and gone at once. -/
theorem removed_atOnce (ha : (bay s b).st ≠ .absent) (hr : (bay s b).st ≠ .resetting) : Removed b s (removeByVf b s) := by
  obtain ⟨v, hv⟩ : ∃ v, v = clearBay false b (endQuiesces b 0x2A (forcedOut b s)) := ⟨_, rfl⟩
  have hgo : removeByVf b s = shutBox (b + 1) (modBay b (fun y => { y with st := .absent }) v) := by
    rw [hv]
    unfold removeByVf
    split
    · next h => exact absurd h ha
    · next h => exact absurd h hr
    · rfl
  have hclear : ClearAs b (forcedOut b s) v := hv ▸ (faceAs_endQuiesces 0x2A).clear (clearAs_clearBay false)
  obtain ⟨w, hw⟩ : ∃ w, w = modBay b (fun y => { y with st := .absent }) v := ⟨_, rfl⟩
  have hbw : bay w b = { bay v b with st := .absent } := by rw [hw, bay_modBay, if_pos rfl]
  have hself := hclear.self
  have hforced := face_forcedOut b b s
  simp only [face, Prod.mk.injEq] at hself hforced
  obtain ⟨-, -, h3, h4, h5⟩ := hself
  obtain ⟨-, -, f3, f4, -⟩ := hforced
  have hsec : (shutBox (b + 1) w).sec = (forcedOut b s).sec := by rw [← hclear.sec, hw]; rfl
  rw [hgo, ← hw]
  refine ⟨?_, fun k => ?_, ?_, ?_, fun k hk => ?_, ?_, ?_, fun _ => out_forcedOut.congr hsec, fun k h => (stays_forcedOut h).congr hsec, fun h => absurd h ha⟩
  · show w.start = _
    rw [hw]
    exact hclear.start
  · rw [ide, hsec]
    rfl
  · show w.bays.count = _
    rw [hw]
    exact hclear.count
  · show w.bays.vfEnable = _
    rw [hw]
    exact hclear.vf
  · rw [bay_shutBox, hw, bay_modBay, if_neg hk, hclear.other k hk, face_forcedOut]
  · rw [bay_shutBox, hbw]
    exact ⟨h3.trans f3, h4.trans f4, fun _ => List.isEmpty_iff.1 h5⟩
  · rw [bay_shutBox, hbw]
    exact .inl rfl

theorem removed_removeByVf (b : Nat) (s : State) : Removed b s (removeByVf b s) := by
  cases hst : (bay s b).st with
  | absent =>
    have hgo : removeByVf b s = s := by simp [removeByVf, hst]
    rw [hgo]
    exact ⟨rfl, fun _ => rfl, rfl, rfl, fun _ _ => rfl, ⟨rfl, rfl, id⟩, .inl hst, fun h => absurd hst h, fun _ h => h, fun _ => rfl⟩
  | resetting =>
    have hgo : removeByVf b s = modBay b (fun y => { y with toAbsent := true }) (forcedOut b s) := by
      unfold removeByVf
      rw [hst]
      rfl
    have hb : bay (modBay b (fun y => { y with toAbsent := true }) (forcedOut b s)) b = { bay (forcedOut b s) b with toAbsent := true } := by
      rw [bay_modBay, if_pos rfl]
    rw [hgo]
    have hself := face_forcedOut b b s
    simp only [face, Prod.mk.injEq] at hself
    obtain ⟨h1, h2, h3, h4, h5⟩ := hself
    refine ⟨rfl, fun _ => rfl, rfl, rfl, fun k hk => ?_, ?_, ?_, fun _ => out_forcedOut.congr rfl, fun k h => (stays_forcedOut h).congr rfl, fun h => ?_⟩
    · rw [bay_modBay, if_neg hk, face_forcedOut]
    · rw [hb]
      exact ⟨h3, h4, fun h => List.isEmpty_iff.1 (h5.trans (List.isEmpty_iff.2 h))⟩
    · rw [hb]
      exact .inr ⟨h1.trans hst, rfl⟩
    · rw [hst] at h
      cases h
  | created => exact removed_atOnce (by simp [hst]) (by simp [hst])
  | attached => exact removed_atOnce (by simp [hst]) (by simp [hst])
  | quiescing => exact removed_atOnce (by simp [hst]) (by simp [hst])
  | quiesced => exact removed_atOnce (by simp [hst]) (by simp [hst])

/-! ## Every bay is removed -/

/-- Bay `b` of a state reached from `u`: the host sees no configuration of it, and what is gone has its interface out. -/
structure Going (u s : State) (b : Nat) : Prop where
  pci : (bay s b).memSpace = false ∧ (bay s b).bar = 0 ∧ (bay s b).mem.atc = []
  out : (bay s b).st = .absent → (bay u b).st ≠ .absent → TdiOut s b

/-- Bay `b` is gone, or its reset work ends in its absence. -/
def Gone (u s : State) (b : Nat) : Prop :=
  ((bay s b).st = .absent ∨ (bay s b).st = .resetting ∧ (bay s b).toAbsent = true) ∧ ((bay u b).st ≠ .absent → TdiOut s b)

theorem face_eq {y z : Bay} (h : face y = face z) : y.st = z.st ∧ y.toAbsent = z.toAbsent ∧ y.memSpace = z.memSpace ∧ y.bar = z.bar ∧ (z.mem.atc = [] → y.mem.atc = []) := by
  simp only [face, Prod.mk.injEq] at h
  obtain ⟨h1, h2, h3, h4, h5⟩ := h
  exact ⟨h1, h2, h3, h4, fun h => List.isEmpty_iff.1 (h5.trans (List.isEmpty_iff.2 h))⟩

theorem Removed.going (h : Removed b s t) (hg : Going u s k) : Going u t k := by
  obtain ⟨⟨hm, hbar, hatc⟩, hout⟩ := hg
  by_cases hk : k = b
  · subst hk
    obtain ⟨sm, sb, sa⟩ := h.self
    refine ⟨⟨sm.trans hm, sb.trans hbar, sa hatc⟩, fun _ hu => ?_⟩
    by_cases ha : (bay s k).st = .absent
    · exact h.stays k (hout ha hu)
    · exact h.out ha
  · obtain ⟨e1, -, e3, e4, e5⟩ := face_eq (h.other k hk)
    exact ⟨⟨e3.trans hm, e4.trans hbar, e5 hatc⟩, fun ha hu => h.stays k (hout (e1.symm.trans ha) hu)⟩

/-- The removal of a bay makes it gone. -/
theorem Removed.gone_self (h : Removed b s t) (hg : Going u s b) : Gone u t b := by
  refine ⟨h.gone, fun hu => ?_⟩
  by_cases ha : (bay s b).st = .absent
  · exact h.stays b (hg.out ha hu)
  · exact h.out ha

/-- A bay that is gone stays so as others go. -/
theorem Removed.gone_other (h : Removed b s t) (hk : k ≠ b) (hg : Gone u s k) : Gone u t k := by
  obtain ⟨e1, e2, -⟩ := face_eq (h.other k hk)
  unfold Gone
  rw [e1, e2]
  exact ⟨hg.1, fun hu => h.stays k (hg.2 hu)⟩

/-- What the removal of a list of bays leaves and does. -/
structure Cleared (u s t : State) (l : List Nat) : Prop where
  start : t.start = s.start
  ide : ∀ k, ide t k = ide s k
  count : t.bays.count = s.bays.count
  vf : t.bays.vfEnable = s.bays.vfEnable
  going : ∀ b, Going u s b → Going u t b
  gone : ∀ b ∈ l, Going u s b → Gone u t b
  stays : ∀ b, Going u s b → Gone u s b → Gone u t b

theorem cleared_each (l : List Nat) (s : State) : Cleared u s (each l removeByVf s) l := by
  induction l generalizing s with
  | nil => exact ⟨rfl, fun _ => rfl, rfl, rfl, fun _ h => h, fun _ h => absurd h List.not_mem_nil, fun _ _ h => h⟩
  | cons b l ih =>
    have hb : Removed b s (removeByVf b s) := removed_removeByVf b s
    obtain ⟨hstart, hide, hcount, hvf, hgoing, hgone, hstays⟩ := ih (removeByVf b s)
    have hstep : ∀ k, Gone u s k → Going u s k → Gone u (removeByVf b s) k := fun k h hg => by
      by_cases hk : k = b
      · subst hk
        exact hb.gone_self hg
      · exact hb.gone_other hk h
    refine ⟨hstart.trans hb.start, fun k => (hide k).trans (hb.ide k), hcount.trans hb.count, hvf.trans hb.vf, fun k hg => hgoing k (hb.going hg),
      fun k hk hg => ?_, fun k hg h => hstays k (hb.going hg) (hstep k h hg)⟩
    rcases List.mem_cons.1 hk with rfl | hk
    · exact hstays k (hb.going hg) (hb.gone_self hg)
    · exact hgone k hk (hb.going hg)

end Sys2Proof.Proofs
end

section
/-! SUPPORT. PERST_ASSERT, assembled (R553). -/
namespace Sys2Proof.Proofs
open Sys2Proof.Machine

variable {s t u : State} {b c k : Nat}

/-! ## Every IDE stream goes Insecure (R352) -/

/-- A stream that is Insecure and holds no keys. -/
def Insecure (s : State) (k : Nat) : Prop := (ide s k).secure = false ∧ (ide s k).keys = []

/-- Start-up and the bays are as before, and what is Insecure stays so. -/
structure IdeAs (s t : State) : Prop where
  start : t.start = s.start
  bays : t.bays = s.bays
  stays : ∀ k, Insecure s k → Insecure t k

theorem IdeAs.refl : IdeAs s s := ⟨rfl, rfl, fun _ h => h⟩
theorem IdeAs.trans (h : IdeAs s t) (g : IdeAs t u) : IdeAs s u := ⟨g.start.trans h.start, g.bays.trans h.bays, fun k hk => g.stays k (h.stays k hk)⟩

theorem ideAs_each_tdiError (l : List Nat) : IdeAs s (each l tdiError s) :=
  each_inv (IdeAs s) l tdiError (fun _ _ h => h.trans ⟨rfl, rfl, fun _ h => h⟩) s .refl

theorem ide_modIde (k j : Nat) (f : Ide → Ide) (s : State) : ide (modIde k f s) j = if j = k then f (ide s k) else ide s j := by
  simp only [ide, modIde, tgetD, tget_tmod]
  split <;> rfl

theorem insecure_ideInsecure (k : Nat) (s : State) : IdeAs s (ideInsecure k s) ∧ Insecure (ideInsecure k s) k := by
  obtain ⟨v, hv⟩ : ∃ v, v = modIde k (fun x => { x with secure := false, keys := [], active := [] }) s := ⟨_, rfl⟩
  obtain ⟨w, hw⟩ : ∃ w, w = if (ide s k).secure then raise (srcSec 1) v else v := ⟨_, rfl⟩
  have hgo : ideInsecure k s = each ((List.range s.bays.count).filter fun b => (tdi s b).stream == k) tdiError w := by rw [hw, hv]; rfl
  have hvw : w.start = v.start ∧ w.bays = v.bays ∧ w.sec = v.sec := by
    rw [hw]
    split
    · rw [raise_changes]
      exact ⟨rfl, rfl, rfl⟩
    · exact ⟨rfl, rfl, rfl⟩
  obtain ⟨h1, h2, h3⟩ := hvw
  have hide : ∀ j, ide w j = if j = k then { ide s k with secure := false, keys := [], active := [] } else ide s j := fun j => by
    rw [ide, h3, hv]
    exact ide_modIde k j _ s
  have hsw : IdeAs s w := ⟨by rw [h1, hv]; rfl, by rw [h2, hv]; rfl, fun j hj => by
    unfold Insecure
    rw [hide]
    split
    · exact ⟨rfl, rfl⟩
    · exact hj⟩
  have hew : IdeAs w (ideInsecure k s) := hgo ▸ ideAs_each_tdiError _
  refine ⟨hsw.trans hew, hew.stays k ?_⟩
  unfold Insecure
  rw [hide, if_pos rfl]
  exact ⟨rfl, rfl⟩

theorem insecure_each (l : List Nat) (s : State) : IdeAs s (each l ideInsecure s) ∧ ∀ k ∈ l, Insecure (each l ideInsecure s) k := by
  induction l generalizing s with
  | nil => exact ⟨.refl, fun k h => absurd h List.not_mem_nil⟩
  | cons j l ih =>
    obtain ⟨h1, h2⟩ := insecure_ideInsecure j s
    obtain ⟨g1, g2⟩ := ih (ideInsecure j s)
    refine ⟨h1.trans g1, fun k hk => ?_⟩
    rcases List.mem_cons.1 hk with rfl | hk
    · exact g1.stays k h2
    · exact g2 k hk

/-! ## Every function's PCIe state is reset -/

/-- A bay whose function is as its reset leaves it. -/
def Plain (s : State) (b : Nat) : Prop := (bay s b).memSpace = false ∧ (bay s b).bar = 0 ∧ (bay s b).mem.atc = []

/-- Start-up, security, the number of bays and their states are as before, and what is reset stays so. -/
structure FnAs (s t : State) : Prop where
  start : t.start = s.start
  sec : t.sec = s.sec
  count : t.bays.count = s.bays.count
  st : ∀ b, (bay t b).st = (bay s b).st
  stays : ∀ b, Plain s b → Plain t b

theorem FnAs.refl : FnAs s s := ⟨rfl, rfl, rfl, fun _ => rfl, fun _ h => h⟩
theorem FnAs.trans (h : FnAs s t) (g : FnAs t u) : FnAs s u :=
  ⟨g.start.trans h.start, g.sec.trans h.sec, g.count.trans h.count, fun b => (g.st b).trans (h.st b), fun b hb => g.stays b (h.stays b hb)⟩

/-- A bay whose function is reset. -/
def resetFn (y : Bay) : Bay :=
  { y with memSpace := false, d3 := false, bar := 0, bar2 := 0, mem := { y.mem with atsEnable := false, priEnable := false, priFailed := false, atc := [], inval := [] } }

theorem bay_resetFunction (b k : Nat) (s : State) : bay (resetFunction b s) k = if k = b then resetFn (bay s b) else bay s k :=
  bay_modBay b k resetFn s

theorem plain_resetFunction (b : Nat) (s : State) : FnAs s (resetFunction b s) ∧ Plain (resetFunction b s) b := by
  refine ⟨⟨rfl, rfl, rfl, fun k => ?_, fun k hk => ?_⟩, ?_⟩
  · rw [bay_resetFunction]
    split
    · next h => rw [h]; rfl
    · rfl
  · unfold Plain
    rw [bay_resetFunction]
    split
    · exact ⟨rfl, rfl, rfl⟩
    · exact hk
  · unfold Plain
    rw [bay_resetFunction, if_pos rfl]
    exact ⟨rfl, rfl, rfl⟩

theorem plain_each (l : List Nat) (s : State) : FnAs s (each l resetFunction s) ∧ ∀ b ∈ l, Plain (each l resetFunction s) b := by
  induction l generalizing s with
  | nil => exact ⟨.refl, fun k h => absurd h List.not_mem_nil⟩
  | cons j l ih =>
    obtain ⟨h1, h2⟩ := plain_resetFunction j s
    obtain ⟨g1, g2⟩ := ih (resetFunction j s)
    refine ⟨h1.trans g1, fun k hk => ?_⟩
    rcases List.mem_cons.1 hk with rfl | hk
    · exact g1.stays k h2
    · exact g2 k hk

/-! ## PERST_ASSERT -/

/-- The PCIe layers are reset, every stream is Insecure and every bay goes. -/
theorem perstAssert_spec (s : State) : (perstAssert s).start = { s.start with perst := true, d3 := false } ∧ (perstAssert s).bays.numVfs = 0 ∧
    (perstAssert s).bays.vfEnable = false ∧ (∀ k, k < 4 → Insecure (perstAssert s) k) ∧
    ∀ b, b < s.bays.count → Gone s (perstAssert s) b ∧ Plain (perstAssert s) b := by
  obtain ⟨s1, h1⟩ : ∃ t, t = { s with start := { s.start with perst := true, d3 := false } } := ⟨_, rfl⟩
  obtain ⟨s2, h2⟩ : ∃ t, t = each (List.range 4) ideInsecure s1 := ⟨_, rfl⟩
  obtain ⟨s3, h3⟩ : ∃ t, t = each (List.range s2.bays.count) resetFunction s2 := ⟨_, rfl⟩
  obtain ⟨s4, h4⟩ : ∃ t, t = { s3 with bays := { s3.bays with vfEnable := false } } := ⟨_, rfl⟩
  obtain ⟨s5, h5⟩ : ∃ t, t = each ((List.range s3.bays.count).filter fun b => decide (0 ≤ b)) removeByVf s4 := ⟨_, rfl⟩
  have hgo : perstAssert s = { s5 with bays := { s5.bays with numVfs := 0 }, irq := { s5.irq with msix := tdrop 0 s5.irq.msix } } := by
    unfold perstAssert clearVfEnable removeFrom
    dsimp only
    rw [← h1, ← h2, ← h3, ← h4, ← h5]
  obtain ⟨hide, hins⟩ := insecure_each (List.range 4) s1
  rw [← h2] at hide hins
  obtain ⟨hfn, hplain⟩ := plain_each (List.range s2.bays.count) s2
  rw [← h3] at hfn hplain
  have hclear := cleared_each (u := s) ((List.range s3.bays.count).filter fun b => decide (0 ≤ b)) s4
  rw [← h5] at hclear
  have hb34 : ∀ b, bay s4 b = bay s3 b := fun b => by rw [h4]; rfl
  have hst : ∀ b, (bay s4 b).st = (bay s b).st := fun b => by
    rw [hb34, hfn.st, bay, hide.bays, h1]
    rfl
  have hcount : s3.bays.count = s.bays.count := hfn.count.trans (by rw [hide.bays, h1])
  have hcount2 : s2.bays.count = s.bays.count := by rw [hide.bays, h1]
  have hstart : s5.start = s1.start := hclear.start.trans (by rw [h4]; exact hfn.start.trans hide.start)
  have hsec : ∀ k, ide s5 k = ide s2 k := fun k => (hclear.ide k).trans (by rw [h4]; exact congrArg (fun x : Sec => tgetD k x.ide {}) hfn.sec)
  rw [hgo]
  refine ⟨hstart.trans (by rw [h1]), rfl, ?_, fun k hk => ?_, fun b hb => ?_⟩
  · show s5.bays.vfEnable = false
    rw [hclear.vf, h4]
  · show (ide s5 k).secure = false ∧ (ide s5 k).keys = []
    rw [hsec]
    exact hins k (List.mem_range.2 hk)
  · have hp : Plain s3 b := hplain b (List.mem_range.2 (by omega))
    have hg : Going s s4 b := ⟨by rw [hb34]; exact hp, fun ha hu => absurd ((hst b).symm.trans ha) hu⟩
    have hmem : b ∈ (List.range s3.bays.count).filter fun b => decide (0 ≤ b) := by simp [hcount, hb]
    exact ⟨hclear.gone b hmem hg, (hclear.going b hg).pci⟩

end Sys2Proof.Proofs
end

section
/-! SUPPORT. Power-on and the steps of start-up (R555, R571 to R574). -/
namespace Sys2Proof.Proofs
open Sys2Proof.Machine

variable {s t u : State} {b c k : Nat}

/-! ## The interrupt lock -/

theorem lock_raise (n : Nat) : (raise n s).irq.lock = s.irq.lock := by
  unfold raise
  split
  · rfl
  · rfl

theorem lock_partyEvent (byMgr : Bool) (code h w x : Nat) : (partyEvent b byMgr code h w x s).irq.lock = s.irq.lock := by
  cases byMgr with
  | false => exact lock_raise _
  | true => exact lock_raise (s := { s with dev := _ }) 12

theorem lock_conflict (end_ : Bool) (code loop limit : Nat) (byMgr : Bool) (handle detail : Nat) :
    (conflict end_ code loop limit b byMgr handle detail s).irq.lock = s.irq.lock := by
  unfold conflict
  extract_lets _ t
  refine (lock_partyEvent _ _ _ _ _).trans ?_
  dsimp only [t]
  split
  · rfl
  · rfl

theorem lock_refreshLimits : (refreshLimits s).irq.lock = s.irq.lock := by
  have hcap : ∀ u, (capConflict u).irq.lock = u.irq.lock := fun u => by
    unfold capConflict
    extract_lets p high low
    split
    · rfl
    · exact lock_conflict _ _ _ _ _ _ _
  have hfloor : ∀ u, (floorConflict u).irq.lock = u.irq.lock := fun u => by
    unfold floorConflict
    extract_lets p now
    split
    · rfl
    · exact lock_conflict _ _ _ _ _ _ _
  exact (hcap _).trans (hfloor _)

theorem lock_refreshScrub : (refreshScrub s).irq.lock = s.irq.lock := by
  unfold refreshScrub
  extract_lets on r t now
  split
  · rfl
  · exact lock_conflict _ _ _ _ _ _ _

theorem lock_refreshLoops : (refreshLoops s).irq.lock = s.irq.lock := by
  have hpin : ∀ b u, (pinConflicts b u).irq.lock = u.irq.lock := fun b u => by
    refine each_inv (fun t => t.irq.lock = u.irq.lock) _ _ (fun p t h => ?_) u rfl
    dsimp only
    split
    · exact h
    · exact (lock_conflict _ _ _ _ _ _ _).trans h
  unfold refreshLoops
  refine (each_inv (fun t => t.irq.lock = (refreshScrub (refreshLimits s)).irq.lock) _ _ (fun b t h => (hpin b t).trans h) _ rfl).trans ?_
  exact lock_refreshScrub.trans lock_refreshLimits

/-! ## Power-on -/

/-- A STORE in progress is made or not; nothing else of the footing store hangs on it. -/
theorem cutStore_spec (s : State) : (cutStore s).hw = s.hw ∧ (cutStore s).ident = s.ident ∧ (cutStore s).foot.record = s.foot.record ∧
    (cutStore s).foot.journal = s.foot.journal ∧
    ((cutStore s).foot.marker = s.foot.marker ∨ ((opOf s .store).isSome = true ∧ (cutStore s).foot.marker = none)) := by
  unfold cutStore
  split
  · exact ⟨rfl, rfl, rfl, rfl, .inl rfl⟩
  next h =>
  have ho : (opOf s .store).isSome = true := by
    cases hop : opOf s .store with
    | none => simp [hop] at h
    | some o => rfl
  dsimp only
  split
  · exact ⟨rfl, rfl, rfl, rfl, .inl rfl⟩
  · exact ⟨rfl, rfl, rfl, rfl, .inr ⟨ho, rfl⟩⟩

/-! ## Training (R555) -/

/-- Whether every port has a stack of one capacity, and trained. -/
def goodStacks (s : State) (ok : List Bool) : Bool :=
  let caps := s.hw.stackGib.take (hbmPorts s)
  caps.all (fun c => [16, 24, 32, 48, 64].contains c && some c == caps.head?) && caps.length == hbmPorts s && ok.length == hbmPorts s && ok.all id

theorem hbmPorts_pos (s : State) : 0 < hbmPorts s := by
  unfold hbmPorts
  split <;> omega

theorem all_id_iff (ok : List Bool) (n : Nat) : (ok.length = n ∧ ok.all id = true) ↔ ok = List.replicate n true := by
  rw [List.eq_replicate_iff]
  simp

/-- The stacks are good when they trained and are of one capacity that R378 knows. -/
theorem goodStacks_iff (s : State) (ok : List Bool) : goodStacks s ok = true ↔ ok = List.replicate (hbmPorts s) true ∧
    ∃ g ∈ [16, 24, 32, 48, 64], s.hw.stackGib.take (hbmPorts s) = List.replicate (hbmPorts s) g := by
  have hpos := hbmPorts_pos s
  unfold goodStacks
  obtain ⟨caps, hc⟩ : ∃ caps, caps = s.hw.stackGib.take (hbmPorts s) := ⟨_, rfl⟩
  dsimp only
  rw [← hc]
  simp only [Bool.and_eq_true, beq_iff_eq, and_assoc]
  rw [all_id_iff]
  constructor
  · rintro ⟨hall, hlen, hok⟩
    refine ⟨hok, ?_⟩
    cases caps with
    | nil => rw [← hlen] at hpos; exact absurd hpos (by simp)
    | cons g l =>
      rw [List.all_eq_true] at hall
      have hg := hall g List.mem_cons_self
      simp only [Bool.and_eq_true, List.contains_iff_mem] at hg
      refine ⟨g, hg.1, List.eq_replicate_iff.2 ⟨hlen, fun c hcm => ?_⟩⟩
      have hcc := hall c hcm
      simp only [Bool.and_eq_true, beq_iff_eq, List.head?_cons, Option.some.injEq] at hcc
      exact hcc.2
  · rintro ⟨hok, g, hg, rfl⟩
    refine ⟨List.all_eq_true.2 fun c hcm => ?_, List.length_replicate, hok⟩
    rw [List.mem_replicate] at hcm
    rw [hcm.2, List.head?_replicate, if_neg (by omega)]
    simpa using hg

theorem hbmTrained_unhealthy (ok : List Bool) (s : State) : hbmTrained ok false s = { s with start := { s.start with phase := 1, fail := 2 } } := rfl

theorem hbmTrained_bad (ok : List Bool) (s : State) (h : goodStacks s ok = false) :
    hbmTrained ok true s = { s with start := { s.start with phase := 2, fail := 1 } } := by
  unfold hbmTrained
  dsimp only
  rw [if_neg (by decide)]
  unfold goodStacks at h
  dsimp only at h
  rw [h]
  rfl

/-- A draw of the HBM keys, once from power-on. -/
theorem drawKeys_sec (s : State) (h : s.sec.drawn = false) : (drawKeys s).start = s.start ∧ (drawKeys s).sec.drawn = true ∧ (drawKeys s).sec.epoch = s.sec.epoch ∧
    (drawKeys s).sec.keyGeneration = 1 := by
  unfold drawKeys drawWide
  dsimp only
  simp [drewRandom, h]

theorem hbmTrained_good (ok : List Bool) (s : State) (h : goodStacks s ok = true) :
    (hbmTrained ok true s).start = { s.start with phase := 3 } ∧
    if s.sec.drawn = true then (hbmTrained ok true s).sec = s.sec
    else (hbmTrained ok true s).sec.drawn = true ∧ (hbmTrained ok true s).sec.epoch < 2 ^ 63 ∧ (hbmTrained ok true s).sec.keyGeneration = 1 := by
  have hg := h
  unfold goodStacks at hg
  dsimp only at hg
  unfold hbmTrained
  dsimp only
  rw [if_neg (by decide), if_pos hg]
  split
  · exact ⟨rfl, rfl⟩
  next hd =>
  obtain ⟨v, hv⟩ : ∃ v : State, v = { s with start := { s.start with phase := 3 }, sec := { s.sec with
    epoch := (randVal s).toNat % 2 ^ 63, epochLatch := (randVal s).toNat % 2 ^ 63 / 2 ^ 32 } } := ⟨_, rfl⟩
  obtain ⟨h1, h2, h3, h4⟩ := drawKeys_sec (drewRandom v) (by rw [hv]; simpa [drewRandom] using hd)
  have hep : v.sec.epoch < 2 ^ 63 := by rw [hv]; exact Nat.mod_lt _ (Nat.two_pow_pos 63)
  rw [← hv]
  exact ⟨h1.trans (by rw [hv]; rfl), h2, h3 ▸ hep, h4⟩

/-- The ports' sources change interrupts alone. -/
theorem fabric_raiseAll (l : List Nat) (s : State) : FabricOnly s (each l (fun p => raise (srcHbm p)) s) :=
  each_inv (FabricOnly s) l _ (fun p t h => FabricOnly.trans h (by rw [raise_changes])) s rfl

/-! ## The fill and the boot ROM (R300, R383) -/

theorem ash_tmap (f : Ashlar → Ashlar) (a : Nat) (h : t.grid.ashlars = tmap (fun _ y => f y) s.grid.ashlars) : ash t a = f (ash s a) ∨ ash t a = {} := by
  unfold ash tgetD
  rw [h, tget_tmap]
  cases tget a s.grid.ashlars with
  | none => exact .inr rfl
  | some y => exact .inl rfl

/-- Every memory reads as zeros. -/
def Zeroed (t : State) : Prop := t.mem.fillDone = true ∧ t.mem.hbm = [] ∧ t.mem.poison = [] ∧ t.mem.valid = [] ∧
  ∀ a, (ash t a).spad = [] ∧ (ash t a).acc = [] ∧ (ash t a).imem = []

theorem zeroed_fill (ms : Nat) (s : State) : Zeroed (fillMemories ms s) := by
  refine ⟨rfl, rfl, rfl, rfl, fun a => ?_⟩
  rcases ash_tmap (s := s) (t := fillMemories ms s) (fun y => { y with spad := [], acc := [], imem := [] }) a rfl with h | h
  · rw [h]; exact ⟨rfl, rfl, rfl⟩
  · rw [h]; exact ⟨rfl, rfl, rfl⟩

theorem Zeroed.congr (h : Zeroed s) (hm : t.mem = s.mem) (hg : t.grid = s.grid) : Zeroed t := by
  unfold Zeroed ash at *
  rw [hm, hg]
  exact h

/-- The boot ROM has passed its check: what it programs. -/
theorem memoryFilled_ok (ms : Nat) (s : State) : let t := memoryFilled ms true s
    Zeroed t ∧ t.start = { s.start with phase := 4, ready := false } ∧ (mbx t 0).boot = true ∧ (mbx t 0).ready = true ∧ t.foot = (bootFoot s).foot ∧
      t.bays.count = footFld t 0x12 1 ∧ t.lift.period = footFld t 0x10 2 ∧ t.irq.en = [8] := by
  intro t
  obtain ⟨v, hv⟩ : ∃ v, v = bootFoot s := ⟨_, rfl⟩
  obtain ⟨w, hw⟩ : ∃ w, w = fromRecord { fillMemories ms v with bays := { v.bays with count := footFld v 0x12 1 } } := ⟨_, rfl⟩
  have hvs : v.start = s.start := by rw [hv]; rfl
  have ht : t = bootMode w := by
    rw [hw, hv]
    rfl
  have hfoot : t.foot = v.foot := by rw [ht, hw]; rfl
  have hf : ∀ o n, footFld t o n = footFld v o n := fun o n => by rw [footFld, footFld, hfoot]
  have hbox : mbx t 0 = { mbx w 0 with boot := true, ready := true } := by
    rw [ht]
    exact mbx_modMbx_same _
  refine ⟨(zeroed_fill ms v).congr (by rw [ht, hw]; rfl) (by rw [ht, hw]; rfl), ?_, by rw [hbox], by rw [hbox], hfoot.trans (by rw [hv]), ?_, ?_, by rw [ht]; rfl⟩
  · rw [ht, hw, ← hvs]
    rfl
  · rw [hf, ht, hw]
    rfl
  · rw [hf, ht, hw]
    rfl

/-- A memory fill whose boot ROM fails its check. -/
theorem memoryFilled_bad (ms : Nat) (s : State) : let t := memoryFilled ms false s
    Zeroed t ∧ ChangesOnly [.start, .mem, .grid] s t ∧ t.start = { s.start with phase := 4, fail := 3 } :=
  ⟨(zeroed_fill ms s).congr rfl rfl, rfl, rfl⟩

/-! ## Firmware is up (R573) -/

theorem readyBoxes_spec (s : State) : ChangesOnly [.boxes] s (readyBoxes s) ∧ (mbx (readyBoxes s) 0).ready = true ∧ (mbx (readyBoxes s) 0).boot = false := by
  obtain ⟨v, hv⟩ : ∃ v, v = modMbx 0 (fun m => { m with ready := true, boot := false }) s := ⟨_, rfl⟩
  have hbox : mbx v 0 = { mbx s 0 with ready := true, boot := false } := hv ▸ mbx_modMbx_same _
  have h := each_inv (fun t => ChangesOnly [.boxes] s t ∧ mbx t 0 = mbx v 0) (liveBays s) (fun b => modMbx (b + 1) fun m => { m with ready := true })
    (fun b t ht => ⟨changesOnly_trans ht.1 rfl, (mbx_modMbx_ne (by omega) _).trans ht.2⟩) v ⟨by rw [hv]; rfl, rfl⟩
  have hgo : readyBoxes s = each (liveBays s) (fun b => modMbx (b + 1) fun m => { m with ready := true }) v := by rw [hv]; rfl
  rw [hgo]
  exact ⟨h.1, by rw [h.2, hbox], by rw [h.2, hbox]⟩

theorem firmwareUp_spec (s : State) : let t := firmwareUp s
    t.start.ready = true ∧ (mbx t 0).ready = true ∧ (mbx t 0).boot = false ∧ t.irq.lock = true ∧ t.lift.serving = true ∧ t.lift.num = 0 ∧
      t.lift.period = s.lift.period ∧ t.lift.clk = 800 ∧ t.fw.running = true := by
  intro t
  obtain ⟨v, hv⟩ : ∃ v, v = startLifts (programIrq s) := ⟨_, rfl⟩
  obtain ⟨hbonly, hready, hboot⟩ := readyBoxes_spec v
  obtain ⟨w, hw⟩ : ∃ w : State, w = { readyBoxes v with
    fw := { (readyBoxes v).fw with running := true }, start := { (readyBoxes v).start with phase := 7, ready := true } } := ⟨_, rfl⟩
  obtain ⟨x, hx⟩ : ∃ x, x = deriveAlias w := ⟨_, rfl⟩
  have hxw : x.start = w.start ∧ x.boxes = w.boxes ∧ x.irq = w.irq ∧ x.lift = w.lift ∧ x.fw = w.fw := by
    rw [hx]
    unfold deriveAlias
    split
    · exact ⟨rfl, rfl, rfl, rfl, rfl⟩
    · exact ⟨rfl, rfl, rfl, rfl, rfl⟩
  obtain ⟨x1, x2, x3, x4, x5⟩ := hxw
  have ht : t = refreshLoops x := by
    rw [hx, hw, hv]
    rfl
  have honly : ChangesOnly [.pwr, .dev, .irq, .mem, .bays, .ras] x t := ht ▸ (refreshLoops_spec x).1.only
  have hlift : v.lift.serving = true ∧ v.lift.num = 0 ∧ v.lift.period = s.lift.period ∧ v.lift.clk = 800 ∧ v.irq.lock = true := by
    rw [hv]
    unfold startLifts
    dsimp only
    split
    · exact ⟨rfl, rfl, rfl, rfl, rfl⟩
    · exact ⟨rfl, rfl, rfl, rfl, rfl⟩
  have hvl : (readyBoxes v).lift = v.lift ∧ (readyBoxes v).irq = v.irq := by rw [← hbonly]; exact ⟨rfl, rfl⟩
  have htstart : t.start = w.start := by rw [← honly, ← x1]; rfl
  have htbox : ∀ k, mbx t k = mbx (readyBoxes v) k := fun k => by
    have : t.boxes = w.boxes := by rw [← honly, ← x2]; rfl
    rw [mbx, this, hw]
    rfl
  have htlift : t.lift = v.lift := by
    have : t.lift = w.lift := by rw [← honly, ← x4]; rfl
    rw [this, hw]
    exact hvl.1
  have htfw : t.fw = w.fw := by rw [← honly, ← x5]; rfl
  have htlock : t.irq.lock = true := by
    rw [ht, lock_refreshLoops, x3, hw]
    exact (congrArg Irq.lock hvl.2).trans hlift.2.2.2.2
  obtain ⟨l1, l2, l3, l4, -⟩ := hlift
  rw [htbox, htlift, htstart, htfw, hw]
  exact ⟨rfl, hready, hboot, htlock, l1, l2, l3, l4, rfl⟩

end Sys2Proof.Proofs
end

section
/-! SUPPORT. The power manager and the emergencies (R104, R133, R555, R563 to R567). -/
namespace Sys2Proof.Proofs
open Sys2Proof.Machine

variable {s t u : State} {b k : Nat} {c : ThrottleCause}

/-! ## Sources -/

/-- A source that is there is pending once it fires. -/
theorem pend_raise {n : Nat} (h : srcReserved s n = false) : n ∈ (raise n s).irq.pend := by
  rw [raise_pend, h, if_neg (by simp)]
  exact (mem_sput _ _ _).2 (.inl rfl)

theorem pend_power {n : Nat} (h : 80 ≤ n ∧ n ≤ 83) : n ∈ (raise n s).irq.pend := by
  refine pend_raise ?_
  have h1 : n / 32 = 2 := by omega
  have h2 : ¬512 ≤ n := by omega
  have h3 : ¬n % 32 < 8 := by omega
  unfold srcReserved
  dsimp only
  rw [h1, if_neg h2, if_neg (by omega), if_neg h3]
  rfl

theorem pend_throttle : srcThrottle ∈ (raise srcThrottle s).irq.pend := pend_raise rfl

/-! ## The clock allowed (R567) -/

theorem allowed_throttled (h : s.pwr.throttle ≠ none) : (allowed s).1 = 800 := by
  unfold allowed
  cases ht : s.pwr.throttle with
  | none => exact absurd ht h
  | some c => cases c <;> rfl

theorem allowed_fail (h : s.pwr.pmbFail = true) : (allowed s).1 = 800 := by
  unfold allowed
  cases ht : s.pwr.throttle with
  | none =>
    dsimp only
    rw [if_pos h]
  | some c => cases c <;> rfl

theorem allowed_thermal (hn : s.pwr.throttle = none) (hf : s.pwr.pmbFail = false) (ht : thermalLimit s = true) :
    allowed s = (max 800 (max 800 s.lift.clk - 50), 1) := by
  unfold allowed
  rw [hn, hf, ht]
  rfl

/-- What a change of limits leaves of the power manager's readings. -/
theorem pwr_refreshLoops (s : State) : (refreshLoops s).pwr = { s.pwr with
    allow := (refreshLoops s).pwr.allow, limit := (refreshLoops s).pwr.limit, floorConflict := (refreshLoops s).pwr.floorConflict
    capConflict := (refreshLoops s).pwr.capConflict } := (refreshLoops_spec s).1.pwr

/-- The limits follow new readings; then a source may fire. -/
theorem pend_refreshLoops {n : Nat} (h : n ∈ s.irq.pend) : n ∈ (refreshLoops s).irq.pend := (refreshLoops_spec s).1.grows.pend n h

/-! ## A kill by emergency throttle (R133) -/

/-- What a kill leaves of a command that runs again. -/
structure Again (x y : Cmd) : Prop where
  reruns : y.reruns = x.reruns
  dets : y.dets = x.dets
  entry : y.entry = x.entry

theorem Again.refl (x : Cmd) : Again x x := ⟨rfl, rfl, rfl⟩
theorem Again.trans {x y z : Cmd} (h : Again x y) (g : Again y z) : Again x z := ⟨g.reruns.trans h.reruns, g.dets.trans h.dets, g.entry.trans h.entry⟩

/-- A killed command waits READY, and the others are as they were. -/
theorem cmd?_killReady (j k : Nat) (s : State) (x : Cmd) (h : cmd? s j = some x) :
    ∃ y, cmd? (killReady k s) j = some y ∧ Again x y ∧ (j = k → y.st = .ready) ∧ (j ≠ k → y = x) := by
  unfold killReady toReady
  by_cases hj : j = k
  · subst hj
    rw [cmd?_modCmd_same, cmd?_halt, h]
    exact ⟨_, rfl, ⟨rfl, rfl, rfl⟩, fun _ => rfl, fun h => absurd rfl h⟩
  · rw [cmd?_modCmd_ne hj, cmd?, (halt_spec none).2, ← cmd?, cmd?_modCmd_ne hj, h]
    exact ⟨x, rfl, .refl x, fun h => absurd h hj, fun _ => rfl⟩

/-- The state in which a throttle kill stops the command: the counters of the block and the bay have it. -/
def killCounted (x : Cmd) (s : State) : State :=
  modBay x.bay (fun y => { y with throttleKill := satAdd 0xFF y.throttleKill 1 }) { s with stat := { s.stat with throttleKill := satAdd 0xFF s.stat.throttleKill 1 } }

theorem throttleKill_eq (x : Cmd) (s : State) : throttleKill x s = killReady x.cid (killCounted x s) := rfl

/-- The lift but for its plan, which only loses items, and the power manager are as before. -/
structure PlanLess (s t : State) : Prop where
  lift : t.lift = { s.lift with plan := t.lift.plan }
  plan : ∀ i ∈ t.lift.plan, i ∈ s.lift.plan
  pwr : t.pwr = s.pwr

theorem PlanLess.refl : PlanLess s s := ⟨rfl, fun _ h => h, rfl⟩
theorem PlanLess.trans (h : PlanLess s t) (g : PlanLess t u) : PlanLess s u :=
  ⟨by rw [g.lift, h.lift], fun i hi => h.plan i (g.plan i hi), g.pwr.trans h.pwr⟩
theorem planLess_of (hl : t.lift = s.lift := by rfl) (hp : t.pwr = s.pwr := by rfl) : PlanLess s t :=
  ⟨by rw [hl], by rw [hl]; exact fun _ h => h, hp⟩
theorem Leaves.planLess (h : Leaves s t) : PlanLess s t := ⟨h.lift, h.plan, by rw [← h.only]; rfl⟩

/-- What throttle kills of a list of commands do. -/
structure Throttled (s t : State) (l : List Cmd) : Prop where
  lifted : PlanLess s t
  grows : Grows s t
  count : s.stat.throttleKill ≤ 0xFF → t.stat.throttleKill = min 0xFF (s.stat.throttleKill + l.length)
  cmds : ∀ j x, cmd? s j = some x → ∃ y, cmd? t j = some y ∧ Again x y ∧ (j ∈ l.map Cmd.cid → y.st = .ready) ∧ (j ∉ l.map Cmd.cid → y = x)

theorem throttled_each (l : List Cmd) (s : State) : Throttled s (each l throttleKill s) l := by
  induction l generalizing s with
  | nil =>
    exact ⟨.refl, .refl, fun h => by show s.stat.throttleKill = _; simp; omega, fun j x h => ⟨x, h, .refl x, fun hm => absurd hm List.not_mem_nil, fun _ => rfl⟩⟩
  | cons c l ih =>
    obtain ⟨v, hv⟩ : ∃ v, v = killCounted c s := ⟨_, rfl⟩
    have hgo : each (c :: l) throttleKill s = each l throttleKill (killReady c.cid v) := by rw [hv]; rfl
    obtain ⟨hl, hg, hn, hc⟩ := ih (killReady c.cid v)
    have hkl : LeavesRings v (killReady c.cid v) := leaves_killReady
    have hstat : (killReady c.cid v).stat.throttleKill = min 0xFF (s.stat.throttleKill + 1) := by
      have : (killReady c.cid v).stat = v.stat := by rw [← hkl.only]; rfl
      rw [this, hv]
      rfl
    have hsv : PlanLess s v := by rw [hv]; exact planLess_of
    have hgv : Grows s v := by rw [hv]; exact grows_of
    rw [hgo]
    refine ⟨(hsv.trans hkl.toLeaves.planLess).trans hl, (hgv.trans hkl.grows).trans hg, fun hle => ?_, fun j x h => ?_⟩
    · rw [hn (by omega), hstat, List.length_cons]
      omega
    · obtain ⟨y, hy, hxy, hyr, hyx⟩ := cmd?_killReady j c.cid v x (by rw [hv]; exact h)
      obtain ⟨z, hz, hyz, hzr, hzy⟩ := hc j y hy
      refine ⟨z, hz, hxy.trans hyz, fun hm => ?_, fun hm => ?_⟩
      · by_cases hjl : j ∈ l.map Cmd.cid
        · exact hzr hjl
        · rw [hzy hjl]
          rcases List.mem_cons.1 hm with h | h
          · exact hyr h
          · exact absurd h hjl
      · rw [List.map_cons, List.mem_cons, not_or] at hm
        rw [hzy hm.2, hyx hm.1]

/-! ## The clock drops inside the lift (R104) -/

/-- The running commands a drop of the clock kills. -/
def dropHit (s : State) : List Cmd :=
  ((s.cmds.all.map Prod.snd).filter fun c => c.st == .running && isEngineCmd c).filter fun c => bit (Config.free (s.out.free + c.cid)).toNat 0

theorem dropClock_spec (s : State) : ∃ u, Throttled s u (dropHit s) ∧ (dropClock s).lift = { u.lift with clk := 800, throttled := true } ∧
    (dropClock s).pwr = { s.pwr with req := 800, ack := false, volt := pointVolt 800, wantClk := none } ∧ (dropClock s).stat = u.stat ∧
    (dropClock s).cmds = u.cmds ∧ (dropClock s).irq = u.irq ∧ .clkReq 800 ∈ (dropClock s).out.log ∧ .clkSwitch ∈ (dropClock s).out.log := by
  obtain ⟨v, hv⟩ : ∃ v : State, v = { s with out := { s.out with free := s.out.free + s.cmds.next } } := ⟨_, rfl⟩
  obtain ⟨u, hu⟩ : ∃ u, u = each (dropHit s) throttleKill v := ⟨_, rfl⟩
  obtain ⟨hl, hg, hn, hc⟩ := throttled_each (dropHit s) v
  rw [← hu] at hl hg hn hc
  have hsv : PlanLess s v := by rw [hv]; exact planLess_of
  have hgv : Grows s v := by rw [hv]; exact grows_of
  have hgo : dropClock s = emit (.avsWrite (10 * pointVolt 800)) (emit .clkSwitch (emit (.clkReq 800) { u with
      lift := { u.lift with clk := 800, throttled := true }
      pwr := { u.pwr with req := 800, ack := false, volt := pointVolt 800, wantClk := none } })) := by
    rw [hu, hv]
    rfl
  have hpwr : u.pwr = s.pwr := (hsv.trans hl).pwr
  rw [hgo]
  refine ⟨u, ⟨hsv.trans hl, hgv.trans hg, fun h => ?_, fun j x h => hc j x (by rw [hv]; exact h)⟩, rfl, ?_, rfl, rfl, rfl, ?_, ?_⟩
  · rw [hn (by rw [hv]; exact h), hv]
  · rw [← hpwr]
    rfl
  · exact List.mem_cons_of_mem _ (List.mem_cons_of_mem _ List.mem_cons_self)
  · exact List.mem_cons_of_mem _ List.mem_cons_self

/-- At 800 MHz already. -/
theorem holdLow_spec (s : State) : (holdLow s).lift = s.lift ∧ (holdLow s).cmds = s.cmds ∧ (holdLow s).irq = s.irq ∧ (holdLow s).pwr.req = min 800 s.pwr.req ∧
    (holdLow s).pwr.throttle = s.pwr.throttle ∧ (holdLow s).pwr.dieC = s.pwr.dieC ∧ (holdLow s).pwr.sensor = s.pwr.sensor := by
  unfold holdLow
  dsimp only
  split
  · next h => exact ⟨rfl, rfl, rfl, (Nat.min_eq_right h).symm, rfl, rfl, rfl⟩
  · next h => exact ⟨rfl, rfl, rfl, (Nat.min_eq_left (Nat.le_of_not_le h)).symm, rfl, rfl, rfl⟩

/-- The throttle is held: its cause, its readings and its sources. -/
structure ThrottleHeld (s t : State) (c : ThrottleCause) : Prop where
  lift : t.lift = s.lift
  cmds : t.cmds = s.cmds
  stat : t.stat = s.stat
  req : t.pwr.req = s.pwr.req
  throttle : t.pwr.throttle = some c
  fires : srcThrottle ∈ t.irq.pend
  electrical : c = .electrical → srcElectrical ∈ t.irq.pend ∧ t.pwr.dieC = s.pwr.dieC
  thermal : c = .thermal → srcThermal ∈ t.irq.pend ∧ 110 ≤ t.pwr.dieC ∧ t.pwr.sensor < 64

theorem holds_throttle (c : ThrottleCause) (s : State) : ThrottleHeld s (raise srcThrottle (holdThrottle c s)) c := by
  have hkeep : ∀ v : State, Grows v (raise srcThrottle v) := fun v => grows_raise _
  cases c with
  | electrical =>
    obtain ⟨v, hv⟩ : ∃ v : State, v = { s with pwr := { s.pwr with throttle := some .electrical } } := ⟨_, rfl⟩
    have hgo : holdThrottle .electrical s = raise srcElectrical v := by rw [hv]; rfl
    have hp : srcElectrical ∈ (raise srcElectrical v).irq.pend := pend_power ⟨by decide, by decide⟩
    have hall : raise srcThrottle (raise srcElectrical v) = { v with irq := (raise srcThrottle (raise srcElectrical v)).irq } := by
      rw [raise_changes, raise_changes]
    rw [hgo]
    refine ⟨by rw [hall, hv], by rw [hall, hv], by rw [hall, hv], by rw [hall, hv], by rw [hall, hv], pend_throttle, fun _ => ⟨(hkeep _).pend _ hp, by rw [hall, hv]⟩,
      fun h => absurd h (by decide)⟩
  | thermal =>
    obtain ⟨v, hv⟩ : ∃ v : State, v = drewFree { s with pwr := { s.pwr with
      throttle := some .thermal, dieC := 110 + (freeVal s).toNat % 10, sensor := (freeVal s).toNat / 16 % 64 } } := ⟨_, rfl⟩
    have hgo : holdThrottle .thermal s = raise srcThermal v := by rw [hv]; rfl
    have hp : srcThermal ∈ (raise srcThermal v).irq.pend := pend_power ⟨by decide, by decide⟩
    have hall : raise srcThrottle (raise srcThermal v) = { v with irq := (raise srcThrottle (raise srcThermal v)).irq } := by
      rw [raise_changes, raise_changes]
    have hdie : v.pwr.dieC = 110 + (freeVal s).toNat % 10 ∧ v.pwr.sensor = (freeVal s).toNat / 16 % 64 := by rw [hv]; exact ⟨rfl, rfl⟩
    rw [hgo]
    refine ⟨by rw [hall, hv]; rfl, by rw [hall, hv]; rfl, by rw [hall, hv]; rfl, by rw [hall, hv]; rfl, by rw [hall, hv]; rfl, pend_throttle,
      fun h => absurd h (by decide), fun _ => ⟨(hkeep _).pend _ hp, ?_, ?_⟩⟩
    · rw [hall]
      exact hdie.1 ▸ Nat.le_add_right _ _
    · rw [hall]
      exact hdie.2 ▸ Nat.mod_lt _ (by decide)

end Sys2Proof.Proofs
end

section
/-! SUPPORT. The emergency throttle, and power-on and start-up assembled. -/
namespace Sys2Proof.Proofs
open Sys2Proof.Machine

variable {s t u : State} {c : ThrottleCause}

/-- The commands' table has each command under its own number. -/
def Keyed (s : State) : Prop := ∀ e ∈ s.cmds.all, cmd? s e.1 = some e.2 ∧ e.2.cid = e.1

theorem mem_of_tget {α : Type} {k : Nat} {v : α} {l : Tbl α} (h : tget k l = some v) : (k, v) ∈ l := by
  induction l with
  | nil => simp [tget] at h
  | cons e l ih =>
    obtain ⟨j, w⟩ := e
    rw [tget_cons] at h
    split at h
    · next hj =>
      cases h
      rw [hj]
      exact List.mem_cons_self
    · exact List.mem_cons_of_mem _ (ih h)

theorem Keyed.cid (h : Keyed s) {j : Nat} {x : Cmd} (hx : cmd? s j = some x) : x.cid = j := (h _ (mem_of_tget hx)).2

/-- The commands a drop of the clock kills run, one to a number. -/
theorem dropHit_running (h : Keyed s) : ∀ x ∈ dropHit s, cmd? s x.cid = some x ∧ x.st = .running ∧ isEngineCmd x = true := by
  intro x hx
  obtain ⟨hx, -⟩ := List.mem_filter.1 hx
  obtain ⟨hx, hrun⟩ := List.mem_filter.1 hx
  obtain ⟨e, he, rfl⟩ := List.mem_map.1 hx
  obtain ⟨hc, hid⟩ := h e he
  rw [Bool.and_eq_true, beq_iff_eq] at hrun
  exact ⟨hid ▸ hc, hrun⟩

/-- EMERGENCY_THROTTLE from a running block. -/
theorem emergency_spec (hno : s.pwr.throttle = none) (htrip : s.pwr.trip = false) (hkey : Keyed s) (hle : s.stat.throttleKill ≤ 0xFF) :
    let t := emergency c s
    t.pwr.throttle = some c ∧ t.pwr.allow = 800 ∧ srcThrottle ∈ t.irq.pend ∧ (c = .electrical → srcElectrical ∈ t.irq.pend ∧ t.pwr.dieC = s.pwr.dieC) ∧
    (c = .thermal → srcThermal ∈ t.irq.pend ∧ 110 ≤ t.pwr.dieC ∧ t.pwr.sensor < 64) ∧
    (s.lift.clk ≤ 800 → t.lift = s.lift ∧ t.cmds = s.cmds ∧ t.pwr.req = min 800 s.pwr.req) ∧
    (800 < s.lift.clk → t.lift = { s.lift with clk := 800, throttled := true, plan := t.lift.plan } ∧ (∀ i ∈ t.lift.plan, i ∈ s.lift.plan) ∧
      t.pwr.req = 800 ∧ t.pwr.ack = false ∧ .clkReq 800 ∈ t.out.log ∧ .clkSwitch ∈ t.out.log ∧
      ∃ hit : List Cmd, (∀ c ∈ hit, cmd? s c.cid = some c ∧ c.st = .running ∧ isEngineCmd c = true) ∧
        t.stat.throttleKill = min 0xFF (s.stat.throttleKill + hit.length) ∧
        ∀ j k, cmd? s j = some k → (k ∈ hit → ∃ d, cmd? t j = some d ∧ d.st = .ready ∧ d.reruns = k.reruns ∧ d.dets = k.dets ∧ d.entry = k.entry) ∧
          (k ∉ hit → cmd? t j = some k)) := by
  obtain ⟨v, hv⟩ : ∃ v, v = raise srcThrottle (holdThrottle c s) := ⟨_, rfl⟩
  obtain ⟨hlift, hcmds, hstat, hreq, hthr, hfire, hel, hth⟩ : ThrottleHeld s v c := hv ▸ holds_throttle c s
  have hgo : emergency c s = refreshLoops (if 800 < v.lift.clk then dropClock v else holdLow v) := by
    unfold emergency
    rw [if_neg (by simp [hno, htrip]), hv]
  intro t
  have hkv : Keyed v := by
    unfold Keyed cmd?
    rw [hcmds]
    exact hkey
  by_cases hclk : 800 < s.lift.clk
  · obtain ⟨w, hw⟩ : ∃ w, w = dropClock v := ⟨_, rfl⟩
    obtain ⟨x, hthrot, wl, wp, ws, wc, wi, wreq, wsw⟩ := dropClock_spec v
    rw [← hw] at wl wp ws wc wi wreq wsw
    have ht : t = refreshLoops w := by
      show emergency c s = _
      rw [hgo, hlift, if_pos hclk, hw]
    obtain ⟨hloops, hallow, -⟩ := refreshLoops_spec w
    rw [← ht] at hloops hallow
    have hp := hloops.pwr
    have hfp : t.lift = w.lift ∧ t.cmds = w.cmds ∧ t.stat = w.stat ∧ t.out = w.out := by rw [← hloops.only]; exact ⟨rfl, rfl, rfl, rfl⟩
    obtain ⟨tl, tc, ts, tout⟩ := hfp
    have hpend : ∀ n ∈ v.irq.pend, n ∈ t.irq.pend := fun n hn => hloops.grows.pend n (wi ▸ hthrot.grows.pend n hn)
    have htl : t.lift = { x.lift with clk := 800, throttled := true } := tl.trans wl
    have hplan : t.lift.plan = x.lift.plan := by rw [htl]
    rw [hp, wp]
    refine ⟨hthr, hallow.trans (allowed_throttled (by rw [wp]; simp [hthr])), hpend _ hfire, fun h => ?_, fun h => ?_, fun h => absurd hclk (by omega),
      fun _ => ⟨?_, fun i hi => ?_, rfl, rfl, by rw [tout]; exact wreq, by rw [tout]; exact wsw, dropHit v, fun c hc => ?_, ?_, fun j k hj => ?_⟩⟩
    · exact ⟨hpend _ (hel h).1, (hel h).2⟩
    · exact ⟨hpend _ (hth h).1, (hth h).2⟩
    · rw [hplan, htl, hthrot.lifted.lift, hlift]
    · rw [hplan] at hi
      exact hlift ▸ hthrot.lifted.plan i hi
    · obtain ⟨h1, h2⟩ := dropHit_running hkv c hc
      exact ⟨(cmd?_of_cmds hcmds c.cid).symm.trans h1, h2⟩
    · rw [ts, ws, hthrot.count (by rw [hstat]; exact hle), hstat]
    · have hjv : cmd? v j = some k := (cmd?_of_cmds hcmds j).trans hj
      have hid : k.cid = j := hkv.cid hjv
      obtain ⟨y, hy, ⟨hre, hde, hen⟩, hready, hsame⟩ := hthrot.cmds j k hjv
      have hty : cmd? t j = some y := (cmd?_of_cmds (tc.trans wc) j).trans hy
      refine ⟨fun hm => ⟨y, hty, hready (List.mem_map.2 ⟨k, hm, hid⟩), hre, hde, hen⟩, fun hm => ?_⟩
      rw [hty, hsame]
      intro hmem
      obtain ⟨k', hk', hid'⟩ := List.mem_map.1 hmem
      have hkk : cmd? v j = some k' := hid' ▸ (dropHit_running hkv k' hk').1
      exact hm (Option.some.inj (hjv.symm.trans hkk) ▸ hk')
  · obtain ⟨w, hw⟩ : ∃ w, w = holdLow v := ⟨_, rfl⟩
    obtain ⟨wl, wc, wi, wreq, wthr, wdie, wsen⟩ := holdLow_spec v
    rw [← hw] at wl wc wi wreq wthr wdie wsen
    have ht : t = refreshLoops w := by
      show emergency c s = _
      rw [hgo, hlift, if_neg hclk, hw]
    obtain ⟨hloops, hallow, -⟩ := refreshLoops_spec w
    rw [← ht] at hloops hallow
    have hp := hloops.pwr
    have hfp : t.lift = w.lift ∧ t.cmds = w.cmds := by rw [← hloops.only]; exact ⟨rfl, rfl⟩
    have hpend : ∀ n ∈ v.irq.pend, n ∈ t.irq.pend := fun n hn => hloops.grows.pend n (wi ▸ hn)
    rw [hp]
    refine ⟨wthr.trans hthr, hallow.trans (allowed_throttled (by rw [wthr, hthr]; simp)), hpend _ hfire, fun h => ⟨hpend _ (hel h).1, wdie.trans (hel h).2⟩,
      fun h => ⟨hpend _ (hth h).1, ?_, ?_⟩, fun _ => ⟨(hfp.1.trans wl).trans hlift, (hfp.2.trans wc).trans hcmds, wreq.trans (by rw [hreq])⟩, fun h => absurd h hclk⟩
    · exact wdie ▸ (hth h).2.1
    · exact wsen ▸ (hth h).2.2

end Sys2Proof.Proofs
end

section
/-! SUPPORT. Power-on, start-up and the signals of power, clock and PCIe, assembled (R553 to R574). -/
namespace Sys2Proof.Proofs
open Sys2Proof.Machine

variable {s t u : State} {c : ThrottleCause}

/-! ## Start-up -/

theorem exec_hbmTrainingDone (ok : List Bool) (health : Bool) (hp : s.start.powered = true) (h : s.start.phase ≤ 2) (hf : s.start.fail = 0) :
    exec (.hbmTrainingDone ok health) s = .next (keep [.start, .sec, .out, .irq] s
      (if health then each (List.range (hbmPorts s)) (fun p => raise (srcHbm p)) (hbmTrained ok health s) else hbmTrained ok health s)) :=
  (run_powered hp).trans (by rw [onlyIf_true (by simp [h, hf])])

/-- A row whose condition does not hold does nothing. -/
theorem run_onlyIf_false {fp : List Grp} {p : State → Bool} {f : State → State} (hp : s.start.powered = true) (h : p s = false) :
    run fp (onlyIf p f) s = .next s := by
  rw [run_powered hp, onlyIf, if_neg (by simp [h]), keep_self]

theorem run_onlyIf_true {fp : List Grp} {p : State → Bool} {f : State → State} (hp : s.start.powered = true) (h : p s = true) :
    run fp (onlyIf p f) s = .next (keep fp s (f s)) := by rw [run_powered hp, onlyIf_true h]

/-- What training leaves of start-up and security once the ports' sources have fired. -/
theorem trained_raised (ok : List Bool) (s : State) : let t := keep [.start, .sec, .out, .irq] s (each (List.range (hbmPorts s)) (fun p => raise (srcHbm p)) (hbmTrained ok true s))
    t.start = (hbmTrained ok true s).start ∧ t.sec = (hbmTrained ok true s).sec := by
  obtain ⟨v, hv⟩ : ∃ v, v = hbmTrained ok true s := ⟨_, rfl⟩
  rw [← hv]
  have h := fabric_raiseAll (List.range (hbmPorts s)) v
  obtain ⟨w, hw⟩ : ∃ w, w = each (List.range (hbmPorts s)) (fun p => raise (srcHbm p)) v := ⟨_, rfl⟩
  rw [← hw] at h ⊢
  exact ⟨by rw [h]; rfl, by rw [h]; rfl⟩

/-- The clauses of training. -/
theorem training_answers (hp : s.start.powered = true) :
    (∀ ok g, s.start.phase ≤ 2 → s.start.fail = 0 → g ∈ [16, 24, 32, 48, 64] → s.hw.stackGib.take (hbmPorts s) = List.replicate (hbmPorts s) g →
      ok = List.replicate (hbmPorts s) true → Answers (.hbmTrainingDone ok true) s fun t => t.start = { s.start with phase := 3 } ∧ if s.sec.drawn = true then t.sec = s.sec else t.sec.drawn = true ∧ t.sec.epoch < 2 ^ 63 ∧ t.sec.keyGeneration = 1) ∧
    (∀ ok, s.start.phase ≤ 2 → s.start.fail = 0 → ok ≠ List.replicate (hbmPorts s) true ∨ (∀ g ∈ [16, 24, 32, 48, 64], s.hw.stackGib.take (hbmPorts s) ≠ List.replicate (hbmPorts s) g) →
      Answers (.hbmTrainingDone ok true) s fun t => t.start = { s.start with phase := 2, fail := 1 } ∧ t.sec = s.sec) ∧
    (∀ ok, s.start.phase ≤ 2 → s.start.fail = 0 → Answers (.hbmTrainingDone ok false) s fun t => t = { s with start := { s.start with phase := 1, fail := 2 } }) ∧
    (∀ ok health, 2 < s.start.phase ∨ s.start.fail ≠ 0 → Answers (.hbmTrainingDone ok health) s fun t => t = s) := by
  refine ⟨fun ok g h hf hg hcaps hok => ?_, fun ok h hf hbad => ?_, fun ok h hf => ?_, fun ok health h => ?_⟩
  · obtain ⟨h1, h2⟩ := hbmTrained_good ok s ((goodStacks_iff s ok).2 ⟨hok, g, hg, hcaps⟩)
    obtain ⟨t1, t2⟩ := trained_raised ok s
    refine ⟨_, exec_hbmTrainingDone ok true hp h hf, t1.trans h1, ?_⟩
    rw [if_pos rfl, t2]
    exact h2
  · have hno : goodStacks s ok = false := by
      rw [Bool.eq_false_iff]
      intro hgood
      obtain ⟨hok, g, hg, hcaps⟩ := (goodStacks_iff s ok).1 hgood
      rcases hbad with h | h
      · exact h hok
      · exact h g hg hcaps
    obtain ⟨t1, t2⟩ := trained_raised ok s
    have hb := hbmTrained_bad ok s hno
    exact ⟨_, exec_hbmTrainingDone ok true hp h hf, t1.trans (by rw [hb]), t2.trans (by rw [hb])⟩
  · refine ⟨_, exec_hbmTrainingDone ok false hp h hf, ?_⟩
    rw [if_neg (by decide), hbmTrained_unhealthy]
    rfl
  · refine ⟨s, run_onlyIf_false hp ?_, rfl⟩
    rcases h with h | h
    · simp; omega
    · simp [h]

/-- The clauses of the fill and of firmware. -/
theorem startUp_answers (hp : s.start.powered = true) :
    (∀ ms romOk, s.start.phase = 3 → Answers (.memoryFillDone ms romOk) s fun t => t.mem.fillDone = true ∧ t.mem.hbm = [] ∧ t.mem.poison = [] ∧ t.mem.valid = [] ∧
      ∀ a, (ash t a).spad = [] ∧ (ash t a).acc = [] ∧ (ash t a).imem = []) ∧
    (∀ ms, s.start.phase = 3 → Answers (.memoryFillDone ms false) s fun t => ChangesOnly [.start, .mem, .grid] s t ∧ t.start = { s.start with phase := 4, fail := 3 }) ∧
    (∀ ms, s.start.phase = 3 → Answers (.memoryFillDone ms true) s fun t => t.start = { s.start with phase := 4, ready := false } ∧
      (mbx t 0).boot = true ∧ (mbx t 0).ready = true ∧ t.foot = (bootFoot s).foot ∧ t.bays.count = footFld t 0x12 1 ∧ t.lift.period = footFld t 0x10 2 ∧ t.irq.en = [8]) ∧
    (∀ ms romOk, s.start.phase ≠ 3 → Answers (.memoryFillDone ms romOk) s fun t => t = s) ∧
    (∀ pinMax vinMin rails, Answers (.firmwareInitDone pinMax vinMin rails) s fun t => t = if s.start.phase ≠ 6 ∨ s.start.fail ≠ 0 then s
      else if rails = false then { s with start := { s.start with fail := 4 } }
      else { s with start := { s.start with phase := 7 }, pwr := { s.pwr with pinMax := min pinMax 0xFFFF, vinMin := vinMin } }) ∧
    (s.start.phase = 7 → s.start.ready = false → Answers .eqiReady s fun t => t.start.ready = true ∧ (mbx t 0).ready = true ∧ (mbx t 0).boot = false ∧ t.irq.lock = true ∧
      t.lift.serving = true ∧ t.lift.num = 0 ∧ t.lift.period = s.lift.period ∧ t.lift.clk = 800 ∧ t.fw.running = true) ∧
    (s.start.phase ≠ 7 ∨ s.start.ready = true → Answers .eqiReady s fun t => t = s) := by
  have hfill : ∀ ms romOk, s.start.phase = 3 → exec (.memoryFillDone ms romOk) s = .next (keep fpReset s (memoryFilled ms romOk s)) := fun ms romOk h =>
    run_onlyIf_true hp (by simp [h])
  refine ⟨fun ms romOk h => ⟨_, hfill ms romOk h, ?_⟩, fun ms h => ?_, fun ms h => ?_, fun ms romOk h => ⟨s, run_onlyIf_false hp (by simp [h]), rfl⟩,
    fun pinMax vinMin rails => ?_, fun h hr => ?_, fun h => ⟨s, run_onlyIf_false hp ?_, rfl⟩⟩
  · cases romOk with
    | true => exact (memoryFilled_ok ms s).1
    | false => exact (memoryFilled_bad ms s).1
  · obtain ⟨-, honly, hstart⟩ := memoryFilled_bad ms s
    exact ⟨_, hfill ms false h, changesOnly_within honly _, hstart⟩
  · exact ⟨_, hfill ms true h, (memoryFilled_ok ms s).2⟩
  · by_cases h : s.start.phase ≠ 6 ∨ s.start.fail ≠ 0
    · refine ⟨s, run_onlyIf_false hp ?_, (if_pos h).symm⟩
      rcases h with h | h <;> simp [h]
    · rw [not_or, not_not, not_not] at h
      refine ⟨_, run_onlyIf_true hp (by simp [h.1, h.2]), ?_⟩
      rw [if_neg (by simp [h.1, h.2])]
      cases rails with
      | true => rfl
      | false => rfl
  · have hgo : exec .eqiReady s = .next (keep fpReset s (firmwareUp s)) := run_onlyIf_true hp (by simp [h, hr])
    have hup := firmwareUp_spec s
    obtain ⟨w, hw⟩ : ∃ w, w = firmwareUp s := ⟨_, rfl⟩
    rw [← hw] at hgo hup
    exact ⟨_, hgo, hup⟩
  · rcases h with h | h <;> simp [h]

end Sys2Proof.Proofs
end

section
/-! SUPPORT. The readings of the power manager, and the settled statement (R553 to R574). -/
namespace Sys2Proof.Proofs
open Sys2Proof.Machine

variable {s t u : State} {c : ThrottleCause}

/-- The reading of the converter's input by the power manager. -/
def pollNow (r : Option (Nat × Nat)) (t : State) : State :=
  let u := refreshLoops { t with pwr := polled r t.pwr }
  if u.pwr.vin < u.pwr.vinMin then raise srcElectrical u else u

theorem exec_pmbusPoll (r : Option (Nat × Nat)) : exec (.pmbusPoll r) s = run fpPower (pollNow r) s := rfl

/-- The reading of the converter's limits and status. -/
def alertNow (status pinMax vinMin : Nat) (t : State) : State :=
  let u := raise srcPmbus { t with pwr := { t.pwr with pinMax := pinMax % 2 ^ 16, vinMin := vinMin % 2 ^ 16 } }
  refreshLoops (if inputWarning status then raise srcElectrical u else u)

theorem exec_pmAlert (status pinMax vinMin : Nat) : exec (.pmAlert status pinMax vinMin) s = run fpPower (alertNow status pinMax vinMin) s := rfl

/-- A poll of the converter (R566). -/
theorem polled_answers (r : Option (Nat × Nat)) (hp : s.start.powered = true) : ∃ t, exec (.pmbusPoll r) s = .next (keep fpPower s t) ∧
    (∃ a l f k, t.pwr = { polled r s.pwr with allow := a, limit := l, floorConflict := f, capConflict := k }) ∧
    (t.pwr.pmbFail = true → t.pwr.allow = 800) ∧ (t.pwr.vin < t.pwr.vinMin → srcElectrical ∈ t.irq.pend) := by
  obtain ⟨v, hv⟩ : ∃ v : State, v = { s with pwr := polled r s.pwr } := ⟨_, rfl⟩
  obtain ⟨u, hu⟩ : ∃ u, u = refreshLoops v := ⟨_, rfl⟩
  obtain ⟨hl, ha, -⟩ := refreshLoops_spec v
  rw [← hu] at hl ha
  have hvp : v.pwr = polled r s.pwr := by rw [hv]
  have hup : u.pwr = { polled r s.pwr with
      allow := u.pwr.allow, limit := u.pwr.limit, floorConflict := u.pwr.floorConflict, capConflict := u.pwr.capConflict } := hvp ▸ hl.pwr
  have hfail : u.pwr.pmbFail = true → u.pwr.allow = 800 := fun h => by
    rw [hup] at h
    exact ha.trans (allowed_fail (by rw [hvp]; exact h))
  obtain ⟨t, ht⟩ : ∃ t, t = if u.pwr.vin < u.pwr.vinMin then raise srcElectrical u else u := ⟨_, rfl⟩
  have htp : t.pwr = u.pwr := by
    rw [ht]
    split
    · rw [raise_changes]
    · rfl
  refine ⟨t, ?_, ⟨_, _, _, _, htp.trans hup⟩, by rw [htp]; exact hfail, fun h => ?_⟩
  · rw [exec_pmbusPoll, run_powered hp, ht, hu, hv]
    rfl
  · rw [htp] at h
    rw [ht, if_pos h]
    exact pend_power ⟨by decide, by decide⟩

/-- PM_ALERT (R566). -/
theorem pmAlert_answers (status pinMax vinMin : Nat) (hp : s.start.powered = true) :
    Answers (.pmAlert status pinMax vinMin) s fun t => t.pwr.pinMax = pinMax % 2 ^ 16 ∧ t.pwr.vinMin = vinMin % 2 ^ 16 ∧ 80 ∈ t.irq.pend ∧
      (bit status 13 = true ∨ bit status 3 = true → 83 ∈ t.irq.pend) := by
  obtain ⟨v, hv⟩ : ∃ v : State, v = { s with pwr := { s.pwr with pinMax := pinMax % 2 ^ 16, vinMin := vinMin % 2 ^ 16 } } := ⟨_, rfl⟩
  obtain ⟨w, hw⟩ : ∃ w, w = raise srcPmbus v := ⟨_, rfl⟩
  obtain ⟨x, hx⟩ : ∃ x, x = if inputWarning status then raise srcElectrical w else w := ⟨_, rfl⟩
  have hgo : exec (.pmAlert status pinMax vinMin) s = .next (keep fpPower s (refreshLoops x)) := by
    rw [exec_pmAlert, run_powered hp, hx, hw, hv]
    rfl
  obtain ⟨hl, -⟩ := refreshLoops_spec x
  have hwp : w.pwr = v.pwr := by rw [hw, raise_changes]
  have hxp : x.pwr = v.pwr := by
    rw [← hwp, hx]
    split
    · rw [raise_changes]
    · rfl
  have h80 : 80 ∈ w.irq.pend := hw ▸ pend_power (n := 80) ⟨by decide, by decide⟩
  have hxw : 80 ∈ x.irq.pend := by
    rw [hx]
    split
    · exact (grows_raise _).pend _ h80
    · exact h80
  refine ⟨_, hgo, ?_⟩
  show (refreshLoops x).pwr.pinMax = _ ∧ (refreshLoops x).pwr.vinMin = _ ∧ 80 ∈ (refreshLoops x).irq.pend ∧ (_ → 83 ∈ (refreshLoops x).irq.pend)
  rw [hl.pwr, hxp, hv]
  refine ⟨rfl, rfl, hl.grows.pend _ hxw, fun hbit => hl.grows.pend _ ?_⟩
  have hwarn : inputWarning status = true := by
    unfold inputWarning
    rcases hbit with h | h <;> simp [h]
  rw [hx, if_pos hwarn]
  exact pend_power (n := 83) ⟨by decide, by decide⟩

/-- The hottest die sensor is read. -/
theorem readDie_spec (s : State) : (readDie s).lift = s.lift ∧ (readDie s).pwr.throttle = s.pwr.throttle ∧ (readDie s).pwr.pmbFail = s.pwr.pmbFail ∧
    (s.pwr.trip = false → (readDie s).pwr.sensor < 64 ∧ (readDie s).pwr.dieC < if s.pwr.throttle = some .thermal then 120 else 110) ∧
    (s.pwr.trip = true → (readDie s).pwr.dieC = s.pwr.dieC) := by
  unfold readDie
  dsimp only
  split
  · next h => exact ⟨rfl, rfl, rfl, fun hf => absurd (h.symm.trans hf) (by decide), fun _ => rfl⟩
  · next h =>
    refine ⟨rfl, rfl, rfl, fun _ => ⟨Nat.mod_lt _ (by decide), Nat.mod_lt _ ?_⟩, fun ht => absurd ht h⟩
    split <;> decide

/-- STACK_TEMP_READ (R555, R567). -/
theorem stackTemp_answers (temps : List Nat) (hp : s.start.powered = true) :
    Answers (.stackTempRead temps) s fun t => t.pwr.stackC = min 255 ((temps.take (hbmPorts s)).foldl max 0) ∧
      (s.pwr.trip = false → t.pwr.sensor < 64 ∧ t.pwr.dieC < if s.pwr.throttle = some .thermal then 120 else 110) ∧ (s.pwr.trip = true → t.pwr.dieC = s.pwr.dieC) ∧
      (95 ≤ t.pwr.stackC ∨ 105 ≤ t.pwr.dieC → 82 ∈ t.irq.pend ∧
        (s.pwr.throttle = none → s.pwr.pmbFail = false → t.pwr.allow = max 800 (max 800 s.lift.clk - 50) ∧ t.pwr.limit = 1)) := by
  obtain ⟨hl, hthr, hfail, hsen, hdie⟩ := readDie_spec s
  obtain ⟨v, hv⟩ : ∃ v : State, v = { readDie s with pwr := { (readDie s).pwr with stackC := min 255 ((temps.take (hbmPorts s)).foldl max 0) } } := ⟨_, rfl⟩
  obtain ⟨u, hu⟩ : ∃ u, u = refreshLoops v := ⟨_, rfl⟩
  obtain ⟨hloops, ha, hm⟩ := refreshLoops_spec v
  rw [← hu] at hloops ha hm
  obtain ⟨t, ht⟩ : ∃ t, t = if thermalLimit u then raise srcThermal u else u := ⟨_, rfl⟩
  have hgo : exec (.stackTempRead temps) s = .next (keep fpPower s t) := by
    show run fpPower (stackTemp temps) s = _
    rw [run_powered hp, ht, hu, hv]
    rfl
  have htp : t.pwr = u.pwr := by
    rw [ht]
    split
    · rw [raise_changes]
    · rfl
  have hup := hloops.pwr
  refine ⟨_, hgo, ?_⟩
  show t.pwr.stackC = _ ∧ (_ → t.pwr.sensor < 64 ∧ t.pwr.dieC < _) ∧ (_ → t.pwr.dieC = _) ∧ (95 ≤ t.pwr.stackC ∨ 105 ≤ t.pwr.dieC → 82 ∈ t.irq.pend ∧
    (_ → _ → t.pwr.allow = _ ∧ t.pwr.limit = 1))
  have hst : u.pwr.stackC = v.pwr.stackC := by rw [hup]
  have hdi : u.pwr.dieC = v.pwr.dieC := by rw [hup]
  have hse : u.pwr.sensor = v.pwr.sensor := by rw [hup]
  have hvp : v.pwr = { (readDie s).pwr with stackC := min 255 ((temps.take (hbmPorts s)).foldl max 0) } := by rw [hv]
  rw [htp, hst, hdi, hse, hvp]
  refine ⟨rfl, hsen, hdie, fun hot => ?_⟩
  have hlim : ∀ x : State, x.pwr.stackC = v.pwr.stackC → x.pwr.dieC = v.pwr.dieC → thermalLimit x = true := fun x h1 h2 => by
    unfold thermalLimit
    rw [h1, h2, hvp]
    rcases hot with h | h <;> simp [h]
  refine ⟨?_, fun hno hf => ?_⟩
  · rw [ht, if_pos (hlim u hst hdi)]
    exact pend_power (n := 82) ⟨by decide, by decide⟩
  · have hall := allowed_thermal (s := v) (by rw [hvp]; exact hthr.trans hno) (by rw [hvp]; exact hfail.trans hf) (hlim v rfl rfl)
    have hvl : v.lift = s.lift := by rw [hv]; exact hl
    exact ⟨ha.trans (by rw [hall, hvl]), hm.trans (by rw [hall])⟩

/-- THROTTLE_RELEASE (R567). -/
theorem release_answers (hp : s.start.powered = true) :
    (s.pwr.throttle = none → Answers .throttleRelease s fun t => t = s) ∧
    (s.pwr.throttle = some .electrical → Answers .throttleRelease s fun t => if s.pwr.vin < s.pwr.vinMin then t = s else t.pwr.throttle = none ∧ t.pwr.dieC = s.pwr.dieC) ∧
    (s.pwr.throttle = some .thermal → Answers .throttleRelease s fun t => t.pwr.throttle = none ∧ t.pwr.dieC < 100) := by
  have hrow : exec .throttleRelease s = .next (keep fpPower s (releaseThrottle s)) := run_powered hp
  refine ⟨fun h => ⟨_, hrow, ?_⟩, fun h => ⟨_, hrow, ?_⟩, fun h => ⟨_, hrow, ?_⟩⟩
  · unfold releaseThrottle
    rw [h]
    exact keep_self _ _
  · unfold releaseThrottle
    rw [h]
    dsimp only
    split
    · exact keep_self _ _
    · obtain ⟨v, hv⟩ : ∃ v : State, v = { s with pwr := { s.pwr with throttle := none } } := ⟨_, rfl⟩
      rw [← hv]
      show (refreshLoops v).pwr.throttle = none ∧ (refreshLoops v).pwr.dieC = _
      rw [(refreshLoops_spec v).1.pwr, hv]
      exact ⟨rfl, rfl⟩
  · unfold releaseThrottle
    rw [h]
    dsimp only
    obtain ⟨v, hv⟩ : ∃ v : State, v = drewFree { s with pwr := { s.pwr with throttle := none, dieC := (freeVal s).toNat % 100 } } := ⟨_, rfl⟩
    rw [← hv]
    show (refreshLoops v).pwr.throttle = none ∧ (refreshLoops v).pwr.dieC < 100
    rw [(refreshLoops_spec v).1.pwr, hv]
    exact ⟨rfl, Nat.mod_lt _ (by decide)⟩

/-- THERMAL_TRIP (R567). -/
theorem trip_answers (hp : s.start.powered = true) :
    (∀ k d, k < 64 → d < 120 ∨ s.pwr.trip = true → Answers (.thermalTrip k d) s fun t => t = s) ∧
    (∀ k d, k < 64 → 120 ≤ d → s.pwr.trip = false → Answers (.thermalTrip k d) s fun t => ChangesOnly [.pwr, .irq, .out] s t ∧
      t.pwr = { s.pwr with trip := true, dieC := min 255 d, sensor := k, req := 0, ack := false, wantClk := none } ∧ 82 ∈ t.irq.pend ∧
      t.out.log = .clkReq 0 :: .thermtrip true :: s.out.log) := by
  have hrow : ∀ k d, k < 64 → exec (.thermalTrip k d) s = .next (keep [.pwr, .irq, .out] s (thermalTrip k d s)) := fun k d hk => by
    show onUnit (decide (k < 64)) _ _ = _
    rw [decide_eq_true hk, onUnit_true, run_powered hp]
  refine ⟨fun k d hk h => ⟨_, hrow k d hk, ?_⟩, fun k d hk hd ht => ⟨_, hrow k d hk, ?_⟩⟩
  · unfold thermalTrip
    rw [if_pos h]
    exact keep_self _ _
  · obtain ⟨v, hv⟩ : ∃ v : State, v = { s with pwr := { s.pwr with
      trip := true, dieC := min 255 d, sensor := k, req := 0, ack := false, wantClk := none } } := ⟨_, rfl⟩
    have hgo : thermalTrip k d s = emit (.clkReq 0) (emit (.thermtrip true) (raise srcThermal v)) := by
      unfold thermalTrip
      rw [if_neg (by rw [ht]; simp; omega), hv]
    have hpend : 82 ∈ (raise srcThermal v).irq.pend := pend_power (n := 82) ⟨by decide, by decide⟩
    have hchg : raise srcThermal v = { v with irq := (raise srcThermal v).irq } := raise_changes _ _
    obtain ⟨w, hw⟩ : ∃ w, w = raise srcThermal v := ⟨_, rfl⟩
    rw [← hw] at hpend hchg
    rw [hgo, ← hw]
    refine ⟨changesOnly_within (by rw [hchg, hv]; rfl) _, ?_, hpend, ?_⟩
    · show w.pwr = _
      rw [hchg, hv]
    · show .clkReq 0 :: .thermtrip true :: w.out.log = _
      rw [hchg, hv]

/-- The voltage of the higher clock that waits for it is there. -/
def voltReached (t : State) : State :=
  t.pwr.wantClk.elim t fun w => { t with pwr := { t.pwr with volt := max t.pwr.volt (30 + w / 25) } }

/-- AVS_VOLTAGE_IN_RANGE (R565). -/
theorem exec_avsVoltageInRange (hp : s.start.powered = true) : exec .avsVoltageInRange s = .next (keep [.pwr, .irq] s (raise srcAvs (voltReached s))) := by
  show execAvsVoltageInRange s = _
  unfold execAvsVoltageInRange voltReached
  rw [run_powered hp]
  dsimp only
  cases s.pwr.wantClk with
  | none => rfl
  | some w => rfl

/-- Settles O56: power-on, the steps of start-up and each signal, one after another. -/
theorem powerAndStartUp : Obligations.PowerAndStartUp := by
  intro s fires p
  refine ⟨fun hp => ?_, fun hp => ?_, fun hp => ?_, fun hp => ?_⟩
  · obtain ⟨h1, h2, h3, h4, h5⟩ := cutStore_spec s
    exact ⟨_, run_powered hp, rfl, rfl, rfl, h3, h4, h5, rfl, rfl, rfl, rfl, rfl, rfl, rfl, rfl⟩
  · refine ⟨_, rfl, ?_, ?_, ?_, ?_⟩ <;> rw [if_neg (by simp [hp])]
  · exact ⟨_, rfl, if_pos hp⟩
  obtain ⟨t1, t2, t3, t4⟩ := training_answers hp
  obtain ⟨u1, u2, u3, u4, u5, u6, u7⟩ := startUp_answers hp
  obtain ⟨r1, r2, r3⟩ := release_answers hp
  obtain ⟨x1, x2⟩ := trip_answers hp
  have hem : ∀ c, exec (.emergencyThrottle c) s = .next (keep (.pwr :: fpWork) s (emergency c s)) := fun _ => run_powered hp
  refine ⟨t1, t2, t3, t4, u1, u2, u3, u4, u5, u6, u7, fun h => ⟨s, run_onlyIf_false hp (by simp [h]), rfl⟩, fun h => ?_, ⟨_, run_powered (fp := [.start]) (f := fun t => { t with start := { t.start with perst := false } }) hp, rfl⟩, ?_, ?_,
    fun pin vin => ?_, ?_, fun status pinMax vinMin => pmAlert_answers status pinMax vinMin hp, fun temps => stackTemp_answers temps hp, fun c h => ?_,
    fun c hno htrip hkey hle => ⟨_, hem c, emergency_spec hno htrip hkey hle⟩, r1, r2, r3, x1, x2, fun k hk => ?_⟩
  · obtain ⟨h1, h2, h3, h4, h5⟩ := perstAssert_spec s
    have hgo : exec .perstAssert s = .next (keep (.start :: fpBay) s (perstAssert s)) := run_onlyIf_true hp (by simp [h])
    obtain ⟨t, ht⟩ : ∃ t, t = perstAssert s := ⟨_, rfl⟩
    rw [← ht] at hgo h1 h2 h3 h4 h5
    refine ⟨_, hgo, h1, h2, h3, h4, fun b hb => ?_⟩
    obtain ⟨⟨hgone, hout⟩, hmem, hbar, hatc⟩ := h5 b hb
    exact ⟨hgone, hmem, hbar, hatc, hout⟩
  · by_cases h : s.pwr.req = 0
    · exact ⟨s, run_onlyIf_false hp (by simp [h]), (if_pos h).symm⟩
    · refine ⟨_, run_onlyIf_true (fp := [.pwr]) (f := fun t => { t with pwr := { t.pwr with ack := true } }) hp (by simp [h]), ?_⟩
      rw [if_neg h]
      rfl
  · refine ⟨_, exec_avsVoltageInRange hp, rfl, pend_power (n := 81) ⟨by decide, by decide⟩, ?_⟩
    show (raise srcAvs (voltReached s)).pwr = _
    rw [raise_changes]
    unfold voltReached
    cases h : s.pwr.wantClk with
    | none => simp only [p, Option.elim]
    | some w => simp only [p, h, Option.elim]
  · obtain ⟨t, hgo, ⟨a, l, f, k, hpwr⟩, hfail, hlow⟩ := polled_answers (some (pin, vin)) hp
    have hpin : t.pwr.vin = vin % 2 ^ 16 ∧ t.pwr.vinMin = p.vinMin := by rw [hpwr]; exact ⟨rfl, rfl⟩
    refine ⟨_, hgo, rfl, ?_⟩
    show t.pwr.pin = _ ∧ t.pwr.vin = _ ∧ t.pwr.window = _ ∧ t.pwr.fails = _ ∧ t.pwr.oks = _ ∧ t.pwr.pmbFail = _ ∧ (t.pwr.pmbFail = true → t.pwr.allow = 800) ∧
      (_ → 83 ∈ t.irq.pend)
    refine ⟨by rw [hpwr]; rfl, hpin.1, by rw [hpwr]; rfl, by rw [hpwr]; rfl, by rw [hpwr]; rfl, by rw [hpwr]; rfl, hfail, fun h => hlow ?_⟩
    rw [hpin.1, hpin.2]
    exact h
  · obtain ⟨t, hgo, ⟨a, l, f, k, hpwr⟩, hfail, hlow⟩ := polled_answers none hp
    refine ⟨_, hgo, ?_⟩
    show t.pwr.fails = _ ∧ t.pwr.oks = _ ∧ t.pwr.pmbFail = _ ∧ (t.pwr.pmbFail = true → t.pwr.allow = 800) ∧ t.pwr.pin = _
    exact ⟨by rw [hpwr]; rfl, by rw [hpwr]; rfl, by rw [hpwr]; rfl, hfail, by rw [hpwr]; rfl⟩
  · have hrow : exec (.emergencyThrottle c) s = _ := hem c
    refine ⟨_, hrow, ?_⟩
    have hsame : emergency c s = s := by
      unfold emergency
      rw [if_pos]
      rcases h with h | h
      · simp [Option.isSome_iff_ne_none, show s.pwr.throttle ≠ none from h]
      · simp [show s.pwr.trip = true from h]
    rw [hsame]
    exact keep_self _ _
  · refine ⟨keep [.out] s (emit (.phyAck k) s), ?_, rfl⟩
    show onUnit (decide (k < hbmPorts s)) _ _ = _
    rw [decide_eq_true hk, onUnit_true, run_powered hp]

end Sys2Proof.Proofs
end


section

/-! SUPPORT. A frame given to a port: what sending changes, and that the frame stays to be found until it has left. -/

namespace Sys2Proof.Proofs
open Sys2Proof.Machine

variable {s t u v : State} {p : Nat} {P : Frame → Prop}

/-- A state that differs at most in what the ports hold and what waits for their buffers, in interrupts and output. -/
abbrev Posts (s t : State) : Prop := t = { s with kw := { s.kw with ports := t.kw.ports, waiting := t.kw.waiting }, irq := t.irq, out := t.out }

theorem Posts.trans (h : Posts s t) (g : Posts t u) : Posts s u := by
  unfold Posts at *
  rw [h] at g
  exact g
theorem Posts.fabric (h : Posts s t) : FabricOnly s t := by rw [h]

theorem posts_turn (p : Nat) : Posts s (turn p s) := by
  unfold turn
  simp only
  split
  · rfl
  · rw [raise_changes]; rfl

theorem posts_sendOne (p : Nat) : Posts s (sendOne p s) := by
  unfold sendOne
  simp only
  split
  · exact posts_turn p
  split
  · exact posts_turn p
  split
  · exact posts_turn p
  · exact Posts.trans (posts_turn p) rfl

theorem posts_admitOne : Posts s (admitOne s) := by
  unfold admitOne
  split
  · rfl
  · exact Posts.trans (by rfl) (posts_sendOne _)

theorem posts_flushPort (p : Nat) : Posts s (flushPort p s) :=
  Posts.trans (foldl_inv (Posts s) _ _ (fun _ _ h => Posts.trans h (posts_sendOne p)) s rfl)
    (foldl_inv (Posts _) _ _ (fun _ _ h => Posts.trans h posts_admitOne) _ rfl)

theorem posts_portSend (p : Nat) (e : Staged) : Posts s (portSend p e s) :=
  Posts.trans (t := { s with kw := { s.kw with waiting := s.kw.waiting ++ [(p, e)] } }) rfl (posts_flushPort p)

theorem posts_kwSend (b : Nat) (f : Frame) : Posts s (kwSend b f s) := by
  unfold kwSend
  split
  · exact posts_portSend _ _
  · rfl

/-! ## A frame is not lost -/

/-- From `t` to `u` no frame that waits, is staged or has left is lost. -/
def Passes (t u : State) : Prop := ∀ s p P, Sends p P s t → Sends p P s u

theorem Passes.refl : Passes t t := fun _ _ _ h => h
theorem Passes.trans (h : Passes s t) (g : Passes t u) : Passes s u := fun _ _ _ k => g _ _ _ (h _ _ _ k)

/-- What is staged or waits may be left where it is, staged from the waiting, or sent. -/
theorem passes_of (hl : t.out.log <:+ u.out.log)
    (hq : ∀ p, ∀ e ∈ (kport t p).outq, (∃ d ∈ (kport u p).outq, d.frame = e.frame) ∨
      ∃ new, u.out.log = new ++ t.out.log ∧ ∃ q c w, .frame p { e.frame with seq := q, ctr := c, wire := w } ∈ new)
    (hw : ∀ p e, (p, e) ∈ t.kw.waiting → (p, e) ∈ u.kw.waiting ∨ ∃ d ∈ (kport u p).outq, d.frame = e.frame) : Passes t u := by
  rintro s p P ⟨old, hold, f, hf, h⟩
  obtain ⟨new, hnew⟩ := hl
  refine ⟨new ++ old, by rw [← hnew, hold, List.append_assoc], f, hf, ?_⟩
  rcases h with ⟨e, he, rfl⟩ | ⟨e, he, rfl⟩ | ⟨q, c, w, h⟩
  · rcases hq p e he with h | ⟨new', hnew', q, c, w, h⟩
    · exact .inl h
    · rw [← hnew, List.append_cancel_right_eq] at hnew'
      exact .inr (.inr ⟨q, c, w, List.mem_append_left _ (hnew' ▸ h)⟩)
  · rcases hw p e he with h | h
    · exact .inr (.inl ⟨e, h, rfl⟩)
    · exact .inl h
  · exact .inr (.inr ⟨q, c, w, List.mem_append_right _ h⟩)

theorem kport_modKw_same (f : Port → Port) : kport (modKw p f s) p = f (kport s p) := by simp [kport, modKw, tgetD, tget_tmod]
theorem kport_modKw_ne {q : Nat} (h : q ≠ p) (f : Port → Port) : kport (modKw p f s) q = kport s q := by simp [kport, modKw, tgetD, tget_tmod, h]
/-- A field of the ports that a change leaves as it is. -/
theorem kport_modKw_keeps {α : Type} (g : Port → α) {f : Port → Port} (h : ∀ x, g (f x) = g x) (q : Nat) : g (kport (modKw p f s) q) = g (kport s q) := by
  rcases eq_or_ne q p with rfl | hq
  · rw [kport_modKw_same, h]
  · rw [kport_modKw_ne hq]

theorem turnKeys_outq (x : Port) : (turnKeys x).outq = x.outq := by
  unfold turnKeys
  extract_lets y z
  have hy : y.outq = x.outq := by
    dsimp only [y]
    split
    · split <;> rfl
    · rfl
  have hz : z.outq = y.outq := by
    dsimp only [z]
    split
    · split <;> rfl
    · rfl
  clear_value z
  split_ifs
  · exact hz.trans hy
  · exact hz.trans hy
  · rfl

/-- Nothing is lost where the ports keep what is staged, the waiting is as it was and the log grows. -/
theorem passes_of_kept (hl : t.out.log <:+ u.out.log) (hq : ∀ p, (kport u p).outq = (kport t p).outq) (hw : u.kw.waiting = t.kw.waiting) : Passes t u :=
  passes_of hl (fun p e he => .inl ⟨e, by rwa [hq], rfl⟩) (fun p e he => .inl (by rwa [hw]))

theorem passes_raise (n : Nat) : Passes s (raise n s) :=
  passes_of_kept (grows_raise n).log (fun p => by rw [raise_changes]; rfl) (by rw [raise_changes])

theorem passes_modKw {f : Port → Port} (h : ∀ x, (f x).outq = x.outq) : Passes s (modKw p f s) :=
  passes_of_kept (List.suffix_refl _) (kport_modKw_keeps Port.outq h) rfl

theorem passes_turn (p : Nat) : Passes s (turn p s) := by
  unfold turn
  simp only
  split
  · exact passes_modKw turnKeys_outq
  · exact (passes_modKw turnKeys_outq).trans (passes_raise _)

theorem mem_dropFirst {α : Type} {r : α → Bool} {l : List α} {x : α} (h : x ∈ l) : x ∈ dropFirst r l ∨ r x = true := by
  induction l with
  | nil => cases h
  | cons y l ih =>
    unfold dropFirst
    split_ifs with hy
    · rcases List.mem_cons.1 h with rfl | h
      · exact .inr hy
      · exact .inl h
    · rcases List.mem_cons.1 h with rfl | h
      · exact .inl (List.mem_cons_self ..)
      · exact (ih h).imp_left (List.mem_cons_of_mem _)

theorem takeCredit_outq (vc : Nat) (x : Port) : (takeCredit vc x).outq = x.outq := by
  unfold takeCredit
  split <;> rfl

theorem passes_sendOne (p : Nat) : Passes s (sendOne p s) := by
  unfold sendOne
  extract_lets t x
  refine (passes_turn (s := s) p).trans ?_
  split
  · exact .refl
  split
  · exact .refl
  next e he =>
  split
  · exact .refl
  extract_lets g
  refine passes_of (List.suffix_cons _ _) (fun q d hd => ?_) (fun q d hd => .inl hd)
  rcases eq_or_ne q p with rfl | hq
  · rcases mem_dropFirst (r := (· == e)) hd with h | h
    · refine .inl ⟨d, ?_, rfl⟩
      show d ∈ (kport (modKw _ _ _) _).outq
      rw [kport_modKw_same, takeCredit_outq]
      exact h
    · obtain rfl := eq_of_beq h
      exact .inr ⟨_, (List.singleton_append).symm, _, _, _, List.mem_singleton.2 rfl⟩
  · refine .inl ⟨d, ?_, rfl⟩
    show d ∈ (kport (modKw _ _ _) _).outq
    rwa [kport_modKw_ne hq]

theorem nextWaiting_spec {x : Nat × Nat × Staged} (h : nextWaiting s = some x) :
    ∃ e, s.kw.waiting[x.1]? = some (x.2.1, e) ∧ x.2.2.frame = e.frame := by
  unfold nextWaiting at h
  obtain ⟨i, -, hi⟩ := List.exists_of_findSome?_eq_some h
  simp only at hi
  split at hi
  · cases hi
  next y hy =>
  split at hi
  · cases hi
  · obtain ⟨b, -, rfl⟩ := Option.map_eq_some_iff.1 hi
    exact ⟨y.2, hy, rfl⟩

theorem passes_admitOne : Passes s (admitOne s) := by
  unfold admitOne
  split
  · exact .refl
  next x hx =>
  refine Passes.trans ?_ (passes_sendOne _)
  obtain ⟨e, he, hframe⟩ := nextWaiting_spec hx
  refine passes_of (List.suffix_refl _) (fun q d hd => .inl ⟨d, ?_, rfl⟩) (fun q d hd => ?_)
  · rcases eq_or_ne q x.2.1 with rfl | hq
    · rw [kport_modKw_same]
      exact List.mem_append_left _ hd
    · rwa [kport_modKw_ne hq]
  · obtain ⟨j, hj⟩ := List.mem_iff_getElem?.1 hd
    rcases eq_or_ne j x.1 with rfl | hne
    · obtain ⟨rfl, rfl⟩ := Prod.mk.inj (Option.some.inj (hj.symm.trans he))
      refine .inr ⟨x.2.2, ?_, hframe⟩
      rw [kport_modKw_same]
      exact List.mem_append_right _ (List.mem_singleton.2 rfl)
    · exact .inl (List.mem_eraseIdx_iff_getElem?.2 ⟨j, hne, hj⟩)

theorem passes_flushPort (p : Nat) : Passes s (flushPort p s) :=
  Passes.trans (foldl_inv (Passes s) _ _ (fun _ _ h => h.trans (passes_sendOne p)) s .refl)
    (foldl_inv (Passes _) _ _ (fun _ _ h => h.trans passes_admitOne) _ .refl)

theorem passes_portSend (p : Nat) (e : Staged) : Passes s (portSend p e s) :=
  Passes.trans (t := { s with kw := { s.kw with waiting := s.kw.waiting ++ [(p, e)] } })
    (passes_of (List.suffix_refl _) (fun _ d hd => .inl ⟨d, hd, rfl⟩) (fun _ _ h => .inl (List.mem_append_left _ h))) (passes_flushPort p)

/-- The frame given to a port leaves by it, or is kept there. -/
theorem sends_portSend {e : Staged} (h : P e.frame) : Sends p P s (portSend p e s) :=
  passes_flushPort p _ _ _ ⟨[], rfl, e.frame, h, .inr (.inl ⟨e, List.mem_append_right _ (List.mem_singleton.2 rfl), rfl⟩)⟩

/-- What has been sent since `u` has been sent since an earlier state. -/
theorem Sends.since (hl : s.out.log <:+ u.out.log) (h : Sends p P u t) : Sends p P s t := by
  obtain ⟨new, hnew, f, hf, h⟩ := h
  obtain ⟨old, hold⟩ := hl
  refine ⟨new ++ old, by rw [hnew, ← hold, List.append_assoc], f, hf, h.imp_right (.imp_right ?_)⟩
  rintro ⟨q, c, w, h⟩
  exact ⟨q, c, w, List.mem_append_left _ h⟩

theorem answersWith_answerFor (b kind : Nat) (f : Frame) (status : Nat) (data : List Byte) : AnswersWith p kind status data f s (answerFor b p kind f status data s) :=
  sends_portSend ⟨rfl, rfl, rfl, rfl, rfl, rfl, rfl⟩
theorem answersWith_answer (kind : Nat) (f : Frame) (status : Nat) (data : List Byte) : AnswersWith p kind status data f s (answer p kind f status data s) :=
  answersWith_answerFor _ kind f status data
theorem posts_answer (kind : Nat) (f : Frame) (status : Nat) (data : List Byte) : Posts s (answer p kind f status data s) := posts_portSend _ _

/-! ## A frame taken in its order -/

/-- What follows the handling of an accepted frame: the credit and the number go back (R416, R418). -/
def acknowledge (p : Nat) (f : Frame) (n : Nat) (t : State) : State :=
  if f.vc < 3 then linkSend p fkCredit n ((List.range 3).flatMap fun v => natLe 2 (b2n (v == f.vc))) t else t

theorem posts_acknowledge (f : Frame) (n : Nat) : Posts s (acknowledge p f n s) := by
  unfold acknowledge
  split
  · exact posts_portSend _ _
  · rfl

theorem passes_acknowledge (f : Frame) (n : Nat) : Passes s (acknowledge p f n s) := by
  unfold acknowledge
  split
  · exact passes_portSend _ _
  · exact .refl

theorem posts_took (s : State) (p : Nat) : Posts s (took s p) := Posts.trans (posts_turn p) rfl
theorem log_took (s : State) (p : Nat) : (took s p).out.log = s.out.log := by
  show (turn p s).out.log = _
  unfold turn
  simp only
  split
  · rfl
  · rw [raise_changes]; rfl

/-- A frame the port takes is handled in the state that has accepted it, and then acknowledged. -/
theorem onKw_recv {k : Nat} {f : Frame} (h : takes s p k f = true) (body : State → State) :
    onKw p s (run fpWork (recvFrame p k f body) s) = .next (keep fpWork s (acknowledge p f (kport s p).sRx (body (took s p)))) := by
  simp only [takes, Bool.and_eq_true, decide_eq_true_eq, Bool.not_eq_true', beq_iff_eq] at h
  obtain ⟨⟨⟨⟨hp, hport⟩, hup⟩, hdis⟩, hk⟩ := h
  have hbody : recvFrame p k f body s = acknowledge p f (kport s p).sRx (body (took s p)) := by
    simp [recvFrame, hup, hdis, hk, acknowledge, took]
  rw [onKw, decide_eq_true hport, onUnit_true, run_powered hp, hbody]

end Sys2Proof.Proofs
end

section

/-! SUPPORT. Inbound requests: what unavailability and the window checks look at, and what each answer leaves. -/

namespace Sys2Proof.Proofs
open Sys2Proof.Machine

variable {s t u v : State} {p b va n : Nat} {P : Frame → Prop} {f : Frame} {env : Env}

theorem unavailable_fabric (h : FabricOnly s t) : unavailable t = unavailable s := by rw [h]; rfl
theorem winCheck_fabric (h : FabricOnly s t) (src addr n op : Nat) : winCheck t src addr n op = winCheck s src addr n op := by rw [h]; rfl

theorem log_macFailures (b va pa n : Nat) (env : Env) (s : State) : (macFailures b va pa n env s).out.log = s.out.log := by
  refine foldl_inv (fun t : State => t.out.log = s.out.log) _ _ (fun t e h => ?_) s rfl
  split_ifs
  · exact h
  · exact h
  · rw [poisonBlock, rasRec_changes, raise_changes]
    exact h

theorem log_afterMac (wr : Bool) (b va n : Nat) (env : Env) (s : State) : (afterMac wr b va n env s).out.log = s.out.log := by
  refine foldl_inv (fun t : State => t.out.log = s.out.log) _ _ (fun t q h => ?_) s rfl
  cases wr <;> exact (log_macFailures _ _ _ _ _ _).trans h

/-- A malformed request is answered so, and the enabled window it names is frozen (R480). -/
theorem malformed_spec (kind : Nat) (f : Frame) : AnswersWith p kind 3 [] f s (malformed p kind f s) ∧
    ∀ w, tget (f.addr / 2 ^ 40) s.mem.wins = some w → tget (f.addr / 2 ^ 40) (malformed p kind f s).mem.wins =
      some (if w.enabled = true then { w with enabled := false, frozen := true, viol := (f.addr % 2 ^ 40, f.src) } else w) := by
  unfold malformed
  extract_lets i _ t
  have hlog : t.out.log = s.out.log := by
    dsimp only [t]
    split
    · rfl
    split_ifs
    · rfl
    · rw [plumbRec]; rw [raise_changes]
  have hwins : ∀ w, tget i s.mem.wins = some w →
      tget i t.mem.wins = some (if w.enabled = true then { w with enabled := false, frozen := true, viol := (f.addr % 2 ^ 40, f.src) } else w) := by
    intro w hw
    dsimp only [t]
    rw [hw]
    dsimp only
    cases he : w.enabled
    · simpa using hw
    · simp only [Bool.not_true, Bool.false_eq_true, if_false, if_true]
      rw [plumbRec, raise_changes]
      exact tget_tput_same _ _ _
  refine ⟨Sends.since (by rw [hlog]) (answersWith_answer kind f 3 []), fun w hw => ?_⟩
  rw [(posts_answer kind f 3 []).fabric.mem]
  exact hwins w hw

/-- A denied request is answered so and counted. -/
theorem denied_spec (kind : Nat) (f : Frame) : AnswersWith p kind 1 [] f s (denied p kind f s) ∧
    (denied p kind f s).mem = { s.mem with denied := satAdd 0xFFFF s.mem.denied 1 } :=
  ⟨Sends.since (List.suffix_refl _) (answersWith_answer kind f 1 []), (posts_answer kind f 1 []).fabric.mem⟩

/-- What serving request `r` at `va` of bay `b` does to `v`: the answer, and the bytes read, stored or updated. -/
def ServesAs (p : Nat) (r : Inbound) (f : Frame) (b va : Nat) (v w : State) : Prop :=
  let old := (readVa v b {} false va r.n).getD []
  AnswersWith p r.ans 0 (if r.kind = fkRead then old else if r.kind = fkAtomic then natLe 8 (leNat old) else []) f v w ∧
  w.mem = (countRange b va r.n (decide (r.kind ≠ fkRead)) (if r.kind = fkRead then v else writeVa b va (storedBy f r.kind old) v)).mem

theorem BaysOnly.mem (h : BaysOnly s t) : t.mem = s.mem := by rw [h]
theorem BaysOnly.log (h : BaysOnly s t) : t.out.log = s.out.log := by rw [h]

/-- The service of a READ: the bytes are its answer. -/
def readServed (p : Nat) (f : Frame) (b va : Nat) (t : State) : State :=
  answer p fkReadData f 0 ((readVa t b {} false va (fld f.data 0 2)).getD []) (countRange b va (fld f.data 0 2) false t)
/-- The service of a WRITE: its bytes are stored. -/
def writeServed (p : Nat) (f : Frame) (b va : Nat) (t : State) : State :=
  answer p fkStatus f 0 [] (countRange b va f.data.length true (writeVa b va f.data t))
/-- The service of a request that replaces the `n` bytes it reads by those `new` makes of them, and answers what `data` makes of them. -/
def updateServed (p : Nat) (f : Frame) (n : Nat) (data new : List Byte → List Byte) (b va : Nat) (t : State) : State :=
  let old := (readVa t b {} false va n).getD []
  answer p fkStatus f 0 (data old) (countRange b va n true (countRange b va n false (writeVa b va (new old) t)))

theorem exec_read (h : takes s p fkRead f = true) : exec (.read p f env) s = .next (keep fpWork s (acknowledge p f (kport s p).sRx
    (inbound p fkReadData 0 (fld f.data 0 2) false (decide (2048 < fld f.data 0 2)) env f (readServed p f) (took s p)))) := onKw_recv h (readReq p f env)
theorem exec_write (h : takes s p fkWrite f = true) : exec (.write p f env) s = .next (keep fpWork s (acknowledge p f (kport s p).sRx
    (inbound p fkStatus 1 f.data.length true false env f (writeServed p f) (took s p)))) := onKw_recv h (writeReq p f env)
theorem exec_atomic (h : takes s p fkAtomic f = true) : exec (.atomic p f env) s = .next (keep fpWork s (acknowledge p f (kport s p).sRx
    (inbound p fkStatus 2 (atomicBytes (fld f.data 1 1)) false
      (f.data.length != 24 || !atomicOk (fld f.data 0 1) (fld f.data 1 1) || f.addr % 8 != 0) env f
      (updateServed p f (atomicBytes (fld f.data 1 1)) (fun old => natLe 8 (leNat old)) (storedBy f fkAtomic)) (took s p)))) :=
  onKw_recv h (atomicReq p f env)
theorem exec_reduce (h : takes s p fkReduce f = true) : exec (.reduce p f env) s = .next (keep fpWork s (acknowledge p f (kport s p).sRx
    (inbound p fkStatus 3 (f.data.drop 8).length false
      (decide (f.data.length < 16) || decide (2 < fld f.data 0 1) || decide (3 < fld f.data 1 1) ||
        f.addr % reduceBytes (fld f.data 1 1) != 0 || (f.data.drop 8).length % reduceBytes (fld f.data 1 1) != 0) env f
      (updateServed p f (f.data.drop 8).length (fun _ => []) (storedBy f fkReduce)) (took s p)))) :=
  onKw_recv h (reduceReq p f env)

/-- An answer given in `t`, reached from `v`, is given since `v`, and leaves the memories of `t`. -/
theorem answer_since (hl : v.out.log <:+ t.out.log) (kind : Nat) (data : List Byte) :
    AnswersWith p kind 0 data f v (answer p kind f 0 data t) ∧ (answer p kind f 0 data t).mem = t.mem :=
  ⟨Sends.since hl (answersWith_answer kind f 0 data), (posts_answer kind f 0 data).fabric.mem⟩

theorem log_countRange (va n : Nat) (wr : Bool) : (countRange b va n wr s).out.log = s.out.log := (baysOnly_countRange va n wr).log
theorem mem_countRange (va n : Nat) (wr : Bool) : (countRange b va n wr s).mem = s.mem := (baysOnly_countRange va n wr).mem

theorem updateServed_spec (n : Nat) (data new : List Byte → List Byte) :
    let old := (readVa v b {} false va n).getD []
    AnswersWith p fkStatus 0 (data old) f v (updateServed p f n data new b va v) ∧
    (updateServed p f n data new b va v).mem = (countRange b va n true (writeVa b va (new old) v)).mem := by
  intro old
  have h := answer_since (p := p) (f := f) (v := v) (t := countRange b va n true (countRange b va n false (writeVa b va (new old) v)))
    (by rw [log_countRange, log_countRange]; exact (wrote_writeVa va (new old)).toLeaves.grows.log) fkStatus (data old)
  exact ⟨h.1, h.2.trans (by simp only [mem_countRange])⟩

/-- Each inbound request is the common handling of R404 with its own answer, check and service. -/
theorem exec_inbound {r : Inbound} (hr : r ∈ inboundsOf p f env) (h : takes s p r.kind f = true) : ∃ bad serve,
    exec r.i s = .next (keep fpWork s (acknowledge p f (kport s p).sRx (inbound p r.ans r.op r.n (r.kind == fkWrite) bad env f serve (took s p)))) ∧
    (bad || decide (2048 < f.data.length)) = r.bad ∧ ∀ b va v, ServesAs p r f b va v (serve b va v) := by
  simp only [inboundsOf, List.mem_cons, List.not_mem_nil, or_false] at hr
  rcases hr with rfl | rfl | rfl | rfl
  · exact ⟨_, _, exec_read h, rfl, fun b va v => answer_since (by rw [log_countRange]) _ _⟩
  · exact ⟨_, _, exec_write h, rfl, fun b va v => answer_since (by rw [log_countRange]; exact (wrote_writeVa va f.data).toLeaves.grows.log) _ _⟩
  · exact ⟨_, _, exec_atomic h, rfl, fun b va v => updateServed_spec _ _ _⟩
  · exact ⟨_, _, exec_reduce h, rfl, fun b va v => updateServed_spec _ _ _⟩

/-- What holds of a state handled from an accepted frame holds of the command's answer. -/
theorem answers_inbound {i : Instr} {w : State} {kind status : Nat} {data : List Byte}
    (he : exec i s = .next (keep fpWork s (acknowledge p f (kport s p).sRx w))) (ha : AnswersWith p kind status data f (took s p) w) {Q : MemSys → Prop}
    (hq : Q w.mem) : Answers i s fun t => AnswersWith p kind status data f s t ∧ Q t.mem := by
  refine ⟨_, he, Sends.since (t := acknowledge p f (kport s p).sRx w) (by rw [log_took]) (passes_acknowledge f _ _ _ _ ha), ?_⟩
  show Q (acknowledge p f (kport s p).sRx w).mem
  rw [(posts_acknowledge f _).fabric.mem]
  exact hq

/-- The clauses of an inbound request (R404, R414, R425, R426, R460, R461, R480). -/
theorem inbound_clauses {r : Inbound} (hr : r ∈ inboundsOf p f env) (h : takes s p r.kind f = true) :
    (unavailable s = true → Answers r.i s fun t => AnswersWith p r.ans 2 [] f s t ∧ t.mem = s.mem) ∧
    (unavailable s = false → r.bad = true → Answers r.i s fun t => AnswersWith p r.ans 3 [] f s t ∧
      ∀ w, tget (f.addr / 2 ^ 40) s.mem.wins = some w → tget (f.addr / 2 ^ 40) t.mem.wins =
        some (if w.enabled = true then { w with enabled := false, frozen := true, viol := (f.addr % 2 ^ 40, f.src) } else w)) ∧
    (unavailable s = false → r.bad = false → winCheck s f.src f.addr r.n r.op = none → Answers r.i s fun t => AnswersWith p r.ans 1 [] f s t ∧
      t.mem = { s.mem with denied := satAdd 0xFFFF s.mem.denied 1 }) ∧
    ∀ b va, unavailable s = false → r.bad = false → winCheck s f.src f.addr r.n r.op = some (b, va) →
      let v := afterMac (r.kind == fkWrite) b va r.n env (took s p)
      ((poisonVa v b va r.n).isSome = true → Answers r.i s fun t => AnswersWith p r.ans 1 [] f s t ∧ t.mem = v.mem) ∧
      ((poisonVa v b va r.n).isSome = false → Answers r.i s fun t =>
        let old := (readVa v b {} false va r.n).getD []
        AnswersWith p r.ans 0 (if r.kind = fkRead then old else if r.kind = fkAtomic then natLe 8 (leNat old) else []) f s t ∧
        t.mem = (countRange b va r.n (decide (r.kind ≠ fkRead)) (if r.kind = fkRead then v else writeVa b va (storedBy f r.kind old) v)).mem) := by
  obtain ⟨bad, serve, he, hbad, hserve⟩ := exec_inbound hr h
  have hu : FabricOnly s (took s p) := (posts_took s p).fabric
  rw [inbound, unavailable_fabric hu, hbad, winCheck_fabric hu] at he
  refine ⟨fun h1 => ?_, fun h1 h2 => ?_, fun h1 h2 h3 => ?_, ?_⟩
  · rw [if_pos h1] at he
    exact answers_inbound he (answersWith_answer _ _ _ _) (Q := (· = s.mem)) ((posts_answer _ _ _ _).fabric.mem.trans hu.mem)
  · rw [h1, if_neg Bool.false_ne_true, if_pos h2] at he
    obtain ⟨ha, hw⟩ := malformed_spec (s := took s p) (p := p) r.ans f
    rw [hu.mem] at hw
    exact answers_inbound he ha (Q := fun m => ∀ w, tget (f.addr / 2 ^ 40) s.mem.wins = some w → tget (f.addr / 2 ^ 40) m.wins =
      some (if w.enabled = true then { w with enabled := false, frozen := true, viol := (f.addr % 2 ^ 40, f.src) } else w)) hw
  · rw [h1, h2, h3, if_neg Bool.false_ne_true, if_neg Bool.false_ne_true] at he
    obtain ⟨ha, hm⟩ := denied_spec (s := took s p) (p := p) r.ans f
    rw [hu.mem] at hm
    exact answers_inbound he ha (Q := (· = { s.mem with denied := satAdd 0xFFFF s.mem.denied 1 })) hm
  · intro b va h1 h2 h3 v
    have hlog : (took s p).out.log <:+ v.out.log := by rw [log_afterMac]
    rw [h1, h2, h3, if_neg Bool.false_ne_true, if_neg Bool.false_ne_true] at he
    replace he : exec r.i s = .next (keep fpWork s (acknowledge p f (kport s p).sRx
      (if (poisonVa v b va r.n).isSome then answer p r.ans f 1 [] v else serve b va v))) := he
    refine ⟨fun h4 => ?_, fun h4 => ?_⟩
    · rw [if_pos h4] at he
      exact answers_inbound he (Sends.since hlog (answersWith_answer _ _ _ _)) (Q := (· = v.mem)) (posts_answer _ _ _ _).fabric.mem
    · rw [h4, if_neg Bool.false_ne_true] at he
      obtain ⟨ha, hm⟩ := hserve b va v
      exact answers_inbound he (Sends.since hlog ha) (Q := (· = _)) hm

end Sys2Proof.Proofs
end

section

/-! SUPPORT. A tag just freed by a timeout is not taken again (R427): requests take another, and what ends a command takes none but by
requests. -/

namespace Sys2Proof.Proofs
open Sys2Proof.Machine

variable {s t u : State} {b c k q tag code result : Nat} {er : Bool} {x : Txn}

/-- A request takes the free tag and is given to a port. -/
theorem posts_sendReq (h : freeTag s x.bay = some k) : Posts { s with kw := { s.kw with
    txns := tput k { x with mark := s.kw.mark } s.kw.txns, cooling := tdrop k s.kw.cooling } } (sendReq x s) := by
  unfold sendReq
  rw [h]
  exact posts_kwSend _ _

theorem sendReq_none (h : freeTag s x.bay = none) : sendReq x s = s := by simp [sendReq, h]

/-- The tag is free, and was freed by a timeout just now. -/
def Cool (tag : Nat) (s : State) : Prop := tget tag s.kw.txns = none ∧ tget tag s.kw.cooling = some s.rst.time

/-- What leaves a tag that cools free and cooling. -/
def KeepsCool (s t : State) : Prop := ∀ tag, Cool tag s → Cool tag t

theorem KeepsCool.refl : KeepsCool s s := fun _ h => h
theorem KeepsCool.trans (h : KeepsCool s t) (g : KeepsCool t u) : KeepsCool s u := fun tag k => g tag (h tag k)
theorem KeepsCool.foldl {α : Type} {f : State → α → State} (hf : ∀ t x, KeepsCool t (f t x)) (l : List α) : KeepsCool s (l.foldl f s) :=
  foldl_inv (KeepsCool s) l f (fun t x h => h.trans (hf t x)) s .refl
theorem KeepsCool.each {α : Type} {f : α → State → State} (hf : ∀ x t, KeepsCool t (f x t)) (l : List α) : KeepsCool s (each l f s) :=
  each_inv (KeepsCool s) l f (fun x t h => h.trans (hf x t)) s .refl

theorem cool_of (hx : t.kw.txns = s.kw.txns := by rfl) (hc : t.kw.cooling = s.kw.cooling := by rfl) (ht : t.rst.time = s.rst.time := by rfl) :
    KeepsCool s t := by
  intro tag h
  unfold Cool at *
  rwa [hx, hc, ht]

theorem cool_of_posts (h : Posts s t) : KeepsCool s t := cool_of (by rw [h]) (by rw [h]) (by rw [h])

theorem freeTag_spec {T : Nat} (h : freeTag s b = some k) (hc : tget k s.kw.cooling = some T) : T + 2000 ≤ s.rst.time := by
  have := List.find?_some h
  simp only [Bool.and_eq_true, hc, decide_eq_true_eq] at this
  exact this.2

theorem cool_sendReq (x : Txn) : KeepsCool s (sendReq x s) := by
  cases h : freeTag s x.bay with
  | none => rw [sendReq_none h]; exact .refl
  | some k =>
    refine KeepsCool.trans (fun tag hcool => ?_) (cool_of_posts (posts_sendReq h))
    obtain ⟨hfree, hcool⟩ := hcool
    have hne : tag ≠ k := by
      rintro rfl
      have := freeTag_spec h hcool
      omega
    exact ⟨(tget_tput_ne hne _ _).trans hfree, (tget_tdrop_ne hne _).trans hcool⟩

theorem cool_pumpOwn (n : Nat) : KeepsCool s (pumpOwn n s) := by
  induction n generalizing s with
  | zero => exact .refl
  | succ n ih =>
    unfold pumpOwn
    split
    · exact .refl
    split
    · exact .refl
    split
    · exact .refl
    · exact (KeepsCool.trans (by exact cool_of) (cool_sendReq _)).trans ih

theorem cool_ownJob (j : OwnJob) : KeepsCool s (ownJob j s) := by
  unfold ownJob
  split
  · exact .refl
  · exact KeepsCool.trans (t := { s with kw := { s.kw with own := s.kw.own ++ [j] } }) cool_of (cool_pumpOwn _)

/-! ## Records and writes -/

theorem cool_raise (n : Nat) : KeepsCool s (raise n s) := by rw [raise_changes]; exact cool_of
theorem cool_oweVector (v : Nat) : KeepsCool s (oweVector b v s) := KeepsCool.trans (by exact cool_of) (cool_raise _)
theorem cool_plumbRec (p : PlumbRec) : KeepsCool s (plumbRec p s) := KeepsCool.trans (by exact cool_of) (cool_raise 10)
theorem cool_modEqi (f : BayEqi → BayEqi) : KeepsCool s (modEqi b f s) := cool_of
theorem cool_modQueue (f : Queue → Queue) : KeepsCool s (modQueue b q f s) := by
  unfold modQueue
  split
  · exact .refl
  · exact cool_of
theorem cool_modCmd (f : Cmd → Cmd) : KeepsCool s (modCmd c f s) := by
  unfold modCmd
  split
  · exact .refl
  · exact cool_of
theorem cool_noteMove (h : Home) (off n : Nat) : KeepsCool s (noteMove b h off n s) := by
  unfold noteMove
  split
  · exact cool_of
  · exact .refl

theorem cool_writePa (pa : Nat) (bs : List Byte) : KeepsCool s (writePa pa bs s) := by
  unfold writePa
  refine KeepsCool.trans ?_ (by exact cool_of)
  split
  · exact cool_noteMove _ _ _
  · exact .refl

theorem cool_writeWin (k : Nat) (bs : List Byte) : KeepsCool s (writeWin k bs s) := by
  unfold writeWin
  refine KeepsCool.trans (KeepsCool.trans ?_ (cool_noteMove _ _ _)) (by exact cool_of)
  split
  · exact cool_ownJob _
  · exact .refl

theorem cool_writeVa (va : Nat) (bs : List Byte) : KeepsCool s (writeVa b va bs s) := by
  refine KeepsCool.foldl (fun t p => ?_) _
  dsimp only
  split
  · exact cool_writePa _ _
  · exact cool_writeWin _ _
  · exact cool_of
  · exact .refl

theorem cool_errRecord (kind code q slot detail address : Nat) (entry : List Byte) (origin shape ashlar engines reruns : Nat) (est : List Byte) :
    KeepsCool s (errRecord b kind code q slot detail address entry origin shape ashlar engines reruns est s) := by
  unfold errRecord
  extract_lets
  split
  · exact cool_of
  · exact ((cool_writeVa _ _).trans (cool_modEqi _)).trans (cool_raise _)

theorem cool_cmdError (x : Cmd) (kind code detail address : Nat) (a : Option Nat) (st : Nat) : KeepsCool s (cmdError x kind code detail address a st s) :=
  cool_errRecord _ _ _ _ _ _ _ _ _ _ _ _ _

/-! ## The stop and the end of a command -/

theorem cool_landSome (a : Nat) (ls : List (Nat × Nat × Nat × Nat)) : KeepsCool s (landSome b a ls s) := by
  induction ls generalizing s with
  | nil => exact .refl
  | cons l ls ih =>
    unfold landSome
    refine KeepsCool.trans ?_ ih
    split
    · exact KeepsCool.trans (t := noteLanded b _ _ (drewFree s)) cool_of ((cool_writeVa _ _).trans cool_of)
    · exact cool_of

theorem cool_halt (keepAsh : Option Nat) : KeepsCool s (halt c keepAsh s) := by
  unfold halt
  split
  · exact .refl
  next x _ =>
  extract_lets ids landed stopped quiet killed journalled told cleared
  have hlanded : KeepsCool s landed := .each (fun a t => cool_landSome _ _) _
  have hstopped : KeepsCool landed stopped := .each (fun a t => by split; exacts [cool_of, .refl]) _
  have hkilled : KeepsCool quiet killed := .each (f := fun a t => sendCtl .kill a c t) (fun a t => cool_of) _
  have hj : KeepsCool killed journalled := by
    dsimp only [journalled]
    unfold journalPending
    split
    · exact .refl
    · exact cool_of
  have htold : KeepsCool journalled told := by
    dsimp only [told]
    split
    · exact cool_of
    · exact .refl
  have hquiet : KeepsCool stopped quiet := cool_of
  exact ((((((hlanded.trans hstopped).trans hquiet).trans hkilled).trans hj).trans htold).trans (cool_modCmd _)).trans cool_of

theorem cool_cqFail (address : Nat) : KeepsCool s (cqFail b q address s) :=
  ((((cool_modQueue _).trans (KeepsCool.trans (cool_modQueue _) (by exact cool_of))).trans (cool_errRecord _ _ _ _ _ _ _ _ _ _ _ _ _)).trans
    (cool_modQueue _)).trans (cool_plumbRec _)

theorem cool_cqWrite : KeepsCool s (cqWrite b q s) := by
  unfold cqWrite
  split
  · exact .refl
  split
  · exact .refl
  split
  · exact .refl
  extract_lets size phase fl bs at_ irq hp t t'
  have hput : KeepsCool s t' := by
    refine (cool_modQueue _).trans (t := t) ?_
    dsimp only [t']
    split
    · exact cool_of
    · exact cool_writeVa _ _
  split
  · unfold atsAsk
    dsimp only
    split
    · exact .refl
    · exact cool_of
  split
  · exact cool_cqFail _
  split
  · exact hput.trans (cool_oweVector _)
  · exact hput

theorem cool_cqPost : KeepsCool s (cqPost b q s) := by
  have hflush : ∀ (n : Nat) (s : State), KeepsCool s (cqFlush n b q s) := by
    intro n
    induction n with
    | zero => exact fun s => .refl
    | succ n ih => exact fun s => cool_cqWrite.trans (ih _)
  unfold cqPost
  split
  · exact .refl
  · exact hflush _ _

theorem cool_finishTop (x : Cmd) (code result : Nat) (er : Bool) : KeepsCool s (finishTop x code result er s) := by
  have hadmin : KeepsCool s (releaseAdmin x s) := by
    unfold releaseAdmin
    split
    · exact cool_of
    split
    · exact .refl
    · exact cool_of
  exact ((hadmin.trans (cool_modQueue _)).trans (by exact cool_of)).trans cool_cqPost

theorem cool_finishBody (pc : Nat) (x : Cmd) (code : Nat) (er : Bool) : KeepsCool s (finishBody pc x code er s) := by
  unfold finishBody
  extract_lets t t'
  have ht : KeepsCool s t' := KeepsCool.trans (t := t) cool_of (cool_modCmd _)
  split
  · exact ht
  split
  · exact ht
  extract_lets p code u
  have hu : KeepsCool s u := by
    dsimp only [u]
    split
    · refine ht.trans ?_
      unfold signal
      split
      · exact cool_of
      · exact .refl
    · exact ht
  exact (KeepsCool.trans hu (by exact cool_of)).trans (cool_finishTop _ _ _ _)

theorem cool_finish (code result : Nat) (er : Bool) : KeepsCool s (finish c code result er s) := by
  have ho : ∀ x, KeepsCool s (owesHs x s) := by
    intro x
    unfold owesHs
    split
    · split
      · exact .refl
      · exact cool_of
    · exact .refl
  have hs : ∀ (x : Cmd) (t : State), KeepsCool t (streamLess x t) := by
    intro x t
    unfold streamLess
    split
    · exact cool_of
    · exact .refl
  unfold finish
  split
  · exact .refl
  split
  · exact (ho _).trans cool_of
  · exact (ho _).trans (cool_finishBody _ _ _ _)
  · exact ((ho _).trans (hs _ _)).trans (cool_finishTop _ _ _ _)

theorem cool_killDone (code : Nat) (er : Bool) : KeepsCool s (killDone c code er s) := (cool_halt none).trans (cool_finish _ _ _)

end Sys2Proof.Proofs
end

section

/-! SUPPORT. What issuing the waiting requests of a bay leaves (R422, R423): every command but for its waiting effects, every transfer but
for what it has still to ask and has asked. -/

namespace Sys2Proof.Proofs
open Sys2Proof.Machine

variable {s t u : State} {a b c k tag : Nat}

/-- A command without the effects that wait to be issued. -/
def unqueued (c : Cmd) : Cmd := { c with effq := [] }
/-- A transfer without what it has still to ask and has asked. -/
def unasked (d : DmaXfer) : DmaXfer := { d with todo := [], asked := 0 }

/-- Requests have been issued. -/
structure Pumps (s t : State) : Prop where
  only : t = { s with grid := t.grid, cmds := t.cmds, kw := t.kw, irq := t.irq, out := t.out }
  cmds : ∀ c, (cmd? t c).map unqueued = (cmd? s c).map unqueued
  tags : ∀ a tag, (tget tag (ash t a).tags).map unasked = (tget tag (ash s a).tags).map unasked

theorem Pumps.refl : Pumps s s := ⟨rfl, fun _ => rfl, fun _ _ => rfl⟩
theorem Pumps.trans (h : Pumps s t) (g : Pumps t u) : Pumps s u where
  only := by
    have := g.only
    rw [h.only] at this
    exact this
  cmds c := (g.cmds c).trans (h.cmds c)
  tags a tag := (g.tags a tag).trans (h.tags a tag)
theorem Pumps.foldl {α : Type} {f : State → α → State} (hf : ∀ t x, Pumps t (f t x)) (l : List α) : Pumps s (l.foldl f s) :=
  foldl_inv (Pumps s) l f (fun t x h => h.trans (hf t x)) s .refl
theorem Pumps.each {α : Type} {f : α → State → State} (hf : ∀ x t, Pumps t (f x t)) (l : List α) : Pumps s (each l f s) :=
  each_inv (Pumps s) l f (fun x t h => h.trans (hf x t)) s .refl
theorem Pumps.mem (h : Pumps s t) : t.mem = s.mem := by rw [h.only]
theorem Pumps.isSome (h : Pumps s t) (c : Nat) : (cmd? t c).isSome = (cmd? s c).isSome := by simpa using congrArg Option.isSome (h.cmds c)
theorem Pumps.gone (h : Pumps s t) (hc : cmd? s c = none) : cmd? t c = none := by simpa [hc] using h.cmds c

theorem pumps_fabric (h : FabricOnly s t) : Pumps s t := by
  rw [h]
  exact ⟨rfl, fun _ => rfl, fun _ _ => rfl⟩

theorem pumps_modCmd {f : Cmd → Cmd} (hf : ∀ x, unqueued (f x) = unqueued x) : Pumps s (modCmd c f s) where
  only := by
    unfold modCmd
    split <;> rfl
  cmds j := by
    rcases eq_or_ne j c with rfl | h
    · rw [cmd?_modCmd_same, Option.map_map, show unqueued ∘ f = unqueued from funext hf]
    · rw [cmd?_modCmd_ne h]
  tags a tag := by
    unfold modCmd
    split <;> rfl

/-- A transfer asks for more, or has less to ask for. -/
theorem pumps_tag {x y : DmaXfer} (h : tget tag (ash s a).tags = some x) (hy : unasked y = unasked x) :
    Pumps s (modAsh a (fun z => { z with tags := tput tag y z.tags }) s) where
  only := rfl
  cmds _ := rfl
  tags i j := by
    rcases eq_or_ne i a with rfl | hi
    · rw [ash_modAsh_same]
      dsimp only
      rw [tget_tput]
      split
      · next hj =>
        subst hj
        simp [h, hy]
      · rfl
    · rw [ash_modAsh_ne hi]

theorem pumps_pumpEffects (c : Nat) : Pumps s (pumpEffects c s) := by
  unfold pumpEffects
  split
  · exact .refl
  split
  · exact .refl
  refine Pumps.trans (List.foldlRecOn (motive := fun p : State × List Txn => Pumps s p.1) _ _ .refl fun p h t _ => ?_) (pumps_modCmd fun _ => rfl)
  split
  · exact h
  · exact h.trans (pumps_fabric (sendReq_fabric _ _))

theorem fabric_pumpAgain : FabricOnly s (pumpAgain s) := by
  refine FabricOnly.trans (t := { s with kw := { s.kw with again := [] } }) rfl (FabricOnly.foldl _ _ (fun t x => ?_) _)
  split
  · rfl
  split
  · rfl
  · exact sendReq_fabric _ _

theorem pumps_pumpOne (c a tag : Nat) : Pumps s (pumpOne c a tag s) := by
  unfold pumpOne
  split
  · exact .refl
  next x hx =>
  split
  · exact .refl
  dsimp only
  split
  · split
    · exact .refl
    · refine Pumps.trans ?_ (pumps_fabric (sendReq_fabric _ _))
      exact pumps_tag hx rfl
  · exact .refl
  · exact pumps_tag hx rfl

theorem pumps_pumpDma (c a tag : Nat) : Pumps s (pumpDma c a tag s) := by
  unfold pumpDma
  split
  · exact .refl
  · exact .foldl (fun t _ => pumps_pumpOne c a tag) _

theorem pumps_pumpBay (b : Nat) : Pumps s (pumpBay b s) := by
  unfold pumpBay
  extract_lets t u
  have ht : Pumps s t := (pumps_fabric fabric_pumpAgain).trans (.each (f := fun c : Cmd => pumpEffects c.cid) (fun c t => pumps_pumpEffects c.cid) _)
  have hu : Pumps t u := pumps_fabric (pumpOwn_fabric _ _)
  exact (ht.trans hu).trans (.each (fun (e : Nat × Ashlar) t => .each (fun tag t => pumps_pumpDma _ _ _) _) _)

/-! ## The end of a command -/

/-- A number that no command carries stays so as a command ends. -/
theorem finishTop_gone {k : Nat} (h : cmd? s k = none) (x : Cmd) (code result : Nat) (er : Bool) : cmd? (finishTop x code result er s) k = none := by
  have hcmds : (finishTop x code result er s).cmds = (dropCmd x.cid s).cmds := by
    rw [finishTop_eq, leaves_cqPost.cmds]
    exact congrArg (fun z : Cmds => { z with all := tdrop x.cid z.all }) ((leaves_releaseAdmin x).trans (leaves_modQueue _)).cmds
  rw [cmd?_of_cmds hcmds]
  rcases eq_or_ne k x.cid with rfl | hk
  · exact tget_tdrop_same _ _
  · exact (tget_tdrop_ne hk _).trans h

theorem cmd?_dropCmd_self : cmd? (dropCmd c s) c = none := tget_tdrop_same _ _

theorem modCmd_gone {k : Nat} (h : cmd? s k = none) (f : Cmd → Cmd) : cmd? (modCmd c f s) k = none := by
  rcases eq_or_ne k c with rfl | hk
  · rw [cmd?_modCmd_same, h]
    rfl
  · rwa [cmd?_modCmd_ne hk]

theorem cmd?_finishBody_self (pc : Nat) (x : Cmd) (code : Nat) (er : Bool) : cmd? (finishBody pc x code er s) x.cid = none := by
  unfold finishBody
  extract_lets t t'
  have hd : cmd? t x.cid = none := (cmd?_of_cmds (s := dropCmd x.cid s) wrote_progress.cmds _).trans cmd?_dropCmd_self
  have ht : cmd? t' x.cid = none := modCmd_gone hd _
  split
  · exact ht
  split
  · exact ht
  extract_lets p code u
  have hu : u.cmds = t'.cmds := by
    dsimp only [u]
    split
    · exact (leaves_signal _ _).cmds
    · rfl
  have hgone : cmd? u x.cid = none := (cmd?_of_cmds hu _).trans ht
  clear_value u
  exact finishTop_gone ((cmd?_of_cmds (wrote_modSt _).cmds _).trans hgone) _ _ _ _

/-- A command that has ended has left the table. -/
theorem cmd?_finish_self {x : Cmd} (hx : cmd? s c = some x) (hid : x.cid = c) (code result : Nat) (er : Bool) : cmd? (finish c code result er s) c = none := by
  subst hid
  unfold finish
  rw [hx]
  dsimp only
  split
  · exact cmd?_dropCmd_self
  · exact cmd?_finishBody_self _ _ _ _
  · rw [finishTop_eq, cmd?, leaves_cqPost.cmds]
    exact cmd?_dropCmd_self

/-- So has one that was killed. -/
theorem cmd?_killDone_self {x : Cmd} (hx : cmd? s c = some x) (hid : x.cid = c) (code : Nat) (er : Bool) : cmd? (killDone c code er s) c = none := by
  refine cmd?_finish_self (x := stoppedCmd x) ?_ hid _ _ _
  rw [cmd?_halt, hx]
  rfl

/-- A read of a running command that fails remotely ends the command (R403). -/
theorem cmd?_remoteReadFailed_self {x : Cmd} (hx : cmd? s c = some x) (hid : x.cid = c) (o : Option Nat) (va status : Nat) :
    cmd? (remoteReadFailed c o va status s) c = none := by
  unfold remoteReadFailed
  rw [hx]
  exact cmd?_killDone_self ((cmd?_of_cmds (wrote_cmdError _ _ _ _ _ _ _).cmds c).trans hx) hid _ _

theorem cool_remoteReadFailed (o : Option Nat) (va status : Nat) : KeepsCool s (remoteReadFailed c o va status s) := by
  unfold remoteReadFailed
  split
  · exact .refl
  · exact (cool_cmdError _ _ _ _ _ _ _).trans (cool_killDone _ _)

/-! ## The answer to an effect -/

/-- A command after an answer with `status` to the last request of effect `idx`, which had failed or not (R124). -/
def afterEffect (idx status : Nat) (failed : Bool) (c : Cmd) : Cmd :=
  { c with effs := tput idx (0, failed || status != 0) c.effs
           code := if status != 0 && c.code == 0 then statusCode status else c.code
           remoteLeft := c.remoteLeft - 1
           remoteFailed := if failed || status != 0 then c.remoteFailed + 1 else c.remoteFailed }

/-- The end of an effect is noted, more effects go, and the command may be complete. -/
theorem effAnswered_last {cid idx status : Nat} {c : Cmd} {failed : Bool} (hc : cmd? s cid = some c) (he : tgetD idx c.effs (0, false) = (1, failed)) :
    effAnswered cid idx status s = finishOwed cid (pumpEffects cid (modCmd cid (fun _ => afterEffect idx status failed c) s)) := by
  unfold effAnswered
  rw [hc]
  dsimp only
  rw [he]
  simp only [modCmd, hc, afterEffect, if_true, true_and]

end Sys2Proof.Proofs
end

section

/-! SUPPORT. Answers to the block's own requests: READ_DATA and STATUS (R124, R414, R427, R428). -/

namespace Sys2Proof.Proofs
open Sys2Proof.Machine

variable {s t u v : State} {p k cid idx status : Nat} {f : Frame} {i : Instr} {x : Txn} {c : Cmd} {failed : Bool}

theorem timeout_sendReq (x : Txn) : (sendReq x s).kw.timeout = s.kw.timeout := by
  cases h : freeTag s x.bay with
  | none => rw [sendReq_none h]
  | some k => rw [posts_sendReq h]

theorem timeout_pumpEffects (cid : Nat) : (pumpEffects cid s).kw.timeout = s.kw.timeout := by
  have hmod : ∀ (f : Cmd → Cmd) (t : State), (modCmd cid f t).kw = t.kw := by
    intro f t
    unfold modCmd
    split <;> rfl
  unfold pumpEffects
  split
  · rfl
  split
  · rfl
  rw [hmod]
  refine List.foldlRecOn (motive := fun p : State × List Txn => p.1.kw.timeout = s.kw.timeout) _ _ rfl fun p h t _ => ?_
  split
  · exact h
  · exact (timeout_sendReq _).trans h

/-! ## An effect is answered -/

/-- The command of an effect whose last request is answered, before it may complete. -/
theorem pumped_afterEffect (hc : cmd? s cid = some c) :
    ∃ d, cmd? (pumpEffects cid (modCmd cid (fun _ => afterEffect idx status failed c) s)) cid = some d ∧ unqueued d = unqueued (afterEffect idx status failed c) := by
  have h := (pumps_pumpEffects (s := modCmd cid (fun _ => afterEffect idx status failed c) s) cid).cmds cid
  rw [cmd?_modCmd_same, hc] at h
  exact Option.map_eq_some_iff.1 h

/-- A command that still owes its copy goes on (R124). -/
theorem effAnswered_owed (hc : cmd? s cid = some c) (he : tgetD idx c.effs (0, false) = (1, failed)) (ho : c.copyOwed = true) :
    (∃ d, cmd? (effAnswered cid idx status s) cid = some d ∧ unqueued d = unqueued (afterEffect idx status failed c)) ∧
    (effAnswered cid idx status s).kw.timeout = s.kw.timeout := by
  obtain ⟨d, hd, hdc⟩ := pumped_afterEffect (idx := idx) (status := status) (failed := failed) hc
  have howed : d.copyOwed = true := (congrArg Cmd.copyOwed hdc).trans ho
  have hgo : effAnswered cid idx status s = pumpEffects cid (modCmd cid (fun _ => afterEffect idx status failed c) s) := by
    rw [effAnswered_last hc he, finishOwed, hd]
    simp [howed]
  rw [hgo]
  refine ⟨⟨d, hd, hdc⟩, (timeout_pumpEffects cid).trans ?_⟩
  unfold modCmd
  split <;> rfl

/-- A committed command that owes no copy completes with the last of its effects (R124). -/
theorem effAnswered_done (hc : cmd? s cid = some c) (he : tgetD idx c.effs (0, false) = (1, failed)) (hid : c.cid = cid) (hcom : c.committed = true)
    (ho : c.copyOwed = false) (hl : c.remoteLeft = 1) : cmd? (effAnswered cid idx status s) cid = none := by
  obtain ⟨d, hd, hdc⟩ := pumped_afterEffect (idx := idx) (status := status) (failed := failed) hc
  have hdone : (d.committed && !d.copyOwed && d.remoteLeft == 0) = true := by
    rw [show d.committed = true from (congrArg Cmd.committed hdc).trans hcom, show d.copyOwed = false from (congrArg Cmd.copyOwed hdc).trans ho,
      show d.remoteLeft = c.remoteLeft - 1 from congrArg Cmd.remoteLeft hdc, hl]
    rfl
  rw [effAnswered_last hc he, finishOwed, hd]
  dsimp only
  rw [if_pos hdone]
  exact cmd?_finish_self hd ((congrArg Cmd.cid hdc).trans hid) _ _ _

/-! ## An answer taken -/

/-- READ_DATA and STATUS are handled alike, but for a STATUS of a chunk (R427, R443). -/
theorem exec_answer (hik : (i, k) ∈ [(Instr.readData p f, fkReadData), (.status p f, fkStatus)]) (h : takes s p k f = true)
    (hn : (tget f.tag s.kw.txns).isSome = true ∨ k = fkReadData ∨ f.addr % 16 ≠ 2) :
    exec i s = .next (keep fpWork s (acknowledge p f (kport s p).sRx (Machine.answered k f (took s p)))) := by
  have hrd : takes s p fkReadData f = true → exec (.readData p f) s = _ := fun h => onKw_recv h (Machine.answered fkReadData f)
  have hst : takes s p fkStatus f = true → exec (.status p f) s = _ := fun h => onKw_recv h (statusGo f)
  simp only [List.mem_cons, Prod.mk.injEq, List.not_mem_nil, or_false] at hik
  rcases hik with ⟨rfl, rfl⟩ | ⟨rfl, rfl⟩
  · exact hrd h
  · have hgo : statusGo f (took s p) = Machine.answered fkStatus f (took s p) := by
      have htx : (took s p).kw.txns = s.kw.txns := by rw [posts_took s p]
      rw [statusGo, Machine.answered, htx]
      rcases Option.eq_none_or_eq_some (tget f.tag s.kw.txns) with hx | ⟨x, hx⟩
      · rcases hn with hn | hn | hn
        · simp [hx] at hn
        · exact absurd hn (by decide)
        · simp [hx, hn]
      · simp [hx, htx]
    rw [hst h, hgo]

/-- What the answer of the command has of the state in which the frame was handled. -/
theorem answers_answer (he : exec i s = .next (keep fpWork s (acknowledge p f k v))) {P : State → Prop}
    (hP : ∀ t : State, t.cmds = v.cmds → t.grid = v.grid → t.mem = v.mem → t.kw.txns = v.kw.txns → t.kw.stale = v.kw.stale → P t) : Answers i s P := by
  obtain ⟨t, ht⟩ : ∃ t, t = acknowledge p f k v := ⟨_, rfl⟩
  have hvt : Posts v t := ht ▸ posts_acknowledge f k
  rw [← ht] at he
  exact ⟨_, he, hP _ (show t.cmds = _ by rw [hvt]) (show t.grid = _ by rw [hvt]) (show t.mem = _ by rw [hvt]) (show t.kw.txns = _ by rw [hvt])
    (show t.kw.stale = _ by rw [hvt])⟩

end Sys2Proof.Proofs
end

section

/-! SUPPORT. The clauses of O49 on the answers of a peer. -/

namespace Sys2Proof.Proofs
open Sys2Proof.Machine

variable {s t u v : State} {p k : Nat} {f : Frame} {i : Instr} {x : Txn}

theorem answered_none (h : tget f.tag s.kw.txns = none) : Machine.answered k f s = s := by simp [Machine.answered, h]
theorem answered_stale (h : tget f.tag s.kw.txns = some x) (hm : f.mark ≠ s.kw.mark) :
    Machine.answered k f s = dropTxn f.tag { s with kw := { s.kw with stale := satAdd 0xFFFF s.kw.stale 1 } } := by
  simp only [Machine.answered, h, bne_iff_ne, ne_eq, hm, not_false_eq_true, if_true]
theorem answered_misfit (h : tget f.tag s.kw.txns = some x) (hm : f.mark = s.kw.mark) (hk : (k == fkReadData) ≠ (x.kind == fkRead)) :
    Machine.answered k f s = s := by
  simp only [Machine.answered, h, hm, bne_self_eq_false, Bool.false_eq_true, if_false, bne_iff_ne, ne_eq, hk, not_false_eq_true, if_true]
theorem answered_fits (h : tget f.tag s.kw.txns = some x) (hm : f.mark = s.kw.mark) (hk : (k == fkReadData) = (x.kind == fkRead)) :
    Machine.answered k f s = pumpBay x.bay (ownerAnswered x (f.addr % 16) f.data (dropTxn f.tag s)) := by
  simp only [Machine.answered, h, hm, hk, bne_self_eq_false, Bool.false_eq_true, if_false]

/-- The bytes of a READ enter its transfer (R427). -/
theorem ownerAnswered_dma {cid a tag status : Nat} {d : DmaXfer} (data : List Byte) (ho : x.owner = .dma cid a tag) (hcid : (ash s a).cid = cid)
    (hd : tget tag (ash s a).tags = some d) (hs : status = 0) :
    ∃ e, tget tag (ash (ownerAnswered x status data s) a).tags = some e ∧ unasked e = unasked { d with got := mputs x.va data d.got } := by
  have h := (pumps_pumpDma (s := modAsh a (fun y => { y with
    tags := tmod tag {} (fun d => { d with got := mputs x.va data d.got, asked := d.asked - 1 }) y.tags }) s) cid a tag).tags a tag
  rw [ash_modAsh_same] at h
  dsimp only at h
  rw [tget_tmod, if_pos rfl, tgetD, hd] at h
  obtain ⟨e, he, hee⟩ := Option.map_eq_some_iff.1 h
  refine ⟨e, ?_, hee⟩
  rw [ownerAnswered, ho]
  dsimp only
  rw [if_neg (by simp [hcid, hd]), if_neg (by simp [hs])]
  exact he

/-- A READ that fails ends its command (R403). -/
theorem ownerAnswered_failed {cid a tag status : Nat} (data : List Byte) (ho : x.owner = .dma cid a tag) (hcid : (ash s a).cid = cid)
    (hd : (tget tag (ash s a).tags).isSome = true) (hs : status ≠ 0) : ownerAnswered x status data s = remoteReadFailed cid (some a) x.va status s := by
  rw [ownerAnswered, ho]
  dsimp only
  rw [if_neg (by simp [hcid, Option.isSome_iff_ne_none.1 hd]), if_pos (by simp [hs])]

theorem ownerAnswered_effect {cid idx : Nat} (status : Nat) (data : List Byte) (ho : x.owner = .effect cid idx) :
    ownerAnswered x status data s = effAnswered cid idx status s := by rw [ownerAnswered, ho]
theorem ownerAnswered_own (status : Nat) (data : List Byte) (ho : x.owner = .own) : ownerAnswered x status data s = pumpOwn 8192 s := by
  rw [ownerAnswered, ho]

/-- The bytes of a READ are in its transfer after the waiting requests have gone. -/
theorem read_enters {cid a tag status : Nat} {d : DmaXfer} (data : List Byte) (b : Nat) (ho : x.owner = .dma cid a tag) (hcid : (ash s a).cid = cid)
    (hd : tget tag (ash s a).tags = some d) (hs : status = 0) :
    ∃ e, tget tag (ash (pumpBay b (ownerAnswered x status data s)) a).tags = some e ∧ e.got = mputs x.va data d.got ∧ e.d = d.d := by
  obtain ⟨e, hte, hee⟩ := ownerAnswered_dma data ho hcid hd hs
  have hp := (pumps_pumpBay (s := ownerAnswered x status data s) b).tags a tag
  rw [hte] at hp
  obtain ⟨e', hte', hee'⟩ := Option.map_eq_some_iff.1 hp
  have hall : unasked e' = _ := hee'.trans hee
  exact ⟨e', hte', (congrArg DmaXfer.got hall :), (congrArg DmaXfer.d hall :)⟩

/-- An answered effect counts toward the end of its command (R124). -/
theorem effect_counts {cid idx status : Nat} {c : Cmd} {failed : Bool} (b : Nat) (hc : cmd? s cid = some c)
    (he : tgetD idx c.effs (0, false) = (1, failed)) (ho : c.copyOwed = true) :
    ∃ d, cmd? (pumpBay b (effAnswered cid idx status s)) cid = some d ∧ d.remoteLeft = c.remoteLeft - 1 ∧
      d.remoteFailed = (if failed = true ∨ status ≠ 0 then c.remoteFailed + 1 else c.remoteFailed) ∧
      d.code = if status ≠ 0 ∧ c.code = 0 then statusCode status else c.code := by
  obtain ⟨⟨d, hd, hdc⟩, -⟩ := effAnswered_owed (status := status) hc he ho
  have hp := (pumps_pumpBay (s := effAnswered cid idx status s) b).cmds cid
  rw [hd] at hp
  obtain ⟨d', hd', hdc'⟩ := Option.map_eq_some_iff.1 hp
  have hall := hdc'.trans hdc
  refine ⟨d', hd', congrArg Cmd.remoteLeft hall, (congrArg Cmd.remoteFailed hall).trans ?_, (congrArg Cmd.code hall).trans ?_⟩ <;>
    simp [unqueued, afterEffect]

/-- The clauses of an answer (R124, R403, R427, R428): by whether its tag and mark are current and whose request it answers. -/
theorem answer_clauses (hik : (i, k) ∈ [(Instr.readData p f, fkReadData), (.status p f, fkStatus)]) (ht : takes s p k f = true) :
    (tget f.tag s.kw.txns = none → k = fkReadData ∨ f.addr % 16 ≠ 2 → Answers i s fun t => t.cmds = s.cmds ∧ t.grid = s.grid ∧ t.kw.txns = s.kw.txns ∧ t.mem = s.mem) ∧
    ∀ x, tget f.tag s.kw.txns = some x →
    (f.mark = s.kw.mark → (k == fkReadData) ≠ (x.kind == fkRead) → Answers i s fun t => t.cmds = s.cmds ∧ t.grid = s.grid ∧ t.kw.txns = s.kw.txns ∧ t.mem = s.mem) ∧
    (f.mark = s.kw.mark → (k == fkReadData) = (x.kind == fkRead) → x.owner = .own → Answers i s fun t => t.mem = s.mem ∧ ∀ c, (cmd? t c).isSome = (cmd? s c).isSome) ∧
    (f.mark ≠ s.kw.mark → Answers i s fun t => tget f.tag t.kw.txns = none ∧ t.kw.stale = satAdd 0xFFFF s.kw.stale 1 ∧ t.cmds = s.cmds ∧ t.grid = s.grid) ∧
    (∀ cid a tag d, k = fkReadData → f.mark = s.kw.mark → x.kind = fkRead → x.owner = .dma cid a tag → (ash s a).cid = cid → tget tag (ash s a).tags = some d →
      (f.addr % 16 = 0 → Answers i s fun t => ∃ e, tget tag (ash t a).tags = some e ∧ e.got = mputs x.va f.data d.got ∧ e.d = d.d) ∧
      (∀ c, f.addr % 16 ≠ 0 → cmd? s cid = some c → c.cid = cid → Answers i s fun t => cmd? t cid = none)) ∧
    ∀ cid idx c failed, k = fkStatus → f.mark = s.kw.mark → x.kind ≠ fkRead → x.owner = .effect cid idx → cmd? s cid = some c → tgetD idx c.effs (0, false) = (1, failed) →
      (c.copyOwed = true → Answers i s fun t => ∃ d, cmd? t cid = some d ∧ d.remoteLeft = c.remoteLeft - 1 ∧
        d.remoteFailed = (if failed = true ∨ f.addr % 16 ≠ 0 then c.remoteFailed + 1 else c.remoteFailed) ∧
        d.code = if f.addr % 16 ≠ 0 ∧ c.code = 0 then statusCode (f.addr % 16) else c.code) ∧
      (c.cid = cid → c.committed = true → c.copyOwed = false → c.remoteLeft = 1 → Answers i s fun t => cmd? t cid = none) := by
  obtain ⟨u, hu⟩ : ∃ u, u = took s p := ⟨_, rfl⟩
  have hsu : Posts s u := hu ▸ posts_took s p
  have htx : u.kw.txns = s.kw.txns := by rw [hsu]
  have hmk : u.kw.mark = s.kw.mark := by rw [hsu]
  have hash : (dropTxn f.tag u).grid = s.grid := show u.grid = s.grid by rw [hsu]
  have hcmds : (dropTxn f.tag u).cmds = s.cmds := show u.cmds = s.cmds by rw [hsu]
  have hsame : ∀ t : State, t.cmds = u.cmds → t.grid = u.grid → t.mem = u.mem → t.kw.txns = u.kw.txns → t.kw.stale = u.kw.stale →
      t.cmds = s.cmds ∧ t.grid = s.grid ∧ t.kw.txns = s.kw.txns ∧ t.mem = s.mem := fun t h1 h2 h3 h4 _ =>
    ⟨by rw [h1, hsu], by rw [h2, hsu], by rw [h4, hsu], by rw [h3, hsu]⟩
  refine ⟨fun hx hn => ?_, fun x hx => ?_⟩
  · have he := exec_answer hik ht (.inr hn)
    rw [← hu, answered_none (htx ▸ hx)] at he
    exact answers_answer he hsame
  have he := exec_answer hik ht (.inl (by rw [hx]; rfl))
  rw [← hu] at he
  have hxu : tget f.tag u.kw.txns = some x := htx ▸ hx
  refine ⟨fun hm hk => ?_, fun hm hk ho => ?_, fun hm => ?_, ?_, ?_⟩
  · rw [answered_misfit hxu (hm.trans hmk.symm) hk] at he
    exact answers_answer he hsame
  · rw [answered_fits hxu (hm.trans hmk.symm) hk, ownerAnswered_own _ _ ho] at he
    have hp : Pumps (dropTxn f.tag u) _ := (pumps_fabric (pumpOwn_fabric (dropTxn f.tag u) 8192)).trans (pumps_pumpBay x.bay)
    refine answers_answer he fun t h1 _ h3 _ _ => ⟨?_, fun c => ?_⟩
    · rw [h3, hp.mem]
      exact hsu.fabric.mem
    · rw [cmd?_of_cmds h1, hp.isSome, cmd?_of_cmds hcmds]
  · rw [answered_stale hxu (hmk ▸ hm)] at he
    refine answers_answer he fun t h1 h2 _ h4 h5 => ⟨?_, ?_, ?_, ?_⟩
    · rw [h4]
      exact tget_tdrop_same _ _
    · rw [h5, hsu]
      rfl
    · exact h1.trans hcmds
    · exact h2.trans hash
  · rintro cid a tag d rfl hm hk ho hcid hd
    rw [answered_fits hxu (hm.trans hmk.symm) (by rw [hk]; rfl)] at he
    have hau : ash (dropTxn f.tag u) a = ash s a := congrArg (fun g : Grid => tgetD a g.ashlars {}) hash
    refine ⟨fun h0 => ?_, fun c h0 hc hid => ?_⟩
    · refine answers_answer he fun t _ h2 _ _ _ => ?_
      rw [show ash t a = _ from congrArg (fun g : Grid => tgetD a g.ashlars {}) h2]
      exact read_enters f.data x.bay ho (hau ▸ hcid) (hau ▸ hd) h0
    · rw [ownerAnswered_failed f.data ho (hau ▸ hcid) (by rw [hau, hd]; rfl) h0] at he
      refine answers_answer he fun t h1 _ _ _ _ => ?_
      rw [cmd?_of_cmds h1]
      exact (pumps_pumpBay x.bay).gone (cmd?_remoteReadFailed_self ((cmd?_of_cmds hcmds cid).trans hc) hid _ _ _)
  · rintro cid idx c failed rfl hm hk ho hc hef
    rw [answered_fits hxu (hm.trans hmk.symm) (by rw [beq_eq_false_iff_ne.2 hk]; rfl), ownerAnswered_effect _ _ ho] at he
    have hcu : cmd? (dropTxn f.tag u) cid = some c := (cmd?_of_cmds hcmds cid).trans hc
    refine ⟨fun howed => ?_, fun hid hcom howed hleft => ?_⟩
    · refine answers_answer he fun t h1 _ _ _ _ => ?_
      rw [cmd?_of_cmds h1]
      exact effect_counts x.bay hcu hef howed
    · refine answers_answer he fun t h1 _ _ _ _ => ?_
      rw [cmd?_of_cmds h1]
      exact (pumps_pumpBay x.bay).gone (effAnswered_done hcu hef hid hcom howed hleft)

end Sys2Proof.Proofs
end

section

/-! SUPPORT. A request that times out (R427), and O49 itself. -/

namespace Sys2Proof.Proofs
open Sys2Proof.Machine

variable {s t u v : State} {k tag : Nat} {x : Txn}

/-- The state in which a timed-out request has given its tag back. -/
def timedFree (tag : Nat) (s : State) : State :=
  { dropTxn tag s with kw := { (dropTxn tag s).kw with timeout := satAdd 0xFFFF s.kw.timeout 1, cooling := tput tag s.rst.time s.kw.cooling } }

theorem cool_timedFree : Cool tag (timedFree tag s) := ⟨tget_tdrop_same _ _, tget_tput_same _ _ _⟩

/-- The READ to be issued again: it is dropped, waits, or goes (R427). -/
theorem pumpAgain_one (h : s.kw.again = []) (x : Txn) : pumpAgain { s with kw := { s.kw with again := s.kw.again ++ [x] } } =
    if !stillWanted s x then s
    else if (freeTag s x.bay).isNone then { s with kw := { s.kw with again := [x] } }
    else sendReq x s := by
  have hs : ({ s with kw := { s.kw with again := [] } } : State) = s := by rw [← h]
  unfold pumpAgain
  simp only [h, List.nil_append, List.foldl_cons, List.foldl_nil, hs]

/-- A timed-out READ that may be issued again. -/
theorem timedOut_again (hx : tget tag s.kw.txns = some x) (hk : x.kind = fkRead) (ht : x.tries < 3) (ha : s.kw.again = []) :
    timedOut tag s = if !stillWanted s x then timedFree tag s
      else if (freeTag (timedFree tag s) x.bay).isNone then
        { timedFree tag s with kw := { (timedFree tag s).kw with again := [{ x with tries := x.tries + 1 }] } }
      else sendReq { x with tries := x.tries + 1 } (timedFree tag s) := by
  unfold timedOut
  rw [hx]
  dsimp only
  rw [if_pos ⟨hk, ht⟩]
  exact pumpAgain_one (s := timedFree tag s) ha _

/-- Any other request that times out ends as unavailable. -/
theorem timedOut_ends (hx : tget tag s.kw.txns = some x) (h : ¬(x.kind = fkRead ∧ x.tries < 3)) :
    timedOut tag s = ownerAnswered x 2 [] (timedFree tag s) := by
  unfold timedOut
  rw [hx]
  dsimp only
  rw [if_neg h]
  rfl

theorem exec_requestTimeout (hp : s.start.powered = true) : exec (.requestTimeout tag) s = .next (keep fpWork s (timedOut tag s)) := run_powered hp

/-- What the answer of a timeout has of the state the handling leaves. -/
theorem answers_timeout (hp : s.start.powered = true) (hv : timedOut tag s = v) {P : State → Prop}
    (hP : ∀ t : State, t.cmds = v.cmds → t.kw = v.kw → P t) : Answers (.requestTimeout tag) s P := by
  subst hv
  exact ⟨_, exec_requestTimeout hp, hP _ rfl rfl⟩

/-- A READ is issued again under another tag, or waits for one (R427). -/
theorem timeout_again (hp : s.start.powered = true) (hx : tget tag s.kw.txns = some x) (hk : x.kind = fkRead) (ht : x.tries < 3) (ha : s.kw.again = []) :
    Answers (.requestTimeout tag) s fun t => t.cmds = s.cmds ∧ t.kw.timeout = satAdd 0xFFFF s.kw.timeout 1 ∧
      tget tag t.kw.txns = none ∧ (stillWanted s x = false → t.kw = (timedFree tag s).kw) ∧
      (stillWanted s x = true → freeTag (timedFree tag s) x.bay = none →
        t.kw = { (timedFree tag s).kw with again := [{ x with tries := x.tries + 1 }] }) := by
  have hgo := timedOut_again hx hk ht ha
  have hcool : tget tag (timedFree tag s).kw.txns = none := cool_timedFree.1
  refine answers_timeout hp hgo fun t hcmds hkw => ?_
  cases hw : stillWanted s x
  · rw [hw, Bool.not_false, if_pos rfl] at hcmds hkw
    refine ⟨hcmds, hkw ▸ rfl, ?_, fun _ => hkw, fun h => absurd h Bool.false_ne_true⟩
    rw [hkw]
    exact hcool
  rw [hw, Bool.not_true, if_neg Bool.false_ne_true] at hcmds hkw
  cases hf : freeTag (timedFree tag s) x.bay with
  | none =>
    rw [hf, Option.isNone_none, if_pos rfl] at hcmds hkw
    refine ⟨hcmds, hkw ▸ rfl, ?_, fun h => absurd h.symm Bool.false_ne_true, fun _ _ => hkw⟩
    rw [hkw]
    exact hcool
  | some k =>
    rw [hf, Option.isNone_some, if_neg Bool.false_ne_true] at hcmds hkw
    refine ⟨?_, ?_, ?_, fun h => absurd h.symm Bool.false_ne_true, fun _ h => absurd h.symm (Option.some_ne_none k).symm⟩
    · rw [hcmds, sendReq_fabric]
      rfl
    · rw [hkw, timeout_sendReq]
      rfl
    · rw [hkw]
      exact (cool_sendReq _ tag cool_timedFree).1

/-- The tag a READ is issued again under is another than the one that timed out (R427). -/
theorem timeout_reissued (hp : s.start.powered = true) (hx : tget tag s.kw.txns = some x) (hk : x.kind = fkRead) (ht : x.tries < 3) (ha : s.kw.again = [])
    (hw : stillWanted s x = true) (hf : freeTag (timedFree tag s) x.bay = some k) : Answers (.requestTimeout tag) s fun t =>
      tget tag t.kw.txns = none ∧ tget k t.kw.txns = some { x with tries := x.tries + 1, mark := s.kw.mark } ∧
      t.kw.timeout = satAdd 0xFFFF s.kw.timeout 1 := by
  have hgo := timedOut_again hx hk ht ha
  rw [hw, Bool.not_true, if_neg Bool.false_ne_true, hf, Option.isNone_some, if_neg Bool.false_ne_true] at hgo
  refine answers_timeout hp hgo fun t _ hkw => ⟨?_, ?_, ?_⟩
  · rw [hkw]
    exact (cool_sendReq _ tag cool_timedFree).1
  · rw [hkw, posts_sendReq (x := { x with tries := x.tries + 1 }) hf]
    exact tget_tput_same _ _ _
  · rw [hkw, timeout_sendReq]
    rfl

/-- A READ that has timed out for good ends its command (R403, R427). -/
theorem timeout_readEnds {cid a dt : Nat} {c : Cmd} (hp : s.start.powered = true) (hx : tget tag s.kw.txns = some x) (ht : 3 ≤ x.tries)
    (ho : x.owner = .dma cid a dt) (hcid : (ash s a).cid = cid) (hd : (tget dt (ash s a).tags).isSome = true) (hc : cmd? s cid = some c) (hid : c.cid = cid) :
    Answers (.requestTimeout tag) s fun t => cmd? t cid = none ∧ tget tag t.kw.txns = none := by
  have hgo := timedOut_ends hx (by omega)
  rw [ownerAnswered_failed (s := timedFree tag s) [] ho hcid hd (by decide)] at hgo
  refine answers_timeout hp hgo fun t hcmds hkw => ⟨?_, ?_⟩
  · rw [cmd?_of_cmds hcmds]
    exact cmd?_remoteReadFailed_self (s := timedFree tag s) hc hid _ _ _
  · rw [hkw]
    exact (cool_remoteReadFailed _ _ _ tag cool_timedFree).1

/-- An effect that times out counts as failed (R124, R427). -/
theorem timeout_effectFails {cid idx : Nat} {c : Cmd} {failed : Bool} (hp : s.start.powered = true) (hx : tget tag s.kw.txns = some x) (hk : x.kind ≠ fkRead)
    (ho : x.owner = .effect cid idx) (hc : cmd? s cid = some c) (he : tgetD idx c.effs (0, false) = (1, failed)) (howed : c.copyOwed = true) :
    Answers (.requestTimeout tag) s fun t => t.kw.timeout = satAdd 0xFFFF s.kw.timeout 1 ∧ ∃ d, cmd? t cid = some d ∧
      d.remoteFailed = c.remoteFailed + 1 ∧ d.remoteLeft = c.remoteLeft - 1 ∧ d.code = if c.code = 0 then 0x60 else c.code := by
  have hgo := timedOut_ends hx (fun h => hk h.1)
  rw [ownerAnswered_effect 2 [] ho] at hgo
  obtain ⟨⟨d, hd, hdc⟩, htime⟩ := effAnswered_owed (s := timedFree tag s) (status := 2) hc he howed
  refine answers_timeout hp hgo fun t hcmds hkw => ⟨?_, d, (cmd?_of_cmds hcmds cid).trans hd, ?_, congrArg Cmd.remoteLeft hdc, ?_⟩
  · rw [hkw]
    exact htime
  · refine (congrArg Cmd.remoteFailed hdc).trans ?_
    simp [unqueued, afterEffect]
  · refine (congrArg Cmd.code hdc).trans ?_
    simp [unqueued, afterEffect, statusCode]

/-- Settles O49: an inbound request is the common handling of R404 with its own service, an answer frame is found again in the waiting, at
its port or sent; answers and timeouts reach their owner, and a tag that timed out is not taken while it cools. -/
theorem requestFrames : Obligations.RequestFrames := by
  unfold Obligations.RequestFrames
  refine fun s p f env => ⟨fun r hr h => inbound_clauses hr h, fun i k hik h => answer_clauses hik h, fun tag hp => ⟨fun hx => ?_, ?_, ?_, ?_, ?_⟩⟩
  · have hgo : timedOut tag s = s := by simp [timedOut, hx]
    rw [exec_requestTimeout hp, hgo, keep_self]
  · exact fun x hx hk ht ha => timeout_again hp hx hk ht ha
  · exact fun x cid a dt c hx _ ht ho hcid hd hc hid => timeout_readEnds hp hx ht ho hcid hd hc hid
  · exact fun x k hx hk ht ha hw hf => timeout_reissued hp hx hk ht ha hw hf
  · exact fun x cid idx c failed hx hk ho hc he howed => timeout_effectFails hp hx hk ho hc he howed

end Sys2Proof.Proofs
end

section
/-! SUPPORT. STREAM_ADMIN READ into a bay's error ring (R159, R266, R402). The statement that a READ leaves the descriptor's bytes at its
address fails: where the completion entry cannot be written, the record of that failure may be written over them. -/
namespace Sys2Proof.Proofs
open Sys2Proof.Machine

/-- A READ of stream 7 to device address 0x1000. -/
def readDescriptor : Cmd :=
  { cid := 0, bay := 0, queue := 0, st := .waiting
    entry := padTo 64 ([0x24, 0, 0, 0, 0, 0, 7] ++ List.replicate 17 0 ++ natLe 4 7 ++ List.replicate 20 0 ++ natLe 8 0x1000) }

/-- The READ's queue: its completion ring lies in host page 4. -/
def hostRing : Queue := { qflags := 2, wp := 1, fetch := 1, cqAddr := 0x4000 }

/-- Stream 7 of model 5. -/
def openStream : Stream := { modelId := 5, state := .idle }

/-- Bay 0 with the READ waiting. Its error ring of 16 records is placed at device address 0x1000, in an extent with read and write
permission, and the host has answered the translation of page 4 with read permission alone. -/
def readsIntoErrorRing : State :=
  { State.reset with
    cmds := { all := [(0, readDescriptor)], next := 1 }
    bays := { all := [(0, { st := .attached
                            eqi := { major := 3, minor := 4, queues := [(0, hostRing)], errVa := 0x1000, errRecs := 16 }
                            mem := { extents := [(0, { home := .hbm 0 })], atc := [(4, 1, 9)], atsEnable := true }
                            strm := { streams := [(7, openStream)] } })] } }

theorem leavesRing_readsIntoErrorRing : leavesRing readsIntoErrorRing 0 readDescriptor 0x24 :=
  ⟨⟨⟨rfl, rfl, rfl⟩, by decide, by decide⟩, rfl, rfl, rfl⟩

/-- Read and write permission permits every access. -/
theorem permit_readWrite (need : Nat) (p : Place) : permit 3 need p = .ok p := by
  have read : bit 3 0 = true := rfl
  have write : bit 3 1 = true := rfl
  simp only [permit, read, write, Bool.not_true, Bool.and_false, Bool.false_eq_true, if_false]

/-- So a placed extent that has it translates to its home. -/
theorem xlate_of_extent {s : State} {b va : Nat} {e : Extent} (hva : va < 2 ^ 48) (he : tget (va / 2 ^ 21) (bay s b).mem.extents = some e)
    (hp : e.perm = 3) (hw : holdsWeights s b va = false) (need : Nat) (stale : Bool) :
    xlate s b va need stale = .ok (homePlace s b (va % 2 ^ 21) e.home) := by
  simp only [xlate, if_neg (Nat.not_le.mpr hva), he, hw, Bool.false_eq_true, if_false, hp, permit_readWrite]

theorem placed_readsIntoErrorRing : Placed readsIntoErrorRing 0 0x1000 64 0x1000 := by
  intro k hk need stale
  have hext : tget ((0x1000 + k) / 2 ^ 21) (bay readsIntoErrorRing 0).mem.extents = some { home := .hbm 0 } := by
    rw [show (0x1000 + k) / 2 ^ 21 = 0 by omega]
    rfl
  rw [xlate_of_extent (by omega) hext rfl rfl, homePlace, physOf, Nat.mod_eq_of_lt (by omega)]
  simp only [Nat.zero_mul, Nat.zero_add]

/-- The READ ends with the record of the ring's failure, the bay's first, at its address. -/
theorem streamAdminRead_readsIntoErrorRing :
    ∃ t, exec (.streamAdminRead 0) readsIntoErrorRing = .next t ∧ mread t.mem.hbm 0x1000 64 ≠ streamBytes openStream :=
  ⟨_, rfl, by decide +kernel⟩

/-- Refutes O31: a READ must leave the descriptor's bytes at its address, but where the host denies the write of the completion ring's page
and the bay's error ring lies at that address, the error record of R402 takes their place. -/
theorem not_streamAdministration : ¬ Obligations.StreamAdministration := by
  unfold Obligations.StreamAdministration
  intro h
  obtain ⟨-, -, -, -, -, -, -, -, -, -, -, reads, -⟩ := h readsIntoErrorRing 0 readDescriptor leavesRing_readsIntoErrorRing
  obtain ⟨t, ht, -, copied⟩ := reads hostRing 0x1000 (by decide) (by decide) (by decide) (by decide) (by decide) (by decide) (by decide)
    placed_readsIntoErrorRing
  obtain ⟨u, hu, overwritten⟩ := streamAdminRead_readsIntoErrorRing
  obtain rfl : u = t := Host.Outcome.next.inj (hu.symm.trans ht)
  exact overwritten copied

end Sys2Proof.Proofs
end

section
/-! SUPPORT. What writes, the stop and the end of a command leave of the streams of a bay (R65, R158, R190, R238): the slab map, the events,
the count of streams lost, and that a LOST stream is LOST. -/
namespace Sys2Proof.Proofs
open Sys2Proof.Machine

variable {s t u : State} {b c q k n : Nat}

/-! ## Streams and slabs of a bay -/

theorem strm_modSt (f : BayStream → BayStream) : (bay (modSt b f s) c).strm = if c = b then f (bay s b).strm else (bay s c).strm := by
  rw [modSt, bay_modBay]
  split <;> rfl

theorem slab_of_slabs (h : (bay t b).strm.slabs = (bay s b).strm.slabs) (k : Nat) : slab t b k = slab s b k := by rw [slab, slab, h]

theorem stream_of_streams (h : (bay t b).strm.streams = (bay s b).strm.streams) (n : Nat) : stream t b n = stream s b n := by rw [stream, stream, h]

theorem tgetD_tmod {α : Type} (k j : Nat) (d : α) (f : α → α) (l : Tbl α) : tgetD j (tmod k d f l) d = if j = k then f (tgetD k l d) else tgetD j l d := by
  simp only [tgetD, tget_tmod]
  split <;> rfl

theorem slab_modSlab (f : Slab → Slab) (j : Nat) : slab (modSlab b k f s) b j = if j = k then f (slab s b k) else slab s b j := by
  rw [slab, modSlab, strm_modSt, if_pos rfl]
  exact tgetD_tmod k j {} f _

theorem stream_modStream (f : Stream → Stream) (j : Nat) : stream (modStream b k f s) b j = if j = k then f (stream s b k) else stream s b j := by
  rw [stream, modStream, strm_modSt, if_pos rfl]
  exact tgetD_tmod k j {} f _

/-! ## The frame -/

/-- The slab map and the events of every bay, and the count of streams lost, are as before, and a LOST stream still is. -/
structure StreamsAs (s t : State) : Prop where
  count : t.mem.streamsLost = s.mem.streamsLost
  ev : ∀ b, (bay t b).ev = (bay s b).ev
  slabs : ∀ b, (bay t b).strm.slabs = (bay s b).strm.slabs
  lost : ∀ b n, (stream s b n).state = .lost → (stream t b n).state = .lost

theorem StreamsAs.refl : StreamsAs s s := ⟨rfl, fun _ => rfl, fun _ => rfl, fun _ _ h => h⟩
theorem StreamsAs.trans (h : StreamsAs s t) (g : StreamsAs t u) : StreamsAs s u :=
  ⟨g.count.trans h.count, fun b => (g.ev b).trans (h.ev b), fun b => (g.slabs b).trans (h.slabs b), fun b n k => g.lost b n (h.lost b n k)⟩

theorem StreamsAs.foldl {α : Type} {f : State → α → State} (hf : ∀ t x, StreamsAs t (f t x)) (l : List α) : StreamsAs s (l.foldl f s) :=
  foldl_inv (StreamsAs s) l f (fun t x h => h.trans (hf t x)) s .refl
theorem StreamsAs.each {α : Type} {f : α → State → State} (hf : ∀ x t, StreamsAs t (f x t)) (l : List α) : StreamsAs s (each l f s) :=
  each_inv (StreamsAs s) l f (fun x t h => h.trans (hf x t)) s .refl

theorem StreamsAs.slab (h : StreamsAs s t) (b k : Nat) : slab t b k = slab s b k := slab_of_slabs (h.slabs b) k

/-- What reaches neither the bays nor the count. -/
theorem streamsAs_of (hb : t.bays = s.bays := by rfl) (hm : t.mem.streamsLost = s.mem.streamsLost := by rfl) : StreamsAs s t :=
  ⟨hm, fun b => by rw [bay, bay, hb], fun b => by rw [bay, bay, hb], fun b n h => by rw [stream, bay, hb]; exact h⟩

theorem streamsAs_mem (m : MemSys) (h : m.streamsLost = s.mem.streamsLost) : StreamsAs s { s with mem := m } := streamsAs_of rfl h
theorem streamsAs_dev (d : Dev) : StreamsAs s { s with dev := d } := streamsAs_of
theorem streamsAs_emit (o : Out) : StreamsAs s (emit o s) := streamsAs_of

theorem streamsAs_of_fabric (h : FabricOnly s t) : StreamsAs s t := by rw [h]; exact streamsAs_of

theorem streamsAs_modBay {f : Bay → Bay} (hev : ∀ y, (f y).ev = y.ev) (hslabs : ∀ y, (f y).strm.slabs = y.strm.slabs)
    (hlost : ∀ y n, (tgetD n y.strm.streams {}).state = .lost → (tgetD n (f y).strm.streams {}).state = .lost) : StreamsAs s (modBay b f s) where
  count := rfl
  ev k := by
    rw [bay_modBay]
    split
    · next h => rw [hev, h]
    · rfl
  slabs k := by
    rw [bay_modBay]
    split
    · next h => rw [hslabs, h]
    · rfl
  lost k n h := by
    rw [stream, bay_modBay]
    split
    · next hk => exact hlost _ _ (hk ▸ h)
    · exact h

theorem streamsAs_modEqi (f : BayEqi → BayEqi) : StreamsAs s (modEqi b f s) :=
  streamsAs_modBay (f := fun y => { y with eqi := f y.eqi }) (fun _ => rfl) (fun _ => rfl) fun _ _ h => h
theorem streamsAs_modBm (f : BayMem → BayMem) : StreamsAs s (modBm b f s) :=
  streamsAs_modBay (f := fun y => { y with mem := f y.mem }) (fun _ => rfl) (fun _ => rfl) fun _ _ h => h
theorem streamsAs_progress : StreamsAs s (progress b s) :=
  streamsAs_modBay (f := fun y => { y with progress := (y.progress + 1) % 2 ^ 32 }) (fun _ => rfl) (fun _ => rfl) fun _ _ h => h

/-- A change of the stream side that reaches neither descriptors nor slab map. -/
theorem streamsAs_modSt {f : BayStream → BayStream} (hslabs : ∀ y, (f y).slabs = y.slabs := by intro; rfl)
    (hstreams : ∀ y, (f y).streams = y.streams := by intro; rfl) : StreamsAs s (modSt b f s) :=
  streamsAs_modBay (f := fun y => { y with strm := f y.strm }) (fun _ => rfl) (fun y => hslabs y.strm) fun y n h => by
    dsimp only
    rw [hstreams]
    exact h

/-- A change of a descriptor that leaves a LOST stream LOST. -/
theorem streamsAs_modStream {f : Stream → Stream} (hf : ∀ x, x.state = .lost → (f x).state = .lost) : StreamsAs s (modStream b k f s) :=
  streamsAs_modBay (f := fun y => { y with strm := _ }) (fun _ => rfl) (fun _ => rfl) fun y n h => by
    dsimp only
    rw [tgetD_tmod]
    split
    · next hn => exact hf _ (hn ▸ h)
    · exact h

theorem streamsAs_modBatch (n : Nat) (f : Batch → Batch) : StreamsAs s (modBatch b n f s) := streamsAs_modSt

theorem streamsAs_modQueue (f : Queue → Queue) : StreamsAs s (modQueue b q f s) := by
  unfold modQueue
  split
  · exact .refl
  · exact streamsAs_modEqi _

theorem streamsAs_modCmd (f : Cmd → Cmd) : StreamsAs s (modCmd c f s) := streamsAs_of (modCmd_bays _ _ _) (by rw [modCmd_mem])

/-! ## Records and writes -/

theorem streamsAs_raise (n : Nat) : StreamsAs s (raise n s) := streamsAs_of_fabric (by rw [raise_changes])
theorem streamsAs_plumbRec (p : PlumbRec) : StreamsAs s (plumbRec p s) := by
  rw [plumbRec_changes]
  exact streamsAs_of

theorem streamsAs_noteMove (h : Home) (off n : Nat) : StreamsAs s (noteMove b h off n s) := by
  unfold noteMove
  split
  · exact streamsAs_modBm _
  · exact .refl

theorem streamsAs_writePa (pa : Nat) (bs : List Byte) : StreamsAs s (writePa pa bs s) := by
  unfold writePa
  split
  · exact (streamsAs_noteMove _ _ _).trans (streamsAs_mem _ rfl)
  · exact streamsAs_mem _ rfl

theorem streamsAs_writeWin (k : Nat) (bs : List Byte) : StreamsAs s (writeWin k bs s) := by
  unfold writeWin
  refine StreamsAs.trans (StreamsAs.trans ?_ (streamsAs_noteMove _ _ _)) (streamsAs_mem _ rfl)
  split
  · exact streamsAs_of_fabric (ownJob_fabric _ _)
  · exact .refl

theorem streamsAs_writeVa (va : Nat) (bs : List Byte) : StreamsAs s (writeVa b va bs s) := by
  refine .foldl (fun t p => ?_) _
  dsimp only
  split
  · exact streamsAs_writePa _ _
  · exact streamsAs_writeWin _ _
  · exact streamsAs_of
  · exact .refl

theorem streamsAs_errRecord (kind code q slot detail address : Nat) (entry : List Byte) (origin shape ashlar engines reruns : Nat) (est : List Byte) :
    StreamsAs s (errRecord b kind code q slot detail address entry origin shape ashlar engines reruns est s) := by
  unfold errRecord
  extract_lets
  split
  · exact (streamsAs_modEqi _).trans (streamsAs_dev _)
  · exact ((streamsAs_writeVa _ _).trans (streamsAs_modEqi _)).trans (streamsAs_raise _)

/-! ## A command reaches DONE -/

theorem streamsAs_cqFail (address : Nat) : StreamsAs s (cqFail b q address s) := by
  have hfreeze : ∀ t, StreamsAs t (freezeQueue b q t) := fun t => (streamsAs_modQueue _).trans streamsAs_of
  exact ((((streamsAs_modQueue _).trans (hfreeze _)).trans (streamsAs_errRecord _ _ _ _ _ _ _ _ _ _ _ _ _)).trans (streamsAs_modQueue _)).trans
    (streamsAs_plumbRec _)

theorem streamsAs_cqWrite : StreamsAs s (cqWrite b q s) := by
  unfold cqWrite
  split
  · exact .refl
  split
  · exact .refl
  split
  · exact .refl
  extract_lets size phase fl bs at_ irq hp t t'
  have hput : StreamsAs s t' := by
    refine (streamsAs_modQueue _).trans (t := t) ?_
    dsimp only [t']
    split
    · exact streamsAs_of
    · exact streamsAs_writeVa _ _
  split
  · unfold atsAsk
    dsimp only
    split
    · exact .refl
    · exact (streamsAs_modBm _).trans (streamsAs_emit _)
  split
  · exact streamsAs_cqFail _
  split
  · exact hput.trans (by rw [oweVector_changes]; exact streamsAs_of)
  · exact hput

theorem streamsAs_cqPost : StreamsAs s (cqPost b q s) := by
  have hflush : ∀ n (s : State), StreamsAs s (cqFlush n b q s) := fun n => by
    induction n with
    | zero => exact fun _ => .refl
    | succ n ih => exact fun _ => streamsAs_cqWrite.trans (ih _)
  unfold cqPost
  split
  · exact .refl
  · exact hflush _ _

theorem streamsAs_releaseAdmin (x : Cmd) : StreamsAs s (releaseAdmin x s) := by
  unfold releaseAdmin
  split
  · exact streamsAs_modEqi _
  split
  · exact .refl
  · refine streamsAs_modBay (f := fun y => { y with strm := _ }) (fun _ => rfl) (fun _ => rfl) fun y n h => ?_
    dsimp only
    unfold tgetD at h ⊢
    rw [tget_tmap]
    cases hk : tget n y.strm.streams with
    | none => rw [hk] at h; exact h
    | some k => rw [hk] at h; exact h

theorem streamsAs_finishTop (x : Cmd) (code result : Nat) (er : Bool) : StreamsAs s (finishTop x code result er s) :=
  ((((streamsAs_releaseAdmin x).trans (streamsAs_modQueue _)).trans streamsAs_of).trans streamsAs_progress).trans streamsAs_cqPost

theorem streamsAs_signal (o v : Nat) : StreamsAs s (signal b o v s) := by
  unfold signal
  split
  · exact (streamsAs_modEqi _).trans streamsAs_progress
  · exact .refl

theorem streamsAs_finishBody (pc : Nat) (x : Cmd) (code : Nat) (er : Bool) : StreamsAs s (finishBody pc x code er s) := by
  unfold finishBody
  extract_lets t t'
  have ht : StreamsAs s t' := (StreamsAs.trans (t := dropCmd x.cid s) streamsAs_of streamsAs_progress).trans (streamsAs_modCmd _)
  split
  · exact ht
  split
  · exact ht
  extract_lets p code u
  have hu : StreamsAs s u := by
    dsimp only [u]
    split
    · exact ht.trans (streamsAs_signal _ _)
    · exact ht
  exact (hu.trans streamsAs_modSt).trans (streamsAs_finishTop _ _ _ _)

theorem streamsAs_streamLess (x : Cmd) : StreamsAs s (streamLess x s) := by
  unfold streamLess
  split
  · refine streamsAs_modStream fun y hy => ?_
    dsimp only
    rw [if_neg (by rw [hy]; simp), hy]
  · exact .refl

theorem streamsAs_owesHs (x : Cmd) : StreamsAs s (owesHs x s) := by
  unfold owesHs
  split
  · split
    · exact .refl
    · exact streamsAs_of
  · exact .refl

theorem streamsAs_finish (code result : Nat) (er : Bool) : StreamsAs s (finish c code result er s) := by
  unfold finish
  split
  · exact .refl
  next x _ =>
  split
  · exact (((streamsAs_owesHs x).trans streamsAs_of).trans streamsAs_progress).trans (streamsAs_modBatch _ _)
  · exact (streamsAs_owesHs x).trans (streamsAs_finishBody _ _ _ _)
  · exact ((streamsAs_owesHs x).trans (streamsAs_streamLess x)).trans (streamsAs_finishTop _ _ _ _)

/-! ## A command is stopped -/

theorem streamsAs_landSome (a : Nat) (ls : List (Nat × Nat × Nat × Nat)) : StreamsAs s (landSome b a ls s) := by
  induction ls generalizing s with
  | nil => exact .refl
  | cons l ls ih =>
    unfold landSome
    refine StreamsAs.trans ?_ ih
    split
    · exact StreamsAs.trans (t := noteLanded b none (l.2.1 / 64) (drewFree s)) streamsAs_of ((streamsAs_writeVa _ _).trans streamsAs_of)
    · exact streamsAs_of

theorem streamsAs_halt (keepAsh : Option Nat) : StreamsAs s (halt c keepAsh s) := by
  unfold halt
  split
  · exact .refl
  next x _ =>
  extract_lets ids landed stopped quiet killed journalled told cleared
  have hlanded : StreamsAs s landed := .each (fun a t => streamsAs_landSome _ _) _
  have hstopped : StreamsAs landed stopped := .each (fun a t => by split <;> exact streamsAs_of) _
  have hkilled : StreamsAs quiet killed := .each (f := fun a t => sendCtl .kill a c t) (fun a t => streamsAs_of) ids
  have hjournalled : StreamsAs killed journalled := by
    dsimp only [journalled]
    unfold journalPending
    split
    · exact .refl
    · exact streamsAs_modSt
  have htold : StreamsAs journalled told := by
    dsimp only [told]
    split
    · exact streamsAs_of
    · exact .refl
  have hquiet : StreamsAs stopped quiet := streamsAs_of
  exact ((((((hlanded.trans hstopped).trans hquiet).trans hkilled).trans hjournalled).trans htold).trans (streamsAs_modCmd _)).trans streamsAs_of

theorem streamsAs_killReady : StreamsAs s (killReady c s) := (streamsAs_halt none).trans (streamsAs_modCmd _)

end Sys2Proof.Proofs
end

section
/-! SUPPORT. Streams that are lost, slabs that are poisoned and slabs that move (R158, R166, R172, R186, R190). -/
namespace Sys2Proof.Proofs
open Sys2Proof.Machine

variable {s t u : State} {b c n k : Nat}

/-! ## Parts of what the rows on streams do -/

theorem streamsAs_maskStream (n : Nat) : StreamsAs s (maskStream b n s) := by
  refine .foldl (fun t x => ?_) _
  split
  · exact .refl
  refine .foldl (fun t i => ?_) _
  split
  · split
    · exact (streamsAs_modBatch _ _).trans (streamsAs_writeVa _ _)
    · exact .refl
  · exact .refl

theorem streamsAs_passStream (n : Nat) : StreamsAs s (passStream b n s) := streamsAs_modSt

theorem streamsAs_leaveBatch (n : Nat) : StreamsAs s (leaveBatch b n s) :=
  streamsAs_modStream fun x hx => by rw [if_neg (by rw [hx]; simp), hx]

theorem streamsAs_recount (n : Nat) : StreamsAs s (recount b n s) := streamsAs_modStream fun _ hx => hx

theorem bay_bayEvent (code h w x c : Nat) : (bay (bayEvent b code h w x s) c).strm = (bay s c).strm ∧
    (bay (bayEvent b code h w x s) c).ev.prod = if c = b then ((bay s b).ev.prod + 1) % 2 ^ 32 else (bay s c).ev.prod := by
  have hraise : ∀ m (u : State), bay (raise m u) c = bay u c := fun m u => by rw [raise_changes]; rfl
  rw [bayEvent, hraise, bay_modBay]
  split
  · next h => exact ⟨by rw [h], rfl⟩
  · exact ⟨rfl, rfl⟩

/-! ## A stream is LOST (R190) -/

/-- What a lost stream leaves: its state, the count of streams lost and one record more for its bay. -/
structure LostStream (s : State) (b n : Nat) (t : State) : Prop where
  state : (stream t b n).state = .lost
  count : t.mem.streamsLost = min 0xFFFF (s.mem.streamsLost + 1)
  prod : (bay t b).ev.prod = ((bay s b).ev.prod + 1) % 2 ^ 32

theorem LostStream.after (h : LostStream s b n t) (g : StreamsAs t u) : LostStream s b n u :=
  ⟨g.lost b n h.state, g.count.trans h.count, by rw [g.ev, h.prod]⟩

theorem lost_loseStream (hfree : (stream s b n).state ≠ .free) (hlost : (stream s b n).state ≠ .lost) : LostStream s b n (loseStream b n s) := by
  rw [loseStream, if_neg (by simp [hfree, hlost])]
  extract_lets masked marked _ told
  have hm : StreamsAs s masked := streamsAs_maskStream n
  have hk : StreamsAs masked marked := streamsAs_modStream fun _ _ => rfl
  have hlost : (stream marked b n).state = .lost := by
    rw [stream_modStream, if_pos rfl]
  have htold : LostStream s b n told := by
    obtain ⟨hstrm, hprod⟩ := bay_bayEvent (s := { marked with mem := { marked.mem with streamsLost := satAdd 0xFFFF marked.mem.streamsLost 1 } }) (b := b) 0x41 0 n 0 b
    refine ⟨?_, ?_, ?_⟩
    · rw [stream, hstrm]
      exact hlost
    · have hcount : told.mem.streamsLost = satAdd 0xFFFF marked.mem.streamsLost 1 := by
        dsimp only [told]
        rw [bayEvent_changes]
      rw [hcount, hk.count, hm.count, satAdd]
    · rw [hprod, if_pos rfl, ← (hm.trans hk).ev b]
      rfl
  exact htold.after (.each (fun _ _ => streamsAs_finish _ _ _) _)

theorem lost_memLost (hfree : (stream s b n).state ≠ .free) (hlost : (stream s b n).state ≠ .lost) : LostStream s b n (memLost b n s) := by
  obtain ⟨hstate, hcount, hprod⟩ := lost_loseStream (s := drewFree s) hfree hlost
  have hlose : LostStream s b n (loseStream b n (drewFree s)) := ⟨hstate, hcount, hprod⟩
  rw [memLost, if_neg (by simp [hfree, hlost])]
  split
  · rw [loseDescriptor, if_neg (by exact hfree)]
    exact hlose.after (streamsAs_modStream fun _ _ => rfl)
  · exact hlose

/-! ## A slab is POISONED (R186) -/

/-- The entry alone changes: its location and its cause. -/
theorem slab_poisonSlab (h : (slab s b k).loc = .valid) (cause j : Nat) :
    slab (poisonSlab b k cause s) b j = if j = k then { slab s b k with loc := .poisoned, cause := cause } else slab s b j := by
  rw [poisonSlab, if_neg (by simp [h])]
  extract_lets _ counted regen
  have hc : StreamsAs (modSlab b k _ s) counted := streamsAs_recount _
  have hr : StreamsAs counted regen := streamsAs_modStream fun x hx => by rw [if_pos (.inr hx), hx]
  rw [slab_of_slabs (congrArg BayStream.slabs (bay_bayEvent ..).1), (hc.trans hr).slab, slab_modSlab]

/-! ## A move ends (R172) -/

theorem fabric_ownSpill (a m : Nat) (bs : List Byte) (wr : Bool) (s : State) : FabricOnly s (ownSpill b a m bs wr s) := by
  refine .foldl _ _ (fun t p => ?_) _
  split
  · exact ownJob_fabric _ _
  · exact .refl _

theorem fabric_askFrame (a m : Nat) (s : State) : FabricOnly s (askFrame b a m s) := by
  unfold askFrame
  split
  · exact .refl _
  · exact fabric_ownSpill _ _ _ _ _

theorem streamsAs_frameWrite (a : Nat) (bs : List Byte) : StreamsAs s (frameWrite b a bs s) := by
  unfold frameWrite
  split
  · refine .foldl (fun t p => ?_) _
    split
    · exact streamsAs_writePa _ _
    · exact .refl
  · exact (streamsAs_of_fabric (fabric_ownSpill _ _ _ _ _)).trans streamsAs_modSt

/-- An intact move rewrites the entry for its new place, and no other. -/
theorem slab_slabMoved_intact {d : Nat} (hd : (slab s b k).moving = some d) (hloc : (slab s b k).loc ≠ .free) (j : Nat) :
    slab (slabMoved b k true s) b j = if j = k then { slab s b k with
      spill := decide (d < kvBase), spillNo := if kvBase ≤ d then 0 else spillAt s b d, vaPage := d / 4096, moving := none } else slab s b j := by
  have hspill : (!decide (kvBase ≤ d)) = decide (d < kvBase) := by rw [← decide_not]; simp only [Nat.not_le]
  simp only [slabMoved, hd, if_neg hloc, Bool.not_true, Bool.false_and, Bool.false_eq_true, if_false, hspill, decide_eq_true_eq]
  rw [(streamsAs_recount _).slab, slab_modSlab, ((streamsAs_of_fabric (fabric_askFrame _ _ s)).trans (streamsAs_frameWrite _ _)).slab,
    ((streamsAs_of_fabric (fabric_askFrame _ _ s)).trans (streamsAs_frameWrite _ _)).slab]

/-- A move that is not intact poisons the slab with the cause of its place, or leaves it there where the new place is in a spill range. -/
theorem slab_slabMoved_failed {d : Nat} (hd : (slab s b k).moving = some d) (hloc : (slab s b k).loc = .valid) :
    slab (slabMoved b k false s) b k = { slab s b k with moving := none, loc := .poisoned, cause := if (slab s b k).spill then 2 else 1 } ∨
      d < kvBase ∧ slab (slabMoved b k false s) b k = { slab s b k with moving := none } := by
  have hstop : slab (modSlab b k (fun e => { e with moving := none }) s) b k = { slab s b k with moving := none } := by rw [slab_modSlab, if_pos rfl]
  have hused : (slab s b k).loc ≠ .free := by simp [hloc]
  simp only [slabMoved, hd, if_neg hused, Bool.not_false, Bool.true_and, if_true, Bool.and_eq_true, decide_eq_true_eq]
  split
  · next h => exact .inr ⟨h.1, hstop⟩
  · left
    rw [slab_poisonSlab (by rw [hstop]; exact hloc), if_pos rfl, hstop]

end Sys2Proof.Proofs
end

section
/-! SUPPORT. The appends of a committed step (R164, R177, R178): what the copy of a record leaves, and what a stream's slabs and its descriptor
hold when every layer is copied. -/
namespace Sys2Proof.Proofs
open Sys2Proof.Machine

variable {s t u : State} {b n p r i : Nat} {x : Batch} {m : Model}

/-! ## Copies leave translations, descriptors and clean memory -/

/-- A change of the stream side that leaves the batch area and the models leaves every translation of the bay. -/
theorem xlate_modSt {f : BayStream → BayStream} (ha : ∀ y, (f y).area = y.area) (hm : ∀ y, (f y).models = y.models) (va need : Nat) (stale : Bool) :
    xlate (modSt b f s) b va need stale = xlate s b va need stale := by
  have hbay : bay (modSt b f s) b = { bay s b with strm := f (bay s b).strm } := by rw [modSt, bay_modBay, if_pos rfl]
  have hphys : ∀ g off, physOf (modSt b f s) b g off = physOf s b g off := fun _ _ => rfl
  have hhome : homePlace (modSt b f s) b = homePlace s b := by
    funext off h
    cases h <;> rfl
  have harea : areaPa (modSt b f s) b va = areaPa s b va := by simp only [areaPa, runPa, hbay, ha, hphys]
  have hweights : holdsWeights (modSt b f s) b va = holdsWeights s b va := by simp only [holdsWeights, hbay, hm]
  simp only [xlate, harea, hweights, hhome]
  rw [hbay]

/-- Translations and descriptors of the bay are as before, and no memory has been poisoned. -/
structure Copies (b : Nat) (s t : State) : Prop where
  xlate : ∀ va need stale, xlate t b va need stale = xlate s b va need stale
  poison : t.mem.poison.Sublist s.mem.poison
  streams : (bay t b).strm.streams = (bay s b).strm.streams

theorem Copies.refl : Copies b s s := ⟨fun _ _ _ => rfl, List.Sublist.refl _, rfl⟩
theorem Copies.trans (h : Copies b s t) (g : Copies b t u) : Copies b s u :=
  ⟨fun va need stale => (g.xlate va need stale).trans (h.xlate va need stale), g.poison.trans h.poison, g.streams.trans h.streams⟩
theorem Copies.foldl {α : Type} {f : State → α → State} (hf : ∀ t x, Copies b t (f t x)) (l : List α) : Copies b s (l.foldl f s) :=
  foldl_inv (Copies b s) l f (fun t x h => h.trans (hf t x)) s .refl

theorem copies_of_fabric (h : FabricOnly s t) : Copies b s t := by rw [h]; exact ⟨fun _ _ _ => rfl, List.Sublist.refl _, rfl⟩

theorem copies_modSt {f : BayStream → BayStream} (ha : ∀ y, (f y).area = y.area := by intro; rfl) (hm : ∀ y, (f y).models = y.models := by intro; rfl)
    (hs : ∀ y, (f y).streams = y.streams := by intro; rfl) : Copies b s (modSt b f s) :=
  ⟨xlate_modSt ha hm, List.Sublist.refl _, by rw [strm_modSt, if_pos rfl, hs]⟩

theorem copies_modSlab (k : Nat) (f : Slab → Slab) : Copies b s (modSlab b k f s) := copies_modSt (f := fun y => { y with slabs := _ })

theorem streams_noteMove (c : Nat) (h : Home) (off n : Nat) : (bay (noteMove c h off n s) b).strm = (bay s b).strm := by
  unfold noteMove
  split
  · rw [modBm, bay_modBay]
    split
    · next h => rw [h]
    · rfl
  · rfl

theorem copies_writePa (pa : Nat) (bs : List Byte) : Copies b s (writePa pa bs s) where
  xlate va need stale := xlate_writePa pa bs b va need stale s
  poison := by
    unfold writePa
    split
    · exact List.filter_sublist.trans (by rw [noteMove_mem])
    · exact List.filter_sublist
  streams := by
    unfold writePa
    split
    · exact congrArg BayStream.streams (streams_noteMove _ _ _ _)
    · rfl

theorem copies_frameWrite (a : Nat) (bs : List Byte) : Copies b s (frameWrite b a bs s) := by
  unfold frameWrite
  split
  · refine .foldl (fun t p => ?_) _
    split
    · exact copies_writePa _ _
    · exact .refl
  · exact (copies_of_fabric (fabric_ownSpill _ _ _ _ _)).trans copies_modSt

theorem copies_copyRecord (entry p : Nat) (bs : List Byte) : Copies b s (copyRecord b m entry p bs s) := .foldl (fun _ _ => copies_frameWrite _ _) _

theorem streamsAs_copyRecord (entry p : Nat) (bs : List Byte) : StreamsAs s (copyRecord b m entry p bs s) :=
  .foldl (fun _ _ => streamsAs_frameWrite _ _) _

/-- Memory that was clean is clean. -/
theorem Copies.poisonVa (h : Copies b s t) {va n : Nat} (hs : poisonVa s b va n = none) : poisonVa t b va n = none := by
  simp only [Machine.poisonVa, List.findSome?_eq_none_iff, h.xlate] at hs ⊢
  intro q hq
  have hclean := hs q hq
  split
  · next pa hpa =>
    rw [hpa] at hclean
    simp only [Option.map_eq_none_iff, List.head?_eq_none_iff, poisonIn] at hclean ⊢
    exact List.sublist_nil.1 (hclean ▸ h.poison.filter _)
  · rfl

theorem Copies.recPoisoned (h : Copies b s t) {l : Nat} (hs : recPoisoned s b x m i l = false) : recPoisoned t b x m i l = false := by
  simp only [Machine.recPoisoned, Option.isSome_eq_false_iff, Option.isNone_iff_eq_none] at hs ⊢
  exact h.poisonVa hs

/-! ## The layers of a position (R178) -/

/-- The record of layer `l` is copied into its slab, whose fill then covers the position. -/
def appendLayer (b : Nat) (x : Batch) (m : Model) (r p i : Nat) (t : State) (l : Nat) : State :=
  modSlab b (r + l) (fun e => { e with fill := max e.fill (p % 256 + 1) }) (copyRecord b m (r + l) p (appendRec t b x m i l) t)

theorem copies_appendLayer (l : Nat) : Copies b s (appendLayer b x m r p i s l) := (copies_copyRecord _ _ _).trans (copies_modSlab _ _)

theorem slab_appendLayer (l j : Nat) : slab (appendLayer b x m r p i s l) b j =
    if j = r + l then { slab s b j with fill := max (slab s b j).fill (p % 256 + 1) } else slab s b j := by
  rw [appendLayer, slab_modSlab, (streamsAs_copyRecord _ _ _).slab, (streamsAs_copyRecord _ _ _).slab]
  split
  · next h => rw [h]
  · rfl

/-- The layers below `k` have been appended. -/
structure Appended (b r p k : Nat) (s t : State) : Prop where
  copies : Copies b s t
  slab : ∀ j, slab t b j = if r ≤ j ∧ j < r + k then { slab s b j with fill := max (slab s b j).fill (p % 256 + 1) } else slab s b j

theorem appended_layers (k : Nat) : Appended b r p k s ((List.range k).foldl (appendLayer b x m r p i) s) := by
  induction k with
  | zero => exact ⟨.refl, fun j => by rw [if_neg (by omega)]; rfl⟩
  | succ k ih =>
    obtain ⟨hcopies, hslab⟩ := ih
    rw [List.range_succ, List.foldl_append]
    refine ⟨hcopies.trans (copies_appendLayer k), fun j => ?_⟩
    rw [List.foldl_cons, List.foldl_nil, slab_appendLayer, hslab]
    by_cases hj : j = r + k
    · rw [if_pos hj, if_neg (by omega), if_pos (by omega)]
    · rw [if_neg hj]
      exact if_congr (by omega) rfl rfl

/-- Two folds agree whose steps agree where the second one comes. -/
theorem foldl_range_eq {f g : State → Nat → State} {k : Nat} (h : ∀ l, l < k → f ((List.range l).foldl g s) l = g ((List.range l).foldl g s) l) :
    (List.range k).foldl f s = (List.range k).foldl g s := by
  induction k with
  | zero => rfl
  | succ k ih =>
    simp only [List.range_succ, List.foldl_append, List.foldl_cons, List.foldl_nil]
    rw [ih fun l hl => h l (by omega), h k (by omega)]

/-- Where every layer's record is clean, a step's position is appended layer by layer. -/
theorem appendPos_clean (hk : x.kind = .step) (hr : rowAt s b n x.buttress (p / 256) = some r) (hclean : ∀ l, l < m.layers → recPoisoned s b x m i l = false) :
    appendPos b x m [] n p i s = (List.range m.layers).foldl (appendLayer b x m r p i) s := by
  have hstep : x.kind ≠ .regen := by simp [hk]
  simp only [appendPos, hr]
  refine foldl_range_eq fun l hl => ?_
  have hrec := (appended_layers (x := x) (m := m) (i := i) (p := p) (r := r) (s := s) (b := b) l).copies.recPoisoned (hclean l hl)
  rw [if_neg fun h => hstep h.1]
  simp only [hrec, List.contains_nil, Bool.or_self, Bool.false_eq_true, if_false, if_neg hstep, appendLayer]

/-! ## A member's appends are complete -/

/-- The copies of member `i` are complete: it is marked, and its stream, of length `len` at least, leaves the batch. -/
def endMember (b : Nat) (x : Batch) (i n len : Nat) (t : State) : State :=
  leaveBatch b n (modStream b n (appendedLen x len)
    (modBatch b x.id (fun y => { y with members := y.members.modify i fun m => { m with appended := true } }) t))

theorem appendMember_step (bad : List Nat) (k : Member) (hk : x.kind = .step) :
    appendMember b x m bad i k s = endMember b x i k.strm (k.pos + 1) (appendPos b x m bad k.strm k.pos i s) := by
  have hstep : x.kind ≠ .regen := by simp [hk]
  simp only [appendMember, memberPositions, if_pos hk, if_neg hstep, List.foldl_cons, List.foldl_nil, Nat.zero_max, endMember]

theorem stream_endMember (hk : x.kind = .step) (hb : x.buttress = false) (len : Nat) :
    ∃ st, stream (endMember b x i n len s) b n = { stream s b n with mLen := max (stream s b n).mLen len, state := st } := by
  have hlen : appendedLen x len (stream s b n) = { stream s b n with mLen := max (stream s b n).mLen len } := by
    rw [appendedLen, if_neg (by simp [hk]), hb]
    rfl
  have hbatch : ∀ f, stream (modBatch b x.id f s) b n = stream s b n := fun f => stream_of_streams (by rw [modBatch, strm_modSt, if_pos rfl]) n
  rw [endMember, leaveBatch, stream_modStream, if_pos rfl, stream_modStream, if_pos rfl, hbatch, hlen]
  split
  · exact ⟨_, rfl⟩
  · exact ⟨_, rfl⟩

theorem streamsAs_endMember (len : Nat) : StreamsAs s (endMember b x i n len s) := by
  refine ((streamsAs_modBatch _ _).trans (streamsAs_modStream fun k hk => ?_)).trans (streamsAs_leaveBatch _)
  unfold appendedLen
  split_ifs <;> exact hk

/-- The oldest committed batch with an open member of the stream has it appended. -/
theorem appendDone_member {bad : List Nat} {k : Member}
    (hx : ((bay s b).strm.batches.find? fun x => x.committed && x.members.any fun k => k.strm == n && !k.masked && !k.appended) = some x)
    (hi : (x.members.findIdx? fun k => k.strm == n && !k.masked && !k.appended) = some i) (hk : x.members[i]? = some k) (hm : model? s b x.model = some m)
    (hlost : (stream s b n).state ≠ .lost) : appendDone b n bad s = appendMember b x m bad i k s := by
  simp only [appendDone, hx, hi, hm, hk, if_neg hlost]

theorem strm_of_findIdx {k : Member} {l : List Member} (hi : (l.findIdx? fun k => k.strm == n && !k.masked && !k.appended) = some i) (hk : l[i]? = some k) : k.strm = n := by
  obtain ⟨hlen, hmem, -⟩ := List.findIdx?_eq_some_iff_getElem.1 hi
  obtain rfl := Option.some.inj ((List.getElem?_eq_getElem hlen).symm.trans hk)
  simp only [Bool.and_eq_true, beq_iff_eq] at hmem
  exact hmem.1.1

/-- What a complete append leaves of its stream: the length covers the position, the first row is the same, and each layer's slab holds the
position. -/
theorem appendMember_clean {k : Member} (hk : x.kind = .step) (hb : x.buttress = false) (hr : rowAt s b k.strm false (k.pos / 256) = some r)
    (hclean : ∀ l, l < m.layers → recPoisoned s b x m i l = false) :
    let t := appendMember b x m [] i k s
    (stream t b k.strm).mLen = max (stream s b k.strm).mLen (k.pos + 1) ∧ (stream t b k.strm).root = (stream s b k.strm).root ∧
    ∀ j, slab t b j = if r ≤ j ∧ j < r + m.layers then { slab s b j with fill := max (slab s b j).fill (k.pos % 256 + 1) } else slab s b j := by
  intro t
  obtain ⟨hcopies, hslab⟩ := appended_layers (b := b) (s := s) (x := x) (m := m) (r := r) (p := k.pos) (i := i) m.layers
  have ht : t = endMember b x i k.strm (k.pos + 1) ((List.range m.layers).foldl (appendLayer b x m r k.pos i) s) := by
    rw [← appendPos_clean hk (hb ▸ hr) hclean]
    exact appendMember_step [] k hk
  obtain ⟨st, hst⟩ := stream_endMember (b := b) (i := i) (n := k.strm) (s := (List.range m.layers).foldl (appendLayer b x m r k.pos i) s) hk hb (k.pos + 1)
  rw [stream_of_streams hcopies.streams, ← ht] at hst
  refine ⟨by rw [hst], by rw [hst], fun j => ?_⟩
  rw [ht, (streamsAs_endMember _).slab, hslab]

end Sys2Proof.Proofs
end

section
/-! SUPPORT. A piece into its slot of a walk ring, or the poison of its slab (R183 to R187). -/
namespace Sys2Proof.Proofs
open Sys2Proof.Machine

variable {s t : State} {b cid q a : Nat} {c : Cmd} {w : Walk} {y : Batch} {m : Model} {p : Piece} {ps : List Piece}

/-! ## Bytes written and read -/

/-- The little-endian bytes of a number are those of its remainder. -/
theorem leNat_natLe (n v : Nat) : leNat (natLe n v) = v % 256 ^ n := by
  induction n generalizing v with
  | zero => simp [natLe, leNat, Nat.mod_one]
  | succ n ih =>
    have hpow : 256 ^ (n + 1) = 256 * 256 ^ n := Nat.pow_succ'
    rw [natLe, leNat, ih, BitVec.toNat_ofNat, hpow]
    exact (Nat.mod_mul (x := v) (a := 256)).symm

/-- A run is read as it was written. -/
theorem mread_mputs_same (d : Nat) (bs : List Byte) (mem : Mem) : mread (mputs d bs mem) d bs.length = bs := by
  have h := mread_mputs d 0 bs.length bs mem (by omega)
  rwa [Nat.add_zero, List.drop_zero, List.take_length] at h

/-- A run apart from the one that is written is read as before. -/
theorem mread_mputs_apart {d e n : Nat} {bs : List Byte} (h : e + n ≤ d ∨ d + bs.length ≤ e) (mem : Mem) :
    mread (mputs d bs mem) e n = mread mem e n := by
  rw [mread_eq_map, mread_eq_map]
  refine List.map_congr_left fun i hi => ?_
  have hi := List.mem_range.1 hi
  rw [mget_mputs, if_neg (by omega)]

/-! ## The ring of an ashlar (R184) -/

/-- The slot holds the piece; prod counts it; total is there with the first. -/
theorem deliver_spad (prod total : Nat) (bs : List Byte) (x : Ashlar) :
    let z := deliver w prod total bs x
    mread z.spad (w.ring + 64 + prod % max 1 w.slots * w.slotLines * 64) bs.length = bs ∧
    leNat (mread z.spad w.ring 8) = (prod + 1) % 2 ^ 64 ∧ (prod = 0 → leNat (mread z.spad (w.ring + 16) 8) = total % 2 ^ 64) := by
  have hword : ∀ d v mem, leNat (mread (mputs d (natLe 8 v) mem) d 8) = v % 2 ^ 64 := fun d v mem => by
    have h := mread_mputs_same d (natLe 8 v) mem
    rw [length_natLe] at h
    rw [h, leNat_natLe]
    rfl
  have hlen : ∀ v, (natLe 8 v).length = 8 := length_natLe 8
  intro z
  refine ⟨?_, ?_, fun hz => ?_⟩
  · by_cases hz : prod = 0
    · simp only [z, deliver, if_pos hz, spadWr_spad]
      rw [mread_mputs_apart (.inr (by rw [hlen]; omega)), mread_mputs_apart (.inr (by rw [hlen]; omega)), mread_mputs_same]
    · simp only [z, deliver, if_neg hz, spadWr_spad]
      rw [mread_mputs_apart (.inr (by rw [hlen]; omega)), mread_mputs_same]
  · simp only [z, deliver, spadWr_spad]
    exact hword _ _ _
  · simp only [z, deliver, if_pos hz, spadWr_spad]
    rw [mread_mputs_apart (.inr (by rw [hlen]; omega))]
    exact hword _ _ _

/-! ## A piece is delivered -/

/-- The reads of a piece and its translations: what the delivery does besides. -/
def readPiece (b : Nat) (y : Batch) (m : Model) (w : Walk) (p : Piece) (s : State) : State :=
  tlbFill b 1 (piecePages s b m w p) (touchSlabs b [p.slab] (drewFree (askPiece b y.model w p s)))

theorem readPiece_leaves : (readPiece b y m w p s).cmds = s.cmds ∧ (readPiece b y m w p s).grid = s.grid := by
  have hask : FabricOnly s (askPiece b y.model w p s) := by
    unfold askPiece
    split
    · exact .refl _
    · exact .foldl _ _ (fun t _ => fabric_askFrame _ _ t) _
  have hfill := cachedAs_tlbFill (b := b) 1 (piecePages s b m w p) (touchSlabs b [p.slab] (drewFree (askPiece b y.model w p s)))
  refine ⟨(CachedAs.cmds hfill).trans ?_, (congrArg State.grid hfill.only).trans ?_⟩
  · show (askPiece b y.model w p s).cmds = s.cmds
    rw [hask]
  · show (askPiece b y.model w p s).grid = s.grid
    rw [hask]

/-- What meets a chunk's piece: the command, its walk and batch, the ashlar that runs it, room in its ring, and a piece not read ahead. -/
structure Meets (s : State) (b cid q a : Nat) (c : Cmd) (w : Walk) (y : Batch) (m : Model) (p : Piece) : Prop where
  cmd : cmd? s cid = some c
  bay : c.bay = b
  walk : c.walk = some w
  panel : (panelIds c)[q]? = some a
  st : c.st = .running
  cid : (ash s a).cid = cid
  run : (ash s a).run = .running
  batch : batch? s b w.batch = some y
  model : model? s b y.model = some m
  apart : inJoint (ash s a) w.ring (64 + w.slots * w.slotLines * 64) = false
  piece : (chunkPieces s b y w q a)[tgetD a w.prod 0]? = some p
  valid : (slab s b p.slab).loc = .valid
  entry : p.entry < y.members.length
  ahead : tgetD a w.ahead 0 = 0
  room : tgetD a w.prod 0 < leNat (mread (ash s a).spad (w.ring + 8) 8) + w.slots

theorem walkDeliver_read (h : Meets s b cid q a c w y m p) : ∃ n, walkDeliver cid q none s =
    modAsh a (deliver w (tgetD a w.prod 0) (chunkPieces s b y w q a).length (pieceSlot s b m w p))
      (modCmd cid (fun c => { c with walk := some { w with
        prod := tput a (tgetD a w.prod 0 + 1) w.prod, pieces := tput a (chunkPieces s b y w q a) w.pieces, ahead := tput a n w.ahead } })
        (readPiece b y m w p s)) := by
  obtain ⟨hc, rfl, hw, ha, hst, hcid, hrun, hy, hm, hj, hp, hv, he, hah, hroom⟩ := h
  simp only [walkDeliver, hc, hw, ha, hst, hcid, hrun, hy, hm, hj, hp, hv, hah, hroom, Option.bind_some, bne_self_eq_false, Bool.or_self, Bool.false_eq_true,
    if_false, if_true, readPiece]
  exact ⟨_, rfl⟩

theorem walkDeliver_failed (h : Meets s b cid q a c w y m p) (k : Nat) : ∃ n, walkDeliver cid q (some k) s = walkPoison cid b n k p s := by
  obtain ⟨hc, rfl, hw, ha, hst, hcid, hrun, hy, hm, hj, hp, hv, he, hah, hroom⟩ := h
  refine ⟨(y.members[p.entry]).strm, ?_⟩
  simp only [walkDeliver, hc, hw, ha, hst, hcid, hrun, hy, hm, hj, hp, hv, hah, hroom, Option.bind_some, bne_self_eq_false, Bool.or_self, Bool.false_eq_true,
    if_false, if_true, List.getElem?_eq_getElem he]

/-! ## A piece cannot be read (R186, R187) -/

theorem wrote_bayEvent (code h w x : Nat) : Wrote s (bayEvent b code h w x s) := by
  unfold bayEvent
  exact (wrote_modBay (f := fun y => { y with ev := ringPut 256 _ y.ev }) (fun _ => rfl) (fun _ => ⟨rfl, rfl, rfl⟩) s).trans (wrote_raise _)

theorem wrote_modSlab (k : Nat) (f : Slab → Slab) : Wrote s (modSlab b k f s) := wrote_modSt _
theorem wrote_modStream (n : Nat) (f : Stream → Stream) : Wrote s (modStream b n f s) := wrote_modSt _
theorem wrote_recount (n : Nat) : Wrote s (recount b n s) := wrote_modStream _ _
theorem wrote_passStream (n : Nat) : Wrote s (passStream b n s) := wrote_modSt _
theorem wrote_leaveBatch (n : Nat) : Wrote s (leaveBatch b n s) := wrote_modStream _ _

theorem wrote_poisonSlab (i cause : Nat) : Wrote s (poisonSlab b i cause s) := by
  unfold poisonSlab
  extract_lets e marked counted regen
  split
  · exact .refl
  · have hregen : Wrote s regen := ((wrote_modSlab _ _).trans (wrote_recount _)).trans (wrote_modStream _ _)
    exact hregen.trans (wrote_bayEvent _ _ _ _)

theorem wrote_maskStream (n : Nat) : Wrote s (maskStream b n s) := by
  refine .foldl (fun t x => ?_) _
  split
  · exact .refl
  refine .foldl (fun t i => ?_) _
  split
  · split
    · exact (wrote_modSt _).trans (wrote_writeVa _ _)
    · exact .refl
  · exact .refl

/-- A command killed to run again waits READY. -/
theorem killReady_ready (h : cmd? s cid = some c) : (cmdD (killReady cid s) cid).st = .ready := by
  have hstop : cmd? (halt cid none s) cid = some (stoppedCmd c) := by
    rw [cmd?_of_cmds (halt_spec none).2, cmd?_modCmd_same, h]
    rfl
  rw [cmdD, killReady, toReady, cmd?_modCmd_same, hstop]
  rfl

/-- The slab is poisoned with its cause, and the chunk waits READY. -/
theorem walkPoison_spec (hc : cmd? s cid = some c) (hv : (slab s b p.slab).loc = .valid) (n k : Nat) :
    (cmdD (walkPoison cid b n k p s) cid).st = .ready ∧
    slab (walkPoison cid b n k p s) b p.slab = { slab s b p.slab with loc := .poisoned, cause := k } := by
  have hwrote : Wrote s (leaveBatch b n (passStream b n (maskStream b n (poisonSlab b p.slab k s)))) :=
    (((wrote_poisonSlab _ _).trans (wrote_maskStream _)).trans (wrote_passStream _)).trans (wrote_leaveBatch _)
  have hafter : StreamsAs (poisonSlab b p.slab k s) (walkPoison cid b n k p s) :=
    (((streamsAs_maskStream _).trans (streamsAs_passStream _)).trans (streamsAs_leaveBatch _)).trans streamsAs_killReady
  exact ⟨killReady_ready ((cmd?_of_cmds hwrote.cmds cid).trans hc), by rw [hafter.slab, slab_poisonSlab hv, if_pos rfl]⟩

end Sys2Proof.Proofs
end

section
/-! SUPPORT. The rows on streams and slabs (R158, R172, R177, R178, R183 to R187, R190), row by row. -/
namespace Sys2Proof.Proofs
open Sys2Proof.Machine

variable {s : State} {b n i r cid q a d : Nat} {P : State → Prop}

/-- What the rows on slabs reach. -/
def fpSlabs : List Grp := [.bays, .mem, .kw, .irq, .out]

theorem slab_keepSlabs (t : State) (k : Nat) : slab (keep fpSlabs s t) b k = slab t b k := rfl
theorem stream_keepSlabs (t : State) : stream (keep fpSlabs s t) b n = stream t b n := rfl
theorem slab_keepWork (t : State) (k : Nat) : slab (keep fpWork s t) b k = slab t b k := rfl

theorem answers_slabs {c : Instr} {f : State → State} (hp : s.start.powered = true) (hb : b < s.bays.count)
    (hc : exec c s = onUnit (decide (b < s.bays.count)) "bay" (run fpSlabs f s)) (hP : P (keep fpSlabs s (f s))) : Answers c s P := by
  rw [decide_eq_true hb, onUnit_true] at hc
  exact ⟨_, hc.trans (run_powered hp), hP⟩

/-- APPEND_COPY_DONE of a step whose records are clean (R178). -/
theorem answers_appendCopyDone {x : Batch} {k : Member} {m : Model} (hp : s.start.powered = true) (hb : b < s.bays.count)
    (hx : ((bay s b).strm.batches.find? fun x => x.committed && x.members.any fun k => k.strm == n && !k.masked && !k.appended) = some x)
    (hi : (x.members.findIdx? fun k => k.strm == n && !k.masked && !k.appended) = some i) (hk : x.members[i]? = some k) (hm : model? s b x.model = some m)
    (hlost : (stream s b n).state ≠ .lost) (hstep : x.kind = .step) (hbutt : x.buttress = false) (hr : rowAt s b n false (k.pos / 256) = some r)
    (hclean : ∀ l, l < m.layers → recPoisoned s b x m i l = false) :
    Answers (.appendCopyDone b n []) s fun t => (stream t b n).mLen = max (stream s b n).mLen (k.pos + 1) ∧ (stream t b n).root = (stream s b n).root ∧
      ∀ l, l < m.layers → (slab t b (r + l)).fill = max (slab s b (r + l)).fill (k.pos % 256 + 1) ∧ (slab t b (r + l)).loc = (slab s b (r + l)).loc := by
  obtain rfl := strm_of_findIdx hi hk
  refine answers_slabs (f := appendDone b k.strm []) hp hb rfl ?_
  rw [appendDone_member hx hi hk hm hlost]
  obtain ⟨hlen, hroot, hslab⟩ := appendMember_clean hstep hbutt hr hclean
  simp only [stream_keepSlabs, slab_keepSlabs]
  refine ⟨hlen, hroot, fun l hl => ?_⟩
  rw [hslab, if_pos (by omega)]
  exact ⟨rfl, rfl⟩

/-- WALK_PIECE_DELIVER of a piece the walker reads (R184). -/
theorem answers_delivers {c : Cmd} {w : Walk} {y : Batch} {m : Model} {p : Piece} (hp : s.start.powered = true) (h : Meets s b cid q a c w y m p) :
    let prod := tgetD a w.prod 0
    let bytes := pieceSlot s b m w p
    Answers (.walkPieceDeliver cid q none) s fun t => mread (ash t a).spad (w.ring + 64 + prod % max 1 w.slots * w.slotLines * 64) bytes.length = bytes ∧
      leNat (mread (ash t a).spad w.ring 8) = (prod + 1) % 2 ^ 64 ∧
      (prod = 0 → leNat (mread (ash t a).spad (w.ring + 16) 8) = (chunkPieces s b y w q a).length % 2 ^ 64) ∧
      (∃ n, (cmdD t cid).walk = some { w with prod := tput a (prod + 1) w.prod, pieces := tput a (chunkPieces s b y w q a) w.pieces, ahead := tput a n w.ahead }) ∧
      ∀ d, d ≠ a → ash t d = ash s d := by
  intro prod bytes
  obtain ⟨k, hgo⟩ := walkDeliver_read h
  obtain ⟨hcmds, hgrid⟩ := readPiece_leaves (b := b) (y := y) (m := m) (w := w) (p := p) (s := s)
  have hash : ∀ d, ash (readPiece b y m w p s) d = ash s d := fun d => by rw [ash, ash, hgrid]
  refine answers_run (f := walkDeliver cid q none) rfl hp ?_
  rw [hgo]
  simp only [ash_keepWork, cmdD_keepWork, ash_modAsh_same, ash_modCmd, hash]
  obtain ⟨hslot, hprod, htotal⟩ := deliver_spad (w := w) prod (chunkPieces s b y w q a).length bytes (ash s a)
  refine ⟨hslot, hprod, htotal, ⟨k, ?_⟩, fun d hd => ?_⟩
  · have hcmd : cmd? (readPiece b y m w p s) cid = some c := (cmd?_of_cmds hcmds cid).trans h.cmd
    rw [cmdD, cmd?, modAsh_cmds, ← cmd?, cmd?_modCmd_same, hcmd]
    rfl
  · rw [ash_modAsh_ne hd, ash_modCmd, hash]

/-- WALK_PIECE_DELIVER of a piece that cannot be read (R186, R187). -/
theorem answers_poisons {c : Cmd} {w : Walk} {y : Batch} {m : Model} {p : Piece} (hp : s.start.powered = true) (h : Meets s b cid q a c w y m p) (k : Nat) :
    Answers (.walkPieceDeliver cid q (some k)) s fun t => (cmdD t cid).st = .ready ∧ (slab t b p.slab).loc = .poisoned ∧ (slab t b p.slab).cause = k := by
  refine answers_run (f := walkDeliver cid q (some k)) rfl hp ?_
  obtain ⟨n, hgo⟩ := walkDeliver_failed h k
  obtain ⟨hst, hslab⟩ := walkPoison_spec h.cmd h.valid n k
  rw [hgo]
  simp only [cmdD_keepWork, slab_keepWork, hslab, hst, and_self]

/-- SLAB_MOVE_DONE of an intact move (R172). -/
theorem answers_moved (hp : s.start.powered = true) (hb : b < s.bays.count) (hd : (slab s b n).moving = some d) (hloc : (slab s b n).loc ≠ .free) :
    Answers (.slabMoveDone b n true) s fun t => (slab t b n).moving = none ∧ (slab t b n).vaPage = d / 4096 ∧ (slab t b n).spill = decide (d < kvBase) ∧
      (slab t b n).loc = (slab s b n).loc ∧ (slab t b n).fill = (slab s b n).fill ∧ ∀ j, j ≠ n → slab t b j = slab s b j := by
  refine answers_slabs (f := slabMoved b n true) hp hb rfl ?_
  simp only [slab_keepSlabs, slab_slabMoved_intact hd hloc, if_true, true_and]
  exact fun j hj => if_neg hj

/-- SLAB_MOVE_DONE of a move that is not intact (R172, R186, R423). -/
theorem answers_moveFailed (hp : s.start.powered = true) (hb : b < s.bays.count) (hd : (slab s b n).moving = some d) (hloc : (slab s b n).loc = .valid) :
    Answers (.slabMoveDone b n false) s fun t => (slab t b n).moving = none ∧
      (((slab t b n).loc = .poisoned ∧ (slab t b n).cause = (if (slab s b n).spill then 2 else 1)) ∨
        (d < kvBase ∧ (slab t b n).loc = .valid ∧ (slab t b n).vaPage = (slab s b n).vaPage)) := by
  refine answers_slabs (f := slabMoved b n false) hp hb rfl ?_
  simp only [slab_keepSlabs]
  rcases slab_slabMoved_failed hd hloc with hslab | ⟨hspill, hslab⟩ <;> rw [hslab]
  · exact ⟨rfl, .inl ⟨rfl, rfl⟩⟩
  · exact ⟨rfl, .inr ⟨hspill, hloc, rfl⟩⟩

/-- STREAM_LOST of an open stream (R190). -/
theorem answers_streamLost (hp : s.start.powered = true) (hb : b < s.bays.count) (hn : n < streamsPerBay s) (hfree : (stream s b n).state ≠ .free)
    (hlost : (stream s b n).state ≠ .lost) : Answers (.streamLost b n) s fun t => (stream t b n).state = .lost ∧
      t.mem.streamsLost = min 0xFFFF (s.mem.streamsLost + 1) ∧ (bay t b).ev.prod = ((bay s b).ev.prod + 1) % 2 ^ 32 := by
  have hunit : exec (.streamLost b n) s = run fpWork (memLost b n) s := by
    show onUnit (decide (b < s.bays.count) && decide (n < streamsPerBay s)) "stream" _ = _
    rw [decide_eq_true hb, decide_eq_true hn]
    rfl
  obtain ⟨hstate, hcount, hprod⟩ := lost_memLost hfree hlost
  exact answers_run hunit hp ⟨hstate, hcount, hprod⟩

/-- Settles O33: a step's appends, a piece delivered or poisoned, a move intact or not, and a stream that is lost, each by its row. -/
theorem streamsAndSlabs : Obligations.StreamsAndSlabs := by
  unfold Obligations.StreamsAndSlabs
  refine fun s b n hp hb => ⟨?_, ?_, fun d hd hloc => ⟨answers_moved hp hb hd hloc, answers_moveFailed hp hb hd⟩, answers_streamLost hp hb⟩
  · exact fun _ _ _ _ _ => answers_appendCopyDone hp hb
  · intro cid c q w a y m p hc hbay hw ha hst hcid hrun hy hm hj hp' hv he hah hroom
    have h : Meets s b cid q a c w y m p := ⟨hc.2.1, hbay, hw, ha, hst, hcid, hrun, hy, hm, hj, hp', hv, he, hah, hroom⟩
    exact ⟨answers_delivers hp h, answers_poisons hp h⟩

end Sys2Proof.Proofs
end

section
/-! SUPPORT. INVALIDATE of the translation of its own completion ring (R237, R393, R396). The statement that it completes with its entry driven
out where the ring's page has a translation fails: the command drops that translation first, and its entry waits for a new one. -/
namespace Sys2Proof.Proofs
open Sys2Proof.Machine

/-- An INVALIDATE of the cached host translations of the page at device address 0x1000. -/
def invalidateHostPage : Cmd :=
  { cid := 0, bay := 0, queue := 0, st := .waiting
    entry := padTo 64 (natLe 6 0x22 ++ [2] ++ List.replicate 17 0 ++ natLe 8 0x1000 ++ natLe 8 0x1000) }

/-- Its queue: the completion ring starts host page 4. -/
def ringInPage4 : Queue := { qflags := 2, wp := 1, fetch := 1, cqAddr := 0x4000 }

/-- Bay 0 with the INVALIDATE waiting. The device page it names maps host page 4, whose translation the bay has cached with read and write
permission. -/
def ringPageMapped : State :=
  { State.reset with
    cmds := { all := [(0, invalidateHostPage)], next := 1 }
    bays := { all := [(0, { st := .attached
                            eqi := { major := 3, minor := 4, queues := [(0, ringInPage4)] }
                            mem := { maps := [{ page := 1, pages := 1, perm := 3, tgt := .host 0x4000 }], atc := [(4, 3, 9)], atsEnable := true } })] } }

theorem leavesRing_ringPageMapped : leavesRing ringPageMapped 0 invalidateHostPage 0x22 := ⟨⟨⟨rfl, rfl, rfl⟩, by decide, by decide⟩, rfl, rfl, rfl⟩

/-- No command of the bay runs: its one command waits. -/
theorem waiting_ringPageMapped : ∀ d ∈ bayCmds ringPageMapped 0, d.st ≠ .running ∧ d.st ≠ .committing := by decide

/-- The INVALIDATE drives out one thing, the request for the translation of page 4. -/
theorem invalidate_ringPageMapped : ∃ t, exec (.invalidate 0) ringPageMapped = .next t ∧ t.out.log = [.translationRequest 1 4 none] :=
  ⟨_, rfl, by decide +kernel⟩

/-- Refutes O30: an INVALIDATE whose queue has a free slot in a completion ring with a cached host translation must drive its entry out, but
where the translation is one it drops, it asks for a new one instead. -/
theorem not_mapsOfABay : ¬ Obligations.MapsOfABay := by
  unfold Obligations.MapsOfABay
  intro h
  obtain ⟨-, -, -, -, -, -, invalidates⟩ := h ringPageMapped 0 invalidateHostPage
  obtain ⟨t, ht, ⟨-, completed⟩, -⟩ := invalidates leavesRing_ringPageMapped (by decide) rfl waiting_ringPageMapped (by decide)
  obtain ⟨-, -, -, -, driven⟩ := completed ringInPage4 rfl
  obtain ⟨e, -, entry⟩ := driven rfl rfl rfl rfl rfl (by decide) (by decide)
  obtain ⟨u, hu, asks⟩ := invalidate_ringPageMapped
  obtain rfl : u = t := Host.Outcome.next.inj (hu.symm.trans ht)
  rw [asks] at entry
  cases List.mem_singleton.mp entry

end Sys2Proof.Proofs
end

section
/-! SUPPORT. What the planner's moves, pins, windows and events leave of the memory side of every bay (R201 to R206, R210, R212, R214). -/
namespace Sys2Proof.Proofs
open Sys2Proof.Machine

variable {α β : Type} {view : BayMem → α} {s t u : State} {b : Nat}

/-! ## The frame -/

/-- The planner's footprint, with the number of bays, memory but for the count of conflicts, and what `view` sees of each bay as before. -/
structure Places (view : BayMem → α) (s t : State) : Prop where
  only : ChangesOnly [.bays, .mem, .boxes, .dev, .kw, .irq, .out] s t
  count : t.bays.count = s.bays.count
  mem : t.mem = { s.mem with conflRaised := t.mem.conflRaised }
  bays : ∀ b, view (bay t b).mem = view (bay s b).mem

theorem Places.refl : Places view s s := ⟨changesOnly_refl _ s, rfl, rfl, fun _ => rfl⟩
theorem Places.trans (h : Places view s t) (g : Places view t u) : Places view s u :=
  ⟨changesOnly_trans h.only g.only, g.count.trans h.count, by rw [g.mem, h.mem], fun b => (g.bays b).trans (h.bays b)⟩
theorem Places.foldl {f : State → β → State} (hf : ∀ t x, Places view t (f t x)) (l : List β) : Places view s (l.foldl f s) :=
  foldl_inv (Places view s) l f (fun t x h => h.trans (hf t x)) s .refl
theorem Places.each {f : β → State → State} (hf : ∀ x t, Places view t (f x t)) (l : List β) : Places view s (each l f s) :=
  each_inv (Places view s) l f (fun x t h => h.trans (hf x t)) s .refl

/-- Who sees less sees no more change. -/
theorem Places.weaken {γ : Type} {less : BayMem → γ} (h : Places view s t) (hv : ∀ m n, view m = view n → less m = less n) : Places less s t :=
  ⟨h.only, h.count, h.mem, fun b => hv _ _ (h.bays b)⟩

theorem Places.cmds (h : Places view s t) : t.cmds = s.cmds := (congrArg State.cmds h.only).symm
theorem Places.lift (h : Places view s t) : t.lift = s.lift := (congrArg State.lift h.only).symm
theorem Places.hw (h : Places view s t) : t.hw = s.hw := (congrArg State.hw h.only).symm

/-- What reaches neither memory nor the bays. -/
theorem places_of (only : ChangesOnly [.bays, .mem, .boxes, .dev, .kw, .irq, .out] s t := by rfl) (hm : t.mem = s.mem := by rfl)
    (hb : t.bays = s.bays := by rfl) : Places view s t :=
  ⟨only, by rw [hb], by rw [hm], fun b => by rw [bay, bay, hb]⟩

theorem places_fabric (h : FabricOnly s t) : Places view s t := places_of (by rw [h]; rfl) (by rw [h]) (by rw [h])

theorem places_modBay {f : Bay → Bay} (hf : view (f (bay s b)).mem = view (bay s b).mem) : Places view s (modBay b f s) where
  only := rfl
  count := rfl
  mem := rfl
  bays c := by
    rw [bay_modBay]
    split
    · next h => rw [hf, h]
    · rfl

theorem places_modBm {f : BayMem → BayMem} (hf : view (f (bay s b).mem) = view (bay s b).mem) : Places view s (modBm b f s) :=
  places_modBay (f := fun y => { y with mem := f y.mem }) hf

/-! ## Events and operations -/

theorem places_raise (n : Nat) : Places view s (raise n s) := places_fabric (by rw [raise_changes])
theorem places_mgrEvent (code h w x : Nat) : Places view s (mgrEvent code h w x s) := by
  rw [mgrEvent_changes]
  exact places_of
theorem places_bayEvent (code h w x : Nat) : Places view s (bayEvent b code h w x s) := by
  unfold bayEvent
  exact Places.trans (t := modBay b _ s) (places_modBay rfl) (places_raise _)
theorem places_pinEvent (byMgr : Bool) (code w x : Nat) : Places view s (pinEvent b byMgr code w x s) := by
  unfold pinEvent
  split
  · exact places_mgrEvent _ _ _ _
  · exact places_bayEvent _ _ _ _
theorem places_partyEvent (byMgr : Bool) (code h w x : Nat) : Places view s (partyEvent b byMgr code h w x s) := by
  unfold partyEvent
  split
  · exact places_mgrEvent _ _ _ _
  · exact places_bayEvent _ _ _ _
theorem places_opEnd (x i code : Nat) : Places view s (opEnd x i code s) := by
  rw [opEnd_changes]
  exact places_of
theorem places_conflict (end_ : Bool) (code loop limit : Nat) (byMgr : Bool) (handle detail : Nat) :
    Places view s (conflict end_ code loop limit b byMgr handle detail s) := by
  have hcount : Places view s (if end_ then s else { s with mem := { s.mem with conflRaised := satAdd 0xFFFF s.mem.conflRaised 1 } }) := by
    split
    · exact .refl
    · exact ⟨rfl, rfl, rfl, fun _ => rfl⟩
  exact hcount.trans (places_partyEvent _ _ _ _ _)

/-! ## Pins -/

/-- The memory side of a bay but for its pins. -/
def butPins (m : BayMem) : BayMem := { m with pins := [] }

theorem places_modPin (h : Nat) (byMgr : Bool) (f : Pin → Pin) : Places butPins s (modPin b h byMgr f s) :=
  places_modBm (f := fun m => { m with pins := modFirst (fun p => p.handle == h && p.byMgr == byMgr) f m.pins }) rfl

theorem places_settlePins : Places butPins s (settlePins b s) := by
  refine .foldl (fun t p => ?_) _
  split
  · exact .refl
  · exact (places_modPin _ _ _).trans (places_pinEvent _ _ _ _)

theorem places_pinConflicts : Places butPins s (pinConflicts b s) := by
  refine .each (fun p t => ?_) _
  extract_lets now
  split
  · exact .refl
  · exact (places_modPin _ _ _).trans (places_conflict _ _ _ _ _ _ _)

theorem places_endPins (w : Nat) : Places butPins s (endPins b w s) := by
  refine .each (fun p t => ?_) _
  split
  · exact .refl
  · exact Places.trans (places_modBm rfl) (places_pinEvent _ _ _ _)

/-- What hangs on the rest of a bay's memory side is as before. -/
theorem Places.ofPins (h : Places butPins s t) (hv : ∀ m : BayMem, view (butPins m) = view m) : Places view s t :=
  h.weaken fun m n e => by rw [← hv m, ← hv n, e]

/-! ## Windows -/

/-- One window of `windowsEmptied`. -/
def windowEmptied (b : Nat) (t : State) (e : Nat × BackWin) : State :=
  match e.2.removing with
  | none => t
  | some o =>
    let t := endPins b e.1 t
    if (bay t b).mem.extents.any fun x => inWindow e.1 x.2 then t
    else opEnd o.1 o.2 0 (modBm b (fun m => { m with windows := tdrop e.1 m.windows }) t)

theorem windowsEmptied_eq : windowsEmptied b s = (bay s b).mem.windows.foldl (windowEmptied b) s := rfl

theorem places_windowEmptied (e : Nat × BackWin) : Places BayMem.extents s (windowEmptied b s e) := by
  unfold windowEmptied
  split
  · exact .refl
  extract_lets t
  have ht : Places BayMem.extents s t := (places_endPins _).ofPins fun _ => rfl
  split
  · exact ht
  · exact (ht.trans (places_modBm rfl)).trans (places_opEnd _ _ _)

theorem places_windowsEmptied : Places BayMem.extents s (windowsEmptied b s) := .foldl (fun _ => places_windowEmptied) _

/-! ## Moves that begin (R202, R206) -/

/-- An extent but for its move. -/
def still (x : Extent) : Extent := { x with move := none }

/-- The extents of a bay but for their moves. -/
def stills (m : BayMem) (e : Nat) : Option Extent := (tget e m.extents).map still

theorem Places.extent? (h : Places stills s t) (b e : Nat) : (extent? t b e).map still = (extent? s b e).map still := congrFun (h.bays b) e

theorem fabric_askWin (k n : Nat) : FabricOnly s (askWin k n s) := by
  unfold askWin
  split
  · exact ownJob_fabric _ _
  · rfl

theorem fabric_ownCopy (src dst : Home) (off n : Nat) : FabricOnly s (ownCopy b src dst off n s) := by
  unfold ownCopy
  extract_lets t
  have ht : FabricOnly s t := by
    dsimp only [t]
    split
    · exact fabric_askWin _ _
    · rfl
  split
  · exact ht
  split
  · exact ht
  · exact ht.trans (ownJob_fabric _ _)

theorem places_startMove (e : Nat) (dst : Home) : Places stills s (startMove b e dst s) := by
  unfold startMove
  split
  · exact .refl
  next x hx =>
  refine Places.trans (places_modBm ?_) (places_fabric (fabric_ownCopy _ _ _ _))
  funext k
  simp only [stills, tget_tput]
  split
  · next h => rw [h, show tget e (bay s b).mem.extents = some x from hx]; rfl
  · rfl

theorem places_moveIf (c : Bool) (e : Nat) (dst : Home) : Places stills s (if c then startMove b e dst s else s) := by
  split
  · exact places_startMove _ _
  · exact .refl

/-- One extent takes the place another leaves. -/
theorem places_swap (e f : Nat) (h k : Home) : Places stills s (startMove b e h (startMove b f k s)) :=
  Places.trans (t := startMove b f k s) (places_startMove f k) (places_startMove e h)

theorem places_swapIf (c : Bool) (e f : Nat) (h k : Home) : Places stills s (if c then startMove b e h (startMove b f k s) else s) := by
  split
  · exact places_swap _ _ _ _
  · exact .refl

/-- The same, with whether the epoch's moves go on. -/
theorem places_swapOn (c : Bool) (e f : Nat) (h k : Home) :
    Places stills s (if c then (true, startMove b e h (startMove b f k s)) else (false, s)).2 := by
  split
  · exact places_swap _ _ _ _
  · exact .refl

theorem places_evacStart (w : Nat) : Places stills s (evacStart b w s) := by
  refine .each (fun e t => ?_) _
  split
  · exact places_moveIf _ _ _
  · exact .refl

theorem places_retryEvac : Places stills s (retryEvac b s) := by
  refine .each (fun k t => ?_) _
  split
  · exact .refl
  split
  · exact places_evacStart _
  · exact Places.trans (places_modBm rfl) (places_opEnd _ _ _)

theorem places_moveIn_eq (x : Nat × Extent) (need : Nat → Bool) (any : Bool) : ∀ r, moveIn b x need any s = r → Places stills s r.2 := by
  obtain ⟨f, hf⟩ : ∃ f, f = @moveIn := ⟨_, rfl⟩
  rw [← hf]
  delta moveIn at hf
  rw [hf]
  beta_reduce
  split
  · split <;> rintro _ rfl
    · exact places_startMove _ _
    · exact .refl
  · split
    · rintro _ rfl
      exact places_swapOn _ _ _ _ _
    · rintro _ rfl
      exact .refl

theorem places_moveIn (x : Nat × Extent) (need : Nat → Bool) (any : Bool) : Places stills s (moveIn b x need any s).2 :=
  places_moveIn_eq x need any _ rfl

theorem places_displaceWin (w : Nat) (e : Nat × Extent) : Places stills s (displaceWin b w e s) := by
  unfold displaceWin
  extract_lets l
  split
  · exact .refl
  split
  · exact places_swapIf _ _ _ _ _
  · exact .refl

theorem places_movePinned : Places stills s (movePinned b s) := by
  refine .foldl (fun t e => ?_) _
  obtain ⟨u, hu⟩ : ∃ u, u = (moveIn b e (fun _ => true) true t).2 := ⟨_, rfl⟩
  have hin : Places stills t u := hu ▸ places_moveIn _ _ _
  rw [← hu]
  split
  · exact .refl
  split
  · exact .refl
  split
  · exact hin
  · split
    · exact places_moveIf _ _ _
    · exact places_displaceWin _ _

theorem places_moveHot : Places stills s (moveHot b s) := by
  unfold moveHot
  extract_lets l
  generalize byHeat s b l.length l = hot
  have hrun : ∀ p : Bool × State, Places stills s p.2 → Places stills s (hot.foldl (fun (p : Bool × State) x =>
      if !p.1 then p else moveIn b x (fun h => decide (4 * h + 2 ^ 20 ≤ planHeat x)) false p.2) p).2 := by
    induction hot with
    | nil => exact fun _ h => h
    | cons x hot ih =>
      refine fun p h => ih _ ?_
      dsimp only
      split
      · exact h
      · exact h.trans (places_moveIn _ _ _)
  exact hrun (true, s) .refl

end Sys2Proof.Proofs
end

section
/-! SUPPORT. EPOCH_BOUNDARY (R201, R206): every extent of every bay cools, and none changes its home. -/
namespace Sys2Proof.Proofs
open Sys2Proof.Machine

variable {s t : State} {b c e n : Nat}

/-- An extent at the start of an epoch (R201): its accesses are folded into its heat. -/
def cooled (hot : Bool) (x : Extent) : Extent :=
  { x with heat := 64 * (x.rd + x.wr) + x.heat / 2, boost := if hot then 2 ^ 21 else 0, rd := 0, wr := 0 }

theorem extent?_coolBay : extent? (coolBay b s) c e = if c = b then (extent? s b e).map (cooled (declaredHot s b e)) else extent? s c e := by
  split
  · next h =>
    rw [h, extent?, coolBay, bay_modBm_same]
    exact tget_tmap e (fun i => cooled (declaredHot s b i)) (bay s b).mem.extents
  · next h => rw [extent?, coolBay, bay_modBm_ne h, ← extent?]

theorem declaredHot_congr (h : t.cmds = s.cmds) (b e : Nat) : declaredHot t b e = declaredHot s b e := by simp only [declaredHot, bayCmds, h]

/-- The first `n` bays have cooled since `s`, and nothing else has happened to the extents but moves that began. -/
structure CooledTo (n : Nat) (s t : State) : Prop where
  places : Places (fun _ => ()) s t
  extents : ∀ b e, (extent? t b e).map still = (extent? s b e).map fun x => still (if b < n then cooled (declaredHot s b e) x else x)

theorem places_epochBay : Places stills (coolBay b s) (epochBay b s) := by
  unfold epochBay
  extract_lets t
  have ht : Places stills (coolBay b s) t := places_pinConflicts.ofPins fun _ => rfl
  split
  · exact ht
  · exact ((ht.trans places_retryEvac).trans places_movePinned).trans places_moveHot

theorem CooledTo.epochBay (h : CooledTo n s t) : CooledTo (n + 1) s (epochBay n t) where
  places := (h.places.trans (places_modBm rfl)).trans (places_epochBay.weaken fun _ _ _ => rfl)
  extents b e := by
    rw [places_epochBay.extent?, extent?_coolBay]
    split
    · next hb =>
      have hcomm : ∀ hot x, still (cooled hot x) = cooled hot (still x) := fun _ _ => rfl
      rw [declaredHot_congr h.places.cmds, hb, Option.map_map, show still ∘ cooled (declaredHot s n e) = cooled (declaredHot s n e) ∘ still from
        funext (hcomm _), ← Option.map_map, h.extents, Option.map_map]
      congr 1
      funext x
      simp only [Function.comp_apply, Nat.lt_irrefl, if_false, Nat.lt_succ_self, if_true, hcomm]
    · next hb =>
      rw [h.extents]
      simp only [Nat.lt_succ_iff, Nat.lt_iff_le_and_ne, ne_eq, hb, not_false_eq_true, and_true]

theorem cooledTo_epochBays (n : Nat) (s : State) : CooledTo n s (each (List.range n) Machine.epochBay s) := by
  induction n with
  | zero => exact ⟨.refl, fun b e => by simp [each]⟩
  | succ n ih =>
    have hlast : each (List.range (n + 1)) Machine.epochBay s = Machine.epochBay n (each (List.range n) Machine.epochBay s) := by
      simp only [each, List.range_succ, List.foldl_append, List.foldl_cons, List.foldl_nil]
    rw [hlast]
    exact ih.epochBay

/-- What EPOCH_BOUNDARY leaves of an extent. -/
theorem CooledTo.extent (h : CooledTo n s t) (hb : b < n) {x : Extent} (hx : extent? s b e = some x) :
    ∃ y, extent? t b e = some y ∧ y.heat = 64 * (x.rd + x.wr) + x.heat / 2 ∧ y.boost = (if declaredHot s b e then 2 ^ 21 else 0) ∧
      y.rd = 0 ∧ y.wr = 0 ∧ y.home = x.home ∧ y.perm = x.perm := by
  have hmap := h.extents b e
  rw [hx, Option.map_some, if_pos hb] at hmap
  obtain ⟨y, hy, heq⟩ := Option.map_eq_some_iff.mp hmap
  have hhome : (still y).home = x.home := heq ▸ rfl
  have hperm : (still y).perm = x.perm := heq ▸ rfl
  exact ⟨y, hy, congrArg Extent.heat heq, congrArg Extent.boost heq, congrArg Extent.rd heq, congrArg Extent.wr heq, hhome, hperm⟩

theorem extent?_keep {fp : List Grp} (h : .bays ∈ fp) : extent? (keep fp s t) b e = extent? t b e := by simp only [extent?, bay, keep_bays, if_pos h]

/-- The state at an epoch boundary that is being served. -/
def servesEpoch (s : State) : State := { s with mem := { s.mem with epochAt := some s.lift.num } }

/-- The groups EPOCH_BOUNDARY reaches. -/
def fpEpoch : List Grp := [.bays, .mem, .boxes, .dev, .kw, .irq, .out]

theorem exec_epochBoundary (hp : s.start.powered = true) (hs : s.lift.serving = true) (hn : s.lift.num % 16 = 0) (he : s.mem.epochAt ≠ some s.lift.num) :
    exec .epochBoundary s = .next (keep fpEpoch s (each (List.range s.bays.count) epochBay (servesEpoch s))) := by
  refine (run_powered hp).trans ?_
  rw [onlyIf_true (by simp [hs, hn, he])]
  rfl

theorem exec_epochBoundary_idle (hp : s.start.powered = true) (h : s.lift.serving = false ∨ s.lift.num % 16 ≠ 0 ∨ s.mem.epochAt = some s.lift.num) :
    exec .epochBoundary s = .next s := by
  refine (run_powered hp).trans ?_
  rw [onlyIf, if_neg, keep_self]
  rcases h with h | h | h <;> simp [h]

theorem answers_epochBoundary (hp : s.start.powered = true) (hs : s.lift.serving = true) (hn : s.lift.num % 16 = 0) (he : s.mem.epochAt ≠ some s.lift.num) :
    Answers .epochBoundary s fun t => t.mem.epochAt = some s.lift.num ∧ ∀ b e x, b < s.bays.count → extent? s b e = some x →
      ∃ y, extent? t b e = some y ∧ y.heat = 64 * (x.rd + x.wr) + x.heat / 2 ∧ y.boost = (if declaredHot s b e then 2 ^ 21 else 0) ∧
        y.rd = 0 ∧ y.wr = 0 ∧ y.home = x.home ∧ y.perm = x.perm := by
  have hcool := cooledTo_epochBays s.bays.count (servesEpoch s)
  refine ⟨_, exec_epochBoundary hp hs hn he, ?_, fun b e x hb hx => ?_⟩
  · rw [keep_mem, if_pos (by decide), hcool.places.mem]
    rfl
  · rw [extent?_keep (by decide)]
    exact hcool.extent hb hx

end Sys2Proof.Proofs
end

section
/-! SUPPORT. MOVE_COPY_DONE (R202, R204): a round of a move that advances it, leaves it or abandons it. -/
namespace Sys2Proof.Proofs
open Sys2Proof.Machine

variable {s t : State} {b e : Nat} {x : Extent} {v : Move} {dirty : List Nat} {err : Bool}

/-- An extent of a bay that is changed. -/
theorem bay_modExtent (h : extent? s b e = some x) (f : Extent → Extent) :
    bay (modExtent b e f s) b = { bay s b with mem := { (bay s b).mem with extents := tput e (f x) (bay s b).mem.extents } } := by
  rw [modExtent, h]
  exact bay_modBm_same _ _ _

theorem extent?_modExtent (h : extent? s b e = some x) (f : Extent → Extent) : extent? (modExtent b e f s) b e = some (f x) := by
  rw [extent?, bay_modExtent h]
  exact tget_tput_same _ _ _

theorem mem_tput {α : Type} {k : Nat} {v : α} {l : Tbl α} {p : Nat × α} (h : p ∈ tput k v l) : p = (k, v) ∨ p ∈ l := by
  induction l with
  | nil => exact .inl (List.mem_singleton.mp h)
  | cons a l ih =>
    obtain ⟨j, w⟩ := a
    unfold tput at h
    split at h
    · rcases List.mem_cons.mp h with h | h
      · exact .inr (h ▸ List.mem_cons_self)
      · exact (ih h).imp_right (List.mem_cons_of_mem _)
    split at h
    · exact (List.mem_cons.mp h).imp_right (List.mem_cons_of_mem _)
    · exact List.mem_cons.mp h

/-! ## A move is abandoned (R204) -/

theorem bays_zeroHome (h : Home) : (zeroHome b h s).bays = s.bays := by
  unfold zeroHome
  split <;> rfl

theorem abandoned_zeroHome (h : Home) : (zeroHome b h s).mem.abandoned = s.mem.abandoned := by
  unfold zeroHome
  split <;> rfl

/-- A move is over, counted among the abandoned ones. -/
def moveOver (b e : Nat) (s : State) : State :=
  let t := modExtent b e (fun x => { x with move := none, noMoveUntil := epoch s + 16 }) s
  { t with mem := { t.mem with abandoned := satAdd 0xFFFF t.mem.abandoned 1 } }

/-- A move that no other hangs on is over by itself; its destination is zeroed unless another extent has it. -/
theorem abandonMove_alone (hx : extent? s b e = some x) (hv : x.move = some v)
    (halone : ∀ k ∈ (bay s b).mem.extents, k.1 ≠ e → ∀ m, k.2.move = some m → m.dst ≠ x.home) :
    abandonMove b e s = moveOver b e s ∨ abandonMove b e s = zeroHome b v.dst (moveOver b e s) := by
  have hnone : ((bay (moveOver b e s) b).mem.extents.filter fun k => k.1 != e && (k.2.move.any fun m => m.dst == x.home)) = [] := by
    refine List.filter_eq_nil_iff.mpr fun k hk => ?_
    replace hk : k ∈ (bay (modExtent b e _ s) b).mem.extents := hk
    rw [bay_modExtent hx] at hk
    rcases mem_tput hk with rfl | hk
    · simp
    · have := halone k hk
      cases hm : k.2.move with
      | none => simp
      | some m =>
        by_cases hke : k.1 = e
        · simp [hke]
        · simp [this hke m hm]
  unfold abandonMove
  rw [hx]
  dsimp only
  rw [hv]
  dsimp only
  rw [← moveOver, hnone]
  split
  · exact .inl rfl
  · exact .inr rfl

theorem abandons_alone (hx : extent? s b e = some x) (hv : x.move = some v)
    (halone : ∀ k ∈ (bay s b).mem.extents, k.1 ≠ e → ∀ m, k.2.move = some m → m.dst ≠ x.home) :
    extent? (abandonMove b e s) b e = some { x with move := none, noMoveUntil := epoch s + 16 } ∧
      (abandonMove b e s).mem.abandoned = min 0xFFFF (s.mem.abandoned + 1) := by
  have hover : extent? (moveOver b e s) b e = some { x with move := none, noMoveUntil := epoch s + 16 } := extent?_modExtent hx _
  have hcount : (moveOver b e s).mem.abandoned = min 0xFFFF (s.mem.abandoned + 1) := by simp [moveOver, satAdd]
  rcases abandonMove_alone hx hv halone with h | h <;> rw [h]
  · exact ⟨hover, hcount⟩
  · rw [extent?, bay, bays_zeroHome, abandoned_zeroHome]
    exact ⟨hover, hcount⟩

/-! ## A round ends (R202) -/

/-- Whether a move has a round of copying to end. -/
def copyDue (v : Move) : Bool := v.round == 0 || (decide (v.round ≤ 3) && !(unsettled v).isEmpty) || decide (8 < (unsettled v).length)

theorem copyDue_iff : copyDue v = true ↔ v.round = 0 ∨ (v.round ≤ 3 ∧ unsettled v ≠ []) ∨ 8 < (unsettled v).length := by
  simp only [copyDue, Bool.or_eq_true, Bool.and_eq_true, beq_iff_eq, decide_eq_true_eq, Bool.not_eq_true', List.isEmpty_eq_false_iff, or_assoc]

theorem exec_moveCopyDone (hp : s.start.powered = true) (hb : b < s.bays.count) (hx : extent? s b e = some x) (hv : x.move = some v) :
    exec (.moveCopyDone b e dirty err) s = .next (keep [.bays, .mem, .kw, .irq, .out] s (if copyDue v then copyDone b e dirty err s else s)) := by
  show onUnit _ _ _ = _
  rw [decide_eq_true hb, onUnit_true, run_powered hp, onlyIf, hx, Option.bind_some, hv]
  rfl

theorem copyDone_stopped (hmay : mayMove s b = false) : copyDone b e dirty err s = s := by
  unfold copyDone
  split
  · rfl
  · rw [if_pos (by rw [hmay]; rfl)]

theorem copyDone_abandons (hx : extent? s b e = some x) (hv : x.move = some v) (hmay : mayMove s b = true)
    (h : err = true ∨ (3 ≤ v.round ∧ 8 < (recordedNow v dirty).length)) : copyDone b e dirty err s = abandonMove b e s := by
  unfold copyDone
  rw [hx, Option.bind_some, hv]
  dsimp only
  rw [hmay]
  rcases h with rfl | h
  · rfl
  · cases err with
    | true => rfl
    | false => exact if_pos h

/-- The move of an extent after a round. -/
def roundDone (v : Move) (dirty : List Nat) (x : Extent) : Extent :=
  { x with move := some { v with round := v.round + 1, recorded := recordedNow v dirty, written := [] } }

theorem copyDone_advances (hx : extent? s b e = some x) (hv : x.move = some v) (hmay : mayMove s b = true)
    (h : 3 ≤ v.round → (recordedNow v dirty).length ≤ 8) : FabricOnly (modExtent b e (roundDone v dirty) s) (copyDone b e dirty false s) := by
  unfold copyDone
  rw [hx, Option.bind_some, hv]
  dsimp only
  rw [hmay, if_neg (by decide), if_neg (by decide), if_neg fun ⟨hr, hl⟩ => Nat.not_lt.mpr (h hr) hl]
  split
  · rfl
  · exact .foldl _ _ (fun _ _ => fabric_ownCopy _ _ _ _) _

theorem answers_copyAdvances (hp : s.start.powered = true) (hb : b < s.bays.count) (hx : extent? s b e = some x) (hv : x.move = some v)
    (hmay : mayMove s b = true) (hdue : copyDue v = true) (h : 3 ≤ v.round → (recordedNow v dirty).length ≤ 8) :
    Answers (.moveCopyDone b e dirty false) s fun t => extent? t b e = some (roundDone v dirty x) ∧ t.mem = s.mem := by
  have hcopy := copyDone_advances hx hv hmay h
  refine ⟨_, exec_moveCopyDone hp hb hx hv, ?_, ?_⟩
  · rw [extent?_keep (by decide), if_pos hdue, extent?, hcopy, ← extent?_modExtent hx]
    rfl
  · rw [keep_mem, if_pos (by decide), if_pos hdue, hcopy, modExtent_mem]

theorem answers_copyAbandons (hp : s.start.powered = true) (hb : b < s.bays.count) (hx : extent? s b e = some x) (hv : x.move = some v)
    (hmay : mayMove s b = true) (hdue : copyDue v = true) (h : err = true ∨ (3 ≤ v.round ∧ 8 < (recordedNow v dirty).length))
    (halone : ∀ k ∈ (bay s b).mem.extents, k.1 ≠ e → ∀ m, k.2.move = some m → m.dst ≠ x.home) :
    Answers (.moveCopyDone b e dirty err) s fun t => extent? t b e = some { x with move := none, noMoveUntil := epoch s + 16 } ∧
      t.mem.abandoned = min 0xFFFF (s.mem.abandoned + 1) := by
  obtain ⟨hextent, hcount⟩ := abandons_alone hx hv halone
  refine ⟨_, exec_moveCopyDone hp hb hx hv, ?_, ?_⟩
  · rw [extent?_keep (by decide), if_pos hdue, copyDone_abandons hx hv hmay h, hextent]
  · rw [keep_mem, if_pos (by decide), if_pos hdue, copyDone_abandons hx hv hmay h, hcount]

theorem exec_moveCopyDone_idle (hp : s.start.powered = true) (hb : b < s.bays.count) (hx : extent? s b e = some x) (hv : x.move = some v)
    (h : mayMove s b = false ∨ copyDue v = false) : exec (.moveCopyDone b e dirty err) s = .next s := by
  rw [exec_moveCopyDone hp hb hx hv]
  rcases h with h | h
  · rw [copyDone_stopped h, ite_self, keep_self]
  · rw [if_neg (by rw [h]; decide), keep_self]

end Sys2Proof.Proofs
end

section
/-! SUPPORT. Byte memories pasted over one another (R203): what a byte of the copy and of the rest is. -/
namespace Sys2Proof.Proofs
open Sys2Proof.Machine

theorem mget_mzero (a n : Nat) (m : Mem) (c : Nat) : mget (mzero a n m) c = if a ≤ c ∧ c < a + n then 0 else mget m c := by
  have hget : tget c (mzero a n m) = _ := tget_filterKeys (fun k => !(decide (a ≤ k) && decide (k < a + n))) c m
  rw [mget, tgetD, hget]
  by_cases hc : a ≤ c ∧ c < a + n
  · simp [hc]
  · rw [if_neg hc, if_pos (by simp only [Bool.not_eq_true', Bool.and_eq_false_iff, decide_eq_false_iff_not]; omega)]
    rfl

/-- The cells of a run, each moved with it. -/
theorem tget_mslice (m : Mem) (a n b c : Nat) : tget c (mslice m a n b) = if b ≤ c ∧ c < b + n then tget (c - b + a) m else none := by
  induction m with
  | nil => simp [mslice]
  | cons p m ih =>
    obtain ⟨j, v⟩ := p
    unfold mslice at ih ⊢
    rw [List.filter_cons]
    by_cases hj : a ≤ j ∧ j < a + n
    · rw [if_pos (by simpa using hj), List.map_cons, tget_cons, tget_cons, ih]
      by_cases hc : b ≤ c ∧ c < b + n
      · rw [if_pos hc, if_pos hc]
        exact if_congr (by omega) rfl rfl
      · rw [if_neg hc, if_neg hc, if_neg (by omega)]
    · rw [if_neg (by simpa using hj), ih, tget_cons]
      split
      · rw [if_neg (by omega)]
      · rfl

/-- The cells of a memory in canonical form rise. -/
theorem pairwise_of_wf {m : Mem} (h : Memory.wf m = true) : m.Pairwise fun p q => p.1 < q.1 := by
  induction m with
  | nil => exact .nil
  | cons p m ih =>
    obtain ⟨a, v⟩ := p
    rw [wf_cons, Bool.and_eq_true, Bool.and_eq_true] at h
    have hm := ih h.2
    refine .cons (fun q hq => ?_) hm
    cases m with
    | nil => cases hq
    | cons r m =>
      obtain ⟨c, w⟩ := r
      have hac : a < c := by simpa [above] using h.1.2
      rcases List.mem_cons.mp hq with rfl | hq
      · exact hac
      · exact Nat.lt_trans hac (List.rel_of_pairwise_cons hm hq)

theorem pairwise_mslice {m : Mem} (h : Memory.wf m = true) (a n b : Nat) : (mslice m a n b).Pairwise fun p q => p.1 < q.1 := by
  refine List.pairwise_map.mpr (((pairwise_of_wf h).filter _).imp_of_mem fun hp hq hlt => ?_)
  have hp := (List.mem_filter.mp hp).2
  have hq := (List.mem_filter.mp hq).2
  simp only [Bool.and_eq_true, decide_eq_true_eq] at hp hq
  omega

/-- Cells put one by one, none twice. -/
theorem mget_foldl_mput {l : Mem} (h : l.Pairwise fun p q => p.1 < q.1) (m : Mem) (c : Nat) :
    mget (l.foldl (fun m e => mput e.1 e.2 m) m) c = tgetD c l (mget m c) := by
  induction l generalizing m with
  | nil => rfl
  | cons p l ih =>
    obtain ⟨a, v⟩ := p
    obtain ⟨hlt, hl⟩ := List.pairwise_cons.mp h
    rw [List.foldl_cons, ih hl, tgetD, tgetD, tget_cons]
    by_cases hc : a = c
    · have hnone : tget c l = none := by
        clear ih h hl
        induction l with
        | nil => rfl
        | cons q l ih =>
          obtain ⟨j, w⟩ := q
          rw [tget_cons, if_neg (by have := hlt _ List.mem_cons_self; dsimp only at this; omega)]
          exact ih fun q hq => hlt q (List.mem_cons_of_mem _ hq)
      rw [if_pos hc, hnone, ← hc]
      simp
    · rw [if_neg hc, mget_mput_ne (Ne.symm hc)]

/-- A byte of a run copied over another. -/
theorem mget_mpaste_mslice {m : Mem} (h : Memory.wf m = true) (z : Mem) (a b n k : Nat) (hk : k < n) :
    mget (mpaste b n (mslice m a n b) z) (b + k) = mget m (a + k) := by
  have hin : tget (b + k) ((mslice m a n b).filter fun e => decide (b ≤ e.1) && decide (e.1 < b + n)) = tget (a + k) m := by
    rw [tget_filterKeys (fun j => decide (b ≤ j) && decide (j < b + n)), if_pos (by simpa using hk), tget_mslice, if_pos (by omega)]
    congr 1
    omega
  rw [mpaste, mget_foldl_mput ((pairwise_mslice h a n b).filter _), tgetD, hin, mget_mzero, if_pos (by omega)]
  rfl

end Sys2Proof.Proofs
end

section
/-! SUPPORT. MOVE_SWITCH (R203): the contents are at the new home and the old frame is zero. -/
namespace Sys2Proof.Proofs
open Sys2Proof.Machine

variable {s t : State} {b e f g : Nat} {x : Extent} {v : Move}

/-- An extent at its new home. -/
def movedTo (v : Move) (now : Nat) (x : Extent) : Extent := { x with home := v.dst, move := none, lastMove := some now }

/-- The switch step up to the pins and windows that it settles. -/
def swapHomes (b e : Nat) (x : Extent) (v : Move) (s : State) : State :=
  let t := modExtent b e (movedTo v (epoch s)) (copyHome b x.home v.dst s)
  let t := modBm b (fun m => { m with pins := m.pins.map fun p => if pinHas e p && leavesWin s b x p then { p with movedOut := p.movedOut + 1 } else p }) t
  zeroHome b x.home { t with mem := { t.mem with moved := satAdd 0xFFFF t.mem.moved 1 } }

theorem switchStep_eq : switchStep b e x v s = windowsEmptied b (settlePins b (swapHomes b e x v s)) := rfl

theorem places_switchStep : Places BayMem.extents (swapHomes b e x v s) (switchStep b e x v s) :=
  switchStep_eq ▸ (places_settlePins.ofPins fun _ => rfl).trans places_windowsEmptied

theorem copyHome_changes (src dst : Home) : copyHome b src dst s = { s with mem := (copyHome b src dst s).mem } := by
  unfold copyHome
  split <;> rfl

theorem count_modExtent (f : Extent → Extent) : (modExtent b e f s).bays.count = s.bays.count := by
  unfold modExtent
  split <;> rfl

/-- Frames lie where the geometry of the block and the number of bays put them (R314, R382). -/
theorem physOf_congr (hhw : t.hw = s.hw) (hcount : t.bays.count = s.bays.count) (b f off : Nat) : physOf t b f off = physOf s b f off := by
  have hF : isF t = isF s := by rw [isF, isF, hhw]
  have htop : physTop t = physTop s := by rw [physTop, physTop, installedGib, installedGib, hbmPorts, hbmPorts, hF, hhw]
  have hreserved : reservedBytes t = reservedBytes s := by rw [reservedBytes, reservedBytes, hF]
  rw [physOf, physOf, shareBytes, shareBytes, shareExtents, shareExtents, htop, hreserved, hcount]

theorem moved_copyHome (src dst : Home) : (copyHome b src dst s).mem.moved = s.mem.moved := by
  unfold copyHome
  split <;> rfl

theorem moved_zeroHome (h : Home) : (zeroHome b h s).mem.moved = s.mem.moved := by
  unfold zeroHome
  split <;> rfl

theorem extent?_swapHomes (hx : extent? s b e = some x) : extent? (swapHomes b e x v s) b e = some (movedTo v (epoch s) x) := by
  have hcopy : extent? (copyHome b x.home v.dst s) b e = some x := by rw [copyHome_changes]; exact hx
  unfold swapHomes
  extract_lets t u
  have hu : extent? u b e = extent? t b e := by rw [extent?, bay_modBm_same, extent?]
  rw [extent?, bay, bays_zeroHome]
  exact hu.trans (extent?_modExtent hcopy _)

theorem moved_swapHomes : (swapHomes b e x v s).mem.moved = min 0xFFFF (s.mem.moved + 1) := by
  unfold swapHomes
  simp only [moved_zeroHome, modBm_mem, modExtent_mem, moved_copyHome, satAdd]

/-- Frame `f` copied over frame `g` and zeroed. -/
theorem hbm_swapHomes (hf : x.home = .hbm f) (hg : v.dst = .hbm g) : (swapHomes b e x v s).mem.hbm =
    mzero (physOf s b f 0) (2 ^ 21) (mpaste (physOf s b g 0) (2 ^ 21) (mslice s.mem.hbm (physOf s b f 0) (2 ^ 21) (physOf s b g 0)) s.mem.hbm) := by
  unfold swapHomes
  extract_lets t u
  have hcopy : t.mem.hbm = mpaste (physOf s b g 0) (2 ^ 21) (mslice s.mem.hbm (physOf s b f 0) (2 ^ 21) (physOf s b g 0)) s.mem.hbm := by
    rw [modExtent_mem, hf, hg]
    rfl
  have hhw : u.hw = s.hw := by rw [modBm_hw, modExtent_hw, copyHome_changes]
  have hcount : u.bays.count = s.bays.count := by
    show t.bays.count = _
    rw [count_modExtent, copyHome_changes]
  rw [hf, ← hcopy, ← physOf_congr hhw hcount]
  rfl

theorem physOf_add (s : State) (b f k : Nat) : physOf s b f k = physOf s b f 0 + k := by rw [physOf, physOf, Nat.add_zero]

/-- The contents go from frame to frame. -/
theorem contents_swapHomes (hf : x.home = .hbm f) (hg : v.dst = .hbm g) (hne : f ≠ g) (hwf : Memory.wf s.mem.hbm = true) {k : Nat} (hk : k < 2 ^ 21) :
    mget (swapHomes b e x v s).mem.hbm (physOf s b g k) = mget s.mem.hbm (physOf s b f k) ∧ mget (swapHomes b e x v s).mem.hbm (physOf s b f k) = 0 := by
  rw [hbm_swapHomes hf hg, mget_mzero, mget_mzero, physOf_add s b g k, physOf_add s b f k]
  constructor
  · rw [if_neg (by simp only [physOf]; omega), mget_mpaste_mslice hwf _ _ _ _ _ hk]
  · rw [if_pos (by omega)]

theorem exec_moveSwitch_stays (hp : s.start.powered = true) (hb : b < s.bays.count) (hx : extent? s b e = some x) (hv : x.move = some v)
    (hmay : maySwitch s b e x v = false) : exec (.moveSwitch b e) s = .next s := by
  show onUnit _ _ _ = _
  rw [decide_eq_true hb, onUnit_true, run_powered hp, hx]
  dsimp only
  rw [hv]
  dsimp only
  rw [hmay]
  exact congrArg _ (keep_self _ _)

theorem exec_moveSwitch_goes (hp : s.start.powered = true) (hb : b < s.bays.count) (hx : extent? s b e = some x) (hv : x.move = some v)
    (hmay : maySwitch s b e x v = true) (hclean : homePoisoned s b x.home = false ∨ ∃ f, v.dst = .hbm f) :
    exec (.moveSwitch b e) s = .next (keep [.bays, .mem, .boxes, .dev, .kw, .irq, .out] s (switchStep b e x v s)) := by
  show onUnit _ _ _ = _
  rw [decide_eq_true hb, onUnit_true, run_powered hp, hx]
  dsimp only
  rw [hv]
  dsimp only
  rw [hmay, if_neg (by decide)]
  cases hd : v.dst with
  | hbm f => rfl
  | win w f =>
    obtain hclean | ⟨_, h⟩ := hclean
    · dsimp only
      rw [hclean, if_neg (by decide)]
    · rw [hd] at h
      cases h

theorem answers_moveSwitch (hp : s.start.powered = true) (hb : b < s.bays.count) (hx : extent? s b e = some x) (hv : x.move = some v)
    (hmay : maySwitch s b e x v = true) (hclean : homePoisoned s b x.home = false ∨ ∃ f, v.dst = .hbm f) :
    Answers (.moveSwitch b e) s fun t => extent? t b e = some (movedTo v (epoch s) x) ∧ t.mem.moved = min 0xFFFF (s.mem.moved + 1) ∧
      ∀ f g, x.home = .hbm f → v.dst = .hbm g → f ≠ g → Memory.wf s.mem.hbm = true → ∀ k, k < 2 ^ 21 →
        mget t.mem.hbm (physOf s b g k) = mget s.mem.hbm (physOf s b f k) ∧ mget t.mem.hbm (physOf s b f k) = 0 := by
  have hset : Places BayMem.extents (swapHomes b e x v s) (switchStep b e x v s) := places_switchStep
  refine ⟨_, exec_moveSwitch_goes hp hb hx hv hmay hclean, ?_, ?_, fun f g hf hg hne hwf k hk => ?_⟩
  · rw [extent?_keep (by decide), extent?, hset.bays, ← extent?, extent?_swapHomes hx]
  · rw [keep_mem, if_pos (by decide), hset.mem]
    exact moved_swapHomes
  · rw [keep_mem, if_pos (by decide), hset.mem]
    exact contents_swapHomes hf hg hne hwf hk

/-- Settles O34: an epoch cools every extent, a round advances, leaves or abandons its move, and a switch carries the contents over. -/
theorem movesOfExtents : Obligations.MovesOfExtents := by
  unfold Obligations.MovesOfExtents
  refine fun s hp => ⟨answers_epochBoundary hp, exec_epochBoundary_idle hp, fun b e x v hb hx hv => ?_⟩
  refine ⟨fun dirty err h => ?_, exec_moveSwitch_stays hp hb hx hv, fun dirty hmay hdue => ?_, fun dirty err hmay hdue => ?_, answers_moveSwitch hp hb hx hv⟩
  · exact exec_moveCopyDone_idle hp hb hx hv (h.imp_right fun hd => Bool.eq_false_iff.mpr fun hc => hd (copyDue_iff.mp hc))
  · exact answers_copyAdvances hp hb hx hv hmay (copyDue_iff.mpr hdue)
  · exact answers_copyAbandons hp hb hx hv hmay (copyDue_iff.mpr hdue)

end Sys2Proof.Proofs
end

section
/-! SUPPORT. Messages that are answered at once (R283): the row of a message whose handler ends with a response. -/
namespace Sys2Proof.Proofs
open Sys2Proof.Machine

variable {s t u : State} {x m code b c : Nat} {r : Req} {i : Instr} {p : List Byte} {fp : List Grp} {f : Req → State → State}

/-- A response is what the mailboxes hold. -/
theorem replied_congr (h : Replied s x code p t) (hb : u.boxes = t.boxes) : Replied s x code p u := by
  have hm : mbx u x = mbx t x := by rw [mbx, mbx, hb]
  unfold Replied Responded at h ⊢
  rwa [hm, hb]

theorem bays_of_reply (h : ChangesOnly [.boxes, .irq] s t) : t.bays = s.bays := by rw [← h]; rfl

/-- A message whose handler ends with a response from state `u`: the response, and the bays of `u`. -/
theorem answers_responds (hi : exec i s = boxRow (.bays :: fp) m x f s) (hs : serves s x m r) (hgo : f r s = respond x code p u) (hu : u.boxes = s.boxes) :
    Answers i s fun t => Replied s x code p t ∧ t.bays = u.bays := by
  obtain ⟨hrep, honly⟩ := respond_spec (x := x) hu code p
  have hbays : (respond x code p u).bays = u.bays := bays_of_reply honly
  refine ⟨_, hi.trans (boxRow_serves hs), ?_⟩
  rw [hgo]
  exact ⟨replied_keep hrep, hbays⟩

/-- One that only answers. -/
theorem answers_replies (hi : exec i s = boxRow (.bays :: fp) m x f s) (hs : serves s x m r) (hgo : f r s = reply x code s) :
    Answers i s (Replied s x code []) := answers_mono (answers_responds hi hs hgo rfl) fun _ ht => ht.1

/-- One that answers and changes the memory side of a bay. -/
theorem answers_modBm {g : BayMem → BayMem} (hi : exec i s = boxRow (.bays :: fp) m x f s) (hs : serves s x m r)
    (hgo : f r s = respond x code p (modBm b g u)) (hu : u.boxes = s.boxes) :
    Answers i s fun t => Replied s x code p t ∧ (bay t b).mem = g (bay u b).mem :=
  answers_mono (answers_responds hi hs hgo hu) fun _ ht => ⟨ht.1, by rw [bay, ht.2, ← bay, bay_modBm_same]⟩

/-! ## Handles (R293) -/

theorem boxes_takeHandle (mine : Bool) : (takeHandle b mine s).2.boxes = s.boxes := by
  cases mine <;> rfl

/-- A handle taken leaves the memory side of every bay but for its next handle. -/
theorem mem_takeHandle (mine : Bool) : ∃ n, (bay (takeHandle b mine s).2 c).mem = { (bay s c).mem with nextHandle := n } := by
  cases mine with
  | true => exact ⟨_, rfl⟩
  | false =>
    show ∃ n, (bay (modBm b _ s) c).mem = _
    by_cases hc : c = b
    · rw [hc, bay_modBm_same]
      exact ⟨_, rfl⟩
    · rw [bay_modBm_ne hc]
      exact ⟨_, rfl⟩

end Sys2Proof.Proofs
end

section
/-! SUPPORT. BOND_PIN and BOND_UNPIN (R209, R210). -/
namespace Sys2Proof.Proofs
open Sys2Proof.Machine

variable {s t u : State} {x b c e code : Nat} {r : Req} {p q : Pin}

/-- The home a BOND_PIN names: HBM, or a window. -/
def pinHome (r : Req) : Option Nat := if fld r.p 0x10 4 = 0 then none else some (fld r.p 0x14 4)

/-- The pin a BOND_PIN asks for, under handle `h`. -/
def pinAsked (x : Nat) (r : Req) (h : Nat) : Pin :=
  { handle := h, byMgr := x == 0, ext0 := fld r.p 0 8 / 2 ^ 21, exts := fld r.p 8 8 / 2 ^ 21, home := pinHome r }

/-- Whether an extent that the pin names is moving to another home. -/
def movesOff (p : Pin) (y : Nat × Extent) : Bool :=
  pinHas y.1 p && (match y.2.move with
    | some v => !atHome p v.dst
    | none => false)

/-- The state with the pin recorded, before moves of its extents are abandoned. -/
def pinRecorded (x : Nat) (r : Req) (s : State) : State :=
  let h := takeHandle (reqBay x r) (x == 0) s
  modBm (reqBay x r) (fun m => { m with pins := m.pins ++ [pinAsked x r h.1] }) h.2

/-- The state a BOND_PIN answers from. -/
def pinPlaced (x : Nat) (r : Req) (s : State) : State :=
  let p := pinAsked x r (takeHandle (reqBay x r) (x == 0) s).1
  each ((bay (pinRecorded x r s) (reqBay x r)).mem.extents.filter (movesOff p)) (fun y t => abandonMove (reqBay x r) y.1 t) (pinRecorded x r s)

/-! The message's handler and its check are named before they are opened: the kernel then compares names, and evaluates neither. -/

theorem pinGo_refused (h : pinRefused s (reqBay x r) (pinHome r) (fld r.p 0 8 / 2 ^ 21) (fld r.p 8 8 / 2 ^ 21) = some code) :
    pinGo x r s = reply x code s := by
  obtain ⟨f, hf⟩ : ∃ f, f = @pinGo := ⟨_, rfl⟩
  rw [← hf]
  delta pinGo at hf
  obtain ⟨g, hg⟩ : ∃ g, g = @pinRefused := ⟨_, rfl⟩
  rw [← hg] at hf h
  rw [hf]
  beta_reduce
  extract_lets b e n home
  rw [show g s b home e n = some code from h]

theorem pinGo_records (h : pinRefused s (reqBay x r) (pinHome r) (fld r.p 0 8 / 2 ^ 21) (fld r.p 8 8 / 2 ^ 21) = none) :
    pinGo x r s = settlePins (reqBay x r) (respond x 0 (natLe 4 (takeHandle (reqBay x r) (x == 0) s).1) (pinPlaced x r s)) := by
  obtain ⟨f, hf⟩ : ∃ f, f = @pinGo := ⟨_, rfl⟩
  rw [← hf]
  delta pinGo at hf
  obtain ⟨g, hg⟩ : ∃ g, g = @pinRefused := ⟨_, rfl⟩
  rw [← hg] at hf h
  rw [hf]
  beta_reduce
  extract_lets b e n home
  rw [show g s b home e n = none from h]
  rfl

/-! ## Abandoned moves leave mailboxes and pins -/

theorem boxes_zeroHome (h : Home) : (zeroHome b h s).boxes = s.boxes := by
  unfold zeroHome
  split <;> rfl

theorem pins_modExtent (f : Extent → Extent) : (bay (modExtent b e f s) c).mem.pins = (bay s c).mem.pins := by
  unfold modExtent
  split
  · rfl
  · exact (places_modBm (view := BayMem.pins) rfl).bays c

/-- The mailboxes and the pins of every bay are as before. -/
structure PinsAs (s t : State) : Prop where
  boxes : t.boxes = s.boxes
  pins : ∀ c, (bay t c).mem.pins = (bay s c).mem.pins

theorem PinsAs.refl : PinsAs s s := ⟨rfl, fun _ => rfl⟩
theorem PinsAs.trans (h : PinsAs s t) (g : PinsAs t u) : PinsAs s u := ⟨g.boxes.trans h.boxes, fun c => (g.pins c).trans (h.pins c)⟩
theorem PinsAs.each {α : Type} {f : α → State → State} (hf : ∀ x t, PinsAs t (f x t)) (l : List α) : PinsAs s (each l f s) :=
  each_inv (PinsAs s) l f (fun x t h => h.trans (hf x t)) s .refl

theorem pinsAs_modExtent (f : Extent → Extent) : PinsAs s (modExtent b e f s) := ⟨modExtent_boxes _ _ _ _, fun _ => pins_modExtent _⟩
theorem pinsAs_mem (m : MemSys) : PinsAs s { s with mem := m } := ⟨rfl, fun _ => rfl⟩
theorem pinsAs_zeroHome (h : Home) : PinsAs s (zeroHome b h s) := ⟨boxes_zeroHome h, fun c => by rw [bay, bays_zeroHome, ← bay]⟩

theorem pinsAs_abandonMove : PinsAs s (abandonMove b e s) := by
  unfold abandonMove
  split
  · exact .refl
  split
  · exact .refl
  extract_lets t _ u w
  have hu : PinsAs s u := PinsAs.trans (t := t) (pinsAs_modExtent _) (pinsAs_mem _)
  have hw : PinsAs u w := .each (fun k v => PinsAs.trans (t := { v with mem := { v.mem with abandoned := satAdd 0xFFFF v.mem.abandoned 1 } }) (pinsAs_mem _)
    (pinsAs_modExtent _)) _
  split
  · exact hu.trans hw
  · exact (hu.trans hw).trans (pinsAs_zeroHome _)

theorem pinsAs_pinPlaced : PinsAs (pinRecorded x r s) (pinPlaced x r s) := .each (fun _ _ => pinsAs_abandonMove) _

theorem boxes_pinPlaced : (pinPlaced x r s).boxes = s.boxes := pinsAs_pinPlaced.boxes.trans (boxes_takeHandle _)

theorem mem_pins_pinPlaced : pinAsked x r (takeHandle (reqBay x r) (x == 0) s).1 ∈ (bay (pinPlaced x r s) (reqBay x r)).mem.pins := by
  rw [pinsAs_pinPlaced.pins, pinRecorded, bay_modBm_same]
  exact List.mem_append_right _ (List.mem_singleton.mpr rfl)

/-! ## Settling changes no pin but for whether it is settled -/

theorem boxes_pinEvent (byMgr : Bool) (k w y : Nat) : (pinEvent b byMgr k w y s).boxes = s.boxes := by
  unfold pinEvent
  split
  · rw [mgrEvent_changes]
  · rw [bayEvent_changes]

theorem boxes_settlePins : (settlePins b s).boxes = s.boxes := by
  refine foldl_inv (fun t => t.boxes = s.boxes) _ _ (fun t p ht => ?_) s rfl
  split
  · exact ht
  · exact (boxes_pinEvent _ _ _ _).trans ht

theorem mem_modFirst {α : Type} {P : α → Bool} {f : α → α} {a : α} {l : List α} (h : a ∈ l) : a ∈ modFirst P f l ∨ f a ∈ modFirst P f l := by
  induction l with
  | nil => cases h
  | cons y l ih =>
    unfold modFirst
    split
    · rcases List.mem_cons.mp h with rfl | h
      · exact .inr List.mem_cons_self
      · exact .inl (List.mem_cons_of_mem _ h)
    · rcases List.mem_cons.mp h with rfl | h
      · exact .inl List.mem_cons_self
      · exact (ih h).imp (List.mem_cons_of_mem _) (List.mem_cons_of_mem _)

/-- Bay `b` has pin `p`, settled or not. -/
def HasPin (b : Nat) (p : Pin) (s : State) : Prop := ∃ q ∈ (bay s b).mem.pins, q = { p with settled := q.settled }

theorem HasPin.pins (h : HasPin b p s) (hp : (bay t b).mem.pins = (bay s b).mem.pins) : HasPin b p t := by
  unfold HasPin
  rw [hp]
  exact h

theorem HasPin.modPin (h : HasPin b p s) (k : Nat) (mine : Bool) : HasPin b p (modPin b k mine (fun p => { p with settled := true }) s) := by
  obtain ⟨q, hq, heq⟩ := h
  unfold HasPin Machine.modPin
  rw [bay_modBm_same]
  rcases mem_modFirst hq with hm | hm
  · exact ⟨_, hm, heq⟩
  · exact ⟨_, hm, by dsimp only; rw [heq]⟩

theorem HasPin.settlePins (h : HasPin b p s) : HasPin b p (settlePins b s) := by
  refine foldl_inv (HasPin b p) _ _ (fun t q ht => ?_) s h
  split
  · exact ht
  · exact (ht.modPin _ _).pins ((places_pinEvent (view := BayMem.pins) _ _ _ _).bays _)

theorem exec_bondPin : exec (.bondPin x) s = boxRow [.bays, .mem, .pwr, .dev] 0x200 x (pinGo x) s := rfl

/-- BOND_PIN (R210). -/
theorem answers_pins (hs : serves s x 0x200 r)
    (h : pinRefused s (reqBay x r) (pinHome r) (fld r.p 0 8 / 2 ^ 21) (fld r.p 8 8 / 2 ^ 21) = none) :
    Answers (.bondPin x) s fun t => Replied s x 0 (natLe 4 (takeHandle (reqBay x r) (x == 0) s).1) t ∧
      HasPin (reqBay x r) (pinAsked x r (takeHandle (reqBay x r) (x == 0) s).1) t := by
  obtain ⟨hrep, honly⟩ := respond_spec (x := x) (s := s) boxes_pinPlaced 0 (natLe 4 (takeHandle (reqBay x r) (x == 0) s).1)
  have hbays := bays_of_reply honly
  refine ⟨_, exec_bondPin.trans (boxRow_serves hs), ?_⟩
  rw [pinGo_records h]
  exact ⟨replied_keep (replied_congr hrep boxes_settlePins),
    HasPin.settlePins (HasPin.pins (s := pinPlaced x r s) ⟨_, mem_pins_pinPlaced, rfl⟩ (by rw [bay, hbays, ← bay]))⟩

/-- BOND_PIN that its checks refuse (R210). -/
theorem answers_pinRefused (hs : serves s x 0x200 r)
    (h : pinRefused s (reqBay x r) (pinHome r) (fld r.p 0 8 / 2 ^ 21) (fld r.p 8 8 / 2 ^ 21) = some code) :
    Answers (.bondPin x) s (Replied s x code []) := answers_replies exec_bondPin hs (pinGo_refused h)

/-- What BOND_UNPIN does once it is served. -/
def unpinGo (x : Nat) (r : Req) (s : State) : State :=
  if (bay s (reqBay x r)).mem.pins.any fun p => p.handle == fld r.p 0 4 && p.byMgr == (x == 0) then
    reply x 0 (modBm (reqBay x r) (fun m => { m with pins := m.pins.filter fun p => !(p.handle == fld r.p 0 4 && p.byMgr == (x == 0)) }) s)
  else reply x 0x23 s

theorem exec_bondUnpin : exec (.bondUnpin x) s = boxRow [.bays] 0x201 x (unpinGo x) s := rfl

/-- BOND_UNPIN of the requester's own pin (R209). -/
theorem answers_unpin (hs : serves s x 0x201 r)
    (h : ((bay s (reqBay x r)).mem.pins.any fun p => p.handle == fld r.p 0 4 && p.byMgr == (x == 0)) = true) :
    Answers (.bondUnpin x) s fun t => Replied s x 0 [] t ∧
      (bay t (reqBay x r)).mem.pins = (bay s (reqBay x r)).mem.pins.filter fun p => !(p.handle == fld r.p 0 4 && p.byMgr == (x == 0)) :=
  answers_mono (answers_modBm exec_bondUnpin hs (if_pos h) rfl) fun _ ⟨hrep, hmem⟩ => ⟨hrep, congrArg BayMem.pins hmem⟩

theorem answers_unpinNone (hs : serves s x 0x201 r)
    (h : ((bay s (reqBay x r)).mem.pins.any fun p => p.handle == fld r.p 0 4 && p.byMgr == (x == 0)) = false) :
    Answers (.bondUnpin x) s (Replied s x 0x23 []) := answers_replies exec_bondUnpin hs (if_neg (by rw [h]; decide))

end Sys2Proof.Proofs
end

section
/-! SUPPORT. BOND_QUERY (R209, R292): the fields of its answer. -/
namespace Sys2Proof.Proofs
open Sys2Proof.Machine

variable {s : State} {x b n o k i : Nat} {r : Req}

theorem fld_append_left {a c : List Byte} (h : o + k ≤ a.length) : fld (a ++ c) o k = fld a o k := by
  rw [fld, fld, List.drop_append_of_le_length (by omega), List.take_append_of_le_length (by rw [List.length_drop]; omega)]

theorem fld_append_right {a c : List Byte} (h : a.length = n) (o k : Nat) : fld (a ++ c) (n + o) k = fld c o k := by
  rw [fld, fld, ← h, List.drop_append, List.drop_eq_nil_of_le (by omega), Nat.add_sub_cancel_left, List.nil_append]

theorem fld_natLe (k v : Nat) : fld (natLe k v) 0 k = v % 256 ^ k := by
  rw [fld, List.drop_zero, List.take_of_length_le (length_natLe k v).le, leNat_natLe]

/-- Records of one length in a row. -/
theorem fld_flatMap {α : Type} {g : α → List Byte} (hg : ∀ a, (g a).length = n) (h : o + k ≤ n) {l : List α} {a : α} (hi : l[i]? = some a) :
    fld (l.flatMap g) (n * i + o) k = fld (g a) o k := by
  induction l generalizing i with
  | nil => cases hi
  | cons y l ih =>
    rw [List.flatMap_cons]
    cases i with
    | zero =>
      obtain rfl := Option.some.inj hi
      rw [Nat.mul_zero, Nat.zero_add, fld_append_left (by rw [hg]; exact h)]
    | succ i =>
      rw [Nat.mul_succ, Nat.add_right_comm, Nat.add_comm, fld_append_right (hg y), ih hi]

theorem length_flatMap_const {α : Type} {g : α → List Byte} (hg : ∀ a, (g a).length = n) (l : List α) : (l.flatMap g).length = n * l.length := by
  rw [List.length_flatMap, List.map_congr_left (g := fun _ => n) fun a _ => hg a, List.map_const', List.sum_replicate, smul_eq_mul, Nat.mul_comm]

theorem length_queryRec (s : State) (b e i : Nat) : (queryRec s b e i).length = 16 := by
  unfold queryRec
  split <;> simp

theorem fld_queryRec {e : Nat} {y : Extent} (h : extent? s b e = some y) (i : Nat) :
    fld (queryRec s b e i) 8 8 = (y.heat + y.boost) % 2 ^ 64 ∧ fld (queryRec s b e i) 2 1 = b2n (pinOf (bay s b).mem e).isSome := by
  unfold queryRec
  rw [h]
  constructor
  · simp [fld, natLe, leNat, heatOf]
    omega
  · cases (pinOf (bay s b).mem e).isSome <;> simp [fld, natLe, leNat, b2n]

/-- The payload of a BOND_QUERY's answer for `n` extents from `ext0`. -/
def queryBody (s : State) (b ext0 n : Nat) : List Byte :=
  natLe 4 (freeFrames s b) ++ natLe 4 (freeWinFrames s b) ++ natLe 1 (largestFree s b).1 ++ natLe 1 (largestFree s b).2.1 ++
    natLe 1 (largestFree s b).2.2.1 ++ natLe 1 (largestFree s b).2.2.2 ++ natLe 20 0 ++
    (List.range n).flatMap fun i => queryRec s b (ext0 + i) i

theorem length_queryBody (s : State) (b ext0 n : Nat) : (queryBody s b ext0 n).length = 32 + 16 * n := by
  simp only [queryBody, List.length_append, length_natLe, length_flatMap_const (fun i => length_queryRec s b (ext0 + i) i), List.length_range]

/-- The first words: the free frames of HBM and of the windows. -/
theorem fld_queryBody (s : State) (b ext0 n : Nat) :
    fld (queryBody s b ext0 n) 0 4 = freeFrames s b % 2 ^ 32 ∧ fld (queryBody s b ext0 n) 4 4 = freeWinFrames s b % 2 ^ 32 := by
  unfold queryBody
  generalize freeFrames s b = u, freeWinFrames s b = w
  have hpow : 256 ^ 4 = 2 ^ 32 := rfl
  simp only [List.append_assoc]
  constructor
  · rw [fld_append_left (by simp), fld_natLe, hpow]
  · rw [show fld _ 4 4 = fld _ (4 + 0) 4 from rfl, fld_append_right (length_natLe 4 u), fld_append_left (by simp), fld_natLe, hpow]

/-- The record of each extent asked for. -/
theorem fld_queryBody_rec {ext0 : Nat} (hi : i < n) {o k : Nat} (h : o + k ≤ 16) :
    fld (queryBody s b ext0 n) (32 + 16 * i + o) k = fld (queryRec s b (ext0 + i) i) o k := by
  rw [queryBody, Nat.add_assoc, fld_append_right (by simp only [List.length_append, length_natLe])]
  exact fld_flatMap (fun j => length_queryRec s b (ext0 + j) j) h (List.getElem?_range hi)

/-- What BOND_QUERY does once it is served. -/
def queryGo (x : Nat) (r : Req) (s : State) : State :=
  respond x 0 (queryBody s (reqBay x r) (fld r.p 0 8 / 2 ^ 21) (fld r.p 8 4)) { s with out := { s.out with free := s.out.free + fld r.p 8 4 } }

theorem exec_bondQuery : exec (.bondQuery x) s = boxRow [.out] 0x205 x (queryGo x) s := rfl

/-- BOND_QUERY (R209, R292). -/
theorem answers_query (hs : serves s x 0x205 r) : Answers (.bondQuery x) s fun t => t.bays = s.bays ∧
    Replied s x 0 (queryBody s (reqBay x r) (fld r.p 0 8 / 2 ^ 21) (fld r.p 8 4)) t := by
  obtain ⟨hrep, -⟩ := respond_spec (s := s) (x := x) (t := { s with out := { s.out with free := s.out.free + fld r.p 8 4 } }) rfl 0
    (queryBody s (reqBay x r) (fld r.p 0 8 / 2 ^ 21) (fld r.p 8 4))
  exact ⟨_, exec_bondQuery.trans (boxRow_serves hs), rfl, replied_keep hrep⟩

end Sys2Proof.Proofs
end

section
/-! SUPPORT. BOND_PANEL_SET, BOND_PANEL_CLEAR, BOND_HINT and BOND_WINDOW_ADD (R198, R209, R211, R212). -/
namespace Sys2Proof.Proofs
open Sys2Proof.Machine

variable {s : State} {x i : Nat} {r : Req}

/-! ## The rows -/

/-- What BOND_PANEL_CLEAR does once it is served. -/
def panelClearGo (x : Nat) (r : Req) (s : State) : State :=
  if queuesPerBay s ≤ fld r.p 0 2 then reply x 0x23 s
  else reply x 0 (modBm (reqBay x r) (fun m => { m with cons := m.cons.filter fun c => !(c.queue == fld r.p 0 2 && c.byMgr == (x == 0)) }) s)

/-- The extents a hint names (R209). -/
def hintOn (x : Nat) (r : Req) : Nat × Nat × Nat × Bool :=
  (ceilDiv (fld r.p 8 8) (2 ^ 21), (fld r.p 8 8 + fld r.p 0x10 8) / 2 ^ 21 - ceilDiv (fld r.p 8 8) (2 ^ 21), fld r.p 1 1, x == 0)

/-- What BOND_HINT does once it is served. -/
def hintGo (x : Nat) (r : Req) (s : State) : State :=
  if fld r.p 0 1 = 1 then
    reply x 0 (modBm (reqBay x r) (fun m => { m with origins := tput (fld r.p 2 2) (fld r.p 4 1, fld r.p 5 1, x == 0) m.origins }) s)
  else reply x 0 (modBm (reqBay x r) (fun m => { m with hints := hintOn x r :: m.hints }) s)

/-- The window a BOND_WINDOW_ADD asks for. -/
def windowAsked (s : State) (x : Nat) (r : Req) : BackWin :=
  { ep := fld r.p 0 2, win := fld r.p 2 2, off := fld r.p 8 8, len := fld r.p 0x10 8
    added := ((bay s (reqBay x r)).mem.windows.map fun w => w.2.added + 1).foldl max 0 }

/-- What BOND_WINDOW_ADD does once it is served. -/
def windowAddGo (x : Nat) (r : Req) (s : State) : State :=
  if windowTaken s (fld r.p 0 2) (fld r.p 2 2) (fld r.p 8 8) (fld r.p 0x10 8) then reply x 0x23 s
  else match (List.range 8).find? fun i => (tget i (bay s (reqBay x r)).mem.windows).isNone with
    | none => reply x 0x34 s
    | some i => respond x 0 (natLe 4 i) (modBm (reqBay x r) (fun m => { m with windows := tput i (windowAsked s x r) m.windows }) s)

theorem exec_bondPanelSet : exec (.bondPanelSet x) s = boxRow [.bays, .pwr] 0x202 x (panelSetGo x) s := rfl
theorem exec_bondPanelClear : exec (.bondPanelClear x) s = boxRow [.bays] 0x203 x (panelClearGo x) s := rfl
theorem exec_bondHint : exec (.bondHint x) s = boxRow [.bays] 0x204 x (hintGo x) s := rfl
theorem exec_bondWindowAdd : exec (.bondWindowAdd x) s = boxRow [.bays] 0x206 x (windowAddGo x) s := rfl

/-! ## Panel constraints (R211) -/

theorem answers_panelRefused (hs : serves s x 0x202 r) (h : queuesPerBay s ≤ fld r.p 0 2 ∨ (x ≠ 0 ∧ someCell s
      (((bay s (reqBay x r)).mem.cons.filter fun c => c.queue == fld r.p 0 2) ++ [conOf x (takeHandle (reqBay x r) (x == 0) s).1 r.p]) = false)) :
    Answers (.bondPanelSet x) s (Replied s x 0x23 []) := by
  refine answers_replies exec_bondPanelSet hs ?_
  unfold panelSetGo
  extract_lets b h' k mine
  split
  · rfl
  next hq =>
  obtain ⟨hx, hcell⟩ := h.resolve_left hq
  rw [if_pos]
  rw [Bool.and_eq_true]
  exact ⟨bne_iff_ne.mpr hx, by rw [show someCell s (mine ++ [k]) = false from hcell]; rfl⟩

theorem answers_panelSet (hs : serves s x 0x202 r) (hq : fld r.p 0 2 < queuesPerBay s) (h : x ≠ 0 → someCell s
      (((bay s (reqBay x r)).mem.cons.filter fun c => c.queue == fld r.p 0 2) ++ [conOf x (takeHandle (reqBay x r) (x == 0) s).1 r.p]) = true) :
    Answers (.bondPanelSet x) s fun t => Replied s x 0 (natLe 4 (takeHandle (reqBay x r) (x == 0) s).1) t ∧
      (bay t (reqBay x r)).mem.cons = (bay s (reqBay x r)).mem.cons ++ [conOf x (takeHandle (reqBay x r) (x == 0) s).1 r.p] := by
  obtain ⟨n, hn⟩ := mem_takeHandle (s := s) (b := reqBay x r) (c := reqBay x r) (x == 0)
  have hgo : panelSetGo x r s = respond x 0 (natLe 4 (takeHandle (reqBay x r) (x == 0) s).1) (modBm (reqBay x r)
      (fun m => { m with cons := m.cons ++ [conOf x (takeHandle (reqBay x r) (x == 0) s).1 r.p] }) (takeHandle (reqBay x r) (x == 0) s).2) := by
    unfold panelSetGo
    extract_lets b h' k mine
    rw [if_neg (show ¬ queuesPerBay s ≤ k.queue from Nat.not_le.mpr hq), if_neg]
    rw [Bool.and_eq_true]
    rintro ⟨hx, hcell⟩
    rw [show someCell s (mine ++ [k]) = true from h (bne_iff_ne.mp hx)] at hcell
    cases hcell
  refine answers_mono (answers_modBm exec_bondPanelSet hs hgo (boxes_takeHandle (x == 0))) fun t ⟨hrep, hmem⟩ => ?_
  rw [hn] at hmem
  exact ⟨hrep, congrArg BayMem.cons hmem⟩

theorem answers_panelClear (hs : serves s x 0x203 r) (hq : fld r.p 0 2 < queuesPerBay s) : Answers (.bondPanelClear x) s fun t => Replied s x 0 [] t ∧
    (bay t (reqBay x r)).mem.cons = (bay s (reqBay x r)).mem.cons.filter fun c => !(c.queue == fld r.p 0 2 && c.byMgr == (x == 0)) :=
  answers_mono (answers_modBm exec_bondPanelClear hs (if_neg (Nat.not_le.mpr hq)) rfl) fun _ ⟨hrep, hmem⟩ => ⟨hrep, congrArg BayMem.cons hmem⟩

theorem answers_panelClearNone (hs : serves s x 0x203 r) (hq : queuesPerBay s ≤ fld r.p 0 2) : Answers (.bondPanelClear x) s (Replied s x 0x23 []) :=
  answers_replies exec_bondPanelClear hs (if_pos hq)

/-! ## Hints (R209) -/

theorem answers_origin (hs : serves s x 0x204 r) (h : fld r.p 0 1 = 1) : Answers (.bondHint x) s fun t => Replied s x 0 [] t ∧
    tget (fld r.p 2 2) (bay t (reqBay x r)).mem.origins = some (fld r.p 4 1, fld r.p 5 1, x == 0) :=
  answers_mono (answers_modBm exec_bondHint hs (if_pos h) rfl) fun _ ⟨hrep, hmem⟩ => ⟨hrep, by rw [hmem]; exact tget_tput_same _ _ _⟩

theorem answers_hint (hs : serves s x 0x204 r) (h : fld r.p 0 1 ≠ 1) : Answers (.bondHint x) s fun t => Replied s x 0 [] t ∧
    (bay t (reqBay x r)).mem.hints = hintOn x r :: (bay s (reqBay x r)).mem.hints :=
  answers_mono (answers_modBm exec_bondHint hs (if_neg h) rfl) fun _ ⟨hrep, hmem⟩ => ⟨hrep, congrArg BayMem.hints hmem⟩

/-! ## Windows added (R198, R212) -/

theorem answers_windowTaken (hs : serves s x 0x206 r) (h : windowTaken s (fld r.p 0 2) (fld r.p 2 2) (fld r.p 8 8) (fld r.p 0x10 8) = true) :
    Answers (.bondWindowAdd x) s (Replied s x 0x23 []) := answers_replies exec_bondWindowAdd hs (if_pos h)

theorem answers_windowAdd (hs : serves s x 0x206 r) (h : windowTaken s (fld r.p 0 2) (fld r.p 2 2) (fld r.p 8 8) (fld r.p 0x10 8) = false)
    (hi : ((List.range 8).find? fun i => (tget i (bay s (reqBay x r)).mem.windows).isNone) = some i) : Answers (.bondWindowAdd x) s fun t =>
      Replied s x 0 (natLe 4 i) t ∧ tget i (bay t (reqBay x r)).mem.windows = some (windowAsked s x r) := by
  have hgo : windowAddGo x r s =
      respond x 0 (natLe 4 i) (modBm (reqBay x r) (fun m => { m with windows := tput i (windowAsked s x r) m.windows }) s) := by
    unfold windowAddGo
    rw [if_neg (by rw [h]; decide), hi]
  exact answers_mono (answers_modBm exec_bondWindowAdd hs hgo rfl) fun _ ⟨hrep, hmem⟩ => ⟨hrep, by rw [hmem]; exact tget_tput_same _ _ _⟩

end Sys2Proof.Proofs
end

section
/-! SUPPORT. The end of a mailbox operation (R286), in the mailbox itself. -/
namespace Sys2Proof.Proofs
open Sys2Proof.Machine

variable {s t : State} {x y i j code : Nat} {m : Mbx} {r : Req}

/-! ## A bit set by adding its power of two -/

theorem bit_add_same {v : Nat} (h : bit v i = false) : bit (v + 2 ^ i) i = true := by
  unfold bit at h ⊢
  rw [Nat.add_div_right _ (Nat.two_pow_pos i)]
  simp only [beq_iff_eq, beq_eq_false_iff_ne] at h ⊢
  omega

/-- Setting a bit that is clear carries nowhere. -/
theorem bit_add_of_bit {v : Nat} (hj : bit v j = false) (hi : bit v i = true) : bit (v + 2 ^ j) i = true := by
  unfold bit at hi hj ⊢
  simp only [beq_iff_eq, beq_eq_false_iff_ne] at hi hj ⊢
  rcases Nat.lt_trichotomy i j with hlt | rfl | hlt
  · obtain ⟨d, rfl⟩ := Nat.exists_eq_add_of_lt hlt
    rw [show 2 ^ (i + d + 1) = 2 ^ i * (2 * 2 ^ d) by rw [Nat.add_assoc, Nat.pow_add, Nat.pow_succ']]
    rw [Nat.add_mul_div_left _ _ (Nat.two_pow_pos i), Nat.add_mul_mod_self_left, hi]
  · exact absurd hi hj
  · obtain ⟨d, rfl⟩ := Nat.exists_eq_add_of_lt hlt
    have hcut (n : Nat) : n / 2 ^ (j + d + 1) = n / 2 ^ j / 2 / 2 ^ d := by
      rw [Nat.div_div_eq_div_mul, Nat.div_div_eq_div_mul, Nat.add_assoc, Nat.pow_add, Nat.pow_succ']
    have heven : (v / 2 ^ j + 1) / 2 = v / 2 ^ j / 2 := by omega
    rw [hcut, Nat.add_div_right _ (Nat.two_pow_pos j), heven, ← hcut, hi]

/-! ## The mailbox after an operation's end -/

/-- A mailbox whose operation in slot `i` ends with `code`, if one runs there. -/
def slotEnded (i code : Nat) (m : Mbx) : Mbx :=
  match tget i m.ops with
  | none => m
  | some o =>
    if !o.running then m
    else { m with ops := tput i { o with running := false, code := code } m.ops, opDone := if bit m.opDone i then m.opDone else m.opDone + 2 ^ i }

theorem slotEnded_of_runs {o : OpSlot} (h : tget i m.ops = some o) (hr : o.running = true) : slotEnded i code m =
    { m with ops := tput i { o with running := false, code := code } m.ops, opDone := if bit m.opDone i then m.opDone else m.opDone + 2 ^ i } := by
  unfold slotEnded
  simp only [h, hr, Bool.not_true, Bool.false_eq_true, if_false]

theorem slotEnded_of_idle (h : ∀ o, tget i m.ops = some o → o.running = false) : slotEnded i code m = m := by
  unfold slotEnded
  split
  · rfl
  next o ho => rw [if_pos (by rw [h o ho]; rfl)]

/-- What an end leaves of a mailbox. -/
theorem slotEnded_keeps : ∃ ops d, slotEnded i code m = { m with ops := ops, opDone := d } := by
  unfold slotEnded
  split
  · exact ⟨_, _, rfl⟩
  split <;> exact ⟨_, _, rfl⟩

theorem mbx_opEnd_same : mbx (opEnd x i code s) x = slotEnded i code (mbx s x) := by
  unfold opEnd
  split
  next h =>
    rw [slotEnded_of_idle (by rw [h]; rintro _ ⟨⟩)]
  next o h =>
    split
    next hr =>
      rw [slotEnded_of_idle]
      rintro q hq
      rw [h] at hq
      rw [← Option.some.inj hq]
      simpa using hr
    next hr =>
      rw [slotEnded_of_runs h (by simpa using hr), mbx_raise, mbx_modMbx_same]

theorem mbx_opEnd_ne (h : y ≠ x) : mbx (opEnd x i code s) y = mbx s y := by
  unfold opEnd
  split
  · rfl
  split
  · rfl
  · rw [mbx_raise, mbx_modMbx_ne h]

theorem order_opEnd : (opEnd x i code s).boxes.order = s.boxes.order := by
  unfold opEnd
  split
  · rfl
  split
  · rfl
  · rw [raise_changes]; rfl

/-! ## A slot on its way to an end with code 0 -/

/-- The operation in slot `i` has ended with code 0. -/
def EndedOk (i : Nat) (m : Mbx) : Prop := ∃ o, tget i m.ops = some o ∧ o.running = false ∧ o.code = 0 ∧ bit m.opDone i = true

/-- The operation in slot `i` runs, or has ended with code 0. -/
def GoesOk (i : Nat) (m : Mbx) : Prop := (∃ o, tget i m.ops = some o ∧ o.running = true) ∨ EndedOk i m

/-- An end in any slot leaves an operation that has ended. -/
theorem EndedOk.slotEnded (h : EndedOk i m) (j : Nat) : EndedOk i (slotEnded j code m) := by
  obtain ⟨o, ho, hr, hc, hd⟩ := h
  by_cases hj : ∃ q, tget j m.ops = some q ∧ q.running = true
  · obtain ⟨q, hq, hqr⟩ := hj
    have hne : i ≠ j := by
      rintro rfl
      rw [ho] at hq
      rw [← Option.some.inj hq, hr] at hqr
      cases hqr
    rw [slotEnded_of_runs hq hqr]
    refine ⟨o, by rw [tget_tput_ne hne]; exact ho, hr, hc, ?_⟩
    split
    · exact hd
    next hb => exact bit_add_of_bit (Bool.eq_false_iff.mpr hb) hd
  · rw [slotEnded_of_idle fun q hq => Bool.eq_false_iff.mpr fun hqr => hj ⟨q, hq, hqr⟩]
    exact ⟨o, ho, hr, hc, hd⟩

/-- The end with code 0 of the slot itself. -/
theorem GoesOk.ends (h : GoesOk i m) : EndedOk i (slotEnded i 0 m) := by
  rcases h with ⟨o, ho, hr⟩ | h
  · rw [slotEnded_of_runs ho hr]
    refine ⟨_, tget_tput_same _ _ _, rfl, rfl, ?_⟩
    split
    next hb => exact hb
    next hb => exact bit_add_same (Bool.eq_false_iff.mpr hb)
  · exact h.slotEnded i

theorem GoesOk.slotEnded (h : GoesOk i m) (j : Nat) : GoesOk i (slotEnded j 0 m) := by
  by_cases hij : i = j
  · rw [← hij]
    exact .inr h.ends
  rcases h with ⟨o, ho, hr⟩ | h
  · refine .inl ⟨o, ?_, hr⟩
    by_cases hj : ∃ q, tget j m.ops = some q ∧ q.running = true
    · obtain ⟨q, hq, hqr⟩ := hj
      rw [slotEnded_of_runs hq hqr, tget_tput_ne hij]
      exact ho
    · rwa [slotEnded_of_idle fun q hq => Bool.eq_false_iff.mpr fun hqr => hj ⟨q, hq, hqr⟩]
  · exact .inr (h.slotEnded j)

end Sys2Proof.Proofs
end

section
/-! SUPPORT. BOND_WINDOW_REMOVE of an empty window (R212). -/
namespace Sys2Proof.Proofs
open Sys2Proof.Machine

variable {s t u : State} {x i b w bound : Nat} {r : Req} {k : BackWin}

/-! ## A long request that has its slot and its answer -/

/-- The state in which the work of a long request starts: slot `i` taken, ACCEPTED answered. -/
def startedAt (x i : Nat) (kind : OpKind) (bound : Nat) (s : State) : State :=
  respondWith x 1 i (mbx s x).nextOp bound [] (modMbx x (tookOp i kind) s)

theorem accepted_eq {kind : OpKind} {go : Nat → State → State} (hf : freeSlot s x = some i) : accepted x kind bound go s =
    flushBoxes (go i (startedAt x i kind bound s)).boxes.order.length (go i (startedAt x i kind bound s)) := by
  unfold accepted
  rw [hf]
  rfl

/-- Mailbox `x` holds the answer to the long request of `s`, whose operation goes on or has ended with code 0. -/
structure UnderWay (s : State) (x i bound : Nat) (t : State) : Prop where
  holds : Holds (reqOf s x) 1 i (mbx s x).nextOp bound [] (mbx t x)
  next : (mbx t x).nextOp = if (mbx s x).nextOp = 255 then 1 else (mbx s x).nextOp + 1
  goes : GoesOk i (mbx t x)
  order : x ∉ t.boxes.order

theorem UnderWay.congr (h : UnderWay s x i bound t) (hm : mbx u x = mbx t x) (ho : u.boxes.order = t.boxes.order) : UnderWay s x i bound u :=
  ⟨hm ▸ h.holds, hm ▸ h.next, hm ▸ h.goes, ho ▸ h.order⟩

theorem UnderWay.boxes (h : UnderWay s x i bound t) (hb : u.boxes = t.boxes) : UnderWay s x i bound u :=
  h.congr (by rw [mbx, mbx, hb]) (by rw [hb])

theorem UnderWay.opEnd (h : UnderWay s x i bound t) (y j : Nat) : UnderWay s x i bound (opEnd y j 0 t) := by
  by_cases hy : x = y
  · subst hy
    have hm := mbx_opEnd_same (s := t) (x := x) (i := j) (code := 0)
    obtain ⟨ops, d, hk⟩ := slotEnded_keeps (m := mbx t x) (i := j) (code := 0)
    refine ⟨?_, ?_, hm ▸ h.goes.slotEnded j, by rw [order_opEnd]; exact h.order⟩
    · rw [hm, hk]; exact h.holds
    · rw [hm, hk]; exact h.next
  · exact h.congr (mbx_opEnd_ne hy) order_opEnd

theorem underWay_startedAt (kind : OpKind) : UnderWay s x i bound (startedAt x i kind bound s) := by
  obtain ⟨v, hv⟩ : ∃ v, v = modMbx x (tookOp i kind) s := ⟨_, rfl⟩
  have hvx : mbx v x = tookOp i kind (mbx s x) := hv ▸ mbx_modMbx_same _
  obtain ⟨hholds, hops, hnext⟩ := mbx_respondWith (s := v) (x := x) (code := 1) (slot := i) (opId := (mbx s x).nextOp) (bound := bound) (p := [])
  have hreq : reqOf v x = reqOf s x := by
    unfold reqOf
    rw [hvx]
    rfl
  unfold startedAt
  rw [← hv]
  refine ⟨hreq ▸ hholds, by rw [hnext, hvx]; rfl, .inl ⟨{ opId := (mbx s x).nextOp, kind := kind }, ?_, rfl⟩, by rw [respondWith_order]; simp⟩
  rw [hops, hvx]
  exact tget_tput_same _ _ _

theorem bays_startedAt (kind : OpKind) : (startedAt x i kind bound s).bays = s.bays := by
  unfold startedAt
  exact bays_of_reply (changesOnly_trans (rfl : ChangesOnly [.boxes, .irq] s (modMbx x (tookOp i kind) s)) respondWith_only)

/-- The rest of a message served changes neither the answer nor the operation. -/
theorem UnderWay.flushed (h : UnderWay s x i bound t) (n : Nat) :
    TookSlot s x i bound (flushBoxes n t) ∧ mbx (flushBoxes n t) x = mbx t x ∧ (flushBoxes n t).bays = t.bays := by
  obtain ⟨hc, hm, hn⟩ := flushBoxes_spec n t h.order
  exact ⟨⟨responded_of_holds (hm ▸ h.holds) hn, hm ▸ h.next⟩, hm, bays_of_reply hc⟩

/-! ## The windows being removed that are empty -/

/-- A run over a list that holds `a` reaches what `a`'s step reaches and every step keeps. -/
theorem foldl_reaches {α : Type} {P Q : State → Prop} {f : State → α → State} {l : List α} {a : α} (ha : a ∈ l) (hP : ∀ t x, P t → P (f t x))
    (hset : ∀ t, P t → Q (f t a)) (hQ : ∀ t x, Q t → Q (f t x)) (h : P s) : Q (l.foldl f s) := by
  obtain ⟨l₁, l₂, rfl⟩ := List.append_of_mem ha
  rw [List.foldl_append, List.foldl_cons]
  exact foldl_inv Q l₂ f hQ _ (hset _ (foldl_inv P l₁ f hP s h))

/-- No extent is homed in window `w` of bay `b`, or on its way there. -/
def WindowEmpty (b w : Nat) (t : State) : Prop := ((bay t b).mem.extents.any fun e => inWindow w e.2) = false

theorem boxes_endPins : (endPins b w s).boxes = s.boxes := by
  refine each_inv (fun t => t.boxes = s.boxes) _ _ (fun p t ht => ?_) s rfl
  split
  · exact ht
  · exact (boxes_pinEvent _ _ _ _).trans ht

theorem windows_endPins : (bay (endPins b w s) b).mem.windows = (bay s b).mem.windows :=
  ((places_endPins w).ofPins (view := BayMem.windows) fun _ => rfl).bays b

/-- The state once an empty window being removed is gone, before its operation ends. -/
def windowDropped (b w : Nat) (t : State) : State := modBm b (fun m => { m with windows := tdrop w m.windows }) (endPins b w t)

theorem boxes_windowDropped : (windowDropped b w t).boxes = t.boxes := boxes_endPins

theorem windows_windowDropped : (bay (windowDropped b w t) b).mem.windows = tdrop w (bay t b).mem.windows := by
  rw [windowDropped, bay_modBm_same]
  exact congrArg (tdrop w) windows_endPins

theorem windows_opEnd (y j : Nat) : (bay (opEnd y j 0 t) b).mem.windows = (bay t b).mem.windows :=
  (places_opEnd (view := BayMem.windows) y j 0).bays b

theorem windowEmptied_cases (t : State) (e : Nat × BackWin) : windowEmptied b t e = t ∨ windowEmptied b t e = endPins b e.1 t ∨
    ∃ o : Nat × Nat, windowEmptied b t e = opEnd o.1 o.2 0 (windowDropped b e.1 t) := by
  unfold windowEmptied
  split
  · exact .inl rfl
  next o _ =>
  dsimp only
  split
  · exact .inr (.inl rfl)
  · exact .inr (.inr ⟨o, rfl⟩)

theorem windowEmptied_of_empty {o : Nat × Nat} (hr : k.removing = some o) (h : WindowEmpty b w t) :
    windowEmptied b t (w, k) = opEnd o.1 o.2 0 (windowDropped b w t) := by
  have hext : (bay (endPins b w t) b).mem.extents = (bay t b).mem.extents := ((places_endPins w).ofPins (view := BayMem.extents) fun _ => rfl).bays b
  unfold windowEmptied
  simp only [hr]
  rw [if_neg]
  · rfl
  · rw [hext, show ((bay t b).mem.extents.any fun e => inWindow w e.2) = false from h]
    decide

theorem UnderWay.windowEmptied (h : UnderWay s x i bound t) (e : Nat × BackWin) : UnderWay s x i bound (windowEmptied b t e) := by
  rcases windowEmptied_cases (b := b) t e with he | he | ⟨o, he⟩ <;> rw [he]
  · exact h
  · exact h.boxes boxes_endPins
  · exact (h.boxes boxes_windowDropped).opEnd _ _

/-- The operation of mailbox `x` has ended OK and window `w` of bay `b` is gone. -/
def WindowRemoved (x i b w : Nat) (t : State) : Prop := opEnded t x i 0 ∧ tget w (bay t b).mem.windows = none

theorem opEnded_iff : opEnded t x i 0 ↔ EndedOk i (mbx t x) := Iff.rfl

theorem opEnded_of_boxes (h : opEnded t x i 0) (hb : u.boxes = t.boxes) : opEnded u x i 0 := by
  rwa [opEnded_iff, show mbx u x = mbx t x by rw [mbx, mbx, hb]]

theorem opEnded_opEnd (h : opEnded t x i 0) (y j : Nat) : opEnded (opEnd y j 0 t) x i 0 := by
  rw [opEnded_iff] at h ⊢
  by_cases hy : x = y
  · rw [← hy, mbx_opEnd_same]
    exact h.slotEnded j
  · rwa [mbx_opEnd_ne hy]

theorem tget_tdrop_none {α : Type} {l : Tbl α} (h : tget w l = none) (v : Nat) : tget w (tdrop v l) = none := by
  by_cases hv : w = v
  · rw [hv, tget_tdrop_same]
  · rw [tget_tdrop_ne hv, h]

theorem WindowRemoved.windowEmptied (h : WindowRemoved x i b w t) (e : Nat × BackWin) : WindowRemoved x i b w (windowEmptied b t e) := by
  obtain ⟨hended, hgone⟩ := h
  rcases windowEmptied_cases (b := b) t e with he | he | ⟨o, he⟩ <;> rw [he]
  · exact ⟨hended, hgone⟩
  · exact ⟨opEnded_of_boxes hended boxes_endPins, by rw [windows_endPins]; exact hgone⟩
  · refine ⟨opEnded_opEnd (opEnded_of_boxes hended boxes_windowDropped) _ _, ?_⟩
    rw [windows_opEnd, windows_windowDropped]
    exact tget_tdrop_none hgone _

/-- An empty window whose removal is under way goes, and the operation ends OK. -/
theorem removed_windowEmptied (h : UnderWay s x i bound t) (hr : k.removing = some (x, i))
    (hempty : WindowEmpty b w t) : WindowRemoved x i b w (windowEmptied b t (w, k)) := by
  rw [windowEmptied_of_empty hr hempty]
  refine ⟨?_, by rw [windows_opEnd, windows_windowDropped, tget_tdrop_same]⟩
  rw [opEnded_iff, mbx_opEnd_same]
  exact (h.boxes boxes_windowDropped).goes.ends

theorem windowsEmptied_removes (h : UnderWay s x i bound t) (hr : k.removing = some (x, i)) (hk : (w, k) ∈ (bay t b).mem.windows)
    (hempty : WindowEmpty b w t) :
    UnderWay s x i bound (windowsEmptied b t) ∧ WindowRemoved x i b w (windowsEmptied b t) := by
  rw [windowsEmptied_eq]
  refine ⟨foldl_inv _ _ _ (fun u e hu => hu.windowEmptied e) t h, ?_⟩
  refine foldl_reaches (P := fun u => UnderWay s x i bound u ∧ WindowEmpty b w u) hk ?_ ?_ ?_ ⟨h, hempty⟩
  · rintro u e ⟨hu, hnone⟩
    exact ⟨hu.windowEmptied e, by unfold WindowEmpty; rw [(places_windowEmptied e).bays b]; exact hnone⟩
  · rintro u ⟨hu, hnone⟩
    exact removed_windowEmptied hu hr hnone
  · exact fun u e hu => hu.windowEmptied e

/-! ## The message -/

/-- The state with window `w` being removed for the operation in slot `i` of mailbox `x`. -/
def removalMarked (x i b w : Nat) (k : BackWin) (t : State) : State :=
  modBm b (fun m => { m with windows := tput w { k with removing := some (x, i) } m.windows }) t

/-- Whether a move of an extent is on its way to window `w`. -/
def movesInto (w : Nat) (e : Nat × Extent) : Bool :=
  match e.2.move with
  | some v => (match v.dst with
    | .win q _ => q == w
    | .hbm _ => false)
  | none => false

/-- What BOND_WINDOW_REMOVE starts once it has its slot. -/
def removalGo (x b w : Nat) (k : BackWin) (i : Nat) (t : State) : State :=
  let u := removalMarked x i b w k t
  let u := each ((bay u b).mem.extents.filter (movesInto w)) (fun e u => abandonMove b e.1 u) u
  if evacRoom u b w then windowsEmptied b (evacStart b w u) else opEnd x i 0x34 t

/-- How long the removal of a window may take (R212). -/
def removalBound (s : State) (k : BackWin) : Nat := k.len / (kwPorts s * 100000000 / 8 / s.bays.count) + 1000

/-! The handler is named before it is opened, so that the kernel does not evaluate it. -/

theorem windowRemoveGo_none (h : tget (fld r.p 0 4) (bay s (reqBay x r)).mem.windows = none) : windowRemoveGo x r s = reply x 0x23 s := by
  obtain ⟨f, hf⟩ : ∃ f, f = @windowRemoveGo := ⟨_, rfl⟩
  rw [← hf]
  delta windowRemoveGo at hf
  rw [hf]
  beta_reduce
  extract_lets b w
  rw [show tget w (bay s b).mem.windows = none from h]

theorem windowRemoveGo_starts (h : tget (fld r.p 0 4) (bay s (reqBay x r)).mem.windows = some k) (hr : k.removing = none) : windowRemoveGo x r s =
    accepted x (.windowRemove (reqBay x r) (fld r.p 0 4)) (removalBound s k) (removalGo x (reqBay x r) (fld r.p 0 4) k) s := by
  obtain ⟨f, hf⟩ : ∃ f, f = @windowRemoveGo := ⟨_, rfl⟩
  rw [← hf]
  delta windowRemoveGo at hf
  rw [hf]
  beta_reduce
  extract_lets b w
  rw [show tget w (bay s b).mem.windows = some k from h]
  dsimp only
  rw [if_neg (by rw [hr]; decide)]
  rfl

theorem inWindow_of_evacList {e : Nat × Extent} (h : e ∈ evacList t b w) : e ∈ (bay t b).mem.extents ∧ inWindow w e.2 = true := by
  unfold evacList at h
  have hl := (List.mem_append.mp h).elim (fun h => (List.mem_filter.mp h).1) fun h => (List.mem_filter.mp h).1
  obtain ⟨he, hin⟩ := List.mem_filter.mp hl
  refine ⟨he, ?_⟩
  unfold inWindow
  rw [Bool.or_eq_true]
  exact .inl hin

theorem evacList_of_empty (h : WindowEmpty b w t) : evacList t b w = [] := by
  refine List.eq_nil_iff_forall_not_mem.mpr fun e he => ?_
  obtain ⟨hmem, hin⟩ := inWindow_of_evacList he
  exact List.any_eq_false.mp h e hmem hin

theorem movesInto_of_empty (h : WindowEmpty b w t) : (bay t b).mem.extents.filter (movesInto w) = [] := by
  rw [List.filter_eq_nil_iff]
  refine fun e he hin => List.any_eq_false.mp h e he ?_
  unfold inWindow
  rw [Bool.or_eq_true]
  exact .inr hin

theorem evacRoom_of_empty (h : WindowEmpty b w t) : evacRoom t b w = true := by
  unfold evacRoom
  rw [evacList_of_empty h]
  exact decide_eq_true (Nat.zero_le _)

theorem evacStart_of_empty (h : WindowEmpty b w t) : evacStart b w t = t := by
  unfold evacStart
  rw [evacList_of_empty h]
  rfl

/-- Nothing has to leave an empty window. -/
theorem removalGo_of_empty (h : WindowEmpty b w (removalMarked x i b w k t)) :
    removalGo x b w k i t = windowsEmptied b (removalMarked x i b w k t) := by
  unfold removalGo
  extract_lets u v
  have hv : v = u := by
    show each ((bay u b).mem.extents.filter (movesInto w)) _ u = u
    rw [movesInto_of_empty h]
    rfl
  rw [hv, if_pos (evacRoom_of_empty h), evacStart_of_empty h]

theorem exec_bondWindowRemove : exec (.bondWindowRemove x) s = boxRow [.bays, .mem, .dev, .kw, .out] 0x207 x (windowRemoveGo x) s := rfl

theorem answers_windowRemoveNone (hs : serves s x 0x207 r) (h : tget (fld r.p 0 4) (bay s (reqBay x r)).mem.windows = none) :
    Answers (.bondWindowRemove x) s (Replied s x 0x23 []) := answers_replies exec_bondWindowRemove hs (windowRemoveGo_none h)

/-- BOND_WINDOW_REMOVE of an empty window (R212). -/
theorem answers_windowRemove (hs : serves s x 0x207 r) (h : tget (fld r.p 0 4) (bay s (reqBay x r)).mem.windows = some k) (hr : k.removing = none)
    (hi : freeSlot s x = some i) (hempty : WindowEmpty (reqBay x r) (fld r.p 0 4) s) : Answers (.bondWindowRemove x) s fun t =>
      TookSlot s x i (removalBound s k) t ∧ WindowRemoved x i (reqBay x r) (fld r.p 0 4) t := by
  obtain ⟨b, hb⟩ : ∃ b, b = reqBay x r := ⟨_, rfl⟩
  obtain ⟨w, hw⟩ : ∃ w, w = fld r.p 0 4 := ⟨_, rfl⟩
  have hgo := windowRemoveGo_starts h hr
  rw [← hb, ← hw] at hgo hempty ⊢
  obtain ⟨v, hv⟩ : ∃ v, v = startedAt x i (.windowRemove b w) (removalBound s k) s := ⟨_, rfl⟩
  have hbays : v.bays = s.bays := hv ▸ bays_startedAt _
  obtain ⟨u, hu⟩ : ∃ u, u = removalMarked x i b w k v := ⟨_, rfl⟩
  have hmem : (bay u b).mem = { (bay s b).mem with windows := tput w { k with removing := some (x, i) } (bay s b).mem.windows } := by
    rw [hu, removalMarked, bay_modBm_same, bay, hbays, ← bay]
  have huempty : WindowEmpty b w u := by
    unfold WindowEmpty
    rw [hmem]
    exact hempty
  have hunder : UnderWay s x i (removalBound s k) u := by
    rw [hu]
    exact UnderWay.boxes (t := v) (hv ▸ underWay_startedAt _) rfl
  have hlisted : (w, { k with removing := some (x, i) }) ∈ (bay u b).mem.windows := by
    rw [hmem]
    exact mem_of_tget (tget_tput_same _ _ _)
  obtain ⟨hway, hdone, hgone⟩ := windowsEmptied_removes hunder rfl hlisted huempty
  rw [accepted_eq hi, ← hv, removalGo_of_empty (hu ▸ huempty), ← hu] at hgo
  obtain ⟨htook, hmx, hwin⟩ := hway.flushed (windowsEmptied b u).boxes.order.length
  rw [← hgo] at htook hmx hwin
  refine ⟨_, exec_bondWindowRemove.trans (boxRow_serves hs), htook, ?_, ?_⟩
  · show EndedOk i (mbx (windowRemoveGo x r s) x)
    rw [hmx]
    exact hdone
  · show tget w (bay (windowRemoveGo x r s) b).mem.windows = none
    rw [bay, hwin]
    exact hgone

end Sys2Proof.Proofs
end

section
/-! SUPPORT. The placement messages. -/
namespace Sys2Proof.Proofs
open Sys2Proof.Machine

/-- Settles O37: each message served is answered by the lemma of its case above. -/
theorem bondMessages : Obligations.BondMessages := by
  unfold Obligations.BondMessages
  intro s x r b m mine h home
  refine ⟨fun _ => answers_pinRefused, fun hs hp => answers_mono (answers_pins hs hp) ?_, answers_unpin, answers_unpinNone, answers_panelRefused,
    answers_panelClearNone, answers_windowTaken, answers_windowRemoveNone, answers_panelSet, answers_panelClear, answers_origin,
    fun hs hk => answers_mono (answers_hint hs hk) ?_, fun hs => answers_mono (answers_query hs) ?_, fun i hs ht hi =>
      answers_mono (answers_windowAdd hs ht hi) ?_, fun i k hs hk hr hi he => answers_windowRemove hs hk hr hi ?_⟩
  case refine_1 =>
    rintro t ⟨hrep, q, hq, heq⟩
    exact ⟨hrep, q, hq, by rw [heq]; rfl, by rw [heq]; rfl, by rw [heq]; rfl, by rw [heq]; rfl, by rw [heq]; rfl⟩
  case refine_2 => exact fun t ⟨hrep, hhints⟩ => ⟨hrep, _, _, hhints, rfl, rfl⟩
  case refine_3 =>
    rintro t ⟨hbays, hrep⟩
    obtain ⟨hfree, hwin⟩ := fld_queryBody (s := s) (b := b) (ext0 := fld r.p 0 8 / 2 ^ 21) (n := fld r.p 8 4)
    refine ⟨hbays, _, hrep, length_queryBody _ _ _ _, hfree, hwin, fun i e hi he => ?_⟩
    obtain ⟨hheat, hpin⟩ := fld_queryRec he i
    exact ⟨(fld_queryBody_rec hi (by decide)).trans hheat, (fld_queryBody_rec hi (by decide)).trans hpin⟩
  case refine_4 => exact fun t ⟨hrep, hwin⟩ => ⟨hrep, _, hwin⟩
  case refine_5 =>
    refine List.any_eq_false.mpr fun e hmem hin => ?_
    have hout := List.all_eq_true.mp he e hmem
    rw [hin] at hout
    cases hout

end Sys2Proof.Proofs
end

section
/-! SUPPORT. What writes of memory leave of a bay, and what the entries written to a completion ring leave of its head (R230, R402, R486). -/
namespace Sys2Proof.Proofs
open Sys2Proof.Machine

variable {s t u : State} {b q n : Nat} {x : Queue}

theorem bay_of_bays (h : t.bays = s.bays) (b : Nat) : bay t b = bay s b := by rw [bay, bay, h]

theorem bay_modEqi_same (f : BayEqi → BayEqi) : bay (modEqi b f s) b = { bay s b with eqi := f (bay s b).eqi } := by
  rw [modEqi, bay_modBay, if_pos rfl]

/-! ## Writes of memory -/

/-- Of the bays the memory side alone has changed, and otherwise memory, fabric, interrupts and outputs. -/
structure MemoryOnly (s t : State) : Prop where
  only : ChangesOnly [.bays, .mem, .kw, .irq, .out] s t
  bays : ∀ b, bay t b = { bay s b with mem := (bay t b).mem }

theorem MemoryOnly.refl : MemoryOnly s s := ⟨changesOnly_refl _ s, fun _ => rfl⟩
theorem MemoryOnly.trans (h : MemoryOnly s t) (g : MemoryOnly t u) : MemoryOnly s u := ⟨changesOnly_trans h.only g.only, fun b => by rw [g.bays, h.bays]⟩
theorem MemoryOnly.foldl {α : Type} {f : State → α → State} (hf : ∀ t x, MemoryOnly t (f t x)) (l : List α) : MemoryOnly s (l.foldl f s) :=
  foldl_inv (MemoryOnly s) l f (fun t x h => h.trans (hf t x)) s .refl

theorem MemoryOnly.dev (h : MemoryOnly s t) : t.dev = s.dev := by rw [← h.only]; rfl
theorem MemoryOnly.eqi (h : MemoryOnly s t) (b : Nat) : (bay t b).eqi = (bay s b).eqi := by rw [h.bays]
theorem MemoryOnly.progress (h : MemoryOnly s t) (b : Nat) : (bay t b).progress = (bay s b).progress := by rw [h.bays]

theorem memoryOnly_of_fabric (h : FabricOnly s t) : MemoryOnly s t := ⟨by rw [h]; rfl, fun b => by rw [h]; rfl⟩
theorem memoryOnly_mem (m : MemSys) : MemoryOnly s { s with mem := m } := ⟨rfl, fun _ => rfl⟩
theorem memoryOnly_emit (o : Out) : MemoryOnly s (emit o s) := memoryOnly_of_fabric rfl
theorem memoryOnly_raise (n : Nat) : MemoryOnly s (raise n s) := memoryOnly_of_fabric (by rw [raise_changes])

theorem memoryOnly_modBm (f : BayMem → BayMem) : MemoryOnly s (modBm b f s) := by
  refine ⟨rfl, fun c => ?_⟩
  by_cases hc : c = b
  · rw [hc, bay_modBm_same]
  · rw [bay_modBm_ne hc]

theorem memoryOnly_noteMove (h : Home) (off n : Nat) : MemoryOnly s (noteMove b h off n s) := by
  unfold noteMove
  split
  · exact memoryOnly_modBm _
  · exact .refl

theorem memoryOnly_writePa (pa : Nat) (bs : List Byte) : MemoryOnly s (writePa pa bs s) := by
  unfold writePa
  refine MemoryOnly.trans ?_ (memoryOnly_mem _)
  split
  · exact memoryOnly_noteMove _ _ _
  · exact .refl

theorem memoryOnly_writeWin (k : Nat) (bs : List Byte) : MemoryOnly s (writeWin k bs s) := by
  unfold writeWin
  refine MemoryOnly.trans (MemoryOnly.trans ?_ (memoryOnly_noteMove _ _ _)) (memoryOnly_mem _)
  split
  · exact memoryOnly_of_fabric (ownJob_fabric _ _)
  · exact .refl

theorem memoryOnly_writeVa (va : Nat) (bs : List Byte) : MemoryOnly s (writeVa b va bs s) := by
  refine .foldl (fun t p => ?_) _
  dsimp only
  split
  · exact memoryOnly_writePa _ _
  · exact memoryOnly_writeWin _ _
  · exact memoryOnly_emit _
  · exact .refl

theorem memoryOnly_oweVector (v : Nat) : MemoryOnly s (oweVector b v s) := by
  unfold oweVector
  exact (memoryOnly_of_fabric rfl).trans (memoryOnly_raise _)

/-! ## Error records (R267) -/

/-- One more error record of bay `b`; its progress and the doorbells ignored are as before. -/
structure ErrorCounted (b : Nat) (s t : State) : Prop where
  seq : (bay t b).eqi.errSeq = (bay s b).eqi.errSeq + 1
  ignored : t.dev.ignoredDb = s.dev.ignoredDb
  progress : (bay t b).progress = (bay s b).progress

theorem errorCounted_errRecord (kind code q slot detail address : Nat) (entry : List Byte) (origin shape ashlar engines reruns : Nat) (est : List Byte) :
    ErrorCounted b s (errRecord b kind code q slot detail address entry origin shape ashlar engines reruns est s) := by
  have placed : ∀ va bs, ErrorCounted b s (raise (srcErrRec b) (modEqi b (fun e => { e with errSeq := e.errSeq + 1, errPos := e.errPos + 1 })
      (writeVa b va bs s))) := fun va bs => by
    have hw : MemoryOnly s (writeVa b va bs s) := memoryOnly_writeVa va bs
    have hr := memoryOnly_raise (srcErrRec b) (s := modEqi b (fun e => { e with errSeq := e.errSeq + 1, errPos := e.errPos + 1 }) (writeVa b va bs s))
    exact ⟨by rw [hr.eqi, bay_modEqi_same, hw.eqi], by rw [hr.dev, modEqi_dev, hw.dev], by rw [hr.progress, bay_modEqi_same, hw.progress]⟩
  have discarded : ErrorCounted b s (modEqi b (fun e => { e with errSeq := e.errSeq + 1 }) s) :=
    ⟨by rw [bay_modEqi_same], rfl, by rw [bay_modEqi_same]⟩
  unfold errRecord
  extract_lets
  split
  · exact ⟨discarded.seq, discarded.ignored, discarded.progress⟩
  · exact placed _ _

/-! ## The head of a completion ring (R230) -/

theorem progress_modQueue (f : Queue → Queue) : (bay (modQueue b q f s) b).progress = (bay s b).progress := by
  unfold modQueue
  split
  · rfl
  · rw [bay_modEqi_same]

/-- The progress of a bay and the head of a completion ring of it are as before. -/
structure HeadAs (b q : Nat) (s t : State) : Prop where
  progress : (bay t b).progress = (bay s b).progress
  head : (queue? t b q).map (·.cqHead) = (queue? s b q).map (·.cqHead)

theorem HeadAs.refl : HeadAs b q s s := ⟨rfl, rfl⟩
theorem HeadAs.trans (h : HeadAs b q s t) (g : HeadAs b q t u) : HeadAs b q s u := ⟨g.progress.trans h.progress, g.head.trans h.head⟩

theorem headAs_of_bays (h : t.bays = s.bays) : HeadAs b q s t := ⟨by rw [bay_of_bays h], by rw [queue?, bay_of_bays h, ← queue?]⟩

theorem headAs_of_memory (h : MemoryOnly s t) : HeadAs b q s t := ⟨h.progress b, by rw [queue?, h.eqi, ← queue?]⟩

theorem headAs_modQueue {f : Queue → Queue} (hf : ∀ x, (f x).cqHead = x.cqHead) : HeadAs b q s (modQueue b q f s) := by
  cases hx : queue? s b q with
  | none =>
    unfold modQueue
    rw [hx]
    exact .refl
  | some x =>
    exact ⟨progress_modQueue f, by rw [queue?_modQueue hx, hx, Option.map_some, Option.map_some, hf]⟩

theorem headAs_errRecord (kind code p slot detail address : Nat) (entry : List Byte) (origin shape ashlar engines reruns : Nat) (est : List Byte) :
    HeadAs b q s (errRecord b kind code p slot detail address entry origin shape ashlar engines reruns est s) :=
  ⟨(errorCounted_errRecord _ _ _ _ _ _ _ _ _ _ _ _ _).progress, by rw [queue?_of_rings ((wrote_errRecord _ _ _ _ _ _ _ _ _ _ _ _ _).rings b)]⟩

theorem headAs_freezeQueue : HeadAs b q s (freezeQueue b q s) :=
  (headAs_modQueue (f := fun x => { x with frozen := true }) fun _ => rfl).trans (headAs_of_bays rfl)

theorem headAs_plumbRec (p : PlumbRec) : HeadAs b q s (plumbRec p s) := by
  rw [plumbRec_changes]
  exact headAs_of_bays rfl

theorem headAs_queueViolation (slot reason opcode : Nat) : HeadAs b q s (queueViolation b q slot reason opcode s) := by
  unfold queueViolation
  refine HeadAs.trans ?_ (headAs_plumbRec _)
  exact headAs_modQueue fun _ => rfl

theorem headAs_cqFail (a : Nat) : HeadAs b q s (cqFail b q a s) := by
  unfold cqFail
  refine HeadAs.trans ?_ (headAs_queueViolation _ _ _)
  refine HeadAs.trans ?_ (headAs_errRecord _ _ _ _ _ _ _ _ _ _ _ _ _)
  refine HeadAs.trans ?_ headAs_freezeQueue
  exact headAs_modQueue fun _ => rfl

theorem headAs_cqWrite : HeadAs b q s (cqWrite b q s) := by
  unfold cqWrite
  split
  · exact .refl
  next x hx =>
  split
  · exact .refl
  next e rest ho =>
  split
  · exact .refl
  extract_lets size phase fl bs at_ irq hp t t'
  split
  · unfold atsAsk
    dsimp only
    split
    · exact .refl
    · exact headAs_of_memory ((memoryOnly_modBm _).trans (memoryOnly_emit _))
  split
  · exact headAs_cqFail _
  have ht : HeadAs b q s t := headAs_modQueue fun _ => rfl
  have ht' : HeadAs b q s t' := by
    dsimp only [t']
    split
    · exact ht.trans (headAs_of_memory (memoryOnly_emit _))
    · exact ht.trans (headAs_of_memory (memoryOnly_writeVa _ _))
  split
  · exact ht'.trans (headAs_of_memory (memoryOnly_oweVector _))
  · exact ht'

theorem headAs_cqFlush (n : Nat) : HeadAs b q s (cqFlush n b q s) := by
  induction n generalizing s with
  | zero => exact .refl
  | succ n ih => exact headAs_cqWrite.trans ih

theorem headAs_cqPost : HeadAs b q s (cqPost b q s) := by
  unfold cqPost
  split
  · exact .refl
  · exact headAs_cqFlush _

theorem hasPosted_cqPost (h : HasPosted s b q n) : HasPosted (cqPost b q s) b q n := by
  unfold cqPost
  split
  · exact h
  · exact hasPosted_cqFlush _ h

end Sys2Proof.Proofs
end

section
/-! SUPPORT. Doorbells and negotiation (R226 to R230, R273, R275, R355, R356, R367). -/
namespace Sys2Proof.Proofs
open Sys2Proof.Machine

variable {s t u : State} {b q off size v n : Nat} {bt : Option Nat} {x : Queue} {w : BitVec 32}

/-! ## The rows -/

theorem exec_sqWpWrite (hb : b < s.bays.count) : exec (.sqWpWrite b q off size v bt) s = run fpWork (onBar b bt (sqWp b q off size v)) s := by
  show onUnit _ _ _ = _
  rw [decide_eq_true hb, onUnit_true]

theorem exec_cqHeadWrite (hb : b < s.bays.count) : exec (.cqHeadWrite b q off size v bt) s = run fpWork (onBar b bt (cqHead b q off size v)) s := by
  show onUnit _ _ _ = _
  rw [decide_eq_true hb, onUnit_true]

/-- What a write of EQI_NEG that gets through does: none while the block repoints, or of a bay that does not exist. -/
def eqiNeg (b : Nat) (w : BitVec 32) : State → State := onlyIf (fun t => (bay t b).st != .absent && !t.sec.repointing) (negotiate b w)

theorem exec_eqiNegWrite (hb : b < s.bays.count) : exec (.eqiNegWrite b w bt) s = run [.bays, .out] (onBar b bt (eqiNeg b w)) s := by
  show onUnit _ _ _ = _
  rw [decide_eq_true hb, onUnit_true]
  rfl

section
variable {fp : List Grp} {f : State → State} (hp : s.start.powered = true)
include hp

theorem run_onBar_shut (ho : barOpen s b bt = false) (hfp : .out ∈ fp) : run fp (onBar b bt f) s = .next (emit .unsupportedRequest s) := by
  rw [run_powered hp, onBar, ho, if_neg Bool.false_ne_true]
  simp [keep, emit, hfp]

theorem run_onBar_open (ho : barOpen s b bt = true) (h : f s = t) : run fp (onBar b bt f) s = .next (keep fp s t) := by
  rw [run_powered hp, onBar, if_pos ho, h]

theorem run_onBar_ignored (ho : barOpen s b bt = true) (h : f s = countIgnored s) : run fpWork (onBar b bt f) s = .next (countIgnored s) :=
  run_onBar_open hp ho h

theorem run_onBar_none (ho : barOpen s b bt = true) (h : f s = s) : run fp (onBar b bt f) s = .next s := by
  rw [run_onBar_open hp ho h, keep_self]

end

/-! ## SQ_WP_WRITE (R228, R229) -/

theorem sqWp_noQueue (h : s.sec.repointing = true ∨ queue? s b q = none) : sqWp b q off size v s = countIgnored s := by
  unfold sqWp
  rcases h with h | h
  · rw [h, if_pos rfl]
  · rw [h, ite_self]

section
variable (hr : s.sec.repointing = false) (hx : queue? s b q = some x)
include hr hx

theorem sqWp_badForm (hd : dbValue s b x.wp off size v = none) : sqWp b q off size v s = countIgnored s := by
  simp [sqWp, hr, hx, hd]

variable (hd : dbValue s b x.wp off size v = some n)
include hd

theorem sqWp_deviceWritten (hq : bit x.qflags 2 = true) : sqWp b q off size v s = countIgnored s := by
  simp [sqWp, hr, hx, hd, hq]

theorem sqWp_notAbove (hq : bit x.qflags 2 = false) (hn : n ≤ x.wp) : sqWp b q off size v s = s := by
  simp [sqWp, hr, hx, hd, hq, hn]

theorem sqWp_beyond (hq : bit x.qflags 2 = false) (hn : x.wp < n) (hout : 2 ^ x.log2Ring < n - oldestPos s b q x) :
    sqWp b q off size v s = errRecord b 8 0x23 q 0xFFFF n 0 [] 0xFFFF 0xFFFF 0xFFFF 0 0 [] (countIgnored s) := by
  simp [sqWp, hr, hx, hd, hq, Nat.not_le.2 hn, hout]

theorem sqWp_within (hq : bit x.qflags 2 = false) (hn : x.wp < n) (hin : n - oldestPos s b q x ≤ 2 ^ x.log2Ring) :
    sqWp b q off size v s = doorbellSeen b q (modQueue b q (fun y => { y with wp := n }) s) := by
  simp [sqWp, hr, hx, hd, hq, Nat.not_le.2 hn, Nat.not_lt.2 hin]

end

/-- A doorbell beyond the ring is recorded and counted, and leaves its queue. -/
theorem doorbellError_spec (hx : queue? s b q = some x) {t : State}
    (ht : t = errRecord b 8 0x23 q 0xFFFF n 0 [] 0xFFFF 0xFFFF 0xFFFF 0 0 [] (countIgnored s)) : queue? t b q = some x ∧ t.cmds = s.cmds ∧
      t.dev.ignoredDb = min 0xFFFF (s.dev.ignoredDb + 1) ∧ (bay t b).eqi.errSeq = (bay s b).eqi.errSeq + 1 := by
  obtain ⟨hseq, hignored, -⟩ : ErrorCounted b (countIgnored s) t := ht ▸ errorCounted_errRecord _ _ _ _ _ _ _ _ _ _ _ _ _
  have hwrote : Wrote (countIgnored s) t := ht ▸ wrote_errRecord _ _ _ _ _ _ _ _ _ _ _ _ _
  exact ⟨(queue?_of_rings (hwrote.rings b)).trans hx, hwrote.cmds, hignored, hseq⟩

theorem mem_raise (k : Nat) : (raise k s).mem = s.mem := by rw [raise_changes]

/-- An accepted doorbell counts as progress and wakes an idle queue. -/
theorem doorbellSeen_spec (hx : queue? s b q = some x) {t : State} (ht : t = doorbellSeen b q s) :
    queue? t b q = some { x with idle := false, asked := x.asked || x.idle } ∧ (bay t b).progress = ((bay s b).progress + 1) % 2 ^ 32 ∧
      (x.idle = true → srcDoorbell ∈ t.irq.pend) ∧ t.cmds = s.cmds ∧ t.mem = s.mem := by
  have hprogress : (bay (progress b s) b).progress = ((bay s b).progress + 1) % 2 ^ 32 := by rw [progress, bay_modBay, if_pos rfl]
  have hkept : queue? (progress b s) b q = some x := (queue?_of_rings (wrote_progress.rings b)).trans hx
  unfold doorbellSeen at ht
  rw [hx] at ht
  dsimp only at ht
  cases hi : x.idle with
  | false =>
    rw [hi, if_neg Bool.false_ne_true] at ht
    rw [ht]
    exact ⟨by rw [hkept, Bool.or_false, ← hi], hprogress, nofun, rfl, rfl⟩
  | true =>
    rw [hi, if_pos rfl] at ht
    have hwake : queue? (modQueue b q (fun y => { y with idle := false, asked := true }) (progress b s)) b q = _ := queue?_modQueue hkept _
    rw [ht]
    refine ⟨?_, ?_, fun _ => pend_raise rfl, ?_, ?_⟩
    · rw [queue?_of_rings ((wrote_raise _).rings b), hwake, Bool.or_true]
    · rw [(memoryOnly_raise _).progress, progress_modQueue, hprogress]
    · rw [(wrote_raise _).cmds, modQueue_cmds]
      rfl
    · rw [mem_raise, modQueue_mem]
      rfl

/-- One that names a greater position moves sq_wp there. -/
theorem doorbellMoved_spec (hx : queue? s b q = some x) {t : State} (ht : t = doorbellSeen b q (modQueue b q (fun y => { y with wp := n }) s)) :
    queue? t b q = some { x with wp := n, idle := false, asked := x.asked || x.idle } ∧ (bay t b).progress = ((bay s b).progress + 1) % 2 ^ 32 ∧
      (x.idle = true → srcDoorbell ∈ t.irq.pend) ∧ t.cmds = s.cmds ∧ t.mem = s.mem := by
  obtain ⟨hq, hprogress, hpend, hcmds, hmem⟩ := doorbellSeen_spec (queue?_modQueue hx fun y => { y with wp := n }) ht
  exact ⟨hq, by rw [hprogress, progress_modQueue], hpend, hcmds.trans (modQueue_cmds _ _ _ _), hmem.trans (modQueue_mem _ _ _ _)⟩

/-! ## CQ_HEAD_WRITE (R230) -/

theorem cqHead_noQueue (h : s.sec.repointing = true ∨ queue? s b q = none) : cqHead b q off size v s = countIgnored s := by
  unfold cqHead
  rcases h with h | h
  · rw [h, if_pos rfl]
  · rw [h, ite_self]

section
variable (hr : s.sec.repointing = false) (hx : queue? s b q = some x)
include hr hx

theorem cqHead_badForm (hd : dbValue s b x.cqHead off size v = none) : cqHead b q off size v s = countIgnored s := by
  simp [cqHead, hr, hx, hd]

variable (hd : dbValue s b x.cqHead off size v = some n)
include hd

theorem cqHead_outside (h : n < x.cqHead ∨ x.cqNext < n) : cqHead b q off size v s = countIgnored s := by
  simp [cqHead, hr, hx, hd, h]

theorem cqHead_same (h : n = x.cqHead) (hn : n ≤ x.cqNext) : cqHead b q off size v s = s := by
  subst h
  simp [cqHead, hr, hx, hd, Nat.not_lt.2 hn]

theorem cqHead_between (h : x.cqHead < n) (hn : n ≤ x.cqNext) :
    cqHead b q off size v s = cqPost b q (progress b (modQueue b q (fun y => { y with cqHead := n }) s)) := by
  simp [cqHead, hr, hx, hd, Nat.not_lt.2 hn, Nat.not_lt.2 (Nat.le_of_lt h), Nat.ne_of_gt h]

end

/-- The freed slots take what the queue owes. -/
theorem cqHeadMoved_spec (hx : queue? s b q = some x) {t : State} (ht : t = cqPost b q (progress b (modQueue b q (fun y => { y with cqHead := n }) s))) :
    (bay t b).progress = ((bay s b).progress + 1) % 2 ^ 32 ∧
      ∃ y, queue? t b q = some y ∧ y.cqHead = n ∧ y.cqNext + y.owed.length = x.cqNext + x.owed.length := by
  obtain ⟨u, hu⟩ : ∃ u, u = progress b (modQueue b q (fun y => { y with cqHead := n }) s) := ⟨_, rfl⟩
  have hq : queue? u b q = some { x with cqHead := n } := by
    rw [hu, queue?_of_rings (wrote_progress.rings b), queue?_modQueue hx]
  have hprogress : (bay u b).progress = ((bay s b).progress + 1) % 2 ^ 32 := by
    rw [hu, progress, bay_modBay, if_pos rfl]
    exact congrArg (fun k => (k + 1) % 2 ^ 32) (progress_modQueue _)
  rw [← hu] at ht
  obtain ⟨hkept, hhead⟩ : HeadAs b q u t := ht ▸ headAs_cqPost
  obtain ⟨y, hy, hsum⟩ : HasPosted t b q (posted x) := ht ▸ hasPosted_cqPost ⟨_, hq, rfl⟩
  rw [hy, hq] at hhead
  exact ⟨hkept.trans hprogress, y, hy, Option.some.inj hhead, hsum⟩

/-! ## EQI_NEG_WRITE (R273) -/

theorem eqiNeg_ignored (h : s.sec.repointing = true ∨ (bay s b).st = .absent) : eqiNeg b w s = s := by
  unfold eqiNeg onlyIf
  rcases h with h | h <;> simp [h]

theorem eqiNeg_taken (hr : s.sec.repointing = false) (hst : (bay s b).st ≠ .absent) : eqiNeg b w s = negotiate b w s := by
  unfold eqiNeg
  exact onlyIf_true (by simp [hr, hst]) _

theorem eqi_negotiate : (bay (negotiate b w s) b).eqi =
    let e := (bay s b).eqi
    let major := bits w.toNat 15 8
    let minor := bits w.toNat 7 0
    if e.negDone then e else { e with major := major, minor := minor, negDone := revKnown major minor, negRefused := !revKnown major minor } := by
  unfold negotiate
  rw [bay_modEqi_same]

/-- Settles O25: a write that does not get through is refused, and each other is answered by the lemma of its case above. -/
theorem doorbells : Obligations.Doorbells := by
  unfold Obligations.Doorbells
  intro s b q off size v bt hp hb sq cq
  have sqRow : exec sq s = run fpWork (onBar b bt (sqWp b q off size v)) s := exec_sqWpWrite hb
  have cqRow : exec cq s = run fpWork (onBar b bt (cqHead b q off size v)) s := exec_cqHeadWrite hb
  refine ⟨fun ho => ⟨?_, ?_, fun w => ?_⟩, fun ho => ⟨fun h => ⟨?_, ?_⟩, fun x hr hx => ⟨?_, ?_, fun n hd => ⟨?_, ?_, ?_, ?_⟩, fun n hd => ⟨?_, ?_, ?_⟩⟩,
    fun w => ⟨fun h => ?_, fun hr hst => ?_⟩⟩⟩
  · exact sqRow.trans (run_onBar_shut hp ho (by decide))
  · exact cqRow.trans (run_onBar_shut hp ho (by decide))
  · exact (exec_eqiNegWrite hb).trans (run_onBar_shut hp ho (by decide))
  · exact sqRow.trans (run_onBar_ignored hp ho (sqWp_noQueue h))
  · exact cqRow.trans (run_onBar_ignored hp ho (cqHead_noQueue h))
  · exact fun hd => sqRow.trans (run_onBar_ignored hp ho (sqWp_badForm hr hx hd))
  · exact fun hd => cqRow.trans (run_onBar_ignored hp ho (cqHead_badForm hr hx hd))
  · exact fun hq => sqRow.trans (run_onBar_ignored hp ho (sqWp_deviceWritten hr hx hd hq))
  · exact fun hq hn => sqRow.trans (run_onBar_none hp ho (sqWp_notAbove hr hx hd hq hn))
  · intro hq hn hout
    have hspec := doorbellError_spec (n := n) hx rfl
    exact ⟨_, sqRow.trans (run_onBar_open hp ho (sqWp_beyond hr hx hd hq hn hout)), hspec⟩
  · intro hq hn hin
    have hspec := doorbellMoved_spec (n := n) hx rfl
    exact ⟨_, sqRow.trans (run_onBar_open hp ho (sqWp_within hr hx hd hq hn hin)), hspec⟩
  · exact fun h => cqRow.trans (run_onBar_ignored hp ho (cqHead_outside hr hx hd h))
  · exact fun h hn => cqRow.trans (run_onBar_none hp ho (cqHead_same hr hx hd h hn))
  · intro h hn
    have hspec := cqHeadMoved_spec (n := n) hx rfl
    exact ⟨_, cqRow.trans (run_onBar_open hp ho (cqHead_between hr hx hd h hn)), hspec⟩
  · exact (exec_eqiNegWrite hb).trans (run_onBar_none hp ho (eqiNeg_ignored h))
  · exact ⟨_, (exec_eqiNegWrite hb).trans (run_onBar_open hp ho (eqiNeg_taken hr hst)), eqi_negotiate⟩

end Sys2Proof.Proofs
end

section
/-! SUPPORT. A front whose translation cache is full (R225, R388, R389). The statement that an entry which passes every check waits as a new
command fails: the check is made of a state without the translation of the entry's own ring page, which on its way into the cache may take
the place of one the entry's arguments need. -/
namespace Sys2Proof.Proofs
open Sys2Proof.Machine

/-- A STREAM_FILL of one token of stream 0, from the list at device address 0x200000. -/
def fillEntry : List Byte := padTo 64 (natLe 0x1C 0x06 ++ natLe 4 1 ++ natLe 8 0x200000)

/-- The command a front makes of it. -/
def fillCmd : Cmd := { cid := 0, bay := 0, queue := 0, pos := 0, entry := fillEntry }

/-- Its queue: the entry at position 0 has not been fetched. -/
def fillQueue : Queue := { wp := 1, idle := false }

/-- 63 further pages of extent 0. -/
def otherPages : List Nat := (List.range 63).map (1 + ·)

/-- Bay 0 of 16, with the entry in the ring of its queue 0, at the start of extent 0, and front 0 bound to the queue. Extent 1, which holds the
token list, has been unmapped and awaits its INVALIDATE. `pages` are those whose translations the front's cache holds. -/
def frontCaches (pages : List Nat) (drawn : Nat) : State :=
  { State.reset with
    out := { free := drawn }
    dev := { fronts := [(0, { bay := 0, queue := 0 })] }
    mem := { hbm := mputs 0 fillEntry [] }
    bays := { count := 16
              all := [(0, { st := .attached
                            eqi := { major := 3, minor := 4, queues := [(0, fillQueue)] }
                            mem := { extents := [(0, { home := .hbm 0 })]
                                     awaiting := [{ page := 512, pages := 512, home := some (.hbm 1), perm := 3 }]
                                     tlbs := [(2, pages)] }
                            strm := { streams := [(0, { state := .idle })] } })] } }

/-- The cache with page 512, of the token list, at place `k` of its 64. -/
def fullCache (k : Nat) : State := frontCaches (otherPages.insertIdx k 512) 0

/-- The same once the page of the ring has taken the place of page 512. -/
def ringCached : State := frontCaches (0 :: otherPages) 1

/-- The place the first free value picks of 64. -/
def victim : Nat := (Config.free 0).toNat % 64

theorem victim_lt : victim < 64 := Nat.mod_lt _ (by decide)

/-- The cache holds 64 pages, and the ring's is none of them. -/
theorem length_fullCache : (otherPages.insertIdx victim 512).length = 64 := List.length_insertIdx_of_le_length (Nat.le_of_lt_succ victim_lt) 512

theorem ringPage_new : (otherPages.insertIdx victim 512).contains 0 = false := by
  have hnew : 0 ∉ otherPages.insertIdx victim 512 := by
    rw [List.mem_insertIdx (Nat.le_of_lt_succ victim_lt)]
    decide
  simpa using hnew

/-- The ring's page takes the place of page 512. -/
theorem tlbPut_victim : tlbPut (Config.free 0).toNat 64 0 (otherPages.insertIdx victim 512) = 0 :: otherPages := by
  rw [tlbPut, ringPage_new, length_fullCache, if_neg Bool.false_ne_true, if_neg (Nat.lt_irrefl 64)]
  exact congrArg (0 :: ·) (List.eraseIdx_insertIdx_self 512)

theorem tlbDraw_victim : tlbDraw 64 0 (otherPages.insertIdx victim 512) (fullCache victim) = frontCaches (otherPages.insertIdx victim 512) 1 := by
  rw [tlbDraw, ringPage_new, length_fullCache]
  rfl

theorem frontXlate_fullCache : frontXlate 0 [(0, 64)] (fullCache victim) = ringCached := by
  have hfound : foundPages (fullCache victim) 0 [(0, 64)] 1 (tlbHit (fullCache victim) 0 2) = [0] := rfl
  rw [frontXlate, hfound]
  show modBm 0 (fun m => { m with tlbs := tput 2 (tlbPut (Config.free 0).toNat 64 0 (otherPages.insertIdx victim 512)) m.tlbs })
    (tlbDraw 64 0 (otherPages.insertIdx victim 512) (fullCache victim)) = ringCached
  rw [tlbDraw_victim, tlbPut_victim]
  rfl

/-- Without the translation of the ring's page the entry passes every check. -/
theorem entryVerdict_fullCache : ∀ k < 64, entryVerdict (fullCache k) 0 0 fillQueue fillEntry {} = .go fillCmd := by
  decide +kernel

/-- The state once the front has fetched the entry, its translation in the cache. -/
def fetched : State := afterEntry 0 0 0 1 (takeEntry 0 0 fillQueue fillEntry {} (askTaken 0 fillEntry ringCached))

/-- The token list cannot be read any more, and the entry is refused: no command waits. -/
theorem cmd?_fetched : cmd? fetched 0 = none := by decide +kernel

theorem frontFetch_fullCache : exec (.frontFetch 0 {}) (fullCache victim) = .next (keep fpWork (fullCache victim) fetched) := by
  have go : frontFetch 0 {} (fullCache victim) =
      afterEntry 0 0 0 1 (takeEntry 0 0 fillQueue fillEntry {} (askTaken 0 fillEntry (frontXlate 0 [(0, 64)] (fullCache victim)))) := rfl
  show run fpWork (frontFetch 0 {}) _ = _
  rw [run_powered rfl, go, frontXlate_fullCache]
  rfl

/-- Refutes O26: the statement has an entry wait as a new command whenever it passes the checks made without its ring page in the front's
cache, but where the cache is full that page takes the place of one the entry's arguments need, and the entry is refused. -/
theorem not_frontsFetch : ¬ Obligations.FrontsFetch := by
  unfold Obligations.FrontsFetch
  intro h
  obtain ⟨-, -, fetches⟩ := h (fullCache victim) 0 0 0 rfl
  obtain ⟨-, -, -, -, takes⟩ := fetches { bay := 0, queue := 0 } fillQueue {} (by decide) rfl rfl rfl rfl
  obtain ⟨-, -, entries⟩ := takes rfl rfl (by decide)
  obtain ⟨-, reads⟩ := entries rfl (by decide) rfl rfl
  obtain ⟨-, waits, -⟩ := reads fillEntry rfl
  obtain ⟨t, ht, waiting⟩ := waits fillCmd (entryVerdict_fullCache victim victim_lt)
  obtain rfl : keep fpWork (fullCache victim) fetched = t := Host.Outcome.next.inj (frontFetch_fullCache.symm.trans ht)
  cases cmd?_fetched.symm.trans waiting

end Sys2Proof.Proofs
end

section
/-! SUPPORT. MODEL_LOAD_SEALED LOAD of a bay whose interface issues no requests (R298, R355, R356). The statement that a LOAD whose image has
been read completes fails: where the image lies in host memory, the LOAD waits while the interface is CONFIG_LOCKED. -/
namespace Sys2Proof.Proofs
open Sys2Proof.Machine

/-- A LOAD of model 0 under key 1, of an image of 336 bytes at device address 0x1FFEF0. -/
def loadFromHost : Cmd :=
  { cid := 0, bay := 0, queue := 0, st := .waiting
    entry := padTo 64 (natLe 0x1C 0x25 ++ natLe 4 1 ++ natLe 8 0x1FFEF0 ++ natLe 8 336) }

/-- The image: of format 1, a manifest of 64 bytes, no segment, key ID 0. -/
def smallImage : List Byte := padTo 336 (natLe 4 0x57535846 ++ natLe 4 1 ++ natLe 8 336 ++ natLe 4 64 ++ natLe 4 1048576)

/-- Its header. -/
def smallImageHead : SealHead :=
  { fmt := 1, manifest := 64, segs := 0, keyId := 0, salt := List.replicate 8 0, aad := smallImage.take 64, digest := 0 }

/-- The host answers a read of its last 64 bytes. -/
def hostAnswers : Env := { host := (List.range 64).map fun i => (0x4000 + i, 0) }

/-- Bay 0 with the LOAD waiting: it holds key 1, the image starts in extent 0 and ends in a page of host memory, and the bay's interface is
CONFIG_LOCKED. -/
def loadWhileLocked : State :=
  { State.reset with
    cmds := { all := [(0, loadFromHost)], next := 1 }
    sec := { tdi := [(0, { st := .locked })] }
    mem := { hbm := mputs 0x1FFEF0 smallImage [] }
    bays := { all := [(0, { st := .attached
                            eqi := { major := 3, minor := 4, queues := [(0, { wp := 1, fetch := 1 })] }
                            mem := { extents := [(0, { home := .hbm 0 })], maps := [{ page := 512, pages := 1, perm := 1, tgt := .host 0x4000 }] }
                            strm := { keys := [(1, 0, 0)] } })] } }

theorem leavesRing_loadWhileLocked : leavesRing loadWhileLocked 0 loadFromHost 0x25 := ⟨⟨⟨rfl, rfl, rfl⟩, by decide, by decide⟩, rfl, rfl, rfl⟩

theorem takeVa_smallImage : takeVa loadWhileLocked 0 hostAnswers 0x1FFEF0 336 = .bytes smallImage := by decide +kernel

theorem sealHead_smallImage : sealHead (smallImage.take 256) smallImage.length = some smallImageHead := by decide +kernel

/-- A LOAD whose image lies in host memory waits while its bay's requests are not issued. -/
theorem modelLoad_waits {s : State} {c : Cmd} {env : Env} {key : Nat × BitVec 128 × BitVec 256}
    (hk : ((bay s c.bay).strm.keys.find? fun k => k.1 == cf c 0x1C 4) = some key)
    (hid : ((bay s c.bay).strm.models.any fun m => m.id == cf c 0x18 2) = false)
    (hw : hostWaits s c.bay (cf c 0x20 8) (cf c 0x28 8) 1 = true) : modelLoad env c s = s := by
  simp only [modelLoad, hk, hid, hw, Bool.false_eq_true, if_false, if_true]

/-- The row of the LOAD changes nothing. -/
theorem modelLoad_locked : exec (.modelLoad 0 hostAnswers) loadWhileLocked = .next loadWhileLocked := by
  have waits : modelLoad hostAnswers loadFromHost loadWhileLocked = loadWhileLocked :=
    modelLoad_waits (key := (1, 0, 0)) (by decide) (by decide) (by decide)
  show run fpWork (onlyIf _ (onlyIf _ fun t => modelLoad hostAnswers (cmdD t 0) t)) _ = _
  rw [run_powered rfl, onlyIf_true (by decide), onlyIf_true (by decide), show cmdD loadWhileLocked 0 = loadFromHost from rfl, waits, keep_self]

/-- Refutes O32: the statement has a LOAD complete whenever its image's bytes are there and the header agrees, but one whose image lies in
host memory waits while its bay's interface is CONFIG_LOCKED. -/
theorem not_sealedModels : ¬ Obligations.SealedModels := by
  unfold Obligations.SealedModels
  intro h
  obtain ⟨-, -, loads, -⟩ := h loadWhileLocked 0 loadFromHost leavesRing_loadWhileLocked
  obtain ⟨t, ht, code, ⟨gone, -⟩, -⟩ := loads hostAnswers (1, 0, 0) smallImage smallImageHead (by decide) (by decide) (by decide)
    takeVa_smallImage sealHead_smallImage rfl
  obtain rfl : loadWhileLocked = t := Host.Outcome.next.inj (modelLoad_locked.symm.trans ht)
  cases gone

end Sys2Proof.Proofs
end

section
/-! SUPPORT. The messages that attach a bay and manage its error ring and its keys (R266, R292, R293, R320, R347 to R349). -/
namespace Sys2Proof.Proofs
open Sys2Proof.Machine

variable {s t u : State} {x b : Nat} {r : Req} {denied : List Nat} {env : Env} {blob k : List Byte}

/-! ## The rows -/

theorem exec_abiQuery : exec (.abiQuery x) s = boxRow [] 1 x (fun _ t => respond x 0 (abiResult t) t) s := rfl

theorem exec_attach : exec (.attach x denied) s = boxRow [.bays] 0x100 x (attachGo x denied) s := rfl

/-- What ERROR_RING_SET makes of the EQI side of its bay. -/
def errorRing (p : List Byte) (e : BayEqi) : BayEqi :=
  { e with errVa := fld p 0 8, errRecs := if fld p 0 8 = 0 then 0 else fld p 8 4, errPos := 0 }

theorem exec_errorRingSet : exec (.errorRingSet x) s =
    boxRow [.bays] 0x101 x (fun r t => reply x 0 (modEqi (reqBay x r) (errorRing r.p) t)) s := rfl

theorem exec_keyImport : exec (.keyImport x env) s = boxRow [.bays, .kw, .out] 0x102 x (keyImportGo env x) s := rfl

theorem exec_keyDiscard : exec (.keyDiscard x) s = boxRow [.bays] 0x103 x (keyDiscardGo x) s := rfl

theorem bay_modSt_same (f : BayStream → BayStream) : bay (modSt b f s) b = { bay s b with strm := f (bay s b).strm } := by
  rw [modSt, bay_modBay, if_pos rfl]

/-! ## ABI_QUERY, ATTACH and ERROR_RING_SET -/

theorem answers_abiQuery (hs : serves s x 1 r) : Answers (.abiQuery x) s fun t => Replied s x 0 (abiResult s) t ∧ ChangesOnly [.boxes, .irq] s t := by
  obtain ⟨hrep, honly⟩ := respond_spec (x := x) (s := s) (t := s) rfl 0 (abiResult s)
  exact ⟨_, exec_abiQuery.trans (boxRow_serves hs), replied_keep hrep, changesOnly_within honly _⟩

/-- The bay attached, with its queue 0. -/
def attachedBay (b : Nat) (q : Queue) (s : State) : State := modBay b (fun y => { y with st := .attached }) (putQueue b 0 q s)

theorem bay_attachedBay (q : Queue) : bay (attachedBay b q s) b =
    { bay s b with st := .attached, eqi := { (bay s b).eqi with queues := tput 0 q (bay s b).eqi.queues } } := by
  rw [attachedBay, bay_modBay, if_pos rfl, putQueue, bay_modEqi_same]

theorem attachGo_ok (hst : (bay s (reqBay x r)).st = .created) (hneg : (bay s (reqBay x r)).eqi.negDone = true)
    (hok : ringsOk s (reqBay x r) denied (attachQueue r.p) = true) :
    attachGo x denied r s = respond x 0 (attachResult s) (attachedBay (reqBay x r) (attachQueue r.p) s) := by
  simp [attachGo, attachedBay, hst, hneg, hok]

theorem attachGo_busy (hst : (bay s (reqBay x r)).st = .resetting) : attachGo x denied r s = reply x 0x28 s := by
  simp [attachGo, hst]

theorem attachGo_refused (hst : (bay s (reqBay x r)).st ≠ .resetting) (h : (bay s (reqBay x r)).st ≠ .created ∨
    (bay s (reqBay x r)).eqi.negDone = false ∨ ringsOk s (reqBay x r) denied (attachQueue r.p) = false) : attachGo x denied r s = reply x 0x23 s := by
  have hbad : (!(bay s (reqBay x r)).eqi.negDone || (bay s (reqBay x r)).st != .created || !ringsOk s (reqBay x r) denied (attachQueue r.p)) = true := by
    rcases h with h | h | h <;> simp [h]
  simp only [attachGo, beq_eq_false_iff_ne.2 hst, hbad, Bool.false_eq_true, if_false, if_true]

theorem answers_attach (hs : serves s x 0x100 r) (hst : (bay s (reqBay x r)).st = .created) (hneg : (bay s (reqBay x r)).eqi.negDone = true)
    (hok : ringsOk s (reqBay x r) denied (attachQueue r.p) = true) : Answers (.attach x denied) s fun t =>
      Replied s x 0 (attachResult s) t ∧ (bay t (reqBay x r)).st = .attached ∧ queue? t (reqBay x r) 0 = some (attachQueue r.p) :=
  answers_mono (answers_responds exec_attach hs (attachGo_ok hst hneg hok) rfl) fun t ⟨hrep, hbays⟩ => by
    have hbay := (bay_of_bays hbays (reqBay x r)).trans (bay_attachedBay _)
    exact ⟨hrep, by rw [hbay], by rw [queue?, hbay]; exact tget_tput_same _ _ _⟩

theorem answers_errorRingSet (hs : serves s x 0x101 r) : Answers (.errorRingSet x) s fun t =>
    Replied s x 0 [] t ∧ (bay t (reqBay x r)).eqi = errorRing r.p (bay s (reqBay x r)).eqi :=
  answers_mono (answers_responds (u := modEqi (reqBay x r) (errorRing r.p) s) exec_errorRingSet hs rfl rfl) fun t ⟨hrep, hbays⟩ =>
    ⟨hrep, by rw [bay_of_bays hbays, bay_modEqi_same]⟩

/-! ## KEY_IMPORT and KEY_DISCARD -/

theorem blobRefusal_fabric (h : FabricOnly s u) : blobRefusal u b blob = blobRefusal s b blob := by rw [h]; rfl
theorem blobKey_fabric (h : FabricOnly s u) : blobKey u b blob = blobKey s b blob := by rw [h]; rfl

theorem keyImportGo_size (h : fld r.p 8 4 ≠ 96) : keyImportGo env x r s = reply x 0x20 s := by simp [keyImportGo, h]

theorem keyImportGo_unread (h : fld r.p 8 4 = 96)
    (hbad : readVa s (reqBay x r) env false (fld r.p 0 8) 96 = none ∨ (poisonVa s (reqBay x r) (fld r.p 0 8) 96).isSome = true) :
    keyImportGo env x r s = reply x 0x23 s := by
  cases hread : readVa s (reqBay x r) env false (fld r.p 0 8) 96 with
  | none => simp [keyImportGo, h, hread]
  | some blob =>
    have hp := hbad.resolve_left (by simp [hread])
    simp only [keyImportGo, h, hread, hp, bne_self_eq_false, Bool.false_eq_true, if_false, if_true]

theorem keyImportGo_read (h : fld r.p 8 4 = 96) (hread : readVa s (reqBay x r) env false (fld r.p 0 8) 96 = some blob)
    (hp : poisonVa s (reqBay x r) (fld r.p 0 8) 96 = none) :
    keyImportGo env x r s = importBlob x (reqBay x r) blob (askVa (reqBay x r) (fld r.p 0 8) 96 s) := by
  simp [keyImportGo, h, hread, hp]

/-- The keys of a bay with the one a blob carries. -/
def importedKey (blob k : List Byte) (y : BayStream) : BayStream :=
  let h := freshHandle y
  { y with keys := y.keys ++ [(h, BitVec.ofNat 128 (fld blob 0x10 16), BitVec.ofNat 256 (leNat k))], nextKey := if h + 1 = 2 ^ 32 then 1 else h + 1 }

theorem importBlob_refused {code : Nat} (h : blobRefusal s b blob = some code) : importBlob x b blob s = reply x code s := by
  simp only [importBlob, h]

theorem importBlob_badTag (h : blobRefusal s b blob = none) (hk : blobKey s b blob = none) : importBlob x b blob s = reply x 0x2B s := by
  simp only [importBlob, h, hk]

theorem importBlob_ok (h : blobRefusal s b blob = none) (hk : blobKey s b blob = some k) :
    importBlob x b blob s = respond x 0 (natLe 4 (freshHandle (bay s b).strm)) (modSt b (importedKey blob k) s) := by
  unfold importBlob
  rw [h, hk]
  rfl

/-- A message answered from a state with the bays of `s`. -/
theorem answers_keepsBays {i : Instr} {m code : Nat} {p : List Byte} {fp : List Grp} {f : Req → State → State}
    (hi : exec i s = boxRow (.bays :: fp) m x f s) (hs : serves s x m r) (hgo : f r s = respond x code p u) (hu : FabricOnly s u) :
    Answers i s fun t => Replied s x code p t ∧ t.bays = s.bays :=
  answers_mono (answers_responds hi hs hgo (by rw [hu])) fun t ⟨hrep, hbays⟩ => ⟨hrep, hbays.trans (by rw [hu])⟩

/-- A blob that has been read: the first failed check answers, or its tag, or its key is stored. -/
theorem answers_importBlob (hs : serves s x 0x102 r) (hu : FabricOnly s u) (hgo : keyImportGo env x r s = importBlob x (reqBay x r) blob u) :
    Answers (.keyImport x env) s fun t =>
      (∀ code, blobRefusal s (reqBay x r) blob = some code → Replied s x code [] t ∧ t.bays = s.bays) ∧
      (blobRefusal s (reqBay x r) blob = none → blobKey s (reqBay x r) blob = none → Replied s x 0x2B [] t ∧ t.bays = s.bays) ∧
      ∀ k, blobRefusal s (reqBay x r) blob = none → blobKey s (reqBay x r) blob = some k →
        Replied s x 0 (natLe 4 (freshHandle (bay s (reqBay x r)).strm)) t ∧
          (bay t (reqBay x r)).strm = importedKey blob k (bay s (reqBay x r)).strm := by
  have hsame := blobRefusal_fabric (b := reqBay x r) (blob := blob) hu
  have hkey := blobKey_fabric (b := reqBay x r) (blob := blob) hu
  have hbays : u.bays = s.bays := by rw [hu]
  cases href : blobRefusal s (reqBay x r) blob with
  | some code =>
    refine answers_mono (answers_keepsBays exec_keyImport hs (hgo.trans (importBlob_refused (hsame.trans href))) hu) fun t ht => ⟨?_, ?_, ?_⟩
    · rintro _ ⟨⟩
      exact ht
    · exact nofun
    · exact nofun
  | none =>
  cases hk : blobKey s (reqBay x r) blob with
  | none =>
    refine answers_mono (answers_keepsBays exec_keyImport hs (hgo.trans (importBlob_badTag (hsame.trans href) (hkey.trans hk))) hu) fun t ht => ⟨?_, ?_, ?_⟩
    · exact nofun
    · exact fun _ _ => ht
    · exact nofun
  | some k =>
    refine answers_mono (answers_responds exec_keyImport hs (hgo.trans (importBlob_ok (hsame.trans href) (hkey.trans hk))) (by rw [modSt_boxes, hu]))
      fun t ⟨hrep, ht⟩ => ⟨?_, ?_, ?_⟩
    · exact nofun
    · exact nofun
    · rintro _ - ⟨⟩
      rw [bay_of_bays hbays] at hrep
      exact ⟨hrep, by rw [bay_of_bays ht, bay_modSt_same, bay_of_bays hbays]⟩

theorem keyDiscardGo_held (h : ((bay s (reqBay x r)).strm.keys.any fun k => k.1 == fld r.p 0 4) = true) :
    keyDiscardGo x r s = reply x 0 (modSt (reqBay x r) (fun y => { y with keys := y.keys.filter fun k => k.1 != fld r.p 0 4 }) s) := by
  unfold keyDiscardGo
  exact if_pos h

theorem keyDiscardGo_none (h : ((bay s (reqBay x r)).strm.keys.any fun k => k.1 == fld r.p 0 4) = false) : keyDiscardGo x r s = reply x 0x23 s := by
  unfold keyDiscardGo
  exact if_neg (by rw [h]; exact Bool.false_ne_true)

theorem answers_keyDiscard (hs : serves s x 0x103 r) (h : ((bay s (reqBay x r)).strm.keys.any fun k => k.1 == fld r.p 0 4) = true) :
    Answers (.keyDiscard x) s fun t => Replied s x 0 [] t ∧
      (bay t (reqBay x r)).strm.keys = (bay s (reqBay x r)).strm.keys.filter fun k => k.1 != fld r.p 0 4 :=
  answers_mono (answers_responds exec_keyDiscard hs (keyDiscardGo_held h) rfl) fun t ⟨hrep, hbays⟩ =>
    ⟨hrep, by rw [bay_of_bays hbays, bay_modSt_same]⟩

/-- Settles O36: each message served is answered by the lemma of its case above. -/
theorem bayMessages : Obligations.BayMessages := by
  unfold Obligations.BayMessages
  intro s x r b y
  refine ⟨answers_abiQuery, fun _ => answers_attach, fun _ hs hst => answers_keepsBays exec_attach hs (attachGo_busy hst) rfl,
    fun _ hs hst h => answers_keepsBays exec_attach hs (attachGo_refused hst h) rfl, answers_errorRingSet,
    fun _ hs hn => answers_keepsBays exec_keyImport hs (keyImportGo_size hn) rfl,
    fun _ hs hn h => answers_keepsBays exec_keyImport hs (keyImportGo_unread hn h) rfl, fun env blob hs hn hread hp => ?_, answers_keyDiscard,
    fun hs h => answers_keepsBays exec_keyDiscard hs (keyDiscardGo_none h) rfl⟩
  refine answers_mono (answers_importBlob hs (fabric_askVa _ _) (keyImportGo_read hn hread hp)) fun t ⟨hrefused, hbad, hok⟩ => ⟨hrefused, hbad, fun k href hk => ?_⟩
  obtain ⟨hrep, hstrm⟩ := hok k href hk
  exact ⟨hrep, by rw [hstrm]; rfl⟩

end Sys2Proof.Proofs
end
